-- ==== Sys2Proof/Word.lean ====
section
/-! DEFINITION. The word types of the model: bytes, 64-byte lines and tables keyed by a number. -/

namespace Sys2Proof

/-- One byte (R7). -/
abbrev Byte := BitVec 8

/-- The 64 bytes of one line; byte 0 is bits [7:0] (R7). -/
abbrev Line := BitVec 512

/-- A table from a number to data: entries in strictly rising key order, so that equal tables are equal data. -/
abbrev NMap (α : Type) := List (Nat × α)

/-- Keys of a table rise strictly. -/
def NMap.wf {α : Type} : NMap α → Bool
  | [] => true
  | [_] => true
  | (a, _) :: (b, y) :: t => decide (a < b) && NMap.wf ((b, y) :: t)

end Sys2Proof
end

