-- ==== Sys2Proof/Records.lean ====
section
/-! DEFINITION. The records of the spec that both commands and state use: descriptors, table entries and the content of the
retained store. Every numeric field is a number below 2^width, the width standing in its docstring. -/

namespace Sys2Proof

/-- Hall classes (F02 hall descriptor). -/
inductive HallClass where | resident | tiered | persistent
  deriving DecidableEq, Repr

/-- STATE of a hall (F02). -/
inductive HallState where | free | active | trimming | destroying
  deriving DecidableEq, Repr

/-- A hall descriptor with what the SH940 keeps beside it (F02 hall descriptor, R415, R575). -/
structure Hall where
  tenant : Nat                 -- 12
  cls : HallClass
  mirrored : Bool := false
  light : Bool := false        -- CODE: true LIGHT
  tierBlock : Nat := 0         -- 0 4 KiB, 1 16 KiB, 2 64 KiB
  grain : Nat := 0             -- 0 256 B, 1 4 KiB, 2 64 KiB
  chMask : Nat := 0            -- 16
  orphanRevert : Bool := false -- ORPHAN
  fwdForce : Bool := false
  levelDfp1 : Bool := false    -- LEVEL
  state : HallState := .active
  base : Nat                   -- 22
  size : Nat                   -- 15
  quota : Nat := 0             -- 15
  weltTmo : Nat := 100         -- 16, units of 10 us
  epoch : Nat := 0             -- 16
  extents : List (Nat × Nat) := []   -- (channel, extent), in hall order on each channel (R415)
  poisoned : Bool := false           -- the mark of R575
  clearPos : Nat := 0                -- lines of the hall the clear of R575 has passed
  written : List Nat := []           -- hall line numbers ahead of the clear written since the takeover (R575)
  deriving DecidableEq, Repr

/-- The five rights of R44. -/
structure Rights where
  read : Bool
  write : Bool
  cache : Bool
  atomic : Bool
  welt : Bool
  deriving DecidableEq, Repr

/-- An access-list entry (R44, R105, R376) with the budget notice of R110. -/
structure AclEntry where
  rights : Rights
  budget : Nat := 8            -- 1 to 1024
  subscriber : Nat := 0        -- 11
  inForce : Nat := 8           -- budget in force (R110)
  nseq : Nat := 0              -- NSEQ of the latest notice (R503)
  notice : Option Nat := none  -- time of a decrease notice not yet acknowledged
  deriving DecidableEq, Repr

/-- Origin of a tenant's keys (R453). -/
inductive Origin where | localKey | bound | released
  deriving DecidableEq, Repr

/-- STATE of a tenant (R453). -/
inductive TenState where | free | active | removing | retired
  deriving DecidableEq, Repr

/-- KSTATE of a key slot (R453). -/
inductive KState where | empty | active | draining | awaiting | retired
  deriving DecidableEq, Repr

/-- A key slot (R452): its state, the key held, whether the guard die's copy is kept (R537), whether the partner's
acknowledgement is outstanding (R455), the sealed copy in the store (R471) and the KCV recorded (R453). -/
structure KeySlot where
  st : KState := .empty
  key : Nat := 0
  copyPending : Bool := false
  sealedKey : Option Nat := none
  kcv : Nat := 0
  manifest : List Byte := []
  deriving DecidableEq, Repr

/-- A tenant record (R453). -/
structure Tenant where
  origin : Origin := .localKey
  sealKeys : Bool := false
  cur : Nat := 0               -- 1
  st : TenState := .active
  retiring : Bool := false
  sealSvn : Nat := 0           -- 32
  manifestSeq : Nat := 0       -- 64
  slot0 : KeySlot := {}
  slot1 : KeySlot := {}
  sweep : Option Nat := none   -- SWEEP_POS of a running sweep
  rotations : Nat := 0         -- 32
  anchor : List Byte := []
  deriving DecidableEq, Repr

/-- The tier record of a hall (R224) with what Felti and the tier engine keep beside it (R214, R223). -/
structure TierRec where
  fbase : Nat := 0             -- 20
  jbase : Nat := 0             -- 20
  decayPeriod : Nat := 100     -- 16, ms
  decayShift : Nat := 1        -- 4
  adapt : Bool := true
  engineHeat : Bool := false
  maxDirty : Nat := 5          -- 8, s
  hintHeat : Nat := 128        -- 8
  wbHeat : Nat := 4            -- 8
  freePct : Nat := 5           -- 8
  landings : Nat := 0          -- 32
  refaults : Nat := 0          -- 32
  lastLandings : Nat := 0
  lastRefaults : Nat := 0
  lastDecay : Nat := 0         -- pool time of the last decay pass
  decayIn : Nat := 100         -- DECAY_PERIOD of the interval under way (R225)
  hintIn : Nat := 128          -- HINT_HEAT in force since the last pass (R225)
  hand : Nat := 0              -- clock hand: block number
  deriving DecidableEq, Repr

/-- One tread of a flight (R379): length in ticks, RES_FIRST, RES_COUNT, SVC_CIR of S0 to S7. -/
structure Tread where
  len : Nat
  resFirst : Nat
  resCount : Nat
  svc : List Nat
  deriving DecidableEq, Repr

/-- A reservation entry (R380). -/
structure ResEntry where
  sub : Nat
  svc : Nat
  cir : Nat
  deriving DecidableEq, Repr

/-- A flight image (R378). -/
structure Flight where
  force : Bool := false
  takeover : Nat := 0
  treads : List Tread
  res : List ResEntry := []
  deriving DecidableEq, Repr

/-- The RW fields of an explicit shaper entry (R393). -/
structure ShaperCfg where
  pir : Nat                    -- 24
  cbs : Nat := 1024            -- 16
  pbs : Nat := 1024            -- 16
  latTgt : Nat := 0            -- 16
  deriving DecidableEq, Repr

/-- The retained fields of a port record (R111) and KEY_MODE (R512). -/
structure PortCfg where
  downTmo : Nat := 64
  replayTmo : Nat := 30
  laneThr : Nat := 256
  keyOff : Bool := false
  deriving DecidableEq, Repr

/-- The retained fields of a channel record (R441). -/
structure ChanCfg where
  scrubEn : Bool := true
  scrubHours : Nat := 24
  retrainMs : Nat := 256
  deriving DecidableEq, Repr

/-- An entry of the retained repair map (R436). -/
structure Repair where
  serial : Nat
  rank : Nat
  bg : Nat
  bank : Nat
  row : Nat
  device : Nat
  st : Nat                     -- 0 SOFT, 1 HARD, 2 EXHAUSTED
  deriving DecidableEq, Repr

/-- An entry of the fence list (R587, R520). -/
structure Fenced where
  slice : Bool                 -- KIND: false awl core, true home slice
  unit : Nat
  st : Nat                     -- 0 fenced, 1 fenced until reset, 2 spare in use
  time : Nat
  cleared : Bool := false      -- FENCE_CLEAR accepted, effective at the next core-die reset
  deriving DecidableEq, Repr

/-- A recorder trigger (R606). -/
structure Trigger where
  enable : Bool
  snapshot : Bool
  alert : Bool
  once : Bool
  classMask : Nat
  event : Nat
  eventMask : Nat
  source : Nat
  sourceMask : Nat
  hall : Nat
  hallAny : Bool
  tenant : Nat
  tenantAny : Bool
  addrLo : Nat
  addrHi : Nat
  threshold : Nat
  window : Nat                 -- us, 0 no limit
  snapSet : Nat
  deriving DecidableEq, Repr

/-- The retained fields of windows 0 and 1 (R482). -/
structure WinCfg where
  notify : Bool := false
  alertEn : Bool := false
  alertMask : BitVec 8 := 0x1C
  lastCseq : Nat := 0
  deriving DecidableEq, Repr

/-- The PAIR section and the retained fields of the pair record (R546, R556). -/
structure PairCfg where
  number : Nat := 0
  side : Nat := 0
  enable : Bool := false
  partnerId : Nat := 0
  takeovers : Nat := 0
  poolTimeSaved : Nat := 0
  ageLimit : Nat := 0
  deriving DecidableEq, Repr

/-- The content of the retained configuration store, section by section (R546). -/
structure Retained where
  pair : PairCfg := {}
  opAnchors : NMap (List Byte) := []
  linkAnchors : NMap (List Byte) := []
  bmcKey : Option Nat := none
  halls : NMap Hall := []
  acl : NMap AclEntry := []
  tenants : NMap Tenant := []
  tier : NMap TierRec := []
  ports : NMap PortCfg := []
  route : NMap Nat := []
  leaf : NMap Nat := []
  dist : NMap Nat := []
  flights : NMap Flight := []
  pendFlights : NMap Flight := []
  shapers : NMap ShaperCfg := []
  chans : NMap ChanCfg := []
  rateCap : Nat := 8000
  trained : NMap Nat := []     -- training results: channel to DIMM serial (R406)
  repairs : List Repair := []
  arraySpares : List (Nat × Nat) := []   -- SRAM and HBM rows and columns replaced: SOURCE, array address (R439)
  fences : List Fenced := []
  triggers : NMap Trigger := []
  win0 : WinCfg := {}
  win1 : WinCfg := {}
  deriving DecidableEq, Repr

/-- Data of one line with its poison mask, one bit per 16 B (R116, R120). -/
structure LineData where
  data : Line := 0
  poison : BitVec 4 := 0
  deriving DecidableEq, Repr

/-- Metadata of a stored 4 KiB unit (R235), with the key under which it was stored (log 2); STORED is its presence, CRC follows from
the data. -/
structure UnitMeta where
  gen : Nat
  poison : BitVec 8
  hall : Nat
  journal : Bool := false
  key : Nat := 0
  deriving DecidableEq, Repr

/-- A journal record (R190): its header fields, ring block of the header, and its lines, each hall line number and data. -/
structure JRec where
  jseq : Nat
  age : Nat
  issue : Nat
  pos : Nat
  blocks : Nat
  gen : Nat
  lines : List (Nat × LineData)
  durable : Bool := false
  slot : Nat := 0
  deriving DecidableEq, Repr

/-- A superblock (R632); `valid` is the outcome of its tests. -/
structure Super where
  sbseq : Nat
  ckptJ : Nat
  ckptPos : Nat
  valid : Bool := true
  deriving DecidableEq, Repr

/-- What a mirror record carries (R569, R570, R187, R466). -/
inductive MirrorBody where
  | store (r : Retained)                                    -- a change committed under R494
  | keySlot (tenant gen : Nat) (key : Option Nat)           -- R455; none: the slot is zeroised
  | age (a : Nat)                                           -- R167
  | sweepPos (tenant pos : Nat)                             -- R466
  | homeEpoch (e : Nat)                                     -- R569
  | lines (hall : Nat) (ls : List (Nat × LineData))         -- writes of a MIRRORED hall, whole or not at all (R204)
  | clean (hall block : Nat)                                -- the CLEAN record of R570
  | sync (st : Nat) (whole : Bool)                          -- SYNC as the active has it, and whether every hall is mirrored (log 36)
  deriving DecidableEq, Repr

/-- A mirror record (R569). -/
structure MirrorRec where
  mseq : Nat
  body : MirrorBody
  deriving DecidableEq, Repr

end Sys2Proof
end

