-- ==== Sys2Proof/Syntax.lean ====
section
/-! DEFINITION. The commands of the block: one constructor per row of spec/opcode_table.json, and the messages they carry. -/

namespace Sys2Proof

/-- A REQ message as it arrives on a fabric port: its message bytes, byte 0 the OPCODE (R114, R116). -/
structure ReqMsg where
  port : Nat
  bytes : List Byte
  deriving DecidableEq, Repr

/-- A WLT message from an endpoint (R114, R164). -/
structure WltMsg where
  port : Nat
  bytes : List Byte
  deriving DecidableEq, Repr

/-- An RSP or DAT message, answering a snoop (R119, R120). -/
structure RspMsg where
  port : Nat
  bytes : List Byte
  deriving DecidableEq, Repr

/-- An MGT or HBT message that arrives on a fabric or peer port (R351, R498, R561). -/
structure MgtMsg where
  port : Nat
  bytes : List Byte
  deriving DecidableEq, Repr

/-- AMO_OP (R144); `rsvd` stands for the codes 0xB to 0xF. -/
inductive AmoOp where | add | and | or | xor | smax | smin | umax | umin | swap | cas | fadd | rsvd
  deriving DecidableEq, Repr

/-- By which path a mailbox message reaches the SH940 (R479, R498, R499). -/
inductive Path where
  | port (p : Nat)             -- an MGT message on a fabric port
  | session (sid : Nat)        -- secured application data of an SPDM session
  | ethernet                   -- TCP port 9940, window 1
  | peer (p : Nat)             -- a peer port, window 66
  deriving DecidableEq, Repr

/-- By which path a lease message travels: an HBT message on a peer port, or a frame of the heartbeat wire (R558, R561,
R562). -/
inductive LeasePath where | peer (p : Nat) | wire
  deriving DecidableEq, Repr

/-- What the requester's chain of KEY_EXCHANGE and FINISH ends at (R451). -/
inductive ChainEnd where
  | operator (index : Nat)
  | tenant (t : Nat)
  | kyholt (deviceId : Nat)
  | link (index : Nat)
  | other
  deriving DecidableEq, Repr

/-- A step of the keying exchange of a port, as the partner's SPDM response brings it about (R474, R478). -/
inductive KeyingStep where
  | advance
  | finish (chain : ChainEnd)
  | refused
  | failed (code : Nat)
  deriving DecidableEq, Repr

/-- How an access of the engine or of a ring ended: a completion code of R119. -/
inductive CmpCode where | ok | poison | denied | revoked | epoch | timeout
  deriving DecidableEq, Repr

/-- Conditions of an NVMe controller seen by log page or asynchronous event (R243, R246). -/
inductive DriveEvent where
  | healthy
  | smartCritical              -- spare, reliability or read-only
  | reservationLog
  deriving DecidableEq, Repr

/-- Outcome of a unit scan (R598, R599, R600). -/
inductive ScanResult where | pass | logicFail | benchRow (hasSpare : Bool) | badPatterns
  deriving DecidableEq, Repr

/-- A correction that an SRAM or HBM array reports: SOURCE of the unit, ARRAY code and array address (R438, R439, R637). -/
structure ArrayHit where
  src : Nat
  arr : Nat
  addr : Nat
  deriving DecidableEq, Repr

/-- Uncorrectable errors found while a position runs (R440, R583): bench granules of 16 B with the stage before which each is found, 255
after the last, and 4 KiB pages whose translation cache entries are found bad. -/
structure BenchErrors where
  bench : List (Nat × Nat) := []
  pages : List Nat := []
  deriving DecidableEq, Repr

/-- The metadata arrays of R582 (codes of METADATA_UE, R637), root-PLL loss apart. -/
inductive FatalArray where
  | directory | tierMap | lookupHash | storedMap | frameOwner | translation | sramControl | dieToDie
  deriving DecidableEq, Repr

inductive Instr where
  -- management commands (F13 R508-R523): the command running in window w, its arguments in the window's data buffer
  | identityGet (w : Nat) | attestGet (w : Nat) | trustSet (w : Nat) | bmcKeySet (w : Nat) | timeGet (w : Nat)
  | hallCreate (w : Nat) | hallDestroy (w : Nat) | hallTrim (w : Nat) | hallQuery (w : Nat) | hallSet (w : Nat)
  | hallAclSet (w : Nat) | hallAclRemove (w : Nat) | hallAclQuery (w : Nat)
  | topoSet (w : Nat) | routeSet (w : Nat) | portQuery (w : Nat) | portSet (w : Nat)
  | tenantCreate (w : Nat) | tenantQuery (w : Nat) | tenantKeyRotate (w : Nat) | tenantKeyLoad (w : Nat)
  | tenantKeyRetire (w : Nat) | tenantRemove (w : Nat)
  | ctxCreate (w : Nat) | ctxDestroy (w : Nat) | ctxQuery (w : Nat) | ctxSet (w : Nat)
  | ctxBindHall (w : Nat) | ctxUnbindHall (w : Nat)
  | queueCreate (w : Nat) | queueDestroy (w : Nat) | queueQuery (w : Nat) | queueSet (w : Nat) | rxwinSet (w : Nat)
  | lastLoad (w : Nat) | lastUnload (w : Nat) | lastStop (w : Nat) | lastQuery (w : Nat)
  | flightLoad (w : Nat) | flightCancel (w : Nat) | flightQuery (w : Nat) | flightRead (w : Nat)
  | shaperSet (w : Nat) | shaperQuery (w : Nat)
  | tierHallQuery (w : Nat) | tierHallSet (w : Nat) | tierHint (w : Nat) | tierQuery (w : Nat) | tierDriveAdopt (w : Nat)
  | dramQuery (w : Nat) | dramSet (w : Nat) | dramDiagWrite (w : Nat) | dramDiagRead (w : Nat)
  | fenceQuery (w : Nat) | fenceClear (w : Nat) | scanRun (w : Nat) (r : ScanResult)
  | recTriggerSet (w : Nat) | recQuery (w : Nat) | recRead (w : Nat) (bad : List Nat)
  | dumpQuery (w : Nat) | dumpRead (w : Nat) | dumpClear (w : Nat)
  | pairSet (w : Nat) | pairQuery (w : Nat) | pairSwap (w : Nat) | leaseQuery (w : Nat)
  | peerSync (w : Nat) (recs : List MirrorRec)
  | fwQuery (w : Nat) | fwWrite (w : Nat) | fwActivate (w : Nat) | fwSvnCommit (w : Nat)
  | storeQuery (w : Nat) | storeBare (w : Nat) | resetCmd (w : Nat) | consoleUnlock (w : Nat)
  -- mailboxes, MGT messages and doorbells (F13, F09)
  | consoleUnlockExpiry
  | ringWrite (w : Nat) | ringTake (w : Nat) | commandDispatch (w : Nat) | commandBoundExpiry (w : Nat)
  | alertStatusClear (w : Nat) (bits : BitVec 8)
  | windowRegisterWrite (w off : Nat) (v : Byte)
  | feltiTick
  | alertHoldoffExpiry (w cls : Nat)
  | mbxOpen (m : MgtMsg)
  | mbxWrite (path : Path) (bytes : List Byte)
  | mbxRead (path : Path) (bytes : List Byte)
  | mbxClose (path : Path) (bytes : List Byte)
  | budgetAck (m : MgtMsg)
  | budgetDecreaseTimeout (ep hall : Nat)
  | epState (m : MgtMsg)
  | linkRekey (m : MgtMsg)
  | linkRekeyDue (port : Nat)
  | spdmFrag (m : MgtMsg)
  | qdb (m : MgtMsg)
  -- SPDM and link keying (F12)
  | getVersion (conn : Nat) | getCapabilities (conn : Nat) | negotiateAlgorithms (conn : Nat) (supported : Bool)
  | getDigests (conn : Nat) | getCertificate (conn slot off len : Nat) | challenge (conn slot : Nat) (nonce : List Byte)
  | getMeasurements (conn index : Nat) (signed : Bool) (nonce : List Byte)
  | keyExchange (conn : Nat) (mutAuth : Bool)
  | finish (conn : Nat) (chain : ChainEnd) (sigOk : Bool)
  | keyUpdate (sid : Nat) | heartbeat (sid : Nat) | endSession (sid : Nat)
  | chunkSend (conn handle seq : Nat) (last : Bool) (data : List Byte) | chunkGet (conn handle seq : Nat)
  | spdmSessionExpiry (sid : Nat)
  | linkKeyingResponse (port : Nat) (k : KeyingStep) | keyingRetry (port : Nat)
  -- SMBus (F13 R506, R507; F16 R601, R603)
  | smbusBlockWrite (off : Nat) (data : List Byte) (pecOk : Bool)
  | smbusSetReadPointer (ptr : Nat) (pecOk : Bool)
  | smbusBlockRead (len : Nat)
  | smbusAlertResponse | smbusClockTimeout | smbalertStuckCheck (lineLow : Bool)
  -- link layer (F03)
  | phyTrainingDone (port : Nat) (rate32 : Bool) (trained : Bool) (lanes highest : Nat)
  | negotiateResend (port : Nat)
  | negotiate (port : Nat) (flit : List Byte)
  | seqFlitReceive (port : Nat) (flit : List Byte)
  | idleFlitReceive (port : Nat) (flit : List Byte)
  | nakReceive (port : Nat) (flit : List Byte)
  | laneSwapReceive (port : Nat) (flit : List Byte)
  | flitCrcError (port : Nat) | nakRepeat (port space : Nat) | replayTimeout (port space : Nat)
  | phyRecoveryDone (port : Nat) | keepAlive (port : Nat) | downTimeout (port : Nat) | failBackHoldExpiry (port : Nat)
  | laneErrorInterval (port : Nat) (counts : List Nat)
  | laneSwapRequestTimeout (port : Nat) | laneSwapQuietStart (port : Nat) | laneSwapQuietEnd (port : Nat)
  -- requests at the home slice (F04, F05)
  | rdS (m : ReqMsg) | rdX (m : ReqMsg) | rdNa (m : ReqMsg) | upg (m : ReqMsg)
  | wrFull (m : ReqMsg) | wrPart (m : ReqMsg) | wbM (m : ReqMsg) | amo (m : ReqMsg)
  | wltRd (m : ReqMsg) | wltWr (m : ReqMsg)
  | wltOpen (m : WltMsg) | wltCommit (m : WltMsg) (bad : List (Nat × Nat)) | wltAbort (m : WltMsg)
  | orderingPointReached (line : Nat)
  | rspI (m : RspMsg) | rspS (m : RspMsg) | rspFwdS (m : RspMsg) | rspFwdI (m : RspMsg) | rspWbPend (m : RspMsg)
  | dataWb (m : RspMsg)
  | snoopTimeout (ep stag : Nat) | orphanWalk (ep : Nat)
  | orderingBoundExpiry (line ep tag : Nat) | tierBoundExpiry (line : Nat) | trackerHoldExpiry (ep tag : Nat)
  | weltTimeout (slot : Nat) | commitCollectionTimeout (slot : Nat)
  | journalRecordDurable (hall : Nat) | journalDurableTimeout (slot : Nat)
  | ageLimitCommit (ok : Bool) | ageLimitRetry (ok : Bool)
  -- tier engine (F06)
  | landingReadDone (hall block : Nat) (bad : List (Nat × Nat))
  | writebackDone (hall block : Nat) | superblockWriteDone (hall : Nat)
  | maxDirtyExpiry (hall block : Nat) | decayPeriodExpiry (hall : Nat) | tierPolicyPass | decayAdaptPass
  | keepExpiry (hall block : Nat) | hintTimeout (w : Nat)
  | orderDeadlinePassed (index : Nat) | orderHoldExpiry (hall block : Nat)
  -- drives (F06)
  | nvmeIoTimeout (port cmd : Nat) | nvmeAdminTimeout (port : Nat) | nvmeAdminComplete (port : Nat)
  | nvmeWriteError (port cmd : Nat) | nvmeAsyncEvent (port : Nat) (e : DriveEvent) | nvmeLogPoll (port : Nat) (e : DriveEvent)
  | nvmeControllerFatal (port : Nat) | nvmeReadyTimeout (port : Nat) | driveRemoved (port : Nat)
  | reservationConflict (port : Nat) | intentBitClear (region : Nat) | intentResyncStep | rebuildRow
  -- queue engine and translation (F09)
  | descriptorFetch (qid : Nat) | lastStart (qid : Nat) | map (qid : Nat) | unmap (qid : Nat) | sync (qid : Nat)
  | resume (qid : Nat) | epochDrainDone (ctx : Nat) | epochDrainTimeout (ctx : Nat)
  | ringAccessDone (qid idx : Nat)
  | lastStartTimeReached (lid : Nat) | translationWalkDone (lid pos : Nat)
  | faultTmoExpiry (qid fseq : Nat)
  -- galleries and awl cores (F07, F16)
  | engineRequestComplete (lid idx : Nat)
  | tileOverrun (lid pos ns : Nat) | positionEnd (lid pos : Nat) (ue : BenchErrors) | thirdRunEnd (lid pos : Nat) (stream : Nat)
  | benchClearDone (core : Nat) | sentinelReplay (core entry : Nat) (differs : Bool) | infieldScan (r : ScanResult) (hits : List ArrayHit)
  | thermalThreshold (sensor : Nat) (temp : Int) | gateResume (gallery : Nat) | tripCooldownRestart
  -- flights (F10)
  | flightTakeover (res : Nat) | treadBoundary (res : Nat) | arbitrationGrant (res : Nat)
  -- DRAM (F11)
  | refreshDue (ch bank : Nat) | retrainPause (ch rank : Nat) | retrainDeferExpiry (ch rank : Nat)
  | scrubStep (ch : Nat) | spprRepair (ch rank bg bank row device : Nat) | writtenClearDone (hall : Nat)
  -- drains, keys and sweeps (F02, F12)
  | revocationDrainDone (hall : Nat) | revocationDrainTimeout (hall : Nat)
  | keyCopyAck (slot : Nat) | sweepStep (tenant : Nat) | sweepEnd (tenant : Nat)
  | keyTrafficDrained (tenant : Nat) | tenantDrainTimeout (tenant : Nat)
  -- power, reset and start (F14, F16)
  | pfailNAssert | pfailNRelease | inputUndervoltage (dv : Nat) | inputOvervoltage (dv : Nat) | bus12vFault
  | powerLossRailsDown | powerLossRestart | overvoltageRestart | inputLow (dv : Nat) | prechargeEnd
  | railInRegulation (step : Nat) | railTimeout | railRetry | resetNAssert | resetNRelease | prsntNChange (asserted : Bool)
  | resetDelayExpiry | quiesceTimeout | readyReached | startBoundFail | poolTimeCheck | rootPllUnlock
  -- lease and pair (F15)
  | renewTimer | renew (m : MgtMsg) | ack (m : MgtMsg) | release (m : MgtMsg)
  | timeSyncTimer | timeReq (m : MgtMsg) | timeRsp (m : MgtMsg) | offsetSlewTick | alignedLossTimeout
  | wireFrame (bits : BitVec 72) | wireIdleTimeout | wireChatter | wireChatterClear
  | leaseActiveExpiry | leaseStandbyExpiry (answers : List Bool) | preemptDeadline
  | selfResumeCheck (holders : List (Option Nat))
  | mirrorAck (mseq : Nat) | mirrorAckTimeout | resyncStart | resyncStep | recoveryWindowEnd
  | poisonedHallClearStep (hall : Nat) | swapAtReached
  -- faults and recorder (F16)
  | fatalFault (arr : FatalArray) (src addr : Nat) | fatalReset | runClose (event source hall : Nat) | segmentCopy
  | managementCoresStop | railOutOfRegulation (step : Nat) | testPortUse
  | nvmeControllerReady (port : Nat) | nvmeIoComplete (port cmd : Nat)
  | partnerReadyReport (ready : Bool) (feature storeMax : Nat) | roleDecisionTimeout | smbalertHoldoffExpiry
  deriving DecidableEq, Repr

end Sys2Proof
end

