-- ==== Sys2Proof/Decode.lean ====
section
/-! DEFINITION. The command a word spells. No row of the table gives bits, so no word spells a command (log 16). -/

namespace Sys2Proof

/-- The command that the low `nbits` bits of `w` spell by the table's bits: the table gives no row any bits. -/
def decodeTableWord (_nbits _w : Nat) : Option Instr := none

end Sys2Proof
end

