-- ==== Sys2Proof/Config.lean ====
section
/-! DEFINITION. What one SH940 fixes and the spec does not give (digests, keys, certificates, check bits, the functions of
other standards), and the free values. Each is a constant with no body: no proof can see its value. -/

namespace Sys2Proof.Config

/-- SHA-384 over bytes (named by R190, R359 and others; the algorithm is not in the spec). -/
opaque sha384 : List Byte → List Byte
/-- First 16 bytes of HMAC-SHA-384 under the BMC key (R486). -/
opaque hmacBmc : Nat → List Byte → List Byte
/-- The check value of a key (R453). -/
opaque kcv : Nat → Nat
/-- A key drawn from the guard die's random source (R452, R463). -/
opaque randomKey : Nat → Nat
/-- A signature of the alias key, named by what the key is derived from; with none the part derives no key, and what it then gives is open
(R443, R445, R446, R449). -/
opaque aliasSign : Option (List Nat) → List Byte → List Byte
/-- The certificate chain of R444, root first, with the alias certificate of that alias key and the part's grade, and the binding
certificate. -/
opaque certChain : Option (List Nat) → Bool → List Byte
opaque bindCert : List Byte
/-- Digests of R446: device identity key, boot ROM, guard firmware, Felti images by version. -/
opaque deviceId : Nat
opaque romDigest : Nat
opaque guardDigest : Nat → Nat
opaque feltiDigest : Nat → Nat
/-- SHA-384 of the retained configuration, key material and counters excluded (CONFIG_DIGEST of R446). -/
opaque configDigest : Retained → Nat
/-- The key a wrapped blob yields under a session's secret, none when the tag fails (R462, R508): key and its KCV. -/
opaque unwrapKey : Nat → List Byte → Option (Nat × Nat)
/-- The key a binding manifest yields for this device, none when signature, entry or tag fails (R460, R461). -/
opaque unwrapManifest : List Byte → List Byte → Option Nat
/-- The image signature check of R550 over the written image. -/
opaque imageSigOk : List Byte → Bool
/-- A granule's data as stored: encrypted under a key, with its PPA (R411, R469). -/
opaque cipherGranule : Nat → Nat → BitVec 128 → BitVec 128
/-- CHK of a LIGHT granule, from its stored data and its other side bits (R412, R633). -/
opaque checkLight : BitVec 128 → Nat → Nat
/-- CHK of granule `i` of a STRONG pair, from the stored data and the other side bits of its eight granules (R412, R416, R633). -/
opaque checkStrong : List (BitVec 128 × Nat) → Nat → Nat
/-- Outcome of an error beyond the code's guarantee (R417, R420): 0 uncorrectable, 1 corrected wrongly, 2 delivered as clean. -/
opaque beyondCode : Nat → Nat
/-- Data delivered by a wrong correction (R417, R420). -/
opaque beyondData : Nat → BitVec 128
/-- HKDF-Expand under SHA-384: secret, label, length in bytes (R474, R477). -/
opaque hkdfExpand : Nat → String → Nat → Nat
/-- The export master secret of an SPDM session (R474). -/
opaque exportMaster : Nat → Nat
/-- AES-256-GCM: byte `i` of the keystream under a key and a nonce, and the first 96 bits of the tag over additional data and
plaintext (R67, R475, R476). -/
opaque gcmStream : Nat → Nat → Nat → Byte
opaque gcmTag : Nat → Nat → List Byte → List Byte → Nat
/-- The 8 bytes of CRC and 6 of FEC that the PCIe 6.0 physical layer puts over the first 242 bytes of a flit (R64, R67). -/
opaque flitCrc : List Byte → Nat
opaque flitFec : List Byte → Nat
/-- Byte `i` of the SPDM secured message that carries plaintext on a connection, by its record number (R499). -/
opaque secureByte : Nat → Nat → List Byte → Nat → Byte
/-- Line `i` of a capture as hall 4095 holds it: what a third run read, by pool line number, with the tile's view and stage entries
(R595, R596). -/
opaque captureLine : List (Nat × LineData) → Nat → Line
/-- A byte that a stage reads at an offset of an endpoint's receive window: no message reads one (log 62). -/
opaque windowByte : Nat → Byte
/-- The bytes of a section of a store record: store format, section number, content (R543, R546). -/
opaque sectionBytes : Nat → Nat → Retained → List Byte
/-- The bytes of a mirror record as the stream of `PEER_SYNC` carries it (R552, R569). -/
opaque mirrorByte : MirrorRec → Nat → Byte
/-- The bytes of its acknowledgement, by MSEQ. -/
opaque mirrorAckByte : Nat → Nat → Byte
/-- A line of a 4 KiB flash unit as stored: AES-256-XTS under a key, for unit u, line i of the unit (R457). -/
opaque sealUnit : Nat → Nat → Nat → Line → Line
/-- What the drives hold at a takeover, written by the partner (R255): stored map, intent map, unit metadata and lines by FDA / 64,
and of a journal both superblocks and the records of its ring. The first argument tells takeovers apart. -/
opaque foreignStored : Nat → List Nat
opaque foreignIntent : Nat → List Nat
opaque foreignUnit : Nat → Nat → Option UnitMeta
opaque foreignLine : Nat → Nat → Line
opaque foreignJournal : Nat → Nat → List JRec
opaque foreignSuper : Nat → Nat → Bool → Option (Nat × Nat × Nat)
/-- A part of the SNAP_SET state whose layout no rule gives: bit of SNAP_SET, cursor of the record (R606, R607). -/
opaque snapPart : Nat → Nat → List Byte
/-- The host identifier registered on the drives, derived from the device identity (R254). -/
opaque hostId : Nat
/-- The partner's figures for R41: GiB of DRAM of a channel, and usable GiB of flash. -/
opaque partnerDram : Nat → Nat
opaque partnerFlash : Nat
/-- The lowest feature level that has a command (R553). -/
opaque opFeature : Nat → Nat
/-- A choice the spec leaves to Felti or the hardware. -/
opaque freeChoice : Nat → Nat

end Sys2Proof.Config
end

