-- ==== Sys2Proof/Machine/State.lean ====
section
/-! DEFINITION. The state of the SH940: every register, table, queue, buffer and pin the spec gives it, as plain data,
and the state after reset. Times are ticks of TCLK (R8). -/

namespace Sys2Proof.Machine

/-- The block has no fault: every error of the spec is a status, a completion code, an event or the FATAL sequence, all of
them next states. No meaning raises a fault. -/
inductive Fault where
  deriving DecidableEq, Repr

/-- Why a command has no meaning here. -/
inductive Refusal where
  /-- Raised by a dispatch arm whose command has no meaning yet; safe, since the machine stops. -/
  | notModelled (mnemonic : String)
  deriving DecidableEq, Repr

/-! ### Outputs -/

/-- What a drive's control area holds (R237): its twin labels with pool, position and Cmin, the intent map's regions and the stored
map's MiBs. -/
structure Control where
  pool : Nat
  pos : Nat
  cmin : Nat
  intent : List Nat
  stored : List Nat
  deriving DecidableEq, Repr

/-- A 4 KiB LBA as a drive stores it: the 8 bytes of metadata (R235) and the 64 lines of data. -/
structure Stored where
  word : Nat
  lines : List Line
  deriving DecidableEq, Repr

/-- A message, a flit or a pin change the SH940 puts out. Ports are 0-7 F0-F7, 8-9 P0-P1. -/
inductive Emit where
  | cmp (port ep tag : Nat) (code : CmpCode) (grant epoch : Nat)                          -- CMP, R119
  | dataCmp (port ep tag : Nat) (code : CmpCode) (grant epoch : Nat) (d : LineData)       -- DATA_CMP, R120
  | dataShort (port ep tag : Nat) (code : CmpCode) (grant epoch : Nat) (v : BitVec 128) (poison : BitVec 4) -- DATA_SHORT, R120
  | snoop (port ep stag op hall offset reqEp reqTag grant epoch : Nat)              -- SNP, R117
  | wltOpened (port ep tag hall handle age epoch : Nat)                             -- WLT_OPENED, R164
  | wltEnd (port ep tag hall handle : Nat) (notice committed : Bool) (status lines epoch : Nat) -- WLT_END, R164
  | push (port ep window offset epoch : Nat) (d : LineData)                         -- DATA_PUSH, R289
  | mbxOpened (port dst win status : Nat)
  | mbxData (win dst off : Nat) (data : List Byte) (status rtag : Nat)
  | mbxDone (win dst cseq status resLen : Nat)
  | alert (win dst cls time count event cursor : Nat)
  | budget (port ep hall budget nseq : Nat)
  | epoch (port ep epoch time windowEnd : Nat)                                      -- EPOCH, R504
  | linkRekey (port swN swP swC : Nat)
  | qcq (port ep qid tail : Nat) | qflt (port ep qid tail : Nat) | qerr (port ep qid tail : Nat)
  | spdmFrag (port ep flags msgSeq : Nat) (data : List Byte)                        -- a fragment of an SPDM message, R498
  | lease (port kind lc epoch expiry tSend tEcho mseq : Nat)                        -- HBT, R561: opcode 0x70 + kind
  | idle (port ackN ackP : Nat) | nak (port space seq : Nat)
  | negotiate (port revMax revMin downTmo caps : Nat)                               -- R101
  | laneSwap (port kind lane swapId cctr : Nat)                                     -- R97
  | mirror (port : Nat) (r : MirrorRec) | mirrorAck (port mseq : Nat)               -- the stream of PEER_SYNC, R569
  | flit (port : Nat) (bytes : List Byte) (m : Emit)   -- a flit, R67: its 256 bytes and what it carries
  | wireFrame (bits : BitVec 72)                                                    -- the heartbeat wire, R562
  | spdm (conn : Nat) (bytes : List Byte)              -- an SPDM message on the management Ethernet
  | tcp (bytes : List Byte)                            -- a mailbox message on TCP port 9940, R499
  | smbus (data : List Byte) | pin (name : Nat) (level : Bool)                      -- pins: 0 PWROK, 1 SMBALERT_N, 2 NCLK0-7
  | rail (step : Nat) (on : Bool)                      -- the enable of a rail of the sequencing table (R527, R528)
  | uart (kind value source : Nat)                     -- console output: 0 start-up log with STAGE, 1 summary of an event (R621)
  | nvme (port op lba n : Nat) (data : List Stored)    -- Read, Write with its LBAs, or Dataset Management, from an LBA (R244)
  | nvmeCtl (port : Nat) (area : Control)              -- Writes that make the control area hold this, labels at LBAs 0 and 1 (R237)
  | nvmeResv (port op old new : Nat)                   -- a reservation command with its keys (R244, R254)
  | nvmeAdmin (port op arg : Nat)                      -- an admin command: CNS, feature, log page, queue or command (R243)
  | ddr (ch op arg : Nat)                                                           -- a DRAM command: 0 refresh, 1 retrain, 2 sPPR, 3 hPPR
  deriving DecidableEq, Repr

/-! ### Clock, module, power -/

/-- Pool time (R22, R23) and FELTI_TICK (R497). -/
structure Clock where
  master : Nat := 0            -- 64
  core : Nat := 0              -- 64, copy on the core die
  fab0 : Nat := 0
  fab1 : Nat := 0
  feltiTick : Nat := 0         -- 32
  hold : Nat := 0              -- ticks the count is held (R560)
  deriving DecidableEq, Repr

/-- A DIMM as fitted (R400). -/
structure Dimm where
  serial : Nat
  topMts : Nat := 8000
  x4 : Bool := true
  ranks : Nat := 2
  gib : Nat := 256
  usable : Bool := true
  trains : Bool := true        -- initial training succeeds within two tries (R403)
  sppr : Nat := 1              -- post-package repair resources per device
  deriving DecidableEq, Repr

/-- A drive as fitted (R242): LBA count, whether it meets R242, whether it has the LBA format, and its control area. -/
structure Media where
  lbas : Nat
  meets : Bool := true
  formatted : Bool := true
  area : Option Control := none
  deriving DecidableEq, Repr

/-- The module as fitted and its analogue inputs (R1, R2, R445, R446). -/
structure Hw where
  gradeD1 : Bool := false
  lifecycle : Nat := 1         -- 0 TEST, 1 PRODUCTION, 2 RETURNED
  fuses : BitVec 16 := 1
  dbgFlags : BitVec 16 := 0
  fusedMinSvn : Nat := 0
  dimms : NMap Dimm := []
  media : NMap Media := []
  temps : NMap Int := []       -- 0.25 C units, by sensor of R636
  inputDv : Nat := 4000        -- input voltage, 0.1 V
  scanBad : List (Bool × Nat) := []   -- units that fail the start-up scan: (slice, unit)
  pool : Nat := 0              -- what a drive's label names this pool by (log 6)
  fusedSlices : List Nat := List.range 64   -- physical home slices of the fuse map, by logical slice (R16)
  deriving DecidableEq, Repr

/-- Kinds of start (R534). -/
inductive StartKind where | powerUp | cold | warm | recovery
  deriving DecidableEq, Repr

/-- Power, reset and start (F14, F16 input filters). -/
structure Power where
  precharged : Bool := false
  rails : Nat := 0             -- rails up in sequence order, 0-10
  railTries : Nat := 0
  railRetryAt : Option Nat := none
  railAt : Option Nat := none  -- when the rail coming up was enabled
  railsOut : List Nat := []    -- rails out of regulation while all are enabled (R529)
  pwrok : Bool := false
  loss : Option (Nat × Nat) := none   -- (cause, declared at)
  lossRailsDown : Bool := false
  ovp : Bool := false          -- the power stage stopped on an overvoltage (R526)
  lastLow : Option Nat := none
  lowest : Nat := 0            -- lowest input voltage since, 0.1 V (R526)
  resetN : Bool := true        -- declared level: true released
  resetSince : Nat := 0
  resetStuck : Bool := false   -- RESET_N was low when the dies were to be released (R601)
  resetHits : Bool := false    -- the assertion came during a start (R533)
  resetAsserts : List Nat := []
  resetChatter : Bool := false
  pfailN : Bool := true
  prsnt : Bool := true         -- PRSNT_N asserted
  prsntChanges : List Nat := []
  prsntChatter : Bool := false
  tripped : Bool := false
  coolSince : Option Nat := none
  stage : Nat := 0             -- 3
  startKind : StartKind := .powerUp
  bare : Bool := true          -- the store gives the bare state (R549)
  startTime : Nat := 0
  readyTime : Nat := 0
  starting : Bool := true
  ready : Bool := false
  failedStarts : Nat := 0
  missed : Bool := false       -- the start in progress has missed its bound (R550)
  resetDue : Option (Bool × Nat) := none   -- (cold, at)
  quiesceSince : Option Nat := none
  swapQuiesce : Bool := false
  diesHeld : Bool := true      -- core and fabric dies held in reset
  fatalHold : Bool := false
  fatalTimes : List Nat := []
  fatalAt : Option Nat := none -- a FATAL fault being handled since
  fatalDumpDone : Bool := false
  smbAlertLow : Bool := false  -- the SH940 drives SMBALERT_N low
  smbReleasedAt : Option Nat := none
  smbLineSince : Nat := 0
  smbStuckAt : Option Nat := none
  smbPtr : Nat := 0            -- SMBus read pointer (R507)
  consoleUntil : Option Nat := none
  powerLog : List (Nat × Nat) := []   -- failing rail step, attempts (R527)
  faultLog : List (Nat × Nat × Nat) := []   -- fault records of FATAL faults: time, EVENT, SOURCE (R584)
  lossLog : List (Nat × Nat) := []    -- power losses to report: cause, input in 0.1 V (R531)
  feltiOn : Bool := false      -- the management cores run (R27)
  deriving DecidableEq, Repr

/-! ### Windows (F13) -/

inductive WinClass where | operator | tenant | host | bmc | peer | closed
  deriving DecidableEq, Repr

/-- A command accepted in a window (R489, R492): its opcode, acceptance order and time, whether it executes, whether it has
taken effect and waits for its completion, and the objects it holds (R493). -/
structure Cmd where
  op : Nat
  order : Nat
  accept : Nat
  executing : Bool := false
  begun : Bool := false
  objs : List (Nat × Nat) := []
  deriving DecidableEq, Repr

/-- The alert interval of one class in one window (R505). -/
structure AlertGap where
  cls : Nat
  since : Nat
  count : Nat := 0
  time : Nat := 0
  event : Nat := 0
  cursor : Nat := 0
  deriving DecidableEq, Repr

/-- A management window (R481, R482, R484). -/
structure Win where
  cls : WinClass
  owner : Nat := 0             -- 18
  notify : Bool := false
  alertEn : Bool := false
  overrun : Bool := false
  busy : Bool := false
  ring : Bool := false
  lastCseq : Nat := 0          -- 32
  alertStatus : BitVec 8 := 0
  alertMask : BitVec 8 := 0x1C
  alertsDropped : Nat := 0     -- 16
  mem : List Host.Cell := []   -- header 0x40-0x7F and data buffer 0x1000-0x40FFF
  cmd : Option Cmd := none
  gaps : List AlertGap := []
  session : Option Nat := none
  deriving DecidableEq, Repr

/-! ### Drains (F02) -/

inductive DrainKind where | acl | trim | destroy
  deriving DecidableEq, Repr

/-- A revocation drain (R51 to R56). `scope` names for an access-list revocation the endpoints and the rights each lost;
`lo` is the first offset of the range a trim or destroy releases. -/
structure Drain where
  kind : DrainKind
  scope : List (Nat × Rights) := []
  lo : Nat := 0
  oldSize : Nat := 0
  stepAt : Nat
  window : Option Nat := none
  late : Bool := false
  todo : List Nat := []        -- lines of the hall whose transaction was active at the epoch step (R52)
  reqs : List Nat := []        -- endpoint × 65536 + tag of requests then under way (R55)
  commits : List (Nat × Nat) := []   -- welt slot and incarnation of commits then running
  deriving DecidableEq, Repr

/-- A released range whose WRITTEN clear runs (R59, R422): PPA units and extents that belong to no hall meanwhile. -/
structure Clear where
  hall : Nat
  base : Nat
  size : Nat
  extents : List (Nat × Nat)
  deriving DecidableEq, Repr

/-! ### Ports (F03) -/

/-- What a flit carries, as far as the SH940 treats it after sending (R90, R108, R291). -/
inductive Cargo where
  | rsp (ep tag : Nat)         -- a completion of the request with this tag
  | snp (ep stag : Nat)
  | mgt (ep : Nat)
  | wlt (ep tag : Nat)
  | note (ep : Nat)            -- an answer without a tracker, or a welt notice
  | push (lid pos ep : Nat)    -- a push of a position of a last
  | hbt
  | rekey (port : Nat)         -- LINK_REKEY between link partners (R477)
  | keying (port : Nat)        -- SPDM with the link partner (R474)
  | peer                       -- the stream of the PEER session between partners (R95, R569)
  deriving DecidableEq, Repr

/-- An unacknowledged flit (R73, R81, R83): extended sequence number, cargo, the flit as sent, sends, time of the last send. -/
structure Flit where
  seq : Nat
  cargo : Cargo
  emit : Emit                  -- the message it carries
  bytes : List Byte := []      -- the flit's 256 bytes
  sends : Nat := 1
  sentAt : Nat := 0
  deriving DecidableEq, Repr

/-- One sequence space of a link, both directions (R72, R75). -/
structure Space where
  next : Nat := 0              -- ENEXT: extended NEXT of the receiver
  gapAt : Option Nat := none   -- a NAK is pending since
  txNext : Nat := 0            -- ESEQ of the next flit to send
  unack : List Flit := []
  wait : List (Cargo × Emit) := []
  progressAt : Nat := 0
  deriving DecidableEq, Repr

inductive PortState where | down | training | negotiating | keying | up | swapping | recovery
  deriving DecidableEq, Repr

/-- A lane swap the SH940 has requested or accepted (R96, R97). -/
structure Swap where
  lane : Nat
  id : Nat
  mine : Bool
  tries : Nat := 1
  count : Nat := 0             -- corrections in the counting millisecond
  sentAt : Nat := 0
  accepted : Option Nat := none
  deriving DecidableEq, Repr

/-- Keying of a link (R474 to R477). -/
structure Keying where
  step : Nat := 0
  retryAt : Nat := 0
  keyed : Bool := false
  since : Nat := 0
  secTx : Nat := 0             -- S0 of each direction (R474)
  secRx : Nat := 0
  cctrTx : Nat := 0
  cctrRx : Option Nat := none
  swTx : List (Nat × Nat × Nat) := []   -- switch points of the transmit key: normal, privileged, CCTR (R477)
  swTxAcked : Bool := true              -- the latest LINK_REKEY is acknowledged
  swRx : List (Nat × Nat × Nat) := []   -- switch points of the receive key
  erased : Nat := 0                     -- receive secrets erased
  deriving DecidableEq, Repr

/-- A fabric or peer port: its record R111 and the state of its link. -/
structure Port where
  st : PortState := .down
  degraded : Bool := false
  rate32 : Bool := false
  dfp1 : Bool := false
  spareUsed : Bool := false
  swappedLane : Nat := 31
  swapEn : Bool := false
  routedAway : Bool := false
  cfg : PortCfg := {}
  msgBad : Nat := 0
  linkDowns : Nat := 0
  replays : Nat := 0
  budgetDeny : Nat := 0
  tagFail : Nat := 0
  sn : Space := {}
  sp : Space := {}
  lastValid : Nat := 0
  lastSent : Nat := 0
  recoverySince : Option Nat := none
  failTimes : List Nat := []
  partner : Option (Nat × Nat × Nat × Nat) := none   -- REV_MAX, REV_MIN, DOWN_TMO, capabilities
  lastNegotiate : Nat := 0
  upSince : Nat := 0
  laneThr : Nat := 256         -- LANE_THR of the counting interval under way (R112)
  badLanes : List Nat := []    -- lanes that have failed since the last full training (R100)
  half : Bool := false         -- the next training runs x8 on the lanes that are left (R100)
  swapId : Nat := 0
  swap : Option Swap := none
  key : Keying := {}
  movingBack : List Nat := []  -- endpoints waiting for partner-port acknowledgement (R93)
  held : List (Cargo × Emit) := []   -- messages to those endpoints, held until it comes
  outOfUse : Bool := false     -- a peer port that stays down until the module is serviced (R100)
  deriving DecidableEq, Repr

/-- What the SH940 holds about an endpoint (R49, R142, R153 to R157). -/
structure EpInfo where
  rev : Nat := 0
  learned : Option Nat := none
  dead : Bool := false
  upAgain : Bool := false
  walking : Bool := false
  poisoned : Nat := 0
  reverted : Nat := 0
  removed : Nat := 0
  stag : Nat := 0
  deriving DecidableEq, Repr

/-! ### Home slices (F04) -/

/-- Who asks: an endpoint's port and tag, or a use inside the SH940. -/
inductive Origin' where
  | ep (port tag : Nat)
  | engine (lid pos idx : Nat)
  | ring (qid idx : Nat)
  | load (w idx : Nat)         -- a line of the image LAST_LOAD reads in window w
  | diag (order half : Nat)      -- a line of the DRAM_DIAG_WRITE with this acceptance order
  deriving DecidableEq, Repr

inductive ReqKind where
  | rdS | rdX | rdNa | upg | wrFull | wrPart | amo | wltRd | wltWr | diag
  deriving DecidableEq, Repr

/-- A request held at its home slice (R130). -/
structure Req where
  kind : ReqKind
  ep : Nat
  org : Origin'
  hall : Nat
  line : Nat                   -- pool line number PPA[51:6]
  offset : Nat
  ctx : Option Nat := none
  stamp : Nat := 0             -- EPOCH at the check (R48)
  at_ : Nat := 0               -- arrival
  d : LineData := {}
  mask : BitVec 64 := 0
  amoOp : AmoOp := .add
  amoSize : Nat := 0
  ret : Bool := false
  opA : BitVec 128 := 0
  opB : BitVec 128 := 0
  handle : Nat := 0
  again : Bool := false        -- executed again under R151
  mute : Bool := false         -- its endpoint has died: it completes without a response (R154)
  dmask : BitVec 640 := 0      -- XOR mask of a DRAM_DIAG_WRITE on this line (R431)
  deriving DecidableEq, Repr

inductive SnpOp where | s | i | fwdS | fwdX | rdNa | bi
  deriving DecidableEq, Repr

/-- A snoop outstanding to an endpoint (R118, R153). -/
structure Snoop where
  ep : Nat
  stag : Nat
  op : SnpOp
  line : Nat
  hall : Nat
  sentAt : Nat
  wbPend : Bool := false       -- answered RSP_WB_PEND, the WB_M still to come (R132)
  wbSeen : Bool := false       -- the WB_M came first (R132)
  deriving DecidableEq, Repr

/-- Phase of an active transaction (R130, R158). -/
inductive Phase where | victim | snoop | tier
  deriving DecidableEq, Repr

/-- The active transaction of a line. -/
structure Active where
  req : Req
  phase : Phase := .snoop
  since : Nat := 0
  got : Option LineData := none    -- data collected by its snoops
  fwd : Option Nat := none         -- endpoint asked to forward
  fwdDone : Bool := false
  owned : Option Nat := none       -- owner before (SNP_RD_NA)
  naCode : Nat := 0                -- answer to SNP_RD_NA: 0 none, 1 RSP_S, 2 RSP_I, 3 data
  deriving DecidableEq, Repr

/-- Why a snoop outside a transaction is out: a revocation drain, a welt's end. -/
inductive SnoopUse where
  | active                     -- of the line's active transaction
  | victimOf (line : Nat)      -- back-invalidation for the transaction of that line (R129)
  | drain (hall : Nat)
  | weltAbort (slot : Nat)
  | weltCommit (slot : Nat)
  deriving DecidableEq, Repr

structure LineCtl where
  fifo : List Req := []
  active : Option Active := none
  deriving DecidableEq, Repr

/-- A directory entry (R126): `owner` set in X; otherwise S, with pointers or a coarse vector. -/
structure DirEntry where
  owner : Option Nat := none
  ptrs : List Nat := []
  coarse : Option (BitVec 64) := none
  pin : Option Nat := none     -- PIN and WELT
  lru : Nat := 0
  deriving DecidableEq, Repr

/-- What a tracker records (R108, R150). -/
structure Tracker where
  hall : Nat
  kind : Nat                   -- REQ opcode of R116, or WLT opcode of R164
  line : Nat := 0
  done : Option (CmpCode × Nat) := none
  data : Bool := false         -- completed with data, its own or forwarded
  value : Option (BitVec 128) := none
  wlt : Option Emit := none    -- recorded WLT answer (R202)
  port : Nat := 0
  dropped : Option Nat := none -- completion lost with its link at (R152)
  deriving DecidableEq, Repr

/-- A WB_M that waits for the landing of its block (R638). -/
structure HeldWb where
  line : Nat
  port : Nat
  ep : Nat
  tag : Nat
  d : LineData
  mute : Bool := false         -- its endpoint has died (R154)
  deriving DecidableEq, Repr

/-- A completed read whose data goes out again once its block is landed (R151, R202). -/
structure Resend where
  req : Req
  grant : Nat
  since : Nat
  deriving DecidableEq, Repr

structure Home where
  slices : List Nat := []      -- slice map: physical slice of each logical slice (R16)
  dir : NMap DirEntry := []    -- by pool line number
  lines : NMap LineCtl := []
  snoops : List (Snoop × SnoopUse) := []
  trackers : NMap Tracker := []   -- by endpoint × 65536 + tag
  lruSeq : Nat := 0
  wbHeld : List HeldWb := []
  resends : List Resend := []
  merge : NMap LineData := []     -- collected data waiting for its block to land (R638)
  recoveryEnd : Nat := 0
  deriving DecidableEq, Repr

/-! ### Welts (F05) -/

inductive WeltSt where | free | open_ | committing | aborting
  deriving DecidableEq, Repr

/-- Where a commit stands (R187): collecting, waiting for journal or mirror, past its commit point. -/
inductive CommitPh where | collect | durable | apply
  deriving DecidableEq, Repr

structure Welt where
  st : WeltSt := .free
  inc : Nat := 0               -- 4
  owner : Nat := 0
  port : Nat := 0
  hall : Nat := 0
  age : Nat := 0               -- 64
  openedAt : Nat := 0
  tmo : Nat := 0               -- ticks
  reads : List (Nat × Bool) := []      -- read set: line, delivered with poison
  writes : List Nat := []              -- write set: lines
  buf : NMap LineData := []            -- welt buffer
  tag : Nat := 0
  persist : Bool := false
  phase : CommitPh := .collect
  phaseAt : Nat := 0
  waitTags : List (Nat × Nat) := []    -- further commits and aborts: port, tag (R185)
  jissued : Bool := false
  mseq : Option Nat := none
  silent : Bool := false               -- the owner is dead: no WLT_END (R200)
  status : Nat := 0                    -- STATUS of the end, while it lasts (R196)
  asked : Bool := false                -- the end answers a request of the owner (R196)
  todo : List Nat := []                -- write-set lines a commit has yet to ask the owner for (R187)
  fwdReads : List Nat := []            -- read-set lines delivered by a forward the home did not see
  jwait : Bool := false                -- step 3 of R187 waits for the journal
  mwait : Bool := false                -- step 3 of R187 waits for the standby
  left : List Nat := []                -- lines past the commit point whose block has yet to land (R188)
  bad : List (Nat × Nat) := []         -- buffer granules, line and index, found uncorrectable in the commit (R440)
  freedAt : Nat := 0
  used : Bool := false
  deriving DecidableEq, Repr

structure Welts where
  slots : NMap Welt := []
  age : Nat := 1               -- AGE of the next welt (64)
  ageLimit : Nat := 2 ^ 36
  limitFailed : Bool := false
  retryAt : Nat := 0
  waiting : List (WltMsg × Nat × Nat) := []  -- WLT_OPENs waiting for the AGE_LIMIT commit: arrival, stamp (R48, R167)
  freeSeq : Nat := 0
  deriving DecidableEq, Repr

/-! ### Journals (F05) -/

structure Journal where
  sb0 : Super
  sb1 : Super
  nextJ : Nat := 1
  pos : Nat := 2               -- ring block of the next record
  recs : List JRec := []       -- beyond the checkpoint, JSEQ order
  sbWrite : List (Super × Bool) := []   -- superblock writes in flight, true: sb1
  skipped : Bool := false      -- replay skipped (R193)
  queue : List Nat := []       -- welt slots waiting to issue their record, in order (R191)
  sram : Option (Nat × Stored) := none  -- the current journal row and its parity (R237)
  goals : List (Nat × List Nat) := []   -- checkpoints sought: JSEQ, blocks whose writebacks are outstanding (R192)
  deriving DecidableEq, Repr

/-! ### Tier (F06) -/

inductive BlkSt where | landing | clean | dirty | flushing | evicting (wasDirty : Bool)
  deriving DecidableEq, Repr

/-- What asked for a landing; an order carries the time until which its block is held (R229). -/
inductive LandBy where
  | demand
  | hint
  | order (hold : Nat)
  deriving DecidableEq, Repr

/-- All that asked for a landing (R211, R219, R229): a request, a hint, orders with the time their hold ends, and the subscriber
charged. -/
structure Want where
  demand : Bool := false
  hint : Bool := false
  order : Option Nat := none
  sub : Nat := 0
  deriving DecidableEq, Repr

structure Block where
  st : BlkSt
  redirty : Bool := false
  heat : Nat := 0              -- 8
  seq : Nat := 0               -- landing order
  dirtyAt : Nat := 0
  maxDirty : Nat := 0          -- ticks in force (R225)
  keepUntil : Option Nat := none
  holdUntil : Option Nat := none   -- held by landing orders until (R229)
  slots : List (Nat × Nat) := []   -- (channel, slot base)
  want : Want := {}            -- what asked for its landing
  bad : List (Nat × Nat) := []     -- slots (drive, row) that read bad (R236)
  late : List (Nat × Nat) := []    -- slots whose read passed IO_TMO (R246)
  asked : List (Nat × Nat) := []   -- slots read for it
  staging : List (Nat × LineData) := []   -- writeback copy: hall line, data (R208)
  for_ : Option Nat := none        -- the landing an EVICTING block makes room for (R213)
  offPoison : Bool := false        -- landed as poison while the flash tier was offline (R193, R252)
  deriving DecidableEq, Repr

structure LandOrder where
  hall : Nat
  offset : Nat
  length : Nat
  deadline : Nat
  seq : Nat
  lid : Nat
  deriving DecidableEq, Repr

/-- A running hint (R226). -/
structure Hint where
  w : Option Nat               -- the window that waits, if any
  hall : Nat
  verb : Nat
  blocks : List Nat
  hold : List Nat := []        -- blocks a KEEP holds as they land (R226)
  since : Nat
  until_ : Nat := 0
  deriving DecidableEq, Repr

structure Tier where
  halls : NMap TierRec := []
  blocks : NMap Block := []    -- by hall × 2^32 + block
  waitVictim : List (Nat × Nat × Want) := []     -- landings waiting for a victim: hall, block
  evicted : List (Nat × Nat × Nat) := []         -- hall, block, time (R221)
  stored : List Nat := []      -- MiB of flash data space whose stored bit is set, rising
  orders : List LandOrder := []
  ordersDropped : Nat := 0
  hints : List Hint := []
  shrink : List (Nat × Option Nat) := []         -- halls above a lowered QUOTA, the window that waits (R510)
  seq : Nat := 0
  lastPolicy : Nat := 0        -- time of the last pass of R222, of R223
  lastAdapt : Nat := 0
  deriving DecidableEq, Repr

/-! ### Flash (F06) -/

inductive DrvSt where | online | failed | rebuilding | absent | foreign
  deriving DecidableEq, Repr

inductive NvOp where | read | write | dsm | resvRegister | resvReport | resvAcquire | s5write | control
  deriving DecidableEq, Repr

/-- What an NVMe command serves. -/
inductive NvFor where
  | land (hid b : Nat)         -- the landing of a block
  | job (id : Nat)
  | ctl (id : Nat)             -- a control-area write
  | row (r : Nat)              -- rewrite, resync or rebuild of a row
  | own                        -- what Felti stores in hall 4095 (R63)
  | resv
  deriving DecidableEq, Repr

/-- An NVMe command outstanding (R244): LBAs of `n` rows from `row`, and the command as issued. -/
structure NvCmd where
  id : Nat
  op : NvOp
  row : Nat
  n : Nat := 1
  issued : Nat
  again : Bool := false
  for_ : NvFor
  cmd : Emit
  deriving DecidableEq, Repr

structure Drive where
  st : DrvSt := .absent
  timeouts : List Nat := []
  resetting : Option Nat := none
  lastFatal : Option Nat := none
  key : Nat := 0               -- reservation key registered (R254)
  holder : Option Nat := none  -- key of the Write Exclusive holder
  cmds : List NvCmd := []
  aen : Bool := false          -- an Asynchronous Event Request is outstanding
  admin : Option Nat := none   -- admin command outstanding since
  todo : List (Nat × Nat) := []    -- admin commands of a set-up still to complete, the first outstanding: opcode, argument (R243)
  lastPoll : Nat := 0
  deriving DecidableEq, Repr

/-- What a job of the flash engine writes (R208, R190, R632, R241). -/
inductive JobKind where
  | block (hid b : Nat)        -- the writeback of a block
  | record (hid jseq : Nat)    -- a journal record
  | super (hid : Nat)          -- superblocks
  | free (lo hi : Nat)         -- deallocation of an FDA range, MiB lo to hi
  deriving DecidableEq, Repr

/-- Where a job stands: it waits for its rows, for a control-area write, or its commands are out. -/
inductive JobSt where
  | waiting
  | control (op : Nat)
  | running
  deriving DecidableEq, Repr

/-- A write job: it holds the locks of its rows from its start to its end (R237). -/
structure FlashJob where
  id : Nat
  kind : JobKind
  units : List Nat
  sub : Nat
  svc : Nat
  st : JobSt := .waiting
  deriving DecidableEq, Repr

/-- A control-area write under way: the drives it went to and those that have acknowledged it (R238). -/
structure CtlOp where
  id : Nat
  targets : List Nat
  acked : List Nat := []
  deriving DecidableEq, Repr

structure Flash where
  drives : NMap Drive := []
  cmin : Nat := 0
  units : NMap UnitMeta := []      -- by unit number u = FDA / 4096
  lines : NMap Line := []          -- by FDA / 64, non-zero lines
  foreign : Option Nat := none     -- units not listed are as the partner left them, at this takeover (R255)
  wiped : List (Nat × Nat) := []   -- MiB ranges deallocated since
  missing : List (Nat × Nat) := [] -- (drive, row) whose slot does not hold the current value
  fresh : List (Nat × Nat) := []   -- (drive, row) above its cursor written on a REBUILDING drive (R250)
  intent : NMap Nat := []          -- region to time of its last partial-row write
  resync : List Nat := []          -- regions whose parity is to be recomputed
  resyncRow : Nat := 0             -- row of the first of them that is next
  rebuild : NMap Nat := []         -- rebuilding drive to its row cursor (R250)
  jobs : List FlashJob := []       -- in order of arrival
  ctlOps : List CtlOp := []
  stopped : Bool := false          -- all NVMe I/O stopped (R256)
  mediaErr : Nat := 0
  adopt : NMap Nat := []           -- adoptions in progress: port to window
  nextCmd : Nat := 0
  nextJob : Nat := 0
  deriving DecidableEq, Repr

/-! ### DRAM (F11) -/

/-- A stored granule (R411, R412): content before the codes, and the error mask standing on its stored bits. -/
structure Granule where
  data : BitVec 128 := 0
  poison : Bool := false
  written : Bool := false
  gen : Nat := 0               -- 1
  tag : Nat := 0               -- 12
  key : Nat := 0               -- key under which it was stored (log 2)
  err : BitVec 160 := 0
  deriving DecidableEq, Repr

inductive ChanSt where | absent | training | online | failed
  deriving DecidableEq, Repr

structure Chan where
  st : ChanSt := .absent
  x4 : Bool := false
  ranks : Nat := 0
  rate : Nat := 0
  capGib : Nat := 0
  temp : Int := 0
  tagMiss : Nat := 0
  ce : Nat := 0
  ue : Nat := 0
  repairs : Nat := 0
  retrains : Nat := 0          -- pauses; the record gives thousands
  scrubAt : Nat := 0           -- channel address of the next scrub step
  cfg : ChanCfg := {}
  pend : List Nat := []        -- addresses of pending rewrites (R429)
  pauseAt : NMap Nat := []     -- rank to time of its last pause
  deferSince : NMap Nat := []  -- rank to due time of a deferred pause
  pauseTemp : NMap Int := []
  pauseGap : NMap Nat := []    -- rank to the RETRAIN_MS of the interval under way, when a new one has been set since (R442)
  rowCe : List (Nat × Nat × Nat) := []  -- row, device, time of each attributed correction (R434)
  rowUe : List Nat := []       -- rows on which an uncorrectable error was found
  repaired : List Nat := []    -- row keys repaired this start
  refreshed : NMap Nat := []   -- bank to time of its last refresh
  deriving DecidableEq, Repr

structure Dram where
  chans : NMap Chan := []
  mem : NMap Granule := []     -- by channel × 2^34 + CA / 16
  rateCap : Nat := 8000
  trained : NMap Nat := []
  repairs : List Repair := []
  arraySpares : List (Nat × Nat) := []   -- SRAM and HBM rows and columns of the repair map: SOURCE, array address (R439)
  sparesIn : List (Nat × Nat) := []      -- those applied at the latest core-die reset (R438)
  deriving DecidableEq, Repr

/-! ### Tenants, trust, SPDM (F12) -/

/-- A removal, retirement (R467, R470) or rotation (R463) in progress. -/
structure TenOp where
  w : Option Nat
  step : Nat
  drainAt : Nat := 0
  late : Bool := false
  gen : Nat := 0
  deriving DecidableEq, Repr

structure Tenants where
  recs : NMap Tenant := []
  removal : NMap TenOp := []
  rotation : NMap TenOp := []
  deriving DecidableEq, Repr

structure Trust where
  op : NMap (List Byte) := []
  link : NMap (List Byte) := []
  bmcKey : Option Nat := none
  deriving DecidableEq, Repr

/-- An SPDM connection of a requester (R449). -/
structure Conn where
  step : Nat := 0              -- 0 none, 1 version, 2 capabilities, 3 algorithms
  frag : Option (Nat × List Byte) := none
  recv : List Byte := []       -- message assembled by fragments or chunks
  chunkIn : Option (Nat × Nat) := none
  msgSeq : Nat := 0            -- MSGSEQ of the next message in fragments (16)
  record : Nat := 0            -- number of the next secured message
  large : List Byte := []      -- response to be fetched by CHUNK_GET
  hs : Option Bool := none     -- KEY_EXCHANGE done, mutual authentication asked
  deriving DecidableEq, Repr

structure Session where
  conn : Nat
  cls : WinClass
  tenant : Nat := 0
  window : Option Nat := none
  lastBeat : Nat := 0
  keyGen : Nat := 0
  deriving DecidableEq, Repr

structure Spdm where
  conns : NMap Conn := []
  sessions : NMap Session := []
  deriving DecidableEq, Repr

/-! ### Engine front: contexts, queues, translation (F09) -/

inductive CtxSt where | active | draining
  deriving DecidableEq, Repr

/-- A translation leaf of one page: size code, PPA of the page, W. -/
structure Leaf where
  size : Nat
  ppa : Nat
  w : Bool
  deriving DecidableEq, Repr

/-- A translation drain (R370): range, step time, the queue descriptor or window that waits, lasts ended. -/
structure TDrain where
  lo : Nat
  hi : Nat
  at_ : Nat
  desc : Option (Nat × Nat) := none   -- queue, SQ index
  win : Option Nat := none
  hall : Option Nat := none
  ended : Nat := 0
  waits : List (Nat × Nat) := []      -- positions: last, position
  deriving DecidableEq, Repr

structure Ctx where
  tenant : Nat
  st : CtxSt := .active
  vaBits : Nat
  shadow : Nat := 0
  ctlQueue : Nat
  tepoch : Nat := 0
  faultTmo : Nat := 1000
  tseq : Nat := 0
  faults : Nat := 0
  halls : List Nat := []
  leaves : NMap Leaf := []     -- by VA / 4096 of the page's first 4 KiB
  drain : Option TDrain := none
  opened : Bool := false       -- its first queue has been created (R344)
  deriving DecidableEq, Repr

inductive QSt where | active | stopping | error
  deriving DecidableEq, Repr

/-- A descriptor fetched from an SQ (R350). -/
structure Desc where
  idx : Nat                    -- SQ counter
  bytes : List Byte
  dtag : Nat
  ready : Bool := false        -- its read has completed
  running : Bool := false
  lid : Option Nat := none
  deriving DecidableEq, Repr

/-- A ring access outstanding (R347): ring 0 SQ, 1 CQ, 2 FQ. -/
structure RingAcc where
  idx : Nat
  ring : Nat
  slot : Nat
  data : List Byte := []
  sqIdx : Nat := 0
  code : Option CmpCode := none
  got : LineData := {}
  deriving DecidableEq, Repr

/-- An open fault record (R366 to R368). -/
structure FaultRec where
  fseq : Nat
  kind : Nat
  va : Nat
  lid : Nat
  time : Nat
  tmo : Nat                    -- FAULT_TMO in force at its detection (R342)
  positions : List Nat
  deriving DecidableEq, Repr

structure Queue where
  st : QSt := .active
  owner : Nat
  ringHall : Nat
  ctx : Nat
  sub : Nat
  sqLog : Nat
  cqLog : Nat
  fqLog : Nat
  cqNotify : Bool := false
  sqBase : Nat
  cqBase : Nat
  fqBase : Nat
  sqHead : Nat := 0
  sqTail : Nat := 0
  cqTail : Nat := 0
  cqHead : Nat := 0
  fqTail : Nat := 0
  fqHead : Nat := 0
  starts : Nat := 0
  faults : Nat := 0
  dbBad : Nat := 0
  armed : Bool := true         -- a QCQ may be sent (R353)
  descs : List Desc := []
  acc : List RingAcc := []
  nextAcc : Nat := 0
  fseq : Nat := 0
  open_ : List FaultRec := []
  held : List (List Byte × Option Nat) := []   -- completion records to write, first first, with a window that waits (R348)
  ending : Bool := false           -- QUEUE_DESTROY runs (R372)
  failed : Bool := false           -- a ring access failed (R348)
  destroyBy : Option Nat := none
  deriving DecidableEq, Repr

structure RxWin where
  tenant : Nat
  ep : Nat
  size : Nat
  deriving DecidableEq, Repr

/-! ### Galleries, cores, lasts (F07, F08, F16) -/

structure Loaded where
  image : List Byte
  tenant : Nat
  deriving DecidableEq, Repr

/-- One step of the output of a position (R591): a line written, a line pushed, a SELECT mark with its landing orders. -/
inductive OutOp where
  | write (stage line : Nat) (mask : BitVec 64) (d : LineData)
  | push (stage view offset : Nat) (d : LineData)
  | mark (stage tile : Nat)
  deriving DecidableEq, Repr

inductive PosSt where | translate | faulted | reading | running
  deriving DecidableEq, Repr

/-- A position being executed (R278, R363). -/
structure Pos where
  pos : Nat
  tile : Nat
  shadow : Bool
  core : Nat                   -- logical
  st : PosSt := .translate
  trans : List (Nat × Nat) := []     -- VA page, PPA page (4 KiB numbers)
  reads : NMap LineData := []        -- pool lines read so far
  need : List Nat := []              -- pool lines whose read is outstanding
  rerun : Bool := false
  overrun : Bool := false
  fault : Option (Nat × Nat × Bool × Nat × Nat) := none   -- stage, view, write, page, KIND of its fault (R365)
  faultAt : Nat := 0
  faultTmo : Nat := 0          -- FAULT_TMO when it faulted (R342)
  deriving DecidableEq, Repr

/-- An engine request outstanding at a home slice: a line read or write of a position, or of the last (R260). -/
structure EngReq where
  idx : Nat
  pos : Nat
  stage : Nat := 255
  ppa : Nat                    -- pool line number
  write : Option (BitVec 64 × LineData) := none
  again : Bool := false        -- reissued after one CMP_TIMEOUT (R293)
  code : Option CmpCode := none
  got : LineData := {}
  deriving DecidableEq, Repr

/-- What one run of a shadowed tile put out: its physical core, its stream, the bytes it read, and the bench regions a later
position of the core reads (R591). -/
structure RunOut where
  core : Nat
  outs : List OutOp
  input : NMap LineData
  bench : List Host.Cell
  deriving DecidableEq, Repr

/-- A shadowed tile awaiting its comparison, or its third run on a physical core (R592, R594). -/
structure Held where
  tile : Nat
  prim : Option RunOut := none
  shad : Option RunOut := none
  third : Option Nat := none
  deriving DecidableEq, Repr

/-- A last admitted or running (R273). -/
structure Last where
  qid : Nat
  sqIdx : Nat
  handle : Nat
  ctx : Nat
  args : List Nat
  start : Nat
  cores : List Nat             -- physical core of each logical core
  shadow : Nat                 -- SHADOW in force (R342)
  bound : Nat                  -- B in ns
  begunAt : Option Nat := none
  lateStart : Bool := false
  chain : Nat := 0
  seq : List (Nat × Bool) := []    -- execution sequence of the chain: tile, shadow
  started : Bool := false          -- the chain's sequence is built and its positions run
  running : List Pos := []
  done : List Nat := []            -- positions of the chain that have ended
  trans : NMap (List (Nat × Nat)) := []   -- pages of ended translation phases, by chain × 2^32 + position, while it lasts
  reruns : List Nat := []          -- positions to run again after a substitution (R295)
  held : List Held := []
  reqs : List EngReq := []
  nextReq : Nat := 0
  pushes : List (Nat × Nat) := []  -- pushes not acknowledged: chain × 2^32 + position, endpoint
  marks : List (Nat × Nat) := []   -- target stage, tile marked
  claimsFrom : Nat := 0            -- claims whose LAST stage lies before this stage are released
  overruns : Nat := 0
  faults : Nat := 0
  late : Bool := false
  faulted : Bool := false
  notLanded : Bool := false
  substituted : Bool := false
  reserveLost : Bool := false
  thermal : Bool := false
  ending : Option Nat := none      -- status once ending (R293)
  failStage : Nat := 255
  failTile : Nat := 4294967295
  stopBy : Option Nat := none      -- window of a LAST_STOP waiting
  deriving DecidableEq, Repr

structure CoreSt where
  holder : Option Nat := none      -- last
  bench : List Host.Cell := []
  poison : List Nat := []          -- 16 B bench granules holding poison (R338)
  clearing : Option Nat := none
  kept : List Nat := []            -- KEEP stages of the chain whose copy the bench holds (R332)
  deriving DecidableEq, Repr

/-- A gallery's translation cache (R361): context, first 4 KiB page, leaf. -/
structure Gallery where
  gated : Bool := false
  coolSince : Option Nat := none
  cache : List (Nat × Nat × Leaf) := []
  deriving DecidableEq, Repr

/-- A `LAST_LOAD` reading its image (R262): context, length, pool lines in order of VA, what has come. -/
structure Load where
  ctx : Nat
  va : Nat
  len : Nat
  lines : List Nat
  got : NMap LineData := []        -- by index in `lines`
  bad : Option CmpCode := none
  deriving DecidableEq, Repr

structure Engine where
  ctxs : NMap Ctx := []
  queues : NMap Queue := []
  rx : NMap RxWin := []
  loaded : NMap Loaded := []
  loads : NMap Load := []      -- by window
  lasts : NMap Last := []
  nextLid : Nat := 0
  cores : NMap CoreSt := []
  gals : NMap Gallery := []
  pushWait : List (Nat × Cargo × Emit) := []     -- pushes without a path: endpoint, cargo, message (R291)
  deriving DecidableEq, Repr

/-! ### Flights (F10) -/

structure Shaper where
  cfg : ShaperCfg
  explicit_ : Bool := false
  green : Nat := 0
  yellow : Nat := 0
  redWaits : Nat := 0
  tgtMiss : Nat := 0
  cTok : Nat := 0              -- 1/100 byte
  pTok : Nat := 0
  tokAt : Nat := 0             -- pool time of the two contents
  deriving DecidableEq, Repr

/-- A transfer waiting at a flight sequencer (R394, R396). -/
structure Xfer where
  sub : Nat
  svc : Nat
  bytes : Nat
  at_ : Nat
  red : Bool := false          -- held red at an earlier arbitration
  addr : Nat := 0              -- D0-D15: channel address
  rewrite : Bool := false      -- a pending rewrite of R429
  order : Bool := false        -- a landing order of R229, with its entry's number in `addr`
  deriving DecidableEq, Repr

structure Seqr where
  active : Flight
  pending : Option Flight := none
  bank : Nat := 0
  t0 : Nat := 0
  derated : Bool := false
  keptFlight : Option Flight := none   -- retained flight under a derived one (R386)
  tread : Nat := 0             -- the tread in force
  takeovers : Nat := 0
  shapers : NMap Shaper := []          -- by subscriber × 8 + service
  pendDerived : Bool := false          -- the pending flight was loaded under R386
  pools : NMap (Nat × Nat) := []       -- service to pooled bucket (1/100 byte) and the time of its content
  rows : NMap Nat := []                -- D0-D15: bank to the row last opened
  wait : List Xfer := []
  lastSvc : Nat := 0
  lastSub : NMap Nat := []
  deriving DecidableEq, Repr

/-! ### Fences, recorder, dumps (F16) -/

structure Sentinel where
  time : Nat
  data : List (Nat × LineData)
  digest : Nat
  deriving DecidableEq, Repr

structure FenceSt where
  list : List Fenced := []
  rotation : Nat := 0
  lastScan : Nat := 0
  sentinels : NMap Sentinel := []
  hits : List (Nat × Nat × Nat × Nat) := []   -- array corrections of the last 24 h: SOURCE, ARRAY, address, time (R439, R589)
  deriving DecidableEq, Repr

/-- An event record (R604). -/
structure Record where
  cursor : Nat
  time : Nat
  event : Nat
  cls : Nat
  flags : Nat := 0
  source : Nat
  tenant : Option Nat := none
  hall : Option Nat := none
  len : Nat := 1
  count : Nat := 1
  firstTime : Nat := 0
  addr : Nat := 0
  pos : Nat := 0               -- 64-byte unit of the ring at which it stands
  detail : List (Nat × Nat × Nat) := []   -- DETAIL fields: byte, width in bytes, value
  snap : List Byte := []
  deriving DecidableEq, Repr

structure Run where
  event : Nat
  source : Nat
  hall : Option Nat
  cls : Nat
  first : Nat                  -- cursor of the run's single record
  openedAt : Nat
  lastAt : Nat
  firstAt : Nat
  count : Nat
  proto : Record
  deriving DecidableEq, Repr

structure Recorder where
  next : Nat := 0
  recs : List Record := []     -- readable records, cursor order
  units : Nat := 0             -- 64-byte units written to the 15 MiB ring
  base : Nat := 0              -- units before the ring of this start
  segs : Nat := 0              -- 1 MiB segments copied to hall 4095 or lost (R610)
  fatal : List Record := []
  fatalTaken : Bool := false   -- a dump has taken the fatal region (R609)
  drops : NMap Nat := []       -- class to records dropped
  coalesced : Nat := 0
  snapDropped : Nat := 0
  lost : Nat := 0
  copyStalled : Bool := false
  triggers : NMap Trigger := []
  matches_ : NMap (List Nat) := []     -- trigger to times of its matches
  runs : List Run := []
  lastOcc : List (Nat × Nat × Option Nat × Nat × Nat) := []   -- event, source, hall, time, cursor
  buckets : NMap (Nat × Nat) := []     -- source to tokens in 10^-8 record, and the time of that content
  snaps : List Nat := []
  deriving DecidableEq, Repr

structure Dump where
  power : Bool
  cause : Nat
  source : Nat
  time : Nat
  cursor : Nat
  st : Nat                     -- 1 SUMMARY, 2 FULL, 3 PARTIAL, 4 COPYING
  flags : Nat := 0
  top : Nat := 0               -- highest cursor of a record it holds
  summary : List Byte := []
  fullLen : Nat := 0           -- bytes of the full dump in hall 4095; 0: none
  deriving DecidableEq, Repr

structure Dumps where
  entries : NMap Dump := []
  lost : Nat := 0
  current : Option Nat := none
  deriving DecidableEq, Repr

/-! ### Pair (F15) -/

inductive Role where | unpaired | active | standby | takingOver | fenced
  deriving DecidableEq, Repr

inductive WireSt where | up | down | chatter
  deriving DecidableEq, Repr

inductive SyncSt where | synced | resyncing | notSynced
  deriving DecidableEq, Repr

/-- A completion that waits for the standby's acknowledgement (R570). -/
structure MirWait where
  mseq : Nat
  sentAt : Nat
  send : List (Nat × Cargo × Emit) := []   -- held completions: port, cargo, message
  welt : Option Nat := none
  win : Option Nat := none
  deriving DecidableEq, Repr

structure Pair where
  cfg : PairCfg := {}          -- in force
  next : Option (Nat × Nat × Nat) := none  -- PAIR_NUMBER, SIDE, PARTNER_ID from the next cold start (R556)
  role : Role := .unpaired
  roleDueAt : Option Nat := none           -- the 1 s of R554 runs
  sync : SyncSt := .synced
  partnerReady : Bool := false
  partnerAt : Nat := 0         -- when the partner reported READY
  partnerFeature : Nat := 0    -- FEATURE and STORE_MAX of the partner's running image (R552, R553)
  partnerStore : Nat := 3
  whole : Bool := false        -- standby: every hall is mirrored for a planned swap (R577, R578)
  homeEpoch : Nat := 0         -- 8
  resyncPos : Nat := 0         -- 16
  discarded : Nat := 0         -- 32
  eA : Nat := 0                -- expiry held by the active
  eS : Nat := 0                -- highest expiry granted by the standby
  lc : Nat := 0                -- 16
  lcExpiry : Nat := 0          -- expiry carried by the latest RENEW
  lcAcked : Bool := true
  lastRenew : Nat := 0
  wire : WireSt := .down
  wireFrameAt : Nat := 0
  chatterAt : Nat := 0
  peerPath : Bool := false
  peerSince : Nat := 0
  aligned : Bool := false
  lastFence : Nat := 0         -- 2
  atExpiry : Bool := false     -- the latest self-fence was at E_a (R567)
  offset : Int := 0            -- from the latest TIME_RSP
  toRemove : Int := 0          -- what is left of it to remove (R560)
  slewAt : Nat := 0
  lastHeard : Nat := 0         -- time of the last valid RENEW (standby) or ACK (active); RENEW_MISS counts from it
  wireErr : Nat := 0
  renews : Nat := 0
  expiries : Nat := 0
  expired : Bool := false      -- the standby has declared the lease expired
  toldFinal : Option Nat := none   -- final MSEQ of a RELEASE still to be applied (R577)
  abandoned : Bool := false    -- the takeover was abandoned, until the next grant (R568)
  mseq : Nat := 0
  waits : List MirWait := []
  applied : Nat := 0           -- standby: last MSEQ applied
  kept : NMap LineData := []   -- standby: lines of MIRRORED TIERED halls by pool line
  known : NMap LineData := []  -- standby: such lines since written back, as flash holds them (log 85)
  resyncLeft : List Nat := []  -- pool lines still to copy
  resyncTotal : Nat := 0
  timeReqAt : Nat := 0         -- when the latest TIME_REQ was sent
  swap : Option (Nat × Nat × Nat) := none   -- AT, window, since
  deriving DecidableEq, Repr

/-! ### Retained store and firmware (F14) -/

/-- A record of a store copy (R543): its TYPE, header fields, the sections it holds and the retained content that stands with it. -/
structure StoreRec where
  rseq : Nat
  snap : Bool := false         -- TYPE 0 SNAPSHOT, else 1 DELTA
  bare : Bool := false         -- TYPE 2 BARE
  fmt : Nat
  ver : Nat
  time : Nat
  sections : List Nat
  content : Retained
  deriving DecidableEq, Repr

/-- A store copy, a ring of 262,144 pages (R543): the latest record, those in use before it from the latest SNAPSHOT on, oldest
first, and freed records whose pages nothing has overwritten yet (R545). -/
structure StoreCopy where
  st : Nat := 0                -- 0 invalid, 1 valid, 2 being rewritten
  last : Option StoreRec := none
  prior : List StoreRec := []
  freed : List StoreRec := []
  deriving DecidableEq, Repr

structure Store where
  a : StoreCopy := {}
  b : StoreCopy := {}
  barePending : Bool := false
  fmtWrite : Nat := 3
  dropped : Nat := 0
  writable : Bool := true      -- boot flash takes commits
  deriving DecidableEq, Repr

structure FwSlot where
  st : Nat := 0                -- 0 empty, 1 valid, 2 writing, 3 invalid
  ver : Nat := 0
  svn : Nat := 0
  storeMin : Nat := 2
  storeMax : Nat := 3
  feature : Nat := 0
  data : List Byte := []
  deriving DecidableEq, Repr

structure Fw where
  a : FwSlot := {}
  b : FwSlot := {}
  runningB : Bool := false
  nextB : Bool := false
  deriving DecidableEq, Repr

/-! ### The whole -/

/-- The state of one SH940. -/
structure State where
  pending : List Instr := []
  clk : Clock := {}
  hw : Hw := {}
  pwr : Power := {}
  win : NMap Win := []
  cmdSeq : Nat := 0            -- acceptance order of the next command (R492)
  halls : NMap Hall := []
  acl : NMap AclEntry := []    -- by hall × 2^18 + endpoint
  drains : NMap Drain := []
  clears : List Clear := []
  route : NMap Nat := []       -- route table entries set (R89)
  leaf : NMap Nat := []        -- leaf map entries set
  dist : NMap Nat := []        -- distances set, by pair leaf × 1024 + leaf
  ports : NMap Port := []
  eps : NMap EpInfo := []
  home : Home := {}
  welt : Welts := {}
  jrn : NMap Journal := []
  tier : Tier := {}
  flash : Flash := {}
  dram : Dram := {}
  ten : Tenants := {}
  trust : Trust := {}
  spdm : Spdm := {}
  eng : Engine := {}
  flt : NMap Seqr := []
  fence : FenceSt := {}
  evr : Recorder := {}
  dump : Dumps := {}
  pair : Pair := {}
  store : Store := {}
  fw : Fw := {}
  out : List Emit := []
  free : Nat := 0
  deriving DecidableEq, Repr

/-- The bare flight of R389: one tread of 100,000 ticks, nothing committed. -/
def bareFlight : Flight := { treads := [{ len := 100000, resFirst := 0, resCount := 0, svc := [0, 0, 0, 0, 0, 0, 0, 0] }] }

/-- The 50 scheduled resources of R373 in code order. -/
def resourceCodes : List Nat :=
  [0, 1, 2, 3, 4, 5, 6, 7] ++ (List.range 16).map (· + 8) ++ (List.range 8).map (· + 0x18) ++ [0x20, 0x21] ++
    (List.range 16).map (· + 0x22)

/-- The module as fitted at reset (DESIGN CHOICE, log 6): grade A1, sixteen 256 GiB x4 DIMMs, eight drives of 2^30 LBAs. -/
def fittedHw : Hw :=
  { dimms := (List.range 16).map fun c => (c, { serial := c + 1 })
    media := (List.range 8).map fun p => (p, { lbas := 2 ^ 30 })
    temps := (List.range 37).map fun t => (t, 100) }

/-- The state right after reset: the first power-up of a new module, the input just at its start threshold (log 7). The
store is bare (R549), every table is empty, windows 0 and 1 are open to the BMC, every flight is the bare flight. -/
def State.reset : State :=
  { hw := fittedHw
    win := [(0, { cls := .bmc }), (1, { cls := .bmc })]
    ports := (List.range 10).map fun p => (p, {})
    flash := { drives := (List.range 8).map fun p => (p, {}) }
    dram := { chans := (List.range 16).map fun c => (c, {}) }
    flt := resourceCodes.map fun c => (c, { active := bareFlight })
    home := { slices := List.range 64 }
    fw := { a := { st := 1, ver := 1, svn := 1 } } }

end Sys2Proof.Machine
end

