-- ==== Sys2Proof/Machine/Tables.lean ====
section
/-! DEFINITION. Operations on tables keyed by a number, on bytes and bit fields, on time and saturating counters. -/

namespace Sys2Proof

/-- The entry of a table at a key. -/
def NMap.get? {α : Type} : NMap α → Nat → Option α
  | [], _ => none
  | (a, x) :: t, k => if a = k then some x else NMap.get? t k

/-- The entry at a key, or a default. -/
def NMap.getD {α : Type} (m : NMap α) (k : Nat) (d : α) : α := (m.get? k).getD d

/-- A table with the entry at a key replaced or added, in key order. -/
def NMap.set {α : Type} : NMap α → Nat → α → NMap α
  | [], k, v => [(k, v)]
  | (a, x) :: t, k, v =>
    if k < a then (k, v) :: (a, x) :: t else if a = k then (k, v) :: t else (a, x) :: NMap.set t k v

/-- A table without the entry at a key. -/
def NMap.erase {α : Type} : NMap α → Nat → NMap α
  | [], _ => []
  | (a, x) :: t, k => if a = k then t else (a, x) :: NMap.erase t k

/-- A table with the entry at a key changed, if there is one. -/
def NMap.modify {α : Type} (m : NMap α) (k : Nat) (f : α → α) : NMap α :=
  match m.get? k with
  | some x => m.set k (f x)
  | none => m

/-- A memory write that keeps the canonical form: writing what an unlisted address reads as removes the entry. -/
def NMap.put {α : Type} [DecidableEq α] (m : NMap α) (k : Nat) (v dflt : α) : NMap α :=
  if v = dflt then m.erase k else m.set k v

/-- No entry equals what an unlisted address reads as. -/
def NMap.noDflt {α : Type} [DecidableEq α] (m : NMap α) (dflt : α) : Bool := m.all fun e => e.2 ≠ dflt

/-- Keys strictly rising. -/
def NMap.rising {α : Type} : NMap α → Bool
  | [] => true
  | e :: t => t.all (fun f => decide (e.1 < f.1)) && NMap.rising t

/-- The canonical form of a memory whose unlisted addresses read as `dflt`. -/
abbrev NMap.canon {α : Type} [DecidableEq α] (m : NMap α) (dflt : α) : Prop := m.rising = true ∧ m.noDflt dflt = true

/-- The canonical form of a byte memory whose unlisted bytes are zero: a window's header and data buffer (R481). -/
abbrev Memory.wf (m : List Host.Cell) : Prop := NMap.canon m (0 : Byte)

/-- The entries whose key lies outside [lo, hi). -/
def NMap.clear {α : Type} (m : NMap α) (lo hi : Nat) : NMap α := m.filter fun e => e.1 < lo || hi ≤ e.1

/-- The lowest key at or above `lo` that a table does not hold, searching `fuel` keys. -/
def NMap.freeKey {α : Type} (m : NMap α) : Nat → Nat → Option Nat
  | _, 0 => none
  | lo, fuel + 1 => match m.get? lo with
    | none => some lo
    | some _ => NMap.freeKey m (lo + 1) fuel

namespace Machine

/-- Ticks of TCLK in a microsecond, a millisecond, a second (R8). -/
def us (n : Nat) : Nat := 100 * n
def ms (n : Nat) : Nat := 100000 * n
def sec (n : Nat) : Nat := 100000000 * n

/-- A saturating counter of `w` bits. -/
def satAdd (w x n : Nat) : Nat := min (x + n) (2 ^ w - 1)

def b2n (b : Bool) : Nat := if b then 1 else 0

/-- The `w` bits of `x` from bit `lo`. -/
def bits (x lo w : Nat) : Nat := x / 2 ^ lo % 2 ^ w

/-- Fields of a record, least significant first, as one number; a field holds its value modulo its width (R7). -/
def packBits : List (Nat × Nat) → Nat
  | [] => 0
  | (w, v) :: t => v % 2 ^ w + 2 ^ w * packBits t

/-- The `n` bytes of a number, least significant first (R7). -/
def leBytes : Nat → Nat → List Byte
  | 0, _ => []
  | n + 1, x => BitVec.ofNat 8 x :: leBytes n (x / 256)

/-- The number that bytes spell, least significant first (R7). -/
def leNat : List Byte → Nat
  | [] => 0
  | b :: t => b.toNat + 256 * leNat t

/-- Fields, each (bytes, value), at the next offset aligned to its size (R487). -/
def lay (l : List (Nat × Nat)) : List Byte :=
  l.foldl (fun acc f => acc ++ List.replicate ((f.1 - acc.length % f.1) % f.1) 0 ++ leBytes f.1 f.2) []

/-- Bytes read from a memory whose unlisted bytes are zero. -/
def rdBytes (m : List Host.Cell) (off n : Nat) : List Byte :=
  (List.range n).map fun i => NMap.getD m (off + i) 0

/-- The little-endian number at an offset of such a memory. -/
def rdNat (m : List Host.Cell) (off n : Nat) : Nat := leNat (rdBytes m off n)

/-- Bytes written to such a memory. -/
def wrBytes (m : List Host.Cell) : Nat → List Byte → List Host.Cell
  | _, [] => m
  | off, b :: t => wrBytes (NMap.put m off b 0) (off + 1) t

/-- Bytes of a list, zero beyond its end. -/
def sub (l : List Byte) (off n : Nat) : List Byte := (List.range n).map fun i => (l[off + i]?).getD 0

/-- The little-endian number at an offset of a byte list. -/
def subNat (l : List Byte) (off n : Nat) : Nat := leNat (sub l off n)

/-- The set bits of a mask below `n`, lowest first. -/
def setBits (n mask : Nat) : List Nat := (List.range n).filter fun i => mask.testBit i

/-- Rounding a quotient up. -/
def ceilDiv (a b : Nat) : Nat := (a + b - 1) / b

/-- The sum of a list. -/
def sumNat (l : List Nat) : Nat := l.foldl (· + ·) 0

/-- A list with its elements in rising order by a key, equal keys kept in order. -/
def insertBy {α : Type} (key : α → Nat) (x : α) : List α → List α
  | [] => [x]
  | y :: t => if key x ≤ key y then x :: y :: t else y :: insertBy key x t

def sortBy {α : Type} (key : α → Nat) : List α → List α
  | [] => []
  | x :: t => insertBy key x (sortBy key t)

/-- The element with the least key, the first of equals. -/
def minBy {α : Type} (key : α → Nat) : List α → Option α
  | [] => none
  | x :: t => match minBy key t with
    | none => some x
    | some y => if key y < key x then some y else some x

/-- The first `n` bytes of a line as bytes, and a line from bytes. -/
def lineBytes (l : Line) : List Byte := leBytes 64 l.toNat
def bytesLine (b : List Byte) : Line := BitVec.ofNat 512 (leNat b)

/-- Master pool time (R22). -/
abbrev State.now (s : State) : Nat := s.clk.master

end Machine
end Sys2Proof
end

