-- ==== Sys2Proof/Machine/Wire.lean ====
section
/-! DEFINITION. The bytes of messages and flits: fields of the messages that arrive and what makes one reserved (R114 to R120,
R164, R351, R498, R561), the layouts of those that leave, slots and flits (R67 to R71, R97, R101, R475, R476). -/

namespace Sys2Proof

open Machine

/-- Are the `n` bytes from an offset zero? -/
def zeros (l : List Byte) (off n : Nat) : Bool := (sub l off n).all fun b => b = 0

/-- The message bytes of one slot and of two (R114). -/
def msgBytes (two : Bool) : Nat := if two then 110 else 55

/-- Line data and its poison mask at two offsets of a message (R116, R120). -/
def lineAt (b : List Byte) (dataAt maskAt lo : Nat) : LineData :=
  { data := bytesLine (sub b dataAt 64), poison := BitVec.ofNat 4 (subNat b maskAt 1 / 2 ^ lo) }

/-! ### REQ (R116) -/

namespace ReqMsg
def tag (m : ReqMsg) : Nat := subNat m.bytes 1 2
def src (m : ReqMsg) : Nat := subNat m.bytes 3 3 % 2 ^ 18
def hall (m : ReqMsg) : Nat := subNat m.bytes 6 2 % 4096
def offset (m : ReqMsg) : Nat := subNat m.bytes 8 6 % 2 ^ 44
def ctx (m : ReqMsg) : Option Nat := if (subNat m.bytes 16 1).testBit 0 then some (subNat m.bytes 14 2) else none
def epoch (m : ReqMsg) : Nat := subNat m.bytes 17 1
/-- AMO_SIZE, RET and AMO_OP of AMO_CTL (R116, R144). -/
def amoSize (m : ReqMsg) : Nat := bits (subNat m.bytes 18 1) 4 2
def ret (m : ReqMsg) : Bool := (subNat m.bytes 18 1).testBit 6
def amoOp (m : ReqMsg) : AmoOp := match subNat m.bytes 18 1 % 16 with
  | 0 => .add | 1 => .and | 2 => .or | 3 => .xor | 4 => .smax | 5 => .smin | 6 => .umax | 7 => .umin | 8 => .swap | 9 => .cas
  | 10 => .fadd
  | _ => .rsvd
def handle (m : ReqMsg) : Nat := subNat m.bytes 19 2
def mask (m : ReqMsg) : BitVec 64 := BitVec.ofNat 64 (subNat m.bytes 22 8)
def opA (m : ReqMsg) : BitVec 128 := BitVec.ofNat 128 (subNat m.bytes 22 16)
def opB (m : ReqMsg) : BitVec 128 := BitVec.ofNat 128 (subNat m.bytes 38 16)
def line (m : ReqMsg) : LineData := lineAt m.bytes 40 104 0

/-- Is the message, as the one with opcode `op`, one with a reserved opcode, encoding or field (R115, R116)? A message of another
length than its layout's is taken as one (DEDUCED, log 93). -/
def bad (m : ReqMsg) (op : Nat) : Bool :=
  let b := m.bytes
  let two := decide (op = 5 ∨ op = 6 ∨ op = 7)
  decide (b.length ≠ msgBytes two ∨ subNat b 0 1 ≠ op ∨ 2 ^ 18 ≤ subNat b 3 3 ∨ 4096 ≤ subNat b 6 2 ∨ 2 ^ 44 ≤ subNat b 8 6 ∨
      2 ≤ subNat b 16 1) ||
    (if op = 8 then (subNat b 18 1).testBit 7 else decide (m.offset % 64 ≠ 0) || !zeros b 18 1) ||
    (if op = 0x11 ∨ op = 0x12 then false else !zeros b 19 2) || !zeros b 21 1 ||
    (two && (!zeros b 30 10 || decide (16 ≤ subNat b 104 1) || !zeros b 105 5))
end ReqMsg

/-! ### WLT (R164) -/

namespace WltMsg
def tag (m : WltMsg) : Nat := subNat m.bytes 1 2
def ep (m : WltMsg) : Nat := subNat m.bytes 3 3 % 2 ^ 18
def hall (m : WltMsg) : Nat := subNat m.bytes 6 2 % 4096
def handle (m : WltMsg) : Nat := subNat m.bytes 8 2
def persist (m : WltMsg) : Bool := (subNat m.bytes 10 1).testBit 0
def epoch (m : WltMsg) : Nat := subNat m.bytes 17 1

/-- Is the message, as the one with opcode `op`, a reserved form (R115, R164)? -/
def bad (m : WltMsg) (op : Nat) : Bool :=
  let b := m.bytes
  decide (b.length ≠ msgBytes false ∨ subNat b 0 1 ≠ op ∨ 2 ^ 18 ≤ subNat b 3 3 ∨ 4096 ≤ subNat b 6 2 ∨
      (op = 0x10 ∧ subNat b 8 2 ≠ 0) ∨ (if op = 0x13 then 2 else 1) ≤ subNat b 10 1) ||
    !zeros b 11 6 || !zeros b 18 37
end WltMsg

/-! ### Snoop answers (R119, R120) -/

namespace RspMsg
def stag (m : RspMsg) : Nat := subNat m.bytes 1 2
def ep (m : RspMsg) : Nat := subNat m.bytes 3 3 % 2 ^ 18
def line (m : RspMsg) : LineData := lineAt m.bytes 16 7 2

/-- Is an RSP message, as the one with opcode `op`, a reserved form (R115, R119, R123)? CODE belongs to CMP only. -/
def bad (m : RspMsg) (op : Nat) : Bool :=
  let b := m.bytes
  decide (b.length ≠ msgBytes false ∨ subNat b 0 1 ≠ op ∨ 2 ^ 18 ≤ subNat b 3 3 ∨ subNat b 6 1 ≠ 0 ∨ 3 ≤ subNat b 7 1) || !zeros b 9 46

/-- The same of DATA_WB (R115, R120, R123). -/
def badData (m : RspMsg) : Bool :=
  let b := m.bytes
  decide (b.length ≠ msgBytes true ∨ subNat b 0 1 ≠ 0x62 ∨ 2 ^ 18 ≤ subNat b 3 3 ∨ 6 ≤ subNat b 6 1 ∨ 64 ≤ subNat b 7 1 ∨
      subNat b 7 1 % 4 = 3) || !zeros b 9 7 || !zeros b 80 30
end RspMsg

/-! ### MGT and HBT (R351, R498, R561) -/

/-- Is an MGT message, as the one with opcode `op`, a reserved form: reserved bytes outside the listed ranges (R115, R498)? -/
def mgtBad (b : List Byte) (op : Nat) (ranges : List (Nat × Nat)) : Bool :=
  decide (b.length ≠ msgBytes false ∨ subNat b 0 1 ≠ op) ||
    !((List.range 55).all fun i => decide (i = 0) || (ranges.any fun r => decide (r.1 ≤ i ∧ i < r.1 + r.2)) || zeros b i 1)

/-- WIN and SRC of an MBX message, and the SRC of MBX_OPEN (R498). -/
def mbxWin (b : List Byte) : Nat := subNat b 1 2
def mbxSrc (b : List Byte) : Nat := subNat b 3 3
/-- Reserved forms of the four MBX messages that arrive (R498). -/
def mbxOpenBad (b : List Byte) : Bool := mgtBad b 0x54 [(3, 3)] || decide (2 ^ 18 ≤ mbxSrc b)
def mbxWriteBad (b : List Byte) : Bool :=
  let n := subNat b 10 1
  mgtBad b 0x56 [(1, 10), (15, 40)] || decide (2 ^ 18 ≤ mbxSrc b ∨ n = 0 ∨ 40 < n)
def mbxReadBad (b : List Byte) : Bool :=
  let n := subNat b 10 2
  mgtBad b 0x57 [(1, 13)] || decide (2 ^ 18 ≤ mbxSrc b ∨ n = 0 ∨ 1024 < n)
def mbxCloseBad (b : List Byte) : Bool := mgtBad b 0x59 [(1, 5)] || decide (2 ^ 18 ≤ mbxSrc b)

/-- Fields of a lease or time message (R561). -/
def hbtLc (b : List Byte) : Nat := subNat b 1 2
def hbtExpiry (b : List Byte) : Nat := subNat b 8 8
def hbtSend (b : List Byte) : Nat := subNat b 16 8
def hbtEcho (b : List Byte) : Nat := subNat b 24 8
def hbtMseq (b : List Byte) : Nat := subNat b 32 8
/-- Reserved forms of an HBT message (R115, R561): LC and EXPIRY are the lease messages', T_ECHO of TIME_RSP, MSEQ of RELEASE. -/
def hbtBad (b : List Byte) (op : Nat) : Bool :=
  decide (b.length ≠ msgBytes false ∨ subNat b 0 1 ≠ op) || !zeros b 4 4 || !zeros b 40 15 ||
    (decide (0x73 ≤ op) && !zeros b 1 2) || (decide (op ≠ 0x74) && !zeros b 24 8) || (decide (op ≠ 0x72) && !zeros b 32 8)

namespace Machine

/-! ### The bytes of the messages that leave -/

/-- CODE of a completion (R119). -/
def cmpNat : CmpCode → Nat
  | .ok => 0
  | .poison => 1
  | .denied => 2
  | .revoked => 3
  | .epoch => 4
  | .timeout => 5

/-- Fields, each (bytes, value), one after the other, then zeros up to `n` bytes. -/
def msgOf (n : Nat) (l : List (Nat × Nat)) : List Byte := sub (l.flatMap fun f => leBytes f.1 f.2) 0 n

/-- The message bytes of what leaves in slots, little-endian (R114). -/
def Emit.message : Emit → List Byte
  | .cmp _ ep tag code grant he => msgOf 55 [(1, 0x40), (2, tag), (3, ep), (1, cmpNat code), (1, grant), (1, he)]
  | .dataCmp _ ep tag code grant he d =>
    msgOf 110 [(1, 0x60), (2, tag), (3, ep), (1, cmpNat code), (1, grant + 4 * d.poison.toNat), (1, he), (7, 0), (64, d.data.toNat)]
  | .dataShort _ ep tag code grant he v p =>
    msgOf 55 [(1, 0x63), (2, tag), (3, ep), (1, cmpNat code), (1, grant + 4 * p.toNat), (1, he), (7, 0), (16, v.toNat)]
  | .snoop _ ep stag op hall offset reqEp reqTag grant he =>
    msgOf 55 [(1, op), (2, stag), (3, ep), (2, hall), (6, offset), (3, reqEp), (2, reqTag), (1, grant), (1, he)]
  | .wltOpened _ ep tag hall handle age he =>
    msgOf 55 [(1, 0x18), (2, tag), (3, ep), (2, hall), (2, handle), (7, 0), (1, he), (8, age)]
  | .wltEnd _ ep tag hall handle notice committed status lines he =>
    msgOf 55 [(1, 0x19), (2, tag), (3, ep), (2, hall), (2, handle), (1, 2 * b2n notice + 4 * b2n committed), (1, status), (2, lines),
      (3, 0), (1, he)]
  | .push _ ep window offset he d =>
    msgOf 110 [(1, 0x64), (2, window), (3, ep), (1, b2n (d.poison ≠ 0)), (1, 4 * d.poison.toNat), (1, he), (5, offset), (2, 0),
      (64, d.data.toNat)]
  | .mbxOpened _ dst win status => msgOf 55 [(1, 0x55), (2, win), (3, dst), (1, status)]
  | .mbxData win dst off data status rtag =>
    msgOf 55 [(1, 0x58), (2, win), (3, dst), (4, off), (1, data.length), (1, status), (2, rtag), (1, 0), (40, leNat data)]
  | .mbxDone win dst cseq status resLen => msgOf 55 [(1, 0x5A), (2, win), (3, dst), (4, cseq), (1, status), (4, resLen)]
  | .alert win dst cls time count event cursor =>
    msgOf 55 [(1, 0x5E), (2, win), (3, dst), (1, cls), (1, 0), (8, time), (4, count), (4, event), (8, cursor)]
  | .budget _ ep hall bud nseq => msgOf 55 [(1, 0x5C), (3, ep), (2, hall), (2, bud), (2, nseq)]
  | .epoch _ ep he time windowEnd => msgOf 55 [(1, 0x63), (3, ep), (1, he), (3, 0), (8, time), (8, windowEnd)]
  | .linkRekey _ swN swP swC => msgOf 55 [(1, 0x5F), (7, 0), (8, swN), (8, swP), (8, swC)]
  | .qcq _ ep qid tail => msgOf 55 [(1, 0x51), (2, qid), (3, ep), (2, tail)]
  | .qflt _ ep qid tail => msgOf 55 [(1, 0x52), (2, qid), (3, ep), (2, tail)]
  | .qerr _ ep qid tail => msgOf 55 [(1, 0x53), (2, qid), (3, ep), (2, tail)]
  | .spdmFrag _ ep flags seq data => msgOf 55 [(1, 0x60), (3, ep), (1, flags), (1, data.length), (2, seq), (3, 0), (44, leNat data)]
  | .lease _ kind lc he expiry tSend tEcho mseq =>
    msgOf 55 [(1, 0x70 + kind), (2, lc), (1, he), (4, 0), (8, expiry), (8, tSend), (8, tEcho), (8, mseq)]
  | .mirror _ r => (List.range 55).map (Config.mirrorByte r)
  | .mirrorAck _ n => (List.range 55).map (Config.mirrorAckByte n)
  | _ => []

/-- The virtual channel of what leaves in slots (R69, R113): 1 SNP, 2 RSP, 3 DAT, 4 WLT, 5 MGT, 6 HBT. -/
def Emit.channel : Emit → Nat
  | .snoop .. => 1
  | .cmp .. => 2
  | .dataCmp .. | .dataShort .. | .push .. => 3
  | .wltOpened .. | .wltEnd .. => 4
  | .lease .. => 6
  | _ => 5

/-! ### Slots and flits (R67 to R71) -/

/-- A slot header: VC, FIRST, LEN (R69). -/
def slotHdr (vc first len : Nat) : Byte := BitVec.ofNat 8 (packBits [(3, vc), (1, first), (2, len), (2, 0)])

/-- The 224 slot bytes of a flit that carries one message: S0, or S0 and S1, then empty slots (R70, R114, log 9). A one-slot
message has FIRST set (DESIGN CHOICE, log 89). -/
def slotsOf (m : Emit) : List Byte :=
  let b := m.message
  if b.length ≤ 55 then sub (slotHdr m.channel 1 1 :: b) 0 224
  else sub ((slotHdr m.channel 1 2 :: b.take 55) ++ (slotHdr m.channel 0 2 :: b.drop 55)) 0 224

/-- The 6 bytes of a link header (R68). -/
def linkHdr (typ space seq ackN ackP : Nat) (keyed : Bool) : List Byte :=
  leBytes 6 (packBits [(3, typ), (1, space), (12, seq), (12, ackN), (12, ackP), (1, b2n keyed), (7, 0)])

/-- Slots and tag, link header, CRC and FEC: the 256 bytes of a flit (R67). -/
def flitOf (slots : List Byte) (tag : Nat) (hdr : List Byte) : List Byte :=
  let b := slots ++ leBytes 12 tag ++ hdr
  b ++ leBytes 8 (Config.flitCrc b) ++ leBytes 6 (Config.flitFec b)

/-- Fields of an arriving flit (R67, R68). -/
def flitSlots (f : List Byte) : List Byte := sub f 0 224
def flitTag (f : List Byte) : Nat := subNat f 224 12
def flitHdr (f : List Byte) : List Byte := sub f 236 6
def flitField (f : List Byte) (lo w : Nat) : Nat := bits (subNat f 236 6) lo w
def flitType (f : List Byte) : Nat := flitField f 0 3
def flitSpace (f : List Byte) : Nat := flitField f 3 1
def flitSeq (f : List Byte) : Nat := flitField f 4 12
def flitAckN (f : List Byte) : Nat := flitField f 16 12
def flitAckP (f : List Byte) : Nat := flitField f 28 12
def flitKeyed (f : List Byte) : Bool := decide (flitField f 40 1 = 1)

/-- A reserved encoding in the link header: TYPE 5 to 7, bits [47:41], or SPACE or SEQ where the type has none (R68). -/
def hdrBad (f : List Byte) : Bool :=
  decide (5 ≤ flitType f ∨ flitField f 41 7 ≠ 0 ∨ (flitType f ≠ 0 ∧ flitType f ≠ 2 ∧ (flitSpace f ≠ 0 ∨ flitSeq f ≠ 0)))

/-- A slot of plain slot bytes and the fields of its header (R69). -/
def slotAt (b : List Byte) (i : Nat) : List Byte := sub b (56 * i) 56
def slotVc (x : List Byte) : Nat := bits (subNat x 0 1) 0 3
def slotFirst (x : List Byte) : Bool := (subNat x 0 1).testBit 3
def slotLen (x : List Byte) : Nat := bits (subNat x 0 1) 4 2

/-- A reserved encoding in a slot header, an empty slot that is not all zero, or a two-slot message that breaks R70. -/
def slotsBad : List (List Byte) → Bool
  | [] => false
  | a :: t =>
    if slotLen a = 0 then !zeros a 0 56 || slotsBad t
    else if 64 ≤ subNat a 0 1 ∨ slotVc a = 7 ∨ slotLen a = 3 then true
    else if slotLen a = 2 then
      match t with
      | b :: u => if slotFirst a = true ∧ slotFirst b = false ∧ slotLen b = 2 ∧ slotVc b = slotVc a ∧ subNat b 0 1 < 64 then slotsBad u
        else true
      | [] => true
    else slotsBad t

/-- The four slots of a flit's slot bytes. -/
def fourSlots (b : List Byte) : List (List Byte) := (List.range 4).map (slotAt b)

/-- Slots that R71 keeps out of a flit's space or port. -/
def slotsWrong (p space : Nat) (l : List (List Byte)) : Bool :=
  l.any fun a => decide (slotLen a ≠ 0) &&
    (if space = 0 then decide (5 ≤ slotVc a) else decide (slotVc a < 5) || decide (slotVc a = 6 ∧ p < 8))

/-! ### Link keys (R474 to R477) -/

/-- The secret Sn of a direction (R477), and its key (R474). -/
def secretAt (s0 : Nat) : Nat → Nat
  | 0 => s0
  | n + 1 => Config.hkdfExpand (secretAt s0 n) "upd" 48
def keyAt (s0 n : Nat) : Nat := Config.hkdfExpand (secretAt s0 n) "key" 32

/-- A nonce: a 64-bit counter and the space, 2 for control flits (R475, R476). -/
def nonceOf (space count : Nat) : Nat := count % 2 ^ 64 + 2 ^ 64 * space

/-- The slots of a flit as encrypted, and back (R67, R475). -/
def cipher (key nonce : Nat) (b : List Byte) : List Byte :=
  (List.range b.length).map fun i => (b[i]?).getD 0 ^^^ Config.gcmStream key nonce i

/-- The number n of the secret Sn that a counter uses: one more for each switch point it has reached (R477). -/
def genAt (sw : List Nat) (count : Nat) : Nat := (sw.filter fun x => x ≤ count).length

end Machine
end Sys2Proof
end

