-- ==== Sys2Proof/Machine/Send.lean ====
section
/-! DEFINITION. Sending messages on fabric and peer ports (R71 to R73, R89, R93, R477, R565) and to the owners of windows. -/

namespace Sys2Proof.Machine

/-! ### Transfers at the flight sequencers (R373 to R375) -/

/-- Services listed for a resource (R373). -/
def resServices (r : Nat) : List Nat :=
  if r < 8 then [0, 1, 2, 7]
  else if r < 0x18 then [0, 1, 2, 3, 4, 5, 6]
  else if r < 0x20 then [1, 3, 4, 5]
  else if r < 0x22 then [6, 7]
  else [2]

/-- The service a transfer is counted under (R374). -/
def countedSvc (r svc : Nat) : Nat :=
  if (resServices r).contains svc then svc
  else if r < 0x18 then 0
  else if r < 0x20 then 5
  else if r < 0x22 then 7
  else 2

/-- The system subscriber (R375). -/
def sysSub : Nat := 0x7FF

/-- A transfer arrives at its resource's sequencer (R18, R375). -/
def xfer (s : State) (r sub svc bytes addr : Nat) : State :=
  { s with flt := s.flt.modify r fun q =>
      { q with wait := q.wait ++ [{ sub := sub, svc := countedSvc r svc, bytes := bytes, at_ := s.now, addr := addr }] } }

/-- The resource code of a port's egress (R373). -/
def portRes (p : Nat) : Nat := if p < 8 then p else 0x18 + p

/-! ### Ports and sending -/

/-- The designated partner of a fabric or peer port (R12, R89). -/
def partnerPort (p : Nat) : Nat := if p < 8 then (p + 4) % 8 else if p = 8 then 9 else 8

def portUp (s : State) (p : Nat) : Bool :=
  match s.ports.get? p with
  | some q => q.st = .up || q.st = .swapping || q.st = .recovery
  | none => false

/-- A port that carries MGT messages: those flow in KEYING too (R103). -/
def portMgt (s : State) (p : Nat) : Bool :=
  portUp s p || (match s.ports.get? p with
    | some q => q.st = .keying
    | none => false)

/-- Can a message have come in on a port: one of the normal space or a heartbeat when its link is up, an MGT message in KEYING
too (R5, R103)? -/
def heard (s : State) (p : Nat) (mgt : Bool) : Bool := if mgt then portMgt s p else portUp s p

/-- The port a message leaves on: its own port, or that port's partner when it is down (R89, R95). -/
def pickPort (s : State) (p : Nat) (mgt : Bool) : Option Nat :=
  if heard s p mgt then some p else if heard s (partnerPort p) mgt then some (partnerPort p) else none

/-- Cargo of the privileged space (R71). -/
def Cargo.priv : Cargo → Bool
  | .mgt _ | .hbt | .rekey _ | .keying _ | .peer => true
  | _ => false

/-- MGT cargo, which flows in KEYING (R103). -/
def Cargo.inKeying : Cargo → Bool
  | .mgt _ | .rekey _ | .keying _ => true
  | _ => false

/-- ACK_N or ACK_P: NEXT − 1 (R75). -/
def ackOf (x : Space) : Nat := (x.next + 4095) % 4096

/-- A space of a port's link. -/
def portSpace (q : Port) (priv : Bool) : Space := if priv then q.sp else q.sn
def setSpace (q : Port) (priv : Bool) (x : Space) : Port := if priv then { q with sp := x } else { q with sn := x }

/-- Flits can leave on the link: not in the quiet of a lane swap nor in physical recovery (R83, R96). -/
def linkSends (q : Port) : Bool := q.st = .keying || q.st = .up

/-- Switch points of one counter: 0 normal, 1 privileged, 2 control (R475 to R477). -/
def pointsOf (sw : List (Nat × Nat × Nat)) (space : Nat) : List Nat :=
  sw.map fun e => if space = 0 then e.1 else if space = 1 then e.2.1 else e.2.2

/-- A space stalls at its switch point until the LINK_REKEY is acknowledged (R477). -/
def rekeyStall (q : Port) (priv : Bool) : Bool :=
  !q.key.swTxAcked && match q.key.swTx.getLast? with
    | some (n, p, _) => if priv then decide (p ≤ q.sp.txNext) else decide (n ≤ q.sn.txNext)
    | none => false

/-- Room in a space's window: 512 unacknowledged flits, 2,048 in the privileged space (R73). -/
def windowOf (priv : Bool) : Nat := if priv then 2048 else 512

/-- The SEQ flit in which a message leaves: its slots, sealed on a keyed link, with the next sequence number of its space and both
acknowledgements (R67, R68, R72, R75, R475, R477). -/
def sealFlit (q : Port) (priv : Bool) (m : Emit) : List Byte :=
  let n := (portSpace q priv).txNext
  let hdr := linkHdr 0 (b2n priv) (n % 4096) (ackOf q.sn) (ackOf q.sp) q.key.keyed
  let b := slotsOf m
  if q.key.keyed then
    let key := keyAt q.key.secTx (genAt (pointsOf q.key.swTx (b2n priv)) n)
    flitOf (cipher key (nonceOf (b2n priv) n) b) (Config.gcmTag key (nonceOf (b2n priv) n) hdr b) hdr
  else flitOf b 0 hdr

/-- A control flit: S0 holds its contents in bytes 1 to 47 and, on a keyed link, CCTR in bytes 48 to 55; its tag covers the slots
in the clear (R71, R101, R476). NEGOTIATE comes before any key. -/
def controlFlitOf (q : Port) (typ space seq : Nat) (content : List Byte) : List Byte :=
  let keyed := q.key.keyed && decide (typ ≠ 3)
  let hdr := linkHdr typ space seq (ackOf q.sn) (ackOf q.sp) keyed
  let b := sub (0 :: sub content 0 47 ++ leBytes 8 (if keyed then q.key.cctrTx else 0)) 0 224
  if keyed then
    let key := keyAt q.key.secTx (genAt (pointsOf q.key.swTx 2) q.key.cctrTx)
    flitOf b (Config.gcmTag key (nonceOf 2 q.key.cctrTx) (b ++ hdr) []) hdr
  else flitOf b 0 hdr

/-- Send a control flit; nothing leaves a link that is quiet or in recovery (R71, R96, R476). -/
def sendControl (s : State) (p typ space seq : Nat) (content : List Byte) (m : Emit) : State :=
  match s.ports.get? p with
  | none => s
  | some q =>
    if linkSends q || decide (typ = 3) then
      { s with
        ports := s.ports.set p { q with
          lastSent := s.now
          key := { q.key with cctrTx := if q.key.keyed then q.key.cctrTx + 1 else q.key.cctrTx } }
        out := s.out ++ [.flit p (controlFlitOf q typ space seq content) m] }
    else s

/-- Put a message into its space of a port: into a flit of its own when the link carries flits and the window has room, else it
waits (R72, R73, log 9). -/
def sendFlit (s : State) (p : Nat) (c : Cargo) (m : Emit) : State :=
  match s.ports.get? p with
  | none => s
  | some q =>
    let s := match c with
      | .mgt _ | .keying _ => xfer s (portRes p) sysSub 7 56 0
      | _ => s
    let sp := portSpace q c.priv
    let sent := linkSends q && decide (sp.unack.length < windowOf c.priv) && sp.wait.isEmpty && !rekeyStall q c.priv
    let b := sealFlit q c.priv m
    let sp' := if sent then
        { sp with
          txNext := sp.txNext + 1
          unack := sp.unack ++ [{ seq := sp.txNext, cargo := c, emit := m, bytes := b, sentAt := s.now }]
          progressAt := if sp.unack.isEmpty then s.now else sp.progressAt }
      else { sp with wait := sp.wait ++ [(c, m)] }
    { s with
      ports := s.ports.set p { setSpace q c.priv sp' with lastSent := if sent then s.now else q.lastSent }
      out := if sent then s.out ++ [.flit p b m] else s.out }

/-- Does the role stop normal-space traffic (R565)? -/
def fencedNow (s : State) : Bool := s.pair.role = .fenced

/-- Send a message toward a port; nothing leaves when the port and its partner are down, nor normal traffic when fenced
(R89, R94, R565). -/
def send (s : State) (p : Nat) (c : Cargo) (m : Emit) : State :=
  if fencedNow s && !c.priv then s
  else match pickPort s p c.inKeying with
    | some q => sendFlit s q c m
    | none => s

/-- Change one port. -/
def modPort (s : State) (p : Nat) (f : Port → Port) : State := { s with ports := s.ports.modify p f }

/-- What the SH940 holds about an endpoint. -/
def epInfo (s : State) (ep : Nat) : EpInfo := s.eps.getD ep {}

/-- Is an endpoint on the dead list (R154)? -/
def isDead (s : State) (ep : Nat) : Bool := (epInfo s ep).dead

/-- The learned route of R142: the port of the latest message; before any, F0, or F4 when F0 is down. -/
def learnedPort (s : State) (ep : Nat) : Nat :=
  match (epInfo s ep).learned with
  | some p => p
  | none => if portMgt s 0 then 0 else 4

/-- An endpoint's route port (R89, R142). -/
def routePort (s : State) (ep : Nat) : Nat :=
  match s.route.get? ep with
  | some p => if p < 8 then p else learnedPort s ep
  | none => learnedPort s ep

/-- The port snoops and MGT messages to an endpoint leave on: its route port, or that port's partner while the port's routes
are there (R89, R93). -/
def sendPort (s : State) (ep : Nat) : Nat :=
  let p := routePort s ep
  match s.ports.get? p with
  | some q => if q.routedAway then partnerPort p else p
  | none => p

/-- Send a snoop or an MGT message to an endpoint; while it moves back from the partner port the message is held (R89,
R93). -/
def sendEp (s : State) (ep : Nat) (c : Cargo) (m : Nat → Emit) : State :=
  let p := sendPort s ep
  match s.ports.get? p with
  | some q =>
    if q.movingBack.contains ep then modPort s p fun q => { q with held := q.held ++ [(c, m p)] }
    else send s p c (m p)
  | none => s

/-- Send an MGT message to an endpoint on its route port (R89). -/
def sendMgt (s : State) (ep : Nat) (m : Nat → Emit) : State := sendEp s ep (.mgt ep) m

/-- Note the port a REQ, WLT or MGT message of an endpoint arrived on (R142). -/
def noteRoute (s : State) (ep port : Nat) : State := { s with eps := s.eps.set ep { epInfo s ep with learned := some port } }

/-- Count a discarded or refused message in MSG_BAD (R115). -/
def countBad (s : State) (p : Nat) : State := modPort s p fun q => { q with msgBad := satAdd 16 q.msgBad 1 }

/-! ### SPDM messages (R449, R474, R498, R499) -/

/-- The SPDM connection with a port's link partner (R474). Connections below 2^18 are those of endpoints, others TCP connections
of the management Ethernet. -/
def linkConn (p : Nat) : Nat := 1048576 + p

def connOf (s : State) (c : Nat) : Conn := s.spdm.conns.getD c {}
def setConn (s : State) (c : Nat) (x : Conn) : State := { s with spdm := { s.spdm with conns := s.spdm.conns.set c x } }

/-- Send on a port itself, to its link partner; nothing leaves a link that is down (R103). -/
def sendHere (s : State) (p : Nat) (c : Cargo) (m : Emit) : State := if heard s p c.inKeying then sendFlit s p c m else s

/-- An SPDM message leaves: in SPDM_FRAG fragments of up to 44 bytes of one MSGSEQ to an endpoint or a link partner, whose EP is
zero, or whole on the management Ethernet (R498, R499). -/
def sendSpdm (s : State) (c : Nat) (secured : Bool) (b : List Byte) (cargo : Cargo) : State :=
  if 2 ^ 18 ≤ c ∧ c < linkConn 0 ∨ linkConn 10 ≤ c then { s with out := s.out ++ [.spdm c b] }
  else
    let x := connOf s c
    let n := max 1 (ceilDiv b.length 44)
    (List.range n).foldl (fun s i =>
      let flags := b2n (i = 0) + 2 * b2n (i + 1 = n) + 4 * b2n secured
      let d := sub b (44 * i) (min 44 (b.length - 44 * i))
      if c < 2 ^ 18 then sendMgt s c fun p => .spdmFrag p c flags x.msgSeq d
      else sendHere s (c - linkConn 0) cargo (.spdmFrag (c - linkConn 0) 0 flags x.msgSeq d))
      (setConn s c { x with msgSeq := (x.msgSeq + 1) % 65536 })

/-- Plaintext as secured application data: its length and the 24 bytes of record header, lengths and tag (PRESUMED, log 15). -/
def secured (c rec : Nat) (b : List Byte) : List Byte := (List.range (b.length + 24)).map (Config.secureByte c rec b)

/-- A message in the secured messages of a session's connection (R499). -/
def saySecured (s : State) (c : Nat) (b : List Byte) (cargo : Cargo) : State :=
  let x := connOf s c
  sendSpdm (setConn s c { x with record := x.record + 1 }) c true (secured c x.record b) cargo

/-! ### Messages to a window's owner (R479, R498, R499, R505) -/

/-- Does a path to the owner of a window exist for an ALERT or MBX_DONE? The SMBus of window 0 carries no message
(DEDUCED, log 20); a HOST window needs its endpoint's route port or that port's partner. -/
def winPathUp (s : State) (n : Nat) (w : Win) : Bool :=
  if n = 0 then false
  else match w.cls with
    | .host => (pickPort s (sendPort s w.owner) true).isSome
    | .closed => false
    | _ => true

/-- OWNER: the endpoint of a HOST window, the tenant of a TENANT window, else zero (R482). -/
def winOwner (w : Win) : Nat := match w.cls with
  | .host | .tenant => w.owner
  | _ => 0

/-- A message to a window's owner: a HOST endpoint's on its route port; an OPERATOR's or TENANT's in its session; the BMC's over
TCP port 9940 after its length, on window 1; the partner's in the PEER session of a peer port that is up (R479, R499). -/
def winSay (s : State) (n : Nat) (w : Win) (m : Emit) : State :=
  match w.cls with
  | .host => sendMgt s w.owner fun _ => m
  | .bmc => if n = 0 then s else { s with out := s.out ++ [.tcp (leBytes 2 m.message.length ++ m.message)] }
  | .peer => match pickPort s 8 false with
    | some p => saySecured s (linkConn p) m.message .peer
    | none => s
  | .closed => s
  | _ => match w.session.bind fun sid => s.spdm.sessions.get? sid with
    | some x => saySecured s x.conn m.message (.keying 0)
    | none => s

end Sys2Proof.Machine
end

