-- ==== Sys2Proof/Machine/Events.lean ====
section
/-! DEFINITION. The event catalogue of R637, the unit kinds of R636, FCI status codes (R485), the records of ports and channels (R111,
R441), and the event recorder: records, runs, buckets, triggers, snapshots and alerts (R505, R604 to R609). -/

namespace Sys2Proof.Machine

/-- The events of the catalogue (R637). -/
inductive Ev where
  | powerLoss | inputLow | railFail | fatalHold | inputStuck | inputChatter | prsntReleased | smbalertStuck
  | thermalEvent | thermalGate | thermalTrip | poolTimeFix | rootPllLoss | linkDown | laneSwap | trainFail
  | noCommonRev | laneThreshold | keyingFail | portDegraded | endpointDead | orphanWalkDone | trackerReleased | drainLate
  | flashUnitLost | driveState | journalReplayed | flashState | flashUnitRebuilt | journalReplaySkipped | journalLost | tileOverrun
  | queueError | forcedTakeover | flightReplaced | pendingDropped | dramCe | dramPoisonStored | tagMismatch | channelState
  | hallChannelMissing | repairMapFull | keyRetiredAccess | storeBareStart | restoreDropped | firmwareFallback | storeFormatDown | scanPatternBad
  | pathState | roleChange | shadowMismatch | inputChanged | unitFenced | sentinelFail | metadataUe | arrayCorrected
  | arrayPoison
  deriving DecidableEq, Repr

/-- EVENT codes (R637). -/
def evCode : Ev → Nat
  | .powerLoss => 0x0001
  | .inputLow => 0x0002
  | .railFail => 0x0003
  | .fatalHold => 0x0004
  | .inputStuck => 0x0005
  | .inputChatter => 0x0006
  | .prsntReleased => 0x0007
  | .smbalertStuck => 0x0008
  | .thermalEvent => 0x0009
  | .thermalGate => 0x000A
  | .thermalTrip => 0x000B
  | .poolTimeFix => 0x000C
  | .rootPllLoss => 0x000D
  | .linkDown => 0x1001
  | .laneSwap => 0x1002
  | .trainFail => 0x1003
  | .noCommonRev => 0x1004
  | .laneThreshold => 0x1005
  | .keyingFail => 0x1006
  | .portDegraded => 0x1007
  | .endpointDead => 0x2001
  | .orphanWalkDone => 0x2002
  | .trackerReleased => 0x2003
  | .drainLate => 0x2004
  | .flashUnitLost => 0x4001
  | .driveState => 0x4002
  | .journalReplayed => 0x4003
  | .flashState => 0x4004
  | .flashUnitRebuilt => 0x4005
  | .journalReplaySkipped => 0x4006
  | .journalLost => 0x4007
  | .tileOverrun => 0x5001
  | .queueError => 0x6001
  | .forcedTakeover => 0x7001
  | .flightReplaced => 0x7002
  | .pendingDropped => 0x7003
  | .dramCe => 0x8001
  | .dramPoisonStored => 0x8002
  | .tagMismatch => 0x8003
  | .channelState => 0x8004
  | .hallChannelMissing => 0x8005
  | .repairMapFull => 0x8006
  | .keyRetiredAccess => 0x9001
  | .storeBareStart => 0xA001
  | .restoreDropped => 0xA002
  | .firmwareFallback => 0xA003
  | .storeFormatDown => 0xA004
  | .scanPatternBad => 0xA005
  | .pathState => 0xB001
  | .roleChange => 0xB002
  | .shadowMismatch => 0xC001
  | .inputChanged => 0xC002
  | .unitFenced => 0xC003
  | .sentinelFail => 0xC004
  | .metadataUe => 0xC005
  | .arrayCorrected => 0xC006
  | .arrayPoison => 0xC007

/-- CLASS of an event: 0 CORRECTED, 1 DEFERRED, 2 CONTAINED, 3 FATAL, 4 PAIR, 5 FIRMWARE, 6 INFO (R604, R637). -/
def evClass : Ev → Nat
  | .inputLow | .smbalertStuck | .thermalEvent | .thermalGate | .poolTimeFix | .laneSwap | .laneThreshold
  | .flashUnitRebuilt | .dramCe | .arrayCorrected => 0
  | .dramPoisonStored => 1
  | .powerLoss | .railFail | .inputStuck | .inputChatter | .prsntReleased | .linkDown | .trainFail
  | .noCommonRev | .keyingFail | .portDegraded | .endpointDead | .flashUnitLost | .driveState | .flashState
  | .journalReplaySkipped | .journalLost | .queueError | .flightReplaced | .tagMismatch | .channelState | .hallChannelMissing
  | .repairMapFull | .keyRetiredAccess | .storeBareStart | .restoreDropped | .shadowMismatch | .unitFenced | .sentinelFail
  | .arrayPoison => 2
  | .fatalHold | .thermalTrip | .rootPllLoss | .metadataUe => 3
  | .pathState | .roleChange => 4
  | .firmwareFallback | .storeFormatDown | .scanPatternBad => 5
  | .orphanWalkDone | .trackerReleased | .drainLate | .journalReplayed | .tileOverrun | .forcedTakeover | .pendingDropped
  | .inputChanged => 6

/-- FCI status codes (R485). -/
def stOk : Nat := 0x00
def stBusy : Nat := 0x01
def stDenied : Nat := 0x02
def stBadArg : Nat := 0x03
def stNoSpace : Nat := 0x04
def stRevoked : Nat := 0x05
def stPoison : Nat := 0x06
def stAbortConflict : Nat := 0x07
def stAbortCapacity : Nat := 0x08
def stAbortDir : Nat := 0x09
def stAbortPoison : Nat := 0x0A
def stFault : Nat := 0x0B
def stTimeout : Nat := 0x0C
def stVersion : Nat := 0x0D
def stKeyRetired : Nat := 0x0E
def stNotActive : Nat := 0x0F
def stDraining : Nat := 0x10
def stUnsupported : Nat := 0x11

/-- SOURCE: unit kind in [15:10], instance in [9:0] (R636). -/
def srcOf (kind inst : Nat) : Nat := 1024 * kind + inst

def srcModule : Nat := srcOf 0x00 0
def srcGuard : Nat := srcOf 0x01 0
def srcPort (p : Nat) : Nat := if p < 8 then srcOf 0x02 p else srcOf 0x03 (p - 8)
def srcDrive (p : Nat) : Nat := srcOf 0x04 p
def srcChan (c : Nat) : Nat := srcOf 0x05 c
def srcSlices : Nat := srcOf 0x06 0x3FF
def srcTier : Nat := srcOf 0x07 0
def srcGallery (g : Nat) : Nat := srcOf 0x08 g
def srcCore (c : Nat) : Nat := srcOf 0x09 c
def srcQueues : Nat := srcOf 0x0A 0
def srcFlight (r : Nat) : Nat := srcOf 0x0B r
def srcFelti : Nat := srcOf 0x0C 0
def srcStore : Nat := srcOf 0x0E 0
def srcInput (i : Nat) : Nat := srcOf 0x10 i
def srcSensor (i : Nat) : Nat := srcOf 0x11 i
def srcWire : Nat := srcOf 0x12 0

/-! ### Records of ports and channels (R111, R441) -/

/-- STATE of a port (R111). -/
def portCode : PortState → Nat
  | .down => 0
  | .training => 1
  | .negotiating => 2
  | .keying => 3
  | .up => 4
  | .swapping => 5
  | .recovery => 6

/-- The 32-byte port record (R111). -/
def portRecord (p : Nat) (q : Port) : List Byte :=
  leBytes 32 (packBits [ (4, p), (3, portCode q.st), (1, b2n q.degraded), (1, b2n q.rate32), (1, b2n q.dfp1),
    (1, b2n q.spareUsed), (5, q.swappedLane), (1, b2n q.swapEn), (1, b2n q.routedAway), (14, 0), (16, q.cfg.downTmo),
    (16, q.cfg.replayTmo), (16, q.cfg.laneThr), (16, q.msgBad), (32, q.linkDowns), (32, q.replays), (32, q.budgetDeny),
    (32, q.tagFail), (32, 0) ])

/-- STATE of a channel (R441). -/
def chanStCode : ChanSt → Nat
  | .absent => 0
  | .training => 1
  | .online => 2
  | .failed => 3

/-- A temperature as a signed field of 16 bits. -/
def tempField (t : Int) : Nat := (BitVec.ofInt 16 t).toNat

/-- Bytes of a channel. -/
def chanBytes (x : Chan) : Nat := 2 ^ 30 * x.capGib

/-- The 32-byte channel record (R441). -/
def chanRecord (s : State) (c : Nat) : List Byte :=
  let x := s.dram.chans.getD c {}
  leBytes 32 (packBits [ (4, c), (2, chanStCode x.st), (1, b2n x.x4), (1, b2n x.cfg.scrubEn), (2, x.ranks), (6, 0), (16, x.rate),
    (16, s.dram.rateCap), (9, x.capGib), (7, 0), (8, x.cfg.scrubHours), (13, x.cfg.retrainMs), (11, 0), (16, tempField x.temp),
    (16, x.tagMiss), (32, x.ce), (32, x.ue), (16, x.repairs), (16, min (x.retrains / 1000) 65535),
    (32, if chanBytes x = 0 then 0 else 2 ^ 32 * x.scrubAt / chanBytes x) ])

/-! ### SMBALERT_N (R506, R603) -/

/-- SMBALERT_N follows ALERT_STATUS AND ALERT_MASK of window 0; once released it is not driven again for 10 ms (R506, R603). -/
def smbUpdate (s : State) : State :=
  match s.win.get? 0 with
  | none => s
  | some w =>
    let want := w.alertStatus &&& w.alertMask ≠ 0
    let held := match s.pwr.smbReleasedAt with
      | some t => s.now < ms 10 + t
      | none => false
    if want ∧ s.pwr.smbAlertLow = false ∧ held = false then
      { s with pwr := { s.pwr with smbAlertLow := true, smbLineSince := s.now }, out := s.out ++ [.pin 1 false] }
    else if ¬want ∧ s.pwr.smbAlertLow = true then
      { s with
        pwr := { s.pwr with smbAlertLow := false, smbReleasedAt := some s.now, smbLineSince := s.now }
        out := s.out ++ [.pin 1 true] }
    else s

/-! ### Alerts (R505) -/

/-- Which windows an event reaches: TENANT windows only when it names their tenant or one of its halls (R483). -/
def winSees (s : State) (w : Win) (tenant hall : Option Nat) : Bool :=
  match w.cls with
  | .closed => false
  | .tenant => tenant = some w.owner || (match hall with
      | some h => (s.halls.get? h).any fun x => x.tenant = w.owner
      | none => false)
  | _ => true

/-- One window's part of an alert: the status bit, then an ALERT or a coalesced count (R505). -/
def alertWin (s : State) (n : Nat) (w : Win) (cls time event cursor : Nat) : State :=
  let bit : BitVec 8 := BitVec.ofNat 8 (2 ^ cls)
  if w.alertMask &&& bit = 0 then s
  else
    let w := { w with alertStatus := w.alertStatus ||| bit }
    if w.alertEn = false then { s with win := s.win.set n w }
    else match w.gaps.find? fun g => g.cls = cls with
      | some g =>
        let g' := if g.count = 0 then { g with count := 1, time := time, event := event, cursor := cursor }
          else { g with count := g.count + 1 }
        { s with win := s.win.set n { w with gaps := w.gaps.map fun x => if x.cls = cls then g' else x } }
      | none =>
        if winPathUp s n w then
          winSay { s with win := s.win.set n { w with gaps := w.gaps ++ [{ cls := cls, since := s.now }] } } n w
            (.alert n (winOwner w) cls time 1 event cursor)
        else { s with win := s.win.set n { w with alertsDropped := satAdd 16 w.alertsDropped 1 } }

/-- An event of class CORRECTED to FIRMWARE raises its alert in every window that sees it (R505); INFO raises none. -/
def raiseAlert (s : State) (cls : Nat) (tenant hall : Option Nat) (time event cursor : Nat) : State :=
  if cls ≥ 6 then s
  else smbUpdate (s.win.foldl (fun t e =>
    match t.win.get? e.1 with
    | some w => if winSees t w tenant hall then alertWin t e.1 w cls time event cursor else t
    | none => t) s)

/-! ### Records, buckets, runs, triggers -/

/-- A source's bucket in units of 10^-8 record: 64 records, refilled at 1,024 a second (R609). -/
def bucketAt (s : State) (src : Nat) : Nat :=
  match s.evr.buckets.get? src with
  | none => 64 * sec 1
  | some (tok, t) => min (64 * sec 1) (tok + 1024 * (s.now - t))

/-- Take one record from a source's bucket. -/
def takeToken (s : State) (src : Nat) : State :=
  { s with evr := { s.evr with buckets := s.evr.buckets.set src (bucketAt s src - sec 1, s.now) } }

/-- 64-byte units of a 1 MiB segment and of the 15 MiB ring (R604, R610). -/
def segUnits : Nat := 16384
def ringUnits : Nat := 15 * segUnits

/-- Segments not yet copied that the ring overwrites by growing to `u` units (R610). -/
def segsLost (e : Recorder) (u : Nat) : Nat := ceilDiv (u - (e.segs * segUnits + ringUnits)) segUnits

/-- Append a record: it takes the next cursor (R605). FATAL records go to the fatal region, which is overwritten once a dump has
taken it (R609); the ring overwrites its oldest segment (R610). -/
def putRecord (s : State) (r : Record) : State :=
  let e := s.evr
  let r := { r with cursor := e.next, pos := e.units }
  if r.cls = 3 then
    { s with evr := { e with
      next := e.next + 1, fatal := if e.fatalTaken then [r] else e.fatal ++ [r], fatalTaken := false } }
  else
    let u := e.units + r.len
    let n := segsLost e u
    let gone := fun (x : Record) => decide (e.segs * segUnits ≤ x.pos ∧ x.pos < (e.segs + n) * segUnits)
    { s with evr := { e with
      next := e.next + 1
      units := u
      segs := e.segs + n
      lost := satAdd 16 e.lost n
      copyStalled := e.copyStalled || decide (0 < n)
      recs := (e.recs.filter fun x => !gone x) ++ [r] } }

/-- Close a run: its COALESCED record takes a token when one is there and is written in any case (R608, R609). -/
def closeRun (s : State) (r : Run) : State :=
  let s := { s with evr := { s.evr with runs := s.evr.runs.filter fun x =>
    ¬(x.event = r.event ∧ x.source = r.source ∧ x.hall = r.hall) } }
  let s := if bucketAt s r.source ≥ sec 1 then takeToken s r.source else s
  putRecord s { r.proto with time := r.lastAt, flags := 2, count := r.count, firstTime := r.firstAt, len := 1, snap := [] }

/-- Does a trigger match an event (R606)? -/
def trigMatch (t : Trigger) (ev cls src : Nat) (tenant hall : Option Nat) (addr : Nat) : Bool :=
  t.enable && t.classMask.testBit cls && (ev &&& t.eventMask) == (t.event &&& t.eventMask) &&
    (src &&& t.sourceMask) == (t.source &&& t.sourceMask) && (t.hallAny || hall == some t.hall) &&
    (t.tenantAny || tenant == some t.tenant) && decide (t.addrLo ≤ addr ∧ addr ≤ t.addrHi)

/-- Count an event against every trigger: the numbers of those that fire on it, and the state with their match times and
ONCE applied (R606, R607). -/
def runTriggers (s : State) (ev cls src : Nat) (tenant hall : Option Nat) (addr : Nat) : State × List Trigger :=
  s.evr.triggers.foldl (fun (acc : State × List Trigger) e =>
    let (s, fired) := acc
    if trigMatch e.2 ev cls src tenant hall addr then
      let old := s.evr.matches_.getD e.1 []
      let recent := if e.2.window = 0 then old else old.filter fun t => s.now ≤ us e.2.window + t
      let times := recent ++ [s.now]
      if e.2.threshold ≤ times.length then
        let trigs := if e.2.once then s.evr.triggers.set e.1 { e.2 with enable := false } else s.evr.triggers
        ({ s with evr := { s.evr with matches_ := s.evr.matches_.set e.1 [], triggers := trigs } }, fired ++ [e.2])
      else ({ s with evr := { s.evr with matches_ := s.evr.matches_.set e.1 times } }, fired)
    else (s, fired)) (s, [])

/-- The SNAP_SET state of a trigger, its parts in the order of their bits, cut at 65,472 bytes (R606, R607; DESIGN CHOICE, log 21): the
record of a port or channel that is the source is that of R111 or R441; of the other parts no rule gives the layout. -/
def snapBytes (s : State) (r : Record) (set : Nat) : List Byte :=
  let unit := r.source % 1024
  let part := fun (i : Nat) =>
    if i ≠ 0 then Config.snapPart i s.evr.next
    else if r.source / 1024 = 0x02 ∧ unit < 8 then portRecord unit (s.ports.getD unit {})
    else if r.source / 1024 = 0x03 ∧ unit < 2 then portRecord (8 + unit) (s.ports.getD (8 + unit) {})
    else if r.source / 1024 = 0x05 ∧ unit < 16 then chanRecord s unit
    else Config.snapPart 0 s.evr.next
  (((List.range 5).filter fun i => set.testBit i).flatMap part).take 65472

/-- Write an event's single record, marked and with its snapshot when triggers fire on it (R607). -/
def writeSingle (s : State) (r : Record) (fired : List Trigger) : State :=
  let flags := if fired.isEmpty then 0 else 8
  let want := fired.any fun t => t.snapshot
  let lately := s.evr.snaps.filter fun t => s.now < sec 1 + t
  if want = false then putRecord s { r with flags := flags }
  else if lately.length < 16 then
    let set := fired.foldl (fun a t => if t.snapshot then a ||| t.snapSet else a) 0
    let snap := snapBytes s r set
    let s := { s with evr := { s.evr with snaps := lately ++ [s.now] } }
    putRecord s { r with flags := flags + 1, snap := snap, len := 1 + ceilDiv snap.length 64 }
  else
    putRecord { s with evr := { s.evr with snapDropped := satAdd 16 s.evr.snapDropped 1 } } { r with flags := flags }

/-! ### Events -/

/-- Is a run one of the event's kind, source and hall (R608)? -/
def sameRun (r : Record) (x : Run) : Bool := decide (x.event = r.event ∧ x.source = r.source ∧ x.hall = r.hall)

/-- Close the event's run when it is over: 1 ms without a repeat, or 1 s old (R608). -/
def closeOver (s : State) (r : Record) : State :=
  match s.evr.runs.find? fun x => sameRun r x && decide (ms 1 + x.lastAt < s.now ∨ sec 1 + x.openedAt < s.now) with
  | some run => closeRun s run
  | none => s

/-- Note the last occurrence of an event's kind, source and hall, with the cursor of its single record. -/
def noteOcc (s : State) (r : Record) (first : Nat) : State :=
  { s with evr := { s.evr with lastOcc :=
      (s.evr.lastOcc.filter fun o => ¬(o.1 = r.event ∧ o.2.1 = r.source ∧ o.2.2.1 = r.hall)) ++
        [(r.event, r.source, r.hall, s.now, first)] } }

/-- The cursor of the single record before, when the event comes within 1 ms of it and a run may open (R608). -/
def runFirst (s : State) (r : Record) : Option Nat :=
  (s.evr.lastOcc.find? fun o => o.1 = r.event ∧ o.2.1 = r.source ∧ o.2.2.1 = r.hall).bind fun o =>
    if s.now ≤ ms 1 + o.2.2.2.1 ∧ s.evr.runs.length < 256 then some o.2.2.2.2 else none

/-- An event that a run counts is coalesced (R608). -/
def coalesce (s : State) (r : Record) (first : Nat) (runs : List Run) : State :=
  let s := noteOcc s r first
  { s with evr := { s.evr with runs := runs, coalesced := satAdd 32 s.evr.coalesced 1 } }

/-- Record an event: a FATAL one at once, another in its run, in a new run, as a single record, or dropped without a token (R607
to R609). The cursor its alert names. -/
def logEvent (s : State) (r : Record) (fired : List Trigger) : State × Nat :=
  if r.cls = 3 then (writeSingle s r fired, s.evr.next)
  else
    let s := closeOver s r
    match s.evr.runs.find? (sameRun r) with
    | some run =>
      (coalesce s r run.first (s.evr.runs.map fun x => if sameRun r x then { run with lastAt := s.now, count := run.count + 1 } else x),
        run.first)
    | none => match runFirst s r with
      | some first =>
        (coalesce s r first (s.evr.runs ++ [{ event := r.event, source := r.source, hall := r.hall, cls := r.cls, first := first
                                              openedAt := s.now, lastAt := s.now, firstAt := s.now, count := 1, proto := r }]), first)
      | none =>
        if bucketAt s r.source < sec 1 then
          ({ s with evr := { s.evr with drops := s.evr.drops.set r.cls (satAdd 32 (s.evr.drops.getD r.cls 0) 1) } }, 2 ^ 64 - 1)
        else (writeSingle (noteOcc (takeToken s r.source) r s.evr.next) r fired, s.evr.next)

/-- The alerts of an event, and the alert that a fired trigger with ALERT adds (R505, R606). -/
def alertEvent (s : State) (r : Record) (fired : List Trigger) (cursor : Nat) : State :=
  let t := raiseAlert s r.cls r.tenant r.hall s.now r.event cursor
  if fired.any (fun t => t.alert) && r.cls ≠ 2 then raiseAlert t 2 r.tenant r.hall t.now r.event cursor else t

/-- While the console is locked the UART carries the start-up log and event summaries; their text is not stated (R621, log 92). -/
def uartSay (s : State) (kind value source : Nat) : State :=
  if s.pwr.consoleUntil.isSome then s else { s with out := s.out ++ [.uart kind value source] }

/-- Raise an event: triggers, coalescing, the source's bucket, the record and the alerts (R505, R604 to R609). -/
def event (s : State) (e : Ev) (src : Nat) (tenant hall : Option Nat) (addr : Nat) (detail : List (Nat × Nat × Nat)) :
    State :=
  let r : Record :=
    { cursor := 0, time := s.now, event := evCode e, cls := evClass e, source := src, tenant := tenant, hall := hall
      firstTime := s.now, addr := addr, detail := detail }
  let t := runTriggers s r.event r.cls src tenant hall addr
  let l := logEvent { t.1 with free := t.1.free + 1 } r t.2
  uartSay (alertEvent l.1 r t.2 l.2) 1 r.event src

end Sys2Proof.Machine
end

