-- ==== Sys2Proof/Machine/Ops.lean ====
section
/-! DEFINITION. The named operations over the state: sending on a port (R72, R73, R89), halls and addresses (R15, R30, R43,
R415), key slots (R454), channels and stored granules (R411 to R429), window completion (R489), commits to the retained store
(R494, R544). -/

namespace Sys2Proof.Machine

/-- The model's counter of free values steps on (log 12). -/
def State.tickFree (s : State) : State := { s with free := s.free + 1 }

/-- The current home epoch, held in the guard die (R556). -/
abbrev State.homeEpoch (s : State) : Nat := s.pair.homeEpoch

/-! ### Halls and addresses -/

/-- Hall 4095 (R60). -/
def hall4095 : Hall :=
  { tenant := 0, cls := .persistent, tierBlock := 2, grain := 2, chMask := 0xFFFF, base := 0x3FFFC0, size := 64, quota := 1 }

/-- The hall with an ID, hall 4095 included. -/
def hallOf (s : State) (h : Nat) : Option Hall := if h = 4095 then some hall4095 else s.halls.get? h

/-- Bytes of a grain and of a tier block (hall descriptor, R205). -/
def grainBytes (h : Hall) : Nat := if h.grain = 0 then 256 else if h.grain = 1 then 4096 else 65536
def blockBytes (h : Hall) : Nat := if h.tierBlock = 0 then 4096 else if h.tierBlock = 1 then 16384 else 65536

/-- PPA of an offset (R30), and the pool line number PPA[51:6]. -/
def ppaOf (h : Hall) (off : Nat) : Nat := 2 ^ 30 * h.base + off
def lineOf (h : Hall) (off : Nat) : Nat := ppaOf h off / 64

/-- The logical home slice of a line number: the XOR of eight fields (R15). -/
def homeSlice (l : Nat) : Nat :=
  (((((((bits l 0 6).xor (bits l 6 6)).xor (bits l 12 6)).xor (bits l 18 6)).xor (bits l 24 6)).xor (bits l 30 6)).xor
    (bits l 36 6)).xor (bits l 42 4)

/-- The directory set of a line within the directory: its slice and L[45:6] mod 786,432 (R125). -/
def dirSet (l : Nat) : Nat × Nat := (homeSlice l, bits l 6 40 % 786432)

/-- The hall whose range holds a PPA (R32). -/
def hallAt (s : State) (ppa : Nat) : Option (Nat × Hall) :=
  s.halls.find? fun e => decide (2 ^ 30 * e.2.base ≤ ppa ∧ ppa < 2 ^ 30 * (e.2.base + e.2.size))

/-- Channels of a hall, lowest first, and their number n (R43). -/
def hallChans (h : Hall) : List Nat := setBits 16 h.chMask

/-- The channel of an offset (R43). -/
def chanOf (h : Hall) (x : Nat) : Nat :=
  let cs := hallChans h
  (cs[x / grainBytes h % cs.length]?).getD 0

/-- The channel-local offset of an offset (R415). -/
def localOff (h : Hall) (x : Nat) : Nat :=
  let g := grainBytes h
  x / (g * (hallChans h).length) * g + x % g

/-- Bytes of a block's slot on one channel (R415). -/
def slotBytes (h : Hall) : Nat := max (blockBytes h / (hallChans h).length) (min (grainBytes h) (blockBytes h))

/-- Key of a tier block in the block table. -/
def blkKey (hid b : Nat) : Nat := 2 ^ 32 * hid + b

def blockOf (s : State) (hid b : Nat) : Option Block := s.tier.blocks.get? (blkKey hid b)

/-- A landed block (R207): every state but LANDING. -/
def landed (b : Block) : Bool := b.st ≠ .landing

/-- May an access to this offset be served now: a RESIDENT hall, or a landed block (R206)? -/
def isLanded (s : State) (hid : Nat) (h : Hall) (x : Nat) : Bool :=
  match h.cls with
  | .resident => true
  | _ => match blockOf s hid (x / blockBytes h) with
    | some b => landed b
    | none => false

/-- Channel and channel address of the line at an offset (R415); none when its block holds no slot there. -/
def locate (s : State) (hid : Nat) (h : Hall) (x : Nat) : Option (Nat × Nat) :=
  let c := chanOf h x
  let l := localOff h x
  match h.cls with
  | .resident =>
    match ((h.extents.filter fun e => e.1 = c)[l / 2 ^ 30]?) with
    | some e => some (c, 2 ^ 30 * e.2 + l % 2 ^ 30)
    | none => none
  | _ => match blockOf s hid (x / blockBytes h) with
    | some b => match b.slots.find? fun e => e.1 = c with
      | some e => some (c, e.2 + l % slotBytes h)
      | none => none
    | none => none

/-! ### Key slots (R452, R454) -/

def tenantSlot (t : Tenant) (gen : Nat) : KeySlot := if gen = 0 then t.slot0 else t.slot1
def setSlot (t : Tenant) (gen : Nat) (k : KeySlot) : Tenant := if gen = 0 then { t with slot0 := k } else { t with slot1 := k }

/-- The key slot a hall's new writes use: that of its tenant's CUR; hall 4095 uses the storage key, which never retires. -/
def curSlot (s : State) (hid : Nat) (h : Hall) : KeySlot :=
  if hid = 4095 then { st := .active, key := 0 }
  else match s.ten.recs.get? h.tenant with
    | some t => tenantSlot t t.cur
    | none => {}

def curGen (s : State) (hid : Nat) (h : Hall) : Nat :=
  if hid = 4095 then 0 else match s.ten.recs.get? h.tenant with
    | some t => t.cur
    | none => 0

/-- The slot of one generation of a hall's tenant. -/
def genSlot (s : State) (hid : Nat) (h : Hall) (g : Nat) : KeySlot :=
  if hid = 4095 then { st := .active, key := 0 }
  else match s.ten.recs.get? h.tenant with
    | some t => tenantSlot t g
    | none => {}

/-- A slot whose key is loaded: ACTIVE, or DRAINING until it is zeroised (R454). -/
def slotLoaded (k : KeySlot) : Bool := k.st = .active || k.st = .draining

/-! ### Stored granules -/

/-- The all-zero codeword (R413). -/
def zeroGranule : Granule := {}

/-- Key of a granule in the DRAM table. -/
def granKey (c ca : Nat) : Nat := 2 ^ 34 * c + ca / 16

def granAt (s : State) (c ca : Nat) : Granule := s.dram.mem.getD (granKey c ca) zeroGranule

def putGran (s : State) (c ca : Nat) (g : Granule) : State :=
  { s with dram := { s.dram with mem := s.dram.mem.put (granKey c ca) g zeroGranule } }

def chanOf? (s : State) (c : Nat) : Option Chan := s.dram.chans.get? c
def chanOnline (s : State) (c : Nat) : Bool := match s.dram.chans.get? c with
  | some x => x.st = .online
  | none => false
def modChan (s : State) (c : Nat) (f : Chan → Chan) : State :=
  { s with dram := { s.dram with chans := s.dram.chans.modify c f } }

/-- Device groups an error mask touches in one granule: DQ groups 0 to 7, then CB0-CB3 and CB4-CB7 (R411, R432). -/
def errGroups (e : BitVec 160) : List Nat :=
  if e = 0 then [] else (List.range 10).filter fun g =>
    (List.range 160).any fun i => e.getLsbD i &&
      (if i < 128 then decide (i % 32 / 4 = g) else decide (8 + (i - 128) % 8 / 4 = g))

/-- Bits set in an error mask. -/
def errBits (e : BitVec 160) : List Nat := if e = 0 then [] else (List.range 160).filter fun i => e.getLsbD i

/-- How a decode ends: clean, corrected at a place, uncorrectable; beyond the code's guarantee also wrong, with the place it
names, or none when it is delivered as clean (R417, R420, log 13). -/
inductive Decode where
  | clean
  | corrected (place : Nat)
  | uncorrectable
  | wrong (place : Option Nat)
  deriving DecidableEq, Repr

/-- Outcome of an error beyond the guarantee: a free value chooses (R417, R420). -/
def decodeBeyond (s : State) (n : Nat) : Decode :=
  match Config.beyondCode s.free % 3 with
  | 0 => .uncorrectable
  | 1 => .wrong (some (Config.beyondCode (s.free + 1) % n))
  | _ => .wrong none

/-- Decode a STRONG pair whose granules' masks are given, lower line first (R417). -/
def decodePair (s : State) (errs : List (BitVec 160)) : Decode :=
  let gs := ((List.range errs.length).flatMap fun i => (errGroups ((errs[i]?).getD 0)).map fun g => 10 * (i / 4) + g).eraseDups
  match gs with
  | [] => .clean
  | [g] => .corrected g
  | [_, _] => .uncorrectable
  | _ => decodeBeyond s 20

/-- Decode a LIGHT granule (R420). -/
def decodeLight (s : State) (e : BitVec 160) : Decode :=
  match errBits e with
  | [] => .clean
  | [b] => .corrected b
  | [_, _] => .uncorrectable
  | _ => decodeBeyond s 160

/-- Row, rank, bank group, bank and column of a channel address (R414). -/
def dramFields (x4 : Bool) (ranks ca : Nat) : Nat × Nat × Nat × Nat × Nat :=
  let lo := if x4 then 14 else 13
  let col := bits ca 7 (lo - 7)
  let rankBits := if ranks = 2 then 1 else 0
  let row := ca / 2 ^ (lo + 5 + rankBits)
  let rank := if ranks = 2 then bits ca (lo + 5) 1 else 0
  let bank := (bits ca lo 2).xor (row % 4)
  let bg := (bits ca (lo + 2) 3).xor (bits row 2 3)
  (rank, bg, bank, row, col)

/-- The DRAM location layout of DETAIL (R637). -/
def dramDetail (s : State) (c ca mask group : Nat) : List (Nat × Nat × Nat) :=
  let x := s.dram.chans.getD c {}
  let (rank, bg, bank, row, col) := dramFields x.x4 x.ranks ca
  [(0, 1, rank), (1, 1, bg), (2, 1, bank), (3, 1, mask), (4, 4, row), (8, 2, col), (10, 1, group)]

/-- A row of a channel: row, rank, bank group and bank as one number (R414, R434). -/
def rowKey (x4 : Bool) (ranks ca : Nat) : Nat :=
  let (rank, bg, bank, row, _) := dramFields x4 ranks ca
  row * 64 + rank * 32 + bg * 4 + bank

/-- The device a correction is attributed to: numbered over both subchannels by device groups, two to a device on x8 (R411,
R432, R434). A LIGHT correction names a bit of a granule on the line's own subchannel. -/
def deviceOf (x4 light : Bool) (ca place : Nat) : Nat :=
  let g := if light then 10 * bits ca 6 1 + (if place < 128 then place % 32 / 4 else 8 + (place - 128) % 8 / 4) else place
  if x4 then g else g / 10 * 5 + g % 10 / 2

/-- Entry of the pending rewrites: the pair of STRONG at a channel address, or the granule of LIGHT. -/
def pendKey (ca : Nat) (light : Bool) : Nat := 2 * ca + b2n light

/-- Queue a rewrite at a decode that found an error, counted and recorded once while it stays pending; with 64 pending it is
counted and recorded but not queued (R428, R429). The rewrite waits for its grant under S5. -/
def noteError (s : State) (c ca : Nat) (light : Bool) (mask place : Nat) (poison : Bool) (hall tenant : Option Nat) : State :=
  let x := s.dram.chans.getD c {}
  let key := pendKey ca light
  let row := rowKey x.x4 x.ranks ca
  if x.pend.contains key then s
  else
    let s := modChan s c fun x => { x with
      ce := if poison then x.ce else satAdd 32 x.ce 1
      ue := if poison then satAdd 32 x.ue 1 else x.ue
      rowCe := if poison then x.rowCe else
        (x.rowCe.filter fun e => s.now < sec 86400 + e.2.2) ++ [(row, deviceOf x.x4 light ca place, s.now)]
      rowUe := if poison ∧ x.rowUe.contains row = false then x.rowUe ++ [row] else x.rowUe
      pend := if x.pend.length < 64 then x.pend ++ [key] else x.pend }
    let s := if x.pend.length < 64 then
        { s with flt := s.flt.modify (8 + c) fun q => { q with
          wait := q.wait ++ [{ sub := sysSub, svc := 5, bytes := if light then 64 else 128, at_ := s.now, addr := key, rewrite := true }] } }
      else s
    event s (if poison then .dramPoisonStored else .dramCe) (srcChan c) tenant hall ca (dramDetail s c ca mask (if light then 0xFF else place))

/-- A granule stored as poison (R425): zero data, POISON and WRITTEN set, the hall's GEN and, under LIGHT, its tag. -/
def poisonGranule (s : State) (hid : Nat) (h : Hall) : Granule :=
  { data := 0, poison := true, written := true, gen := curGen s hid h, tag := if h.light then h.tenant else 0
    key := (curSlot s hid h).key }

/-- A granule as a decode beyond the code's guarantee leaves it: its data and side fields are free (log 13). -/
def wrongGran (s : State) (i : Nat) (g : Granule) : Granule :=
  let n := 8 * s.free + i
  { g with
    data := Config.beyondData n
    poison := decide (Config.freeChoice (4 * n) % 2 = 1)
    written := decide (Config.freeChoice (4 * n + 1) % 2 = 1)
    gen := Config.freeChoice (4 * n + 2) % 2
    tag := Config.freeChoice (4 * n + 3) % 4096 }

/-- Does an unwritten granule of this line read as poison: the hall is marked POISONED (R575)? -/
def unwrittenPoison (h : Hall) : Bool := h.poisoned

/-- In a POISONED hall, a line the clear has not reached and nothing has written since the takeover counts as cleared
(R575). -/
def countsCleared (h : Hall) (hl : Nat) : Bool := h.poisoned && decide (h.clearPos ≤ hl) && !h.written.contains hl

/-- A granule as its line's rules see it. -/
def seenGran (s : State) (h : Hall) (hl c ca : Nat) : Granule :=
  if countsCleared h hl then zeroGranule else granAt s c ca

/-- What a decoded granule delivers: zero or poison when unwritten; poison when POISON, a tag mismatch (R39) or a retired key
(R469) says so; else its data. The second part says whether the tag differed, the third whether the key was missing. -/
def deliver (s : State) (hid : Nat) (h : Hall) (g : Granule) : (BitVec 128 × Bool) × Bool × Bool :=
  if g.written = false then ((0, unwrittenPoison h), false, false)
  else if h.light && g.tag ≠ h.tenant then ((0, true), true, false)
  else if g.poison then ((0, true), false, false)
  else
    let k := genSlot s hid h g.gen
    if slotLoaded k = false then ((0, true), false, true)
    else if k.key ≠ g.key then ((Config.beyondData (s.free + g.key + k.key), false), false, false)
    else ((g.data, false), false, false)

/-- Join four granules into a line with its poison mask; poisoned granules carry zero (R147, R426). -/
def joinLine (gs : List (BitVec 128 × Bool)) : LineData :=
  gs.foldr (fun g acc => { data := acc.data <<< 128 ||| (if g.2 then 0 else g.1.setWidth 512)
                           poison := (acc.poison <<< 1) ||| (BitVec.ofBool g.2).setWidth 4 }) {}

/-- Granule `i` of a line. -/
def granOf (d : Line) (i : Nat) : BitVec 128 := (d >>> (128 * i)).setWidth 128

/-- All poison: what a line on an ABSENT or FAILED channel delivers (R404). -/
def allPoison : LineData := { data := 0, poison := 0xF }

/-- What the decode of a LIGHT line's granules found is counted and recorded (R420, R425, R429). -/
def noteLight (s : State) (hid : Nat) (h : Hall) (c ca : Nat) (outs : Nat → Decode) : State :=
  (List.range 4).foldl (fun s i => match outs i with
    | .corrected b | .wrong (some b) => noteError s c (ca + 16 * i) true (2 ^ i) b false (some hid) (some h.tenant)
    | .uncorrectable => noteError s c (ca + 16 * i) true (2 ^ i) 0xFF true (some hid) (some h.tenant)
    | _ => s) s

/-- What the decode of a STRONG pair found is counted and recorded (R417, R425, R429). -/
def notePair (s : State) (hid : Nat) (h : Hall) (c base : Nat) (gs : Nat → Granule) (out : Decode) : State :=
  match out with
  | .corrected g =>
    noteError s c base false (sumNat ((List.range 8).map fun i => if (gs i).err = 0 then 0 else 2 ^ i)) g false (some hid)
      (some h.tenant)
  | .uncorrectable => noteError s c base false 255 0xFF true (some hid) (some h.tenant)
  | .wrong (some g) => noteError s c base false 255 g false (some hid) (some h.tenant)
  | _ => s

/-- Granule `i` as a decode leaves it: poison when uncorrectable (R425), free beyond the guarantee (log 13), else corrected. -/
def decoded (s : State) (hid : Nat) (h : Hall) (out : Decode) (i : Nat) (g : Granule) : Granule :=
  match out with
  | .uncorrectable => poisonGranule s hid h
  | .wrong _ => { wrongGran s i g with err := 0 }
  | _ => { g with err := 0 }

/-- What the granules of a line that an access looks at show: a tag that differs and a key that is gone are recorded (R39, R469). -/
def noteSeen (s : State) (hid : Nat) (h : Hall) (x c ca : Nat) (gs : Nat → Granule) (used : Nat → Bool) : State :=
  let ds := (List.range 4).map fun i => if used i then deliver s hid h (gs i) else ((0, false), false, false)
  let s := if ds.any (fun d => d.2.1) then
      let s := modChan s c fun y => { y with tagMiss := satAdd 16 y.tagMiss 1 }
      let i := (ds.findIdx? fun d => d.2.1).getD 0
      event s .tagMismatch (srcChan c) (some h.tenant) (some hid) (ppaOf h x) [(0, 2, (gs i).tag), (2, 1, i), (8, 8, ca)]
    else s
  if ds.any (fun d => d.2.2) then
    event s .keyRetiredAccess (srcChan c) (some h.tenant) (some hid) (ppaOf h x) [(0, 1, 0)]
  else s

/-- The four granules of a line delivered (R39, R426, R469). -/
def deliverLine (s : State) (hid : Nat) (h : Hall) (x c ca : Nat) (gs : Nat → Granule) : State × LineData :=
  ((noteSeen s hid h x c ca gs fun _ => true).tickFree, joinLine ((List.range 4).map fun i => (deliver s hid h (gs i)).1))

/-- The granules of a STRONG line's pair, the lower line first. -/
def pairGran (s : State) (h : Hall) (x c ca : Nat) (i : Nat) : Granule :=
  seenGran s h (x / 128 * 2 + i / 4) c (ca / 128 * 128 + 16 * i)

/-- Where in its pair a STRONG line begins. -/
def pairAt (ca : Nat) : Nat := if ca % 128 = 0 then 0 else 4

/-- Read a line of a LIGHT hall from its channel (R419, R420). -/
def readLight (s : State) (hid : Nat) (h : Hall) (x c ca : Nat) : State × LineData :=
  let gs := fun i => seenGran s h (x / 64) c (ca + 16 * i)
  let outs := fun i => decodeLight s (gs i).err
  let s := noteLight s hid h c ca outs
  deliverLine s hid h x c ca fun i => decoded s hid h (outs i) i (gs i)

/-- Read a line of a STRONG hall, with its pair, from its channel (R416, R417). -/
def readPair (s : State) (hid : Nat) (h : Hall) (x c ca : Nat) : State × LineData :=
  let gs := pairGran s h x c ca
  let out := decodePair s ((List.range 8).map fun i => (gs i).err)
  let s := notePair s hid h c (ca / 128 * 128) gs out
  deliverLine s hid h x c ca fun i => decoded s hid h out (pairAt ca + i) (gs (pairAt ca + i))

/-- Read the line at an offset whose block is landed: decode, correction or poison, tag check, decryption (R39, R404, R417,
R420, R421, R425, R428, R469). -/
def readLine (s : State) (hid : Nat) (h : Hall) (x : Nat) : State × LineData :=
  let x := x / 64 * 64
  match locate s hid h x with
  | none => (s, allPoison)
  | some (c, ca) =>
    if chanOnline s c = false then (s, allPoison)
    else if h.light then readLight s hid h x c ca
    else readPair s hid h x c ca

/-- The bytes of granule `i` that a write names. -/
def granMask (mask : BitVec 64) (i : Nat) : BitVec 16 := (mask >>> (16 * i)).setWidth 16

/-- Does a write replace granule `i` whatever it held: all 16 bytes, or its mask bit set (R149)? -/
def granWhole (d : LineData) (mask : BitVec 64) (i : Nat) : Bool := d.poison.getLsbD i || granMask mask i = 0xFFFF

/-- Does a write merge with what granule `i` held (R421)? -/
def granPart (d : LineData) (mask : BitVec 64) (i : Nat) : Bool := !granWhole d mask i && granMask mask i ≠ 0

/-- The granule that a write of `d` under a byte mask stores over what was there (R149, R421, R426): a granule whose mask bit
is set is stored as poison; all 16 bytes written stores the new data; a part merges, and leaves a poisoned granule poisoned. -/
def mergeGran (s : State) (hid : Nat) (h : Hall) (old : Granule) (d : LineData) (mask : BitVec 64) (i : Nat) : Granule :=
  let m := granMask mask i
  if d.poison.getLsbD i then poisonGranule s hid h
  else if m = 0 then old
  else
    let new := granOf d.data i
    let bitsMask : BitVec 128 := (List.range 16).foldl (fun a b =>
      if m.getLsbD b then a ||| ((0xFF : BitVec 128) <<< (8 * b)) else a) 0
    let was := (deliver s hid h old).1
    let full := m = 0xFFFF
    if !full && was.2 then poisonGranule s hid h
    else
      { data := if full then new else (new &&& bitsMask) ||| (was.1 &&& ~~~bitsMask)
        poison := false, written := true, gen := curGen s hid h
        tag := if h.light then h.tenant else 0, key := (curSlot s hid h).key }

/-- A tiered block takes a write: CLEAN becomes DIRTY, FLUSHING sets REDIRTY, EVICTING is cancelled (R207, R208, R209). -/
def dirtyBlock (s : State) (hid : Nat) (h : Hall) (x : Nat) : State :=
  match h.cls with
  | .resident => s
  | _ =>
    let k := blkKey hid (x / blockBytes h)
    let tmo := sec ((s.tier.halls.getD hid {}).maxDirty)
    { s with tier := { s.tier with blocks := s.tier.blocks.modify k fun b =>
      match b.st with
      | .clean | .evicting false => { b with st := .dirty, dirtyAt := s.now, maxDirty := tmo }
      | .evicting true => { b with st := .dirty }
      | .flushing => { b with redirty := true }
      | _ => b } }

/-- An access to a landed block counts one heat, engine accesses only with ENGINE_HEAT, and cancels an eviction (R209,
R219). -/
def touchBlock (s : State) (hid : Nat) (h : Hall) (x : Nat) (engine : Bool) : State :=
  match h.cls with
  | .resident => s
  | _ =>
    let add := if engine && !(s.tier.halls.getD hid {}).engineHeat then 0 else 1
    { s with tier := { s.tier with blocks := s.tier.blocks.modify (blkKey hid (x / blockBytes h)) fun b =>
      let b := { b with heat := satAdd 8 b.heat add }
      match b.st with
      | .evicting d => { b with st := if d then .dirty else .clean }
      | _ => b } }

/-- Note a line written since the takeover ahead of the clear of a POISONED hall (R575). -/
def noteWritten (s : State) (hid : Nat) (h : Hall) (hl : Nat) : State :=
  if countsCleared h hl then
    { s with halls := s.halls.modify hid fun y => { y with written := y.written ++ [hl] } }
  else s

/-- Store granules from a channel address on: those of the first `n` that `p` names. -/
def storeGrans (s : State) (c b n : Nat) (p : Nat → Bool) (f : Nat → Granule) : State :=
  (List.range n).foldl (fun s i => if p i then putGran s c (b + 16 * i) (f i) else s) s

/-- Write a line of a LIGHT hall to its channel. The line is read, and what its decode finds counted, unless every granule is
replaced (R419, R429), and a granule it merges with has its tag compared (R39); the write cancels the pending rewrites of the line
(R429). -/
def writeLight (s : State) (hid : Nat) (h : Hall) (x c ca : Nat) (d : LineData) (mask : BitVec 64) : State :=
  let gs := fun i => seenGran s h (x / 64) c (ca + 16 * i)
  let outs := fun i => decodeLight s (gs i).err
  let s := if (List.range 4).all (granWhole d mask) then s else noteLight s hid h c ca outs
  let old := fun i => decoded s hid h (outs i) i (gs i)
  let s := noteSeen s hid h x c ca old (granPart d mask)
  let s := storeGrans s c ca 4 (fun _ => true) fun i => mergeGran s hid h (old i) d mask i
  modChan s c fun y => { y with pend := y.pend.filter fun a => ¬(a % 2 = 1 ∧ ca ≤ a / 2 ∧ a / 2 < ca + 64) }

/-- Write a line of a STRONG hall: its pair is read, the line merged and the pair written (R418). The other line's cells
change only when the decode fixed the pair; the write cancels the pair's pending rewrite (R429). -/
def writePair (s : State) (hid : Nat) (h : Hall) (x c ca : Nat) (d : LineData) (mask : BitVec 64) : State :=
  let gs := pairGran s h x c ca
  let out := decodePair s ((List.range 8).map fun i => (gs i).err)
  let base := ca / 128 * 128
  let mine := fun i => decide (pairAt ca ≤ i ∧ i < pairAt ca + 4)
  let s := notePair s hid h c base gs out
  let s := noteSeen s hid h x c ca (fun i => decoded s hid h out (pairAt ca + i) (gs (pairAt ca + i))) (granPart d mask)
  let s := storeGrans s c base 8 (fun i => mine i || decide (out ≠ .clean)) fun i =>
    let g := decoded s hid h out i (gs i)
    if mine i then mergeGran s hid h g d mask (i - pairAt ca) else g
  modChan s c fun y => { y with pend := y.pend.filter fun a => a ≠ pendKey base false }

/-- Write a line at an offset whose block is landed, under a byte mask: the code's read-modify-write, encryption under the
current slot, and the answer the write gets (R38, R404, R418, R469). -/
def writeLine (s : State) (hid : Nat) (h : Hall) (x : Nat) (d : LineData) (mask : BitVec 64) : State × CmpCode :=
  let x := x / 64 * 64
  match locate s hid h x with
  | none => (s, .poison)
  | some (c, ca) =>
    if chanOnline s c = false then (s, .poison)
    else if slotLoaded (curSlot s hid h) = false then
      (event s .keyRetiredAccess (srcChan c) (some h.tenant) (some hid) (ppaOf h x) [(0, 1, 3)], .revoked)
    else
      let s := dirtyBlock s hid h x
      let s := if h.light then writeLight s hid h x c ca d mask else writePair s hid h x c ca d mask
      (noteWritten s.tickFree hid h (x / 64), .ok)

/-- Mark all four granules of a line as poison (R155). -/
def poisonLine (s : State) (hid : Nat) (h : Hall) (x : Nat) : State :=
  (writeLine s hid h x { data := 0, poison := 0xF } (BitVec.allOnes 64)).1

/-- The bytes of all of a channel's stored range set to the all-zero codeword (R422). -/
def clearRange (s : State) (c lo hi : Nat) : State :=
  { s with dram := { s.dram with mem := s.dram.mem.clear (granKey c lo) (granKey c hi) } }

/-! ### Window completion (R489) -/

/-- An MBX_DONE to a window's owner. -/
def mbxDone (s : State) (n : Nat) (w : Win) (status resLen : Nat) : State :=
  if w.notify && winPathUp s n w then winSay s n w (.mbxDone n (winOwner w) w.lastCseq status resLen) else s

/-- Complete the command of a window: STATUS, RES_LEN, DETAIL, DONE_TIME and the results written, BUSY cleared, MBX_DONE sent
when NOTIFY is set (R484, R487, R489). A window that has closed meanwhile takes no result (R480); with the management cores stopped no
command ends (R27). -/
def finishCmd (s : State) (n status detail : Nat) (result : List Byte) : State :=
  match (if s.pwr.feltiOn then s.win.get? n else none) with
  | none => s
  | some w =>
    let res := if status = stOk then result else []
    let m := wrBytes w.mem 0x43 (leBytes 1 status)
    let m := wrBytes m 0x4C (leBytes 4 res.length)
    let m := wrBytes m 0x58 (leBytes 8 s.now)
    let m := wrBytes m 0x60 (leBytes 4 detail)
    let m := wrBytes m 0x1000 res
    if w.cls = .closed then { s with win := s.win.erase n }
    else mbxDone { s with win := s.win.set n { w with mem := m, busy := false, cmd := none } } n w status res.length

/-- Close a window: it is free again, once a command still running in it has ended (R479, R480). -/
def closeWin (s : State) (n : Nat) : State :=
  match s.win.get? n with
  | none => s
  | some w =>
    if w.cmd.isSome then { s with win := s.win.set n { w with cls := .closed, notify := false } }
    else { s with win := s.win.erase n }

/-! ### The retained store (R494, R543 to R546) -/

/-- An access-list entry as a commit records it: of its budget the retained store holds BUDGET only (R110, R546). -/
def retainedAcl (e : AclEntry) : AclEntry := { e with inForce := e.budget, notice := none }

/-- The retained part of the state, as a commit records it (R546). -/
def retainedOf (s : State) : Retained :=
  { pair :=
      { s.pair.cfg with
        ageLimit := s.welt.ageLimit
        poolTimeSaved := s.now
        number := (s.pair.next.map fun n => n.1).getD s.pair.cfg.number
        side := (s.pair.next.map fun n => n.2.1).getD s.pair.cfg.side
        partnerId := (s.pair.next.map fun n => n.2.2).getD s.pair.cfg.partnerId }
    opAnchors := s.trust.op
    linkAnchors := s.trust.link
    bmcKey := s.trust.bmcKey
    halls := s.halls
    acl := s.acl.map fun e => (e.1, retainedAcl e.2)
    tenants := s.ten.recs.map fun e => (e.1,
      { e.2 with
        slot0 := { e.2.slot0 with key := 0, copyPending := false }
        slot1 := { e.2.slot1 with key := 0, copyPending := false } })
    tier := s.tier.halls
    ports := s.ports.map fun e => (e.1, e.2.cfg)
    route := s.route
    leaf := s.leaf
    dist := s.dist
    flights := s.flt.map fun e => (e.1, e.2.keptFlight.getD e.2.active)
    pendFlights := s.flt.filterMap fun e => if e.2.derated then none else e.2.pending.map fun f => (e.1, f)
    shapers := s.flt.flatMap fun e => e.2.shapers.filterMap fun x =>
      if x.2.explicit_ then some (16384 * e.1 + x.1, x.2.cfg) else none
    chans := s.dram.chans.map fun e => (e.1, e.2.cfg)
    rateCap := s.dram.rateCap
    trained := s.dram.trained
    repairs := s.dram.repairs
    arraySpares := s.dram.arraySpares
    fences := s.fence.list
    triggers := s.evr.triggers
    win0 := match s.win.get? 0 with
      | some w => { notify := w.notify, alertEn := w.alertEn, alertMask := w.alertMask, lastCseq := w.lastCseq }
      | none => {}
    win1 := match s.win.get? 1 with
      | some w => { notify := w.notify, alertEn := w.alertEn, alertMask := w.alertMask, lastCseq := w.lastCseq }
      | none => {} }

/-- Does the standby take mirror records now (R569, R571)? -/
def mirrorLive (s : State) : Bool := s.pair.role = .active && s.pair.sync ≠ .notSynced && s.pair.peerPath

/-- Send one mirror record to the standby, in MSEQ order, in the PEER session of a peer port that is up (R95, R569). -/
def sendMirror (s : State) (b : MirrorBody) : State × Nat :=
  let m := s.pair.mseq + 1
  let s := { s with pair := { s.pair with mseq := m } }
  (match pickPort s 8 false with
    | some p => sendFlit s p .peer (.mirror p { mseq := m, body := b })
    | none => s, m)

/-- Send a mirror record whose acknowledgement is awaited (R569, R571). -/
def mirrorNote (s : State) (b : MirrorBody) : State :=
  let (s, m) := sendMirror s b
  { s with pair := { s.pair with waits := s.pair.waits ++ [{ mseq := m, sentAt := s.now }] } }

/-- What a BARE record keeps: the DRAM, REPAIR and RECORDER sections (R546, R549). -/
def bareOf (r : Retained) : Retained :=
  { chans := r.chans, rateCap := r.rateCap, trained := r.trained, repairs := r.repairs, arraySpares := r.arraySpares
    fences := r.fences, triggers := r.triggers }

/-- The sections of R546 in which two contents differ. -/
def changedSections (a b : Retained) : List Nat :=
  ([ (0x01, decide (a.pair = b.pair)),
     (0x02, decide (a.opAnchors = b.opAnchors ∧ a.linkAnchors = b.linkAnchors ∧ a.bmcKey = b.bmcKey)),
     (0x03, decide (a.halls = b.halls ∧ a.acl = b.acl)), (0x04, decide (a.tenants = b.tenants)), (0x05, decide (a.tier = b.tier)),
     (0x06, decide (a.ports = b.ports ∧ a.route = b.route ∧ a.leaf = b.leaf ∧ a.dist = b.dist)),
     (0x07, decide (a.flights = b.flights ∧ a.pendFlights = b.pendFlights ∧ a.shapers = b.shapers)),
     (0x08, decide (a.chans = b.chans ∧ a.rateCap = b.rateCap ∧ a.trained = b.trained)),
     (0x09, decide (a.repairs = b.repairs ∧ a.arraySpares = b.arraySpares ∧ a.fences = b.fences)),
     (0x0A, decide (a.triggers = b.triggers)), (0x0B, decide (a.win0 = b.win0 ∧ a.win1 = b.win1)) ].filter fun e => !e.2).map
    fun e => e.1

/-- The sections of a SNAPSHOT (R543, R546). -/
def allSections : List Nat := (List.range 11).map (· + 1)

/-- Bytes of a record before its DIGEST: header and sections, zeros up to the DIGEST's place in the last of `pages` pages (R543). -/
def recordHead (r : StoreRec) (pages : Nat) : List Byte :=
  let body := r.sections.flatMap fun n =>
    let d := Config.sectionBytes r.fmt n r.content
    leBytes 2 n ++ leBytes 2 0 ++ leBytes 4 d.length ++ sub d 0 (8 * ceilDiv d.length 8)
  let h := leBytes 4 0x52545352 ++ leBytes 1 r.fmt ++ leBytes 1 (if r.bare then 2 else if r.snap then 0 else 1) ++ leBytes 2 0 ++
    leBytes 8 r.rseq ++ leBytes 4 pages ++ leBytes 4 r.ver ++ leBytes 8 r.time ++ leBytes 32 0
  sub (h ++ body) 0 (4096 * pages - 48)

/-- Pages of a record (R543). -/
def recPages (r : StoreRec) : Nat :=
  ceilDiv (64 + sumNat (r.sections.map fun n => 8 + 8 * ceilDiv (Config.sectionBytes r.fmt n r.content).length 8) + 48) 4096

/-- A record as boot flash holds it (R543). -/
def storeRecBytes (r : StoreRec) : List Byte :=
  let b := recordHead r (recPages r)
  b ++ sub (Config.sha384 b) 0 48

/-- Pages of records; pages in use of a copy (R548). -/
def pagesOf (l : List StoreRec) : Nat := sumNat (l.map recPages)
def usedPages (c : StoreCopy) : Nat := pagesOf (c.prior ++ c.last.toList)

/-- RSEQ of a copy's latest record; whether that is a BARE record; the content it gives (R544). -/
def StoreCopy.rseq (c : StoreCopy) : Nat := (c.last.map fun r => r.rseq).getD 0
def StoreCopy.bareRec (c : StoreCopy) : Bool := c.last.all fun r => r.bare
def StoreCopy.content (c : StoreCopy) : Retained := (c.last.map fun r => r.content).getD {}

/-- The copy a start restores from: valid, with the higher RSEQ; the other is rewritten to match (R544). -/
def chooseCopy (s : State) : Option StoreCopy :=
  let a := s.store.a
  let b := s.store.b
  if a.st = 1 ∧ (b.st ≠ 1 ∨ b.rseq ≤ a.rseq) then some a else if b.st = 1 then some b else none

/-- Freed pages that the ring still has room for; it overwrites the oldest first (R543, R545). -/
def ringRoom (used : Nat) : List StoreRec → List StoreRec
  | [] => []
  | r :: t => if used + pagesOf (r :: t) ≤ 262144 then r :: t else ringRoom used t

/-- A copy with one more record. A SNAPSHOT or BARE record frees the pages before it; `erase` overwrites those with zeros (R545). -/
def appendRec (c : StoreCopy) (r : StoreRec) (erase : Bool) : StoreCopy :=
  let before := c.prior ++ c.last.toList
  let fresh := r.snap || r.bare
  { st := 1, last := some r
    prior := if fresh then [] else before
    freed := if erase then [] else ringRoom (recPages r + if fresh then 0 else pagesOf before) (c.freed ++ if fresh then before else []) }

/-- FELTI_VERSION of the image that writes records (R543). -/
def runningVer (s : State) : Nat := if s.fw.runningB then s.fw.b.ver else s.fw.a.ver

/-- The record that a commit writes: BARE after STORE_BARE until the next reset (R523, DEDUCED, log 46), a SNAPSHOT where the copies have
none to stand on, where key material is erased, and where a DELTA would leave a ring three-quarters full; else a DELTA (R544, R545;
DESIGN CHOICE, log 91). -/
def nextRec (s : State) (erase : Bool) : StoreRec :=
  let bare := s.store.barePending
  let r := if bare then bareOf (retainedOf s) else retainedOf s
  let whole := if bare then [0x08, 0x09, 0x0A] else allSections
  let a := s.store.a
  let new : StoreRec :=
    { rseq := max a.rseq s.store.b.rseq + 1, bare := bare, fmt := s.store.fmtWrite, ver := runningVer s, time := s.now
      sections := changedSections a.content r, content := r }
  let base := decide (a.st = 1 ∧ s.store.b.st = 1 ∧ a.rseq = s.store.b.rseq) && !a.bareRec
  let snap := !bare && (erase || !base || decide (3 * 262144 ≤ 4 * (usedPages a + recPages new)))
  { new with snap := snap, sections := if bare || snap then whole else new.sections }

/-- Append the retained part to both store copies, A then B (R544). The flag says whether the commit succeeded. -/
def commitWith (s : State) (erase : Bool) : State × Bool :=
  if s.store.writable = false then (s, false)
  else
    let r := nextRec s erase
    let gone := erase || s.store.barePending
    ({ s with store := { s.store with a := appendRec s.store.a r gone, b := appendRec s.store.b r gone } }, true)

def commit (s : State) : State × Bool := commitWith s false

/-- A retained change Felti makes of itself: committed, and sent to a mirroring standby (R494, R569). -/
def commitSelf (s : State) : State :=
  let (s, ok) := commit s
  if ok && mirrorLive s then
    mirrorNote s (.store (retainedOf s))
  else s

/-- The same for a change that erases key material (R468, R545). -/
def commitErase (s : State) : State :=
  let (s, ok) := commitWith s true
  if ok && mirrorLive s then
    mirrorNote s (.store (retainedOf s))
  else s

end Sys2Proof.Machine
end

