-- ==== Sys2Proof/Machine/Clock.lean ====
section
/-! DEFINITION. One tick of TCLK (R8, R22): what passes when no command waits (log 4). -/

namespace Sys2Proof.Machine

/-- A tick: the master count and its three copies advance (R22, R23), unless the count is held to remove an offset (R560). -/
def tick (s : State) : State :=
  if 0 < s.clk.hold then { s with clk := { s.clk with hold := s.clk.hold - 1 } }
  else
    { s with clk := { s.clk with
      master := s.clk.master + 1, core := s.clk.core + 1, fab0 := s.clk.fab0 + 1, fab1 := s.clk.fab1 + 1 } }

end Sys2Proof.Machine
end

