-- ==== Sys2Proof/Machine/Float.lean ====
section
/-! DEFINITION. Floating-point values and their conversion (R302, R305 to R308): decoding to exact values, rounding to nearest
even, and arithmetic on binary32. -/

namespace Sys2Proof.Machine

/-- A value of a floating format: NaN, an infinity, or ±m × 2^e; m = 0 is a signed zero. -/
inductive Fp where
  | nan
  | inf (neg : Bool)
  | fin (neg : Bool) (m : Nat) (e : Int)
  deriving DecidableEq, Repr

/-- How a format treats its largest exponent: infinities and NaNs, one NaN only (E4M3), or numbers only. -/
inductive TopKind where | ieee | oneNan | none
  deriving DecidableEq, Repr

/-- A floating format: exponent bits, mantissa bits, bias (R302). -/
structure FFmt where
  eb : Nat
  mb : Nat
  bias : Int
  top : TopKind := .ieee
  deriving DecidableEq, Repr

def fp32 : FFmt := { eb := 8, mb := 23, bias := 127 }
def bf16 : FFmt := { eb := 8, mb := 7, bias := 127 }
def fp16 : FFmt := { eb := 5, mb := 10, bias := 15 }
def e4m3 : FFmt := { eb := 4, mb := 3, bias := 7, top := .oneNan }
def e5m2 : FFmt := { eb := 5, mb := 2, bias := 15 }
def e3m2 : FFmt := { eb := 3, mb := 2, bias := 3, top := .none }
def e2m1 : FFmt := { eb := 2, mb := 1, bias := 1, top := .none }

/-- Exponent of the least significant bit of a subnormal. -/
def FFmt.emin (f : FFmt) : Int := 1 - f.bias - f.mb

/-- The largest finite value as m × 2^e (R302). -/
def FFmt.maxFin (f : FFmt) : Nat × Int :=
  let topE : Nat := 2 ^ f.eb - 1
  match f.top with
  | .ieee => (2 ^ (f.mb + 1) - 1, (topE : Int) - 2 + f.emin)
  | .oneNan => (2 ^ (f.mb + 1) - 2, (topE : Int) - 1 + f.emin)
  | .none => (2 ^ (f.mb + 1) - 1, (topE : Int) - 1 + f.emin)

/-- The value that bits of a format spell (R302). -/
def FFmt.decode (f : FFmt) (x : Nat) : Fp :=
  let neg := x.testBit (f.eb + f.mb)
  let e := bits x f.mb f.eb
  let m := bits x 0 f.mb
  let num : Fp := if e = 0 then .fin neg m f.emin else .fin neg (m + 2 ^ f.mb) ((e : Int) - 1 + f.emin)
  if e = 2 ^ f.eb - 1 then
    match f.top with
    | .ieee => if m = 0 then .inf neg else .nan
    | .oneNan => if m = 2 ^ f.mb - 1 then .nan else num
    | .none => num
  else num

/-- m ÷ 2^d rounded to nearest, ties to even. -/
def shrRne (m d : Nat) : Nat :=
  let q := m / 2 ^ d
  let r := 2 * (m % 2 ^ d)
  if r < 2 ^ d then q else if 2 ^ d < r then q + 1 else q + q % 2

/-- Bits of a number. -/
def bitLen (m : Nat) : Nat := if m = 0 then 0 else Nat.log2 m + 1

/-- m × 2^e rounded to a format's precision at unbounded exponent (R306): the rounded m' × 2^q. -/
def FFmt.round (f : FFmt) (m : Nat) (e : Int) : Nat × Int :=
  let q := max (e + bitLen m - (f.mb + 1)) f.emin
  let m' := if q ≤ e then m * 2 ^ (e - q).toNat else shrRne m (q - e).toNat
  if m' = 2 ^ (f.mb + 1) then (2 ^ f.mb, q + 1) else (m', q)

/-- Is m × 2^e above m' × 2^e' in magnitude? -/
def magLt (m' : Nat) (e' : Int) (m : Nat) (e : Int) : Bool :=
  let lo := min e e'
  decide (m' * 2 ^ (e' - lo).toNat < m * 2 ^ (e - lo).toNat)

def signBit (f : FFmt) (neg : Bool) : Nat := if neg then 2 ^ (f.eb + f.mb) else 0

/-- The canonical NaN of a format (R308). -/
def FFmt.nanBits (f : FFmt) : Nat := match f.top with
  | .ieee => (2 ^ f.eb - 1) * 2 ^ f.mb + 2 ^ (f.mb - 1)
  | .oneNan => 2 ^ (f.eb + f.mb) - 1
  | .none => 0

/-- The largest finite value's bits, without sign. -/
def FFmt.maxBits (f : FFmt) : Nat := match f.top with
  | .ieee => (2 ^ f.eb - 2) * 2 ^ f.mb + (2 ^ f.mb - 1)
  | .oneNan => (2 ^ f.eb - 1) * 2 ^ f.mb + (2 ^ f.mb - 2)
  | .none => 2 ^ (f.eb + f.mb) - 1

/-- What an overflow or an infinity becomes (R307). -/
def FFmt.overBits (f : FFmt) (sat neg fromInf : Bool) : Nat := match f.top with
  | .ieee => if sat && !fromInf then signBit f neg + f.maxBits else signBit f neg + (2 ^ f.eb - 1) * 2 ^ f.mb
  | .oneNan => if sat then signBit f neg + f.maxBits else f.nanBits
  | .none => signBit f neg + f.maxBits

/-- Conversion to a floating format (R306 to R308). -/
def FFmt.encode (f : FFmt) (sat : Bool) : Fp → Nat
  | .nan => f.nanBits
  | .inf neg => f.overBits sat neg true
  | .fin neg m e =>
    if m = 0 then signBit f neg
    else
      let (r, q) := f.round m e
      if magLt f.maxFin.1 f.maxFin.2 r q then f.overBits sat neg false
      else if r < 2 ^ f.mb then signBit f neg + r
      else signBit f neg + ((q - f.emin).toNat + 1) * 2 ^ f.mb + (r - 2 ^ f.mb)

/-- ±m × 2^e as a signed number at a lower exponent. -/
def alignTo (lo : Int) (neg : Bool) (m : Nat) (e : Int) : Int :=
  let v : Int := m * 2 ^ (e - lo).toNat
  if neg then -v else v

/-- The exact sum of two values; an exact zero sum of values of opposite sign is +0. -/
def Fp.add : Fp → Fp → Fp
  | .nan, _ => .nan
  | _, .nan => .nan
  | .inf a, .inf b => if a = b then .inf a else .nan
  | .inf a, _ => .inf a
  | _, .inf b => .inf b
  | .fin n1 m1 e1, .fin n2 m2 e2 =>
    let lo := min e1 e2
    let v := alignTo lo n1 m1 e1 + alignTo lo n2 m2 e2
    if v = 0 then .fin (n1 && n2) 0 lo else .fin (decide (v < 0)) v.natAbs lo

/-- The exact product of two values. -/
def Fp.mul : Fp → Fp → Fp
  | .nan, _ => .nan
  | _, .nan => .nan
  | .inf a, .inf b => .inf (a != b)
  | .inf a, .fin b m _ => if m = 0 then .nan else .inf (a != b)
  | .fin a m _, .inf b => if m = 0 then .nan else .inf (a != b)
  | .fin n1 m1 e1, .fin n2 m2 e2 => .fin (n1 != n2) (m1 * m2) (e1 + e2)

def Fp.neg : Fp → Fp
  | .nan => .nan
  | .inf a => .inf !a
  | .fin a m e => .fin (!a) m e

/-- A value rounded to binary32 (R306). -/
def Fp.toF32 (x : Fp) : Fp := fp32.decode (fp32.encode false x)

/-- A + B in binary32 (R145). -/
def f32Add (a b : Nat) : Nat := fp32.encode false ((fp32.decode a).add (fp32.decode b))

end Sys2Proof.Machine
end

