-- ==== Sys2Proof/Machine/Operands.lean ====
section
/-! DEFINITION. The operands of management commands: the catalogue's classes, bounds, argument lengths and padding (R484,
R487, R495, R508 to R523), the objects they name and their scope (R493, R496), and how a command runs in its window. -/

namespace Sys2Proof.Machine

/-- How a command answers: STATUS, DETAIL and the result bytes (R484). -/
structure Reply where
  status : Nat := stOk
  detail : Nat := 0
  res : List Byte := []
  deriving DecidableEq, Repr

/-- `n` argument bytes at a data-buffer offset, and the number they spell (R487). -/
def Win.bytes (x : Win) (off n : Nat) : List Byte := rdBytes x.mem (0x1000 + off) n
def Win.arg (x : Win) (off n : Nat) : Nat := rdNat x.mem (0x1000 + off) n

/-- The next offset aligned to 8 (R487). -/
def align8 (n : Nat) : Nat := (n + 7) / 8 * 8

/-- DETAIL naming the header (R484). -/
def detailHeader : Nat := 0xFFFFFFFF

/-! ### The catalogue -/

/-- One row of the catalogue: opcode, classes, bound in ticks, and whether it is a query (R496). -/
structure CmdInfo where
  op : Nat
  cls : List WinClass
  bound : Nat := ms 10
  query : Bool := false
  deriving DecidableEq, Repr

/-- The catalogue, identity to queues (R508, R509, R512, R513, R514). Revoking commands are bounded by their drain (R55). -/
def catalogue1 : List CmdInfo :=
  [ { op := 0x0100, cls := [.operator, .tenant, .host, .bmc, .peer], query := true },
    { op := 0x0101, cls := [.operator, .tenant, .bmc], bound := ms 50, query := true },
    { op := 0x0102, cls := [.operator, .bmc] },
    { op := 0x0103, cls := [.operator, .bmc] },
    { op := 0x0104, cls := [.operator, .tenant, .host, .bmc, .peer], query := true },
    { op := 0x0200, cls := [.operator], bound := sec 2 },
    { op := 0x0201, cls := [.operator, .tenant], bound := ms 24 },
    { op := 0x0202, cls := [.operator, .tenant], bound := ms 24 },
    { op := 0x0203, cls := [.operator, .tenant, .host, .bmc], query := true },
    { op := 0x0204, cls := [.operator, .tenant], bound := sec 2 },
    { op := 0x0205, cls := [.operator, .tenant], bound := ms 24 },
    { op := 0x0206, cls := [.operator, .tenant], bound := ms 24 },
    { op := 0x0207, cls := [.operator, .tenant], query := true },
    { op := 0x0300, cls := [.operator] }, { op := 0x0301, cls := [.operator] },
    { op := 0x0302, cls := [.operator, .bmc], query := true }, { op := 0x0303, cls := [.operator] },
    { op := 0x0400, cls := [.operator] }, { op := 0x0401, cls := [.operator, .tenant, .bmc], query := true },
    { op := 0x0402, cls := [.operator, .tenant], bound := ms 50 }, { op := 0x0403, cls := [.tenant] },
    { op := 0x0404, cls := [.operator, .tenant], bound := ms 50 }, { op := 0x0405, cls := [.operator], bound := ms 80 } ]

def catalogue2 : List CmdInfo :=
  [ { op := 0x0500, cls := [.operator, .tenant] }, { op := 0x0501, cls := [.operator, .tenant] },
    { op := 0x0502, cls := [.operator, .tenant], query := true }, { op := 0x0503, cls := [.operator, .tenant] },
    { op := 0x0504, cls := [.operator, .tenant] }, { op := 0x0505, cls := [.operator, .tenant], bound := ms 60 },
    { op := 0x0506, cls := [.operator, .tenant] }, { op := 0x0507, cls := [.operator, .tenant], bound := ms 60 },
    { op := 0x0508, cls := [.operator, .tenant, .host], query := true },
    { op := 0x0509, cls := [.operator, .tenant, .host] }, { op := 0x050A, cls := [.operator, .tenant, .host] },
    { op := 0x0600, cls := [.operator, .tenant], bound := ms 50 }, { op := 0x0601, cls := [.operator, .tenant] },
    { op := 0x0602, cls := [.operator, .tenant, .host] }, { op := 0x0603, cls := [.operator, .tenant], query := true },
    { op := 0x0700, cls := [.operator] }, { op := 0x0701, cls := [.operator] },
    { op := 0x0702, cls := [.operator, .bmc], query := true }, { op := 0x0703, cls := [.operator], query := true },
    { op := 0x0704, cls := [.operator] }, { op := 0x0705, cls := [.operator], query := true },
    { op := 0x0800, cls := [.operator, .tenant], query := true }, { op := 0x0801, cls := [.operator, .tenant] },
    { op := 0x0802, cls := [.operator, .tenant, .host], bound := sec 2 },
    { op := 0x0803, cls := [.operator, .bmc], query := true }, { op := 0x0804, cls := [.operator], bound := sec 120 } ]

/-- The catalogue, integrity to reset (R520 to R523). -/
def catalogue3 : List CmdInfo :=
  [ { op := 0x0900, cls := [.operator, .bmc], query := true }, { op := 0x0901, cls := [.operator] },
    { op := 0x0902, cls := [.operator] }, { op := 0x0903, cls := [.operator], query := true },
    { op := 0x0904, cls := [.operator, .bmc], query := true }, { op := 0x0905, cls := [.operator] },
    { op := 0x0906, cls := [.operator], bound := sec 1 },
    { op := 0x0A00, cls := [.operator] }, { op := 0x0A01, cls := [.operator, .bmc], query := true },
    { op := 0x0A02, cls := [.operator, .bmc, .tenant], query := true },
    { op := 0x0A03, cls := [.operator, .bmc], query := true }, { op := 0x0A04, cls := [.operator], query := true },
    { op := 0x0A05, cls := [.operator] },
    { op := 0x0B00, cls := [.operator] }, { op := 0x0B01, cls := [.operator, .bmc, .peer], query := true },
    { op := 0x0B02, cls := [.operator] }, { op := 0x0B03, cls := [.operator, .bmc, .peer], query := true },
    { op := 0x0B04, cls := [.peer] },
    { op := 0x0C00, cls := [.operator, .bmc], query := true }, { op := 0x0C01, cls := [.operator, .bmc] },
    { op := 0x0C02, cls := [.operator, .bmc] }, { op := 0x0C03, cls := [.operator] },
    { op := 0x0D00, cls := [.operator, .bmc], query := true }, { op := 0x0D01, cls := [.operator] },
    { op := 0x0D02, cls := [.operator, .bmc] }, { op := 0x0D03, cls := [.operator] } ]

def cmdInfo (op : Nat) : Option CmdInfo := (catalogue1 ++ catalogue2 ++ catalogue3).find? fun r => r.op = op

/-- On KY-SH940-D1: commands that create or change engine contexts, load lasts or program gallery flights (R3). -/
def d1Refuses (x : Win) (op : Nat) : Bool :=
  [0x0500, 0x0501, 0x0503, 0x0504, 0x0505, 0x0600].contains op ||
    (op = 0x0700 && (fun r => decide (0x22 ≤ r ∧ r < 0x32)) (x.arg 5 1))

/-- Commands a standby accepts: queries, the redundancy and firmware commands, RESET (R496). -/
def standbyTakes (i : CmdInfo) : Bool := i.query || i.op / 256 = 0x0B || i.op / 256 = 0x0C || i.op = 0x0D02

/-- Commands that windows 0 and 1 accept before READY: queries, the firmware commands, RESET (R542). -/
def startTakes (i : CmdInfo) : Bool := i.query || i.op / 256 = 0x0C || i.op = 0x0D02

/-- Bytes of a flight image, from its counts (R378 to R380): header 64, treads of 32, entries of 8. -/
def flightLen (treads res : Nat) : Nat := 64 + 32 * treads + 8 * res

/-- ARG_LEN a command must have (R487): the offset just past its last argument byte. None: any length (the stream of
PEER_SYNC). -/
def argLen (x : Win) (op : Nat) : Option Nat :=
  match op with
  | 0x0101 => some 32
  | 0x0102 => some (8 + x.arg 4 4)
  | 0x0103 => some 104
  | 0x0200 => some 20
  | 0x0201 | 0x0203 | 0x0401 | 0x0404 | 0x0405 | 0x0501 | 0x0502 | 0x0507 | 0x0508 | 0x0601 | 0x0603 | 0x0703 | 0x0800 =>
    some 2
  | 0x0202 | 0x0504 | 0x0505 | 0x0602 | 0x0705 | 0x0905 | 0x0906 | 0x0C03 | 0x0D01 | 0x0D03 => some 4
  | 0x0204 | 0x0207 | 0x0500 | 0x0B02 => some 8
  | 0x0205 => some (8 + 8 * x.arg 2 2)
  | 0x0206 => some (8 + 4 * x.arg 2 2)
  | 0x0300 => some (16 + if x.arg 0 1 = 0 then 2 * x.arg 8 4 else ceilDiv (x.arg 8 4) 2)
  | 0x0301 => some (8 + x.arg 4 4)
  | 0x0302 | 0x0701 | 0x0702 | 0x0804 | 0x0900 | 0x0A05 => some 1
  | 0x0303 => some 40
  | 0x0400 => some (if x.arg 6 2 = 0 then 8 + x.arg 4 2 else align8 (8 + x.arg 4 2) + x.arg 6 2)
  | 0x0402 => some (if x.arg 2 2 = 0 then 4 else 8 + x.arg 2 2)
  | 0x0403 => some 112
  | 0x0503 => some 6
  | 0x0506 => some 28
  | 0x0509 => some 3
  | 0x050A | 0x0600 | 0x0903 | 0x0D02 => some 16
  | 0x0700 => some (flightLen (x.arg 6 2) (x.arg 8 2))
  | 0x0704 => some 40
  | 0x0801 => some 40
  | 0x0802 => some 32
  | 0x0901 => some 40
  | 0x0902 => some 176
  | 0x0A00 => some 64
  | 0x0A02 => some 12
  | 0x0A04 => some 20
  | 0x0B00 => some 56
  | 0x0B04 => none
  | 0x0C01 => some (8 + x.arg 4 4)
  | 0x0C02 => some 5
  | _ => some 0

/-! ### Objects and scope (R493, R496) -/

/-- Kinds of object whose changes take effect in order of acceptance (R493). -/
def objHall (h : Nat) : Nat × Nat := (0, h)
def objTenant (t : Nat) : Nat × Nat := (1, t)
def objCtx (c : Nat) : Nat × Nat := (2, c)
def objQueue (q : Nat) : Nat × Nat := (3, q)
def objHandle (h : Nat) : Nat × Nat := (4, h)
def objRes (r : Nat) : Nat × Nat := (5, r)
def objChan (c : Nat) : Nat × Nat := (6, c)
def objDrive (p : Nat) : Nat × Nat := (7, p)
def objAnchor : Nat × Nat := (8, 0)

/-- The objects a command names by its arguments. -/
def cmdObjs (x : Win) (op : Nat) : List (Nat × Nat) :=
  match op with
  | 0x0102 => [objAnchor]
  | 0x0200 => [objHall (x.arg 0 2), objTenant (x.arg 2 2)]
  | 0x0201 | 0x0202 | 0x0203 | 0x0204 | 0x0205 | 0x0206 | 0x0207 | 0x0800 | 0x0801 | 0x0802 | 0x0902 | 0x0903 =>
    [objHall (x.arg 0 2)]
  | 0x0400 | 0x0401 | 0x0402 | 0x0403 | 0x0404 | 0x0405 => [objTenant (x.arg 0 2)]
  | 0x0500 => [objTenant (x.arg 0 2)]
  | 0x0501 | 0x0502 | 0x0503 | 0x0600 => [objCtx (x.arg 0 2)]
  | 0x0504 | 0x0505 => [objCtx (x.arg 0 2), objHall (x.arg 2 2)]
  | 0x0506 => [objQueue (x.arg 0 2), objCtx (x.arg 2 2), objHall (x.arg 8 2)]
  | 0x0507 | 0x0508 | 0x0509 | 0x0602 => [objQueue (x.arg 0 2)]
  | 0x050A => [objTenant (x.arg 2 2)]
  | 0x0601 | 0x0603 => [objHandle (x.arg 0 2)]
  | 0x0700 => [objRes (x.arg 5 1)]
  | 0x0701 | 0x0702 | 0x0703 | 0x0704 | 0x0705 => [objRes (x.arg 0 1)]
  | 0x0804 => [objDrive (x.arg 0 1)]
  | 0x0900 | 0x0901 => [objChan (x.arg 0 1)]
  | _ => []

/-- The tenant of a named object, where the object exists. -/
def objTenantOf (s : State) (o : Nat × Nat) : Option Nat :=
  match o.1 with
  | 0 => (s.halls.get? o.2).map fun h => h.tenant
  | 1 => some o.2
  | 2 => (s.eng.ctxs.get? o.2).map fun c => c.tenant
  | 3 => (s.eng.queues.get? o.2).bind fun q => (s.eng.ctxs.get? q.ctx).map fun c => c.tenant
  | 4 => (s.eng.loaded.get? o.2).map fun l => l.tenant
  | _ => none

/-- Key of an access-list entry. -/
def aclKey (hall ep : Nat) : Nat := 262144 * hall + ep

/-- The entry of an endpoint in a hall's access list. -/
def aclOf (s : State) (hall ep : Nat) : Option AclEntry := s.acl.get? (aclKey hall ep)

/-- Does an endpoint hold an entry in some hall of a tenant, or in any hall? -/
def listedIn (s : State) (t : Option Nat) (ep : Nat) : Bool :=
  s.acl.any fun e => decide (e.1 % 262144 = ep) && (match t with
    | none => true
    | some t => (s.halls.get? (e.1 / 262144)).any fun h => h.tenant = t)

/-- Is every named object in the class's scope (R62, R496)? -/
def inScope (s : State) (x : Win) (op : Nat) : Bool :=
  match x.cls with
  | .tenant => (cmdObjs x op).all fun o =>
      if o = objHall 4095 then false
      else match objTenantOf s o with
        | some t => decide (t = x.owner)
        | none => true
  | .host => (cmdObjs x op).all fun o =>
      match o.1 with
      | 0 => (aclOf s o.2 x.owner).isSome
      | 3 => (s.eng.queues.get? o.2).all fun q => q.owner = x.owner
      | 1 => listedIn s (some o.2) x.owner
      | _ => true
  | _ => true

/-- A named tenant, or a named hall's tenant, that is REMOVING or RETIRED (R467, R470, R495). -/
def tenantGate (s : State) (x : Win) (i : CmdInfo) : Option Nat :=
  let hit := fun (st : TenState) => (cmdObjs x i.op).any fun o =>
    o.1 ≤ 1 && (match objTenantOf s o with
      | some t => (s.ten.recs.get? t).any fun r => r.st = st
      | none => false)
  if hit .removing then some stDraining
  else if hit .retired ∧ i.query = false ∧ i.op ≠ 0x0201 ∧ i.op ≠ 0x0405 then some stKeyRetired
  else none

/-- Commands that may change hall 4095 or act on it are denied (R62). -/
def names4095 (x : Win) (op : Nat) : Bool :=
  [0x0201, 0x0202, 0x0204, 0x0205, 0x0206, 0x0801, 0x0802, 0x0504, 0x0506, 0x0902, 0x0903].contains op &&
    (cmdObjs x op).contains (objHall 4095)

/-! ### Running in a window -/

/-- The window's command with this opcode, executing and not yet begun, while Felti runs (R489, R492, R497). -/
def dueCmd (s : State) (w op : Nat) : Option Win :=
  match s.win.get? w with
  | some x => match x.cmd with
    | some c => if c.op = op ∧ c.executing = true ∧ c.begun = false ∧ s.pwr.feltiOn = true then some x else none
    | none => none
  | none => none

/-- Does an earlier command still hold one of these objects (R493)? -/
def objHeld (s : State) (w : Nat) (order : Nat) (objs : List (Nat × Nat)) : Bool :=
  s.win.any fun e => decide (e.1 ≠ w) && (match e.2.cmd with
    | some c => decide (c.order < order) && c.objs.any fun o => objs.contains o
    | none => false)

/-- The window whose command this is. -/
def cmdWin (s : State) (x : Win) : Option Nat :=
  (s.win.find? fun e => e.2.cmd.any fun c => x.cmd.any fun d => c.order = d.order).map fun e => e.1

/-- Mark a window's command as begun, so that a later event completes it. -/
def markBegun (s : State) (w : Nat) : State :=
  { s with win := s.win.modify w fun x => { x with cmd := x.cmd.map fun c => { c with begun := true } } }

/-- The answer of a body: the state it leaves, and its reply when it completes. -/
abbrev Answer := State × Option Reply

def fail (s : State) (status : Nat) (detail : Nat := 0) : Answer := (s, some { status := status, detail := detail })
def good (s : State) (res : List Byte := []) : Answer := (s, some { res := res })
/-- The command goes on; a later event completes it. -/
def goesOn (s : State) : Answer := (s, none)

/-- Apply a body's answer to its window. -/
def settle (w : Nat) (a : Answer) : State :=
  match a.2 with
  | some r => finishCmd a.1 w r.status r.detail r.res
  | none => markBegun a.1 w

/-- Run a command: its body runs when the command is due in the window and no earlier command holds its objects (R493). -/
def runCmd (s : State) (w op : Nat) (body : State → Win → Answer) : State :=
  match dueCmd s w op with
  | none => s
  | some x =>
    if objHeld s w ((x.cmd.map fun c => c.order).getD 0) (cmdObjs x op) then s
    else settle w (body s x)

/-- A retained command (R494). Unpaired, its body commits and answers. With a mirroring standby, the change goes to the
standby first; its acknowledgement, or the standby's absence, runs the body (log 22). -/
def runRetained (s : State) (w op : Nat) (body : State → Win → Answer) : State :=
  runCmd s w op fun s x =>
    let a := body s x
    if mirrorLive s && (a.2.all fun r => r.status = stOk) then
      let (t, m) := sendMirror s (.store (retainedOf a.1))
      ({ t with pair := { t.pair with waits := t.pair.waits ++ [{ mseq := m, sentAt := t.now, win := some w }] } }, none)
    else a

/-- Commit a change before it takes effect; with a failed commit the command ends ST_FAULT, without effect (R494). -/
def retain (old new : State) (k : State → Answer) : Answer :=
  match commit new with
  | (t, true) => k t
  | (_, false) => fail old stFault

/-- The first check that fails, with its status and DETAIL. -/
def firstFail : List (Bool × Nat × Nat) → Option (Nat × Nat)
  | [] => none
  | (bad, st, d) :: t => if bad then some (st, d) else firstFail t

/-- The first faulty field of an argument: a field at offset `d` with a value out of range (R484, R487, R495). -/
def badArg : List (Bool × Nat) → Option (Nat × Nat)
  | [] => none
  | (bad, d) :: t => if bad then some (stBadArg, d) else badArg t

/-- Run `k` when no check failed. -/
def guardArg (s : State) (c : Option (Nat × Nat)) (k : Unit → Answer) : Answer :=
  match c with
  | some (st, d) => fail s st d
  | none => k ()

/-- Window of the other owner of a resource: none. A number in [lo, hi]. -/
def inRange (x lo hi : Nat) : Bool := decide (lo ≤ x ∧ x ≤ hi)

end Sys2Proof.Machine
end

