-- ==== Sys2Proof/Machine/Image.lean ====
section
/-! DEFINITION. Reading a last image (R264, R265, R268, R270): header, stages, views and claims, and the bound B (R281). -/

namespace Sys2Proof.Machine

/-- A stage entry (R265). -/
structure Stage where
  op : Nat
  fuse : Bool
  cond : Bool
  tiles : Nat
  ns : Nat
  in0 : Nat
  in1 : Nat
  in2 : Nat
  out : Nat
  sel : Nat
  benchOff : Nat
  benchLen : Nat
  shape : List Nat
  params : List Byte
  deriving DecidableEq, Repr

/-- A tensor view (R268). -/
structure View where
  fmt : Nat
  space : Nat
  bind : Nat
  rank : Nat
  base : Nat
  dims : List Nat
  strides : List Nat           -- of dimensions 1 to 3
  ep : Nat
  window : Nat
  aux : Nat
  write : Bool
  deriving DecidableEq, Repr

/-- A claim entry (R270). -/
structure Claim where
  res : Nat
  svc : Nat
  first : Nat
  last : Nat
  rate : Nat
  deriving DecidableEq, Repr

def hdrStages (b : List Byte) : Nat := subNat b 12 1
def hdrViews (b : List Byte) : Nat := subNat b 13 1
def hdrClaims (b : List Byte) : Nat := subNat b 14 1
def hdrCpg (b : List Byte) : Nat := subNat b 15 1
def hdrMask (b : List Byte) : Nat := subNat b 16 2
def hdrBench (b : List Byte) : Nat := subNat b 20 4

/-- Stage `i`: 64 bytes from byte 256 + 64 i (R264, R265). -/
def stageAt (b : List Byte) (i : Nat) : Stage :=
  let e := sub b (256 + 64 * i) 64
  { op := subNat e 0 1, fuse := (subNat e 1 1).testBit 0, cond := (subNat e 1 1).testBit 1, tiles := subNat e 4 4
    ns := subNat e 8 4, in0 := subNat e 12 1, in1 := subNat e 13 1, in2 := subNat e 14 1, out := subNat e 15 1
    sel := subNat e 16 1, benchOff := subNat e 20 4, benchLen := subNat e 24 4
    shape := (List.range 4).map fun k => subNat e (28 + 2 * k) 2, params := sub e 36 28 }

/-- View `i`, after the stages (R264, R268). -/
def viewAt (b : List Byte) (i : Nat) : View :=
  let e := sub b (256 + 64 * hdrStages b + 64 * i) 64
  { fmt := subNat e 0 1, space := subNat e 1 1, bind := subNat e 2 1 % 8, rank := subNat e 3 1, base := subNat e 4 8
    dims := (List.range 4).map fun k => subNat e (12 + 4 * k) 4
    strides := (List.range 3).map fun k => subNat e (28 + 6 * k) 6
    ep := subNat e 48 4, window := subNat e 52 2, aux := subNat e 54 1, write := (subNat e 55 1).testBit 0 }

/-- Claim `i`, after the views (R264, R270). -/
def claimAt (b : List Byte) (i : Nat) : Claim :=
  let e := sub b (256 + 64 * hdrStages b + 64 * hdrViews b + 16 * i) 16
  { res := subNat e 0 1, svc := subNat e 1 1, first := subNat e 2 1, last := subNat e 3 1, rate := subNat e 4 4 }

def imgStages (b : List Byte) : List Stage := (List.range (hdrStages b)).map (stageAt b)
def imgViews (b : List Byte) : List View := (List.range (hdrViews b)).map (viewAt b)
def imgClaims (b : List Byte) : List Claim := (List.range (hdrClaims b)).map (claimAt b)

/-- The chains of an image: the stage numbers of each maximal run in which every later stage has FUSE (R265). -/
def chainsOf (st : List Stage) : List (List Nat) :=
  ((List.range st.length).foldl (fun (acc : List (List Nat)) i =>
    match acc, (st[i]?).map (fun x => x.fuse) with
    | c :: t, some true => (c ++ [i]) :: t
    | acc, _ => [i] :: acc) []).reverse

/-- Galleries of a last, lowest first, and its core count K (R264). -/
def imgGals (b : List Byte) : List Nat := setBits 16 (hdrMask b)
def imgK (b : List Byte) : Nat := hdrCpg b * (imgGals b).length

/-- D of a SHADOW code (R341, R590): one tile in D is shadowed; none for code 0. -/
def shadowD (code : Nat) : Option Nat :=
  match code with
  | 1 => some 256
  | 2 => some 64
  | 3 => some 16
  | 4 => some 4
  | 5 => some 1
  | _ => none

/-- H_c of R281: the shadow copies of a chain of `n` tiles. -/
def shadowCount (code n : Nat) : Nat := match shadowD code with
  | some d => ceilDiv n d
  | none => 0

/-- The bound B in ns under a SHADOW code (R281). -/
def boundNs (b : List Byte) (sh : Nat) : Nat :=
  let st := imgStages b
  let k := max 1 (imgK b)
  sumNat ((chainsOf st).map fun c =>
    let t := sumNat (c.map fun i => ((st[i]?).map fun x => x.ns).getD 0)
    let n := (c.head?.bind fun i => (st[i]?).map fun x => x.tiles).getD 0
    2000 + ceilDiv (n + shadowCount sh n) k * t) + 4000

/-- A last's window in ticks: from its start for B (R281). -/
def lastWindow (l : Last) : Nat × Nat :=
  let a := l.begunAt.getD l.start
  (a, a + ceilDiv l.bound 10)

/-- Claims of a last not yet released (R285). -/
def liveClaims (s : State) (l : Last) : List Claim :=
  match s.eng.loaded.get? l.handle with
  | some x => (imgClaims x.image).filter fun c => l.claimsFrom ≤ c.last
  | none => []

/-- The subscriber a last's traffic is charged to: its queue's (R375). -/
def lastSub (s : State) (l : Last) : Nat := ((s.eng.queues.get? l.qid).map fun q => q.sub).getD 0

end Sys2Proof.Machine
end

