-- ==== Sys2Proof/Machine/Flags.lean ====
section
/-! DEFINITION. Derived status: hall feature levels (R49), the window register block (R482), the flash tier's state (R248),
EPOCH announcements (R504), the peer path (R563). -/

namespace Sys2Proof.Machine

/-! ### Feature levels (R49, R50) -/

/-- Does an endpoint count as DFP1: its reported link, or its route port (R49)? -/
def epDfp1 (s : State) (ep : Nat) : Bool :=
  (epInfo s ep).rev = 1 || (match s.ports.get? (routePort s ep) with
    | some q => q.dfp1
    | none => false)

/-- LEVEL of a hall is DFP1 while any endpoint of its list counts as DFP1 (R49). -/
def hallDfp1 (s : State) (h : Nat) : Bool := s.acl.any fun e => decide (e.1 / 262144 = h) && epDfp1 s (e.1 % 262144)

/-- Felti recomputes every LEVEL (R49). -/
def recomputeLevels (s : State) : State :=
  { s with halls := s.halls.map fun e => (e.1, { e.2 with levelDfp1 := hallDfp1 s e.1 }) }

/-- A REQ, WLT or MGT message of an endpoint has arrived on a port: the learned route follows it, and the levels a changed route
port (R49, R142). -/
def learn (s : State) (ep port : Nat) : State :=
  let t := noteRoute s ep port
  if routePort t ep = routePort s ep then t else recomputeLevels t

/-- Owner forwarding is in use: LEVEL DFP1 or FWD_FORCE (R50). -/
def ownerFwd (h : Hall) : Bool := h.levelDfp1 || h.fwdForce

/-! ### Codes of the hall descriptor (F02) -/

def classCode : HallClass → Nat
  | .resident => 0
  | .tiered => 1
  | .persistent => 2

/-- Rights as bits [22:18] of an EP_RIGHTS word (R447, R509). -/
def rightsBits (r : Rights) : Nat := b2n r.read + 2 * b2n r.write + 4 * b2n r.cache + 8 * b2n r.atomic + 16 * b2n r.welt

def stateCode : HallState → Nat
  | .free => 0
  | .active => 1
  | .trimming => 2
  | .destroying => 3

/-! ### EPOCH (R504) -/

/-- The endpoints of all access lists, rising. -/
def listedEps (s : State) : List Nat := sortBy id ((s.acl.map fun e => e.1 % 262144).eraseDups)

/-- End of the recovery window, zero when none is open (R504). -/
def windowEnd (s : State) : Nat := if s.now < s.home.recoveryEnd then s.home.recoveryEnd else 0

/-- Announce the home epoch to an endpoint; only an ACTIVE or UNPAIRED SH940 does (R504). -/
def sendEpoch (s : State) (ep : Nat) : State :=
  if s.pair.role = .active || s.pair.role = .unpaired || s.pair.role = .takingOver then
    sendMgt s ep fun p => .epoch p ep s.homeEpoch s.now (windowEnd s)
  else s

def sendEpochs (s : State) (eps : List Nat) : State := eps.foldl sendEpoch s

/-! ### The window register block (R482) -/

def winClassCode : WinClass → Nat
  | .operator => 0
  | .tenant => 1
  | .host => 2
  | .bmc => 3
  | .peer => 4
  | .closed => 7

/-- The 64-byte register block of window `n` (R482). -/
def regBlock (s : State) (n : Nat) (w : Win) : List Byte :=
  leBytes 64 (packBits [ (10, n), (3, winClassCode w.cls), (3, 0), (18, winOwner w), (6, 0), (8, 3), (1, b2n w.busy),
    (1, b2n w.notify), (1, b2n w.alertEn), (1, b2n w.overrun), (12, 0), (32, w.lastCseq), (32, s.clk.feltiTick), (64, s.now),
    (8, w.alertStatus.toNat), (8, w.alertMask.toNat), (16, w.alertsDropped), (32, 0), (1, b2n w.ring), (255, 0) ])

/-- A byte of a window's address space as read (R481, R482). -/
def winByte (s : State) (n : Nat) (w : Win) (off : Nat) : Byte :=
  if off < 64 then ((regBlock s n w)[off]?).getD 0
  else if off < 0x80 ∨ (0x1000 ≤ off ∧ off < 0x41000) then NMap.getD w.mem off 0
  else 0

/-! ### The flash tier (R247, R248, R252) -/

/-- Drives that are not ONLINE. -/
def drivesOut (s : State) : Nat := ((List.range 8).filter fun p => (s.flash.drives.getD p {}).st ≠ .online).length

/-- FLASH_STATE: 0 normal, 1 degraded with one or two drives not ONLINE, 2 offline with three or more (R248, R251, R252). -/
def flashState (s : State) : Nat :=
  if drivesOut s = 0 then 0 else if drivesOut s < 3 then 1 else 2

/-! ### The peer path (R563, R571) -/

/-- The peer path is UP while a peer port is up and keyed. -/
def peerUp (s : State) : Bool := s.ports.any fun e => decide (8 ≤ e.1) && portUp s e.1 && e.2.key.keyed

/-- A change of the peer path is a PAIR event; its loss makes SYNC NOT_SYNCED (R563, R571). -/
def checkPeerPath (s : State) (port : Nat) : State :=
  let up := peerUp s
  if up = s.pair.peerPath then s
  else
    let s := { s with pair := { s.pair with
      peerPath := up
      peerSince := s.now
      sync := if up = false ∧ (s.pair.role = .active ∨ s.pair.role = .standby) then .notSynced else s.pair.sync } }
    event s .pathState (srcPort port) none none 0 [(0, 1, 1), (1, 1, if up then 0 else 1)]

/-! ### Tracker keys (R108, R150) -/

/-- Key of the tracker of an endpoint's tag. -/
def trkKey (ep tag : Nat) : Nat := 65536 * ep + tag

end Sys2Proof.Machine
end

