-- ==== Sys2Proof/Machine/Flash.lean ====
section
/-! DEFINITION. The flash tier: geometry (R231 to R234), units as stored (R234 to R236, R457), NVMe commands (R243, R244, R247), the
control area and its maps (R210, R237 to R239), write jobs with their row locks (R218, R237, R241, R248, R251). -/

namespace Sys2Proof.Machine

/-! ### Geometry -/

/-- The tier record of a hall; hall 4095's has FBASE 0 (R224, R231). -/
def tierRec (s : State) (hid : Nat) : TierRec := s.tier.halls.getD hid {}

/-- First FDA of a block (R231). -/
def blockFda (s : State) (hid : Nat) (h : Hall) (b : Nat) : Nat := 2 ^ 30 * (tierRec s hid).fbase + b * blockBytes h

/-- The flash units of a block (R231, R233). -/
def blockUnits (s : State) (hid : Nat) (h : Hall) (b : Nat) : List Nat :=
  (List.range (blockBytes h / 4096)).map fun i => blockFda s hid h b / 4096 + i

/-- Drive, row and row position of a unit, LBA of a row, parity drive of a row (R233). -/
def driveOf (u : Nat) : Nat := (u / 7 + 1 + u % 7) % 8
def rowOf (u : Nat) : Nat := u / 7
def lbaOf (u : Nat) : Nat := 262144 + u / 7
def rowLba (r : Nat) : Nat := 262144 + r
def parityDrive (r : Nat) : Nat := r % 8
/-- The unit that a drive holds of a row; none for its parity (R233). -/
def unitOn (d r : Nat) : Option Nat := if d = parityDrive r then none else some (7 * r + (d + 16 - (r % 8 + 1)) % 8)

def driveSt (s : State) (p : Nat) : DrvSt := (s.flash.drives.getD p {}).st

/-- Does a drive take writes: ONLINE or REBUILDING (R247, R250)? -/
def driveTakes (s : State) (p : Nat) : Bool := driveSt s p = .online || driveSt s p = .rebuilding

/-- May a drive's rows be read: ONLINE, or REBUILDING below its cursor (R250)? -/
def rowReadable (s : State) (d r : Nat) : Bool :=
  driveSt s d = .online || (driveSt s d = .rebuilding && decide (r < s.flash.rebuild.getD d 0))

/-- Is a drive's slot of a row readable, holding the current value, and not among those that read bad (R236, R250, log 3)? -/
def slotGood (s : State) (bad : List (Nat × Nat)) (d r : Nat) : Bool :=
  rowReadable s d r && !s.flash.missing.contains (d, r) && !bad.contains (d, r)

/-- How a unit reads: as stored, reconstructed from its row, or lost (R236, R248, R251). -/
inductive UnitRead where | direct | rebuilt | lost
  deriving DecidableEq, Repr

def unitRead (s : State) (bad : List (Nat × Nat)) (u : Nat) : UnitRead :=
  if slotGood s bad (driveOf u) (rowOf u) then .direct
  else if (List.range 8).all fun d => decide (d = driveOf u) || slotGood s bad d (rowOf u) then .rebuilt
  else .lost

/-- The slots a unit is read from (R236, R248). -/
def readSlots (s : State) (bad : List (Nat × Nat)) (u : Nat) : List (Nat × Nat) :=
  match unitRead s bad u with
  | .direct => [(driveOf u, rowOf u)]
  | .rebuilt => ((List.range 8).filter fun d => d ≠ driveOf u).map fun d => (d, rowOf u)
  | .lost => []

def dropSlot (l : List (Nat × Nat)) (k : Nat × Nat) : List (Nat × Nat) := l.filter fun x => x ≠ k
def addSlot (l : List (Nat × Nat)) (k : Nat × Nat) : List (Nat × Nat) := if l.contains k then l else l ++ [k]

/-! ### Units as stored -/

/-- Was a unit deallocated since this SH940 took the pool over? -/
def wiped (s : State) (u : Nat) : Bool := s.flash.wiped.any fun r => decide (256 * r.1 ≤ u ∧ u < 256 * r.2)

/-- A unit of flash as metadata: written by this SH940, or as the partner left it; none with STORED 0 (R235, R255). -/
def unitAt (s : State) (u : Nat) : Option UnitMeta :=
  match s.flash.units.get? u with
  | some m => some m
  | none => match s.flash.foreign with
    | none => none
    | some t =>
      if wiped s u then none
      else (Config.foreignUnit t u).map fun m => { m with key := ((hallOf s m.hall).map fun h => (genSlot s m.hall h m.gen).key).getD 0 }

/-- The 64 lines of a unit, decrypted. -/
def unitData (s : State) (u : Nat) : List Line :=
  (List.range 64).map fun i => match s.flash.units.get? u, s.flash.foreign with
    | none, some t => if wiped s u then 0 else Config.foreignLine t (64 * u + i)
    | _, _ => s.flash.lines.getD (64 * u + i) 0

/-- CRC-32C, a byte at a time: the reflected polynomial 0x82F63B78 (R235). -/
def crcByte32 (c : BitVec 32) (b : Byte) : BitVec 32 :=
  (List.range 8).foldl (fun (c : BitVec 32) _ => if c.getLsbD 0 then (c >>> 1) ^^^ 0x82F63B78#32 else c >>> 1) (c ^^^ b.setWidth 32)
def crc32c (bs : List Byte) : Nat := ((bs.foldl crcByte32 (BitVec.allOnes 32)) ^^^ BitVec.allOnes 32).toNat

/-- The 8 metadata bytes of a unit with STORED set (R235). -/
def metaWord (m : UnitMeta) (crc : Nat) : Nat :=
  packBits [(32, crc), (1, 1), (1, m.gen), (8, m.poison.toNat), (12, m.hall), (1, b2n m.journal), (9, 0)]

/-- A unit as its drive stores it: encrypted, with its metadata; a deallocated one is zero throughout (R235, R236, R457). -/
def storedUnit (u : Nat) (x : Option (UnitMeta × List Line)) : Stored :=
  match x with
  | none => { word := 0, lines := List.replicate 64 0 }
  | some (m, ls) =>
    let enc := (List.range 64).map fun i => Config.sealUnit m.key u i ((ls[i]?).getD 0)
    { word := metaWord m (crc32c (enc.flatMap lineBytes)), lines := enc }

/-- The bytewise XOR of LBAs, data and metadata (R234). -/
def xorStored (a b : Stored) : Stored := { word := a.word ^^^ b.word, lines := List.zipWith (fun x y => x ^^^ y) a.lines b.lines }

/-- What a drive's slot of a row holds, some of the row's units taking new contents (R233, R234). -/
def slotStored (s : State) (new : NMap (UnitMeta × List Line)) (d r : Nat) : Stored :=
  let unit := fun (u : Nat) => storedUnit u (match new.get? u with
    | some x => some x
    | none => (unitAt s u).map fun m => (m, unitData s u))
  match unitOn d r with
  | some u => unit u
  | none => (List.range 7).foldl (fun a p => xorStored a (unit (7 * r + p))) (storedUnit 0 none)

/-! ### NVMe commands (R243, R244) -/

/-- A drive's I/O queues are not there: a controller reset or a set-up is under way (R243, R246). -/
def queuesDown (d : Drive) : Bool := d.resetting.isSome || !d.todo.isEmpty

/-- A command is issued to a drive that takes I/O; all but reservation commands stop with the NVMe I/O. Without its queues the drive
gets it once they are there (R243, R244, R247, R254, R256). -/
def nvIssue (s : State) (p : Nat) (op : NvOp) (row n : Nat) (for_ : NvFor) (cmd : Emit) : State :=
  if driveTakes s p = false ∨ (s.flash.stopped = true ∧ for_ ≠ .resv) then s
  else
    let c : NvCmd := { id := s.flash.nextCmd, op := op, row := row, n := n, issued := s.now, for_ := for_, cmd := cmd }
    { s with
      flash := { s.flash with
        nextCmd := s.flash.nextCmd + 1
        drives := s.flash.drives.modify p fun d => { d with cmds := d.cmds ++ [c] } }
      out := if queuesDown (s.flash.drives.getD p {}) then s.out else s.out ++ [cmd] }

/-- The outstanding commands for one purpose end. -/
def nvEnd (s : State) (f : NvFor) : State :=
  { s with flash := { s.flash with drives := s.flash.drives.map fun e =>
    (e.1, { e.2 with cmds := e.2.cmds.filter fun c => c.for_ ≠ f }) } }

/-- The commands outstanding for one purpose. -/
def nvLeft (s : State) (f : NvFor) : Bool := s.flash.drives.any fun e => e.2.cmds.any fun c => c.for_ = f

/-- Slots as runs of consecutive rows, drive by drive: drive, first row, rows (the worked example of R252). -/
def runsOf (l : List (Nat × Nat)) : List (Nat × Nat × Nat) :=
  (List.range 8).flatMap fun d =>
    (sortBy id ((l.filter fun x => x.1 = d).map fun x => x.2)).foldl (fun (a : List (Nat × Nat × Nat)) r => match a.getLast? with
      | some (_, r0, n) => if r = r0 + n then a.dropLast ++ [(d, r0, n + 1)] else a ++ [(d, r, 1)]
      | none => [(d, r, 1)]) []

/-- Reads of slots, with their transfers on the drives' ports (R244, R373). -/
def readRows (s : State) (l : List (Nat × Nat)) (for_ : NvFor) (sub svc : Nat) : State :=
  (runsOf l).foldl (fun s x =>
    let (p, r, n) := x
    xfer (nvIssue s p .read r n for_ (.nvme p 0x02 (rowLba r) n [])) (0x18 + p) sub svc (4096 * n) 0) s

/-- Writes of slots; a transfer of writes counts twice (R244, R373). -/
def writeRows (s : State) (new : NMap (UnitMeta × List Line)) (l : List (Nat × Nat)) (op : NvOp) (for_ : NvFor) (sub svc : Nat) :
    State :=
  (runsOf l).foldl (fun s x =>
    let (p, r, n) := x
    let data := (List.range n).map fun i => slotStored s new p (r + i)
    xfer (nvIssue s p op r n for_ (.nvme p 0x01 (rowLba r) n data)) (0x18 + p) sub svc (8192 * n) 0) s

/-! ### The state of the tier -/

/-- Is the flash tier offline (R252)? -/
def flashOff (s : State) : Bool := flashState s = 2

/-- May no write start: the flash tier is offline, or all NVMe I/O is stopped (R252, R256, R565)? -/
def flashHalt (s : State) : Bool := flashOff s || s.flash.stopped

/-! ### The control area and its maps (R210, R237 to R239) -/

/-- The stored bit of a FDA's MiB (R210). -/
def storedBit (s : State) (fda : Nat) : Bool := s.tier.stored.contains (fda / 2 ^ 20)

/-- The regions of rows that a write of some units touches in part (R239). -/
def partRows (us : List Nat) : List Nat :=
  (us.map rowOf).eraseDups.filter fun r => !((List.range 7).all fun p => us.contains (7 * r + p))
def partRegions (us : List Nat) : List Nat := ((partRows us).map fun r => r / 4096).eraseDups

/-- The time of the last partial-row write of the regions a write touches (R239). -/
def setIntent (s : State) (us : List Nat) : State :=
  { s with flash := { s.flash with intent := (partRegions us).foldl (fun m g => m.set g s.now) s.flash.intent } }

/-- Does a write need bits that are not set: the stored bit of a MiB, the intent bit of a region (R210, R239)? -/
def needsBits (s : State) (us : List Nat) : Bool :=
  us.any (fun u => !storedBit s (4096 * u)) || (partRegions us).any fun g => (s.flash.intent.get? g).isNone

/-- Those bits are set. -/
def setBitsFor (s : State) (us : List Nat) : State :=
  let ms := ((us.map fun u => u / 256).eraseDups).filter fun m => !s.tier.stored.contains m
  setIntent { s with tier := { s.tier with stored := ms.foldl (fun l m => insertBy id m l) s.tier.stored } } us

/-- What the control area of a drive is to hold now. -/
def controlNow (s : State) (p : Nat) : Control :=
  { pool := s.hw.pool, pos := p, cmin := s.flash.cmin, intent := s.flash.intent.map fun e => e.1, stored := s.tier.stored }

/-- The control area is written on every ONLINE drive (R238). The answer is the write's number. -/
def ctlWrite (s : State) : State × Nat :=
  let on := (List.range 8).filter fun p => driveSt s p = .online
  let n := s.flash.nextJob
  let s := { s with flash := { s.flash with nextJob := n + 1, ctlOps := s.flash.ctlOps ++ [{ id := n, targets := on }] } }
  (on.foldl (fun s p => nvIssue s p .control 0 1 (.ctl n) (.nvmeCtl p (controlNow s p))) s, n)

/-- Has a majority of the drives written acknowledged (R238)? -/
def ctlOver (c : CtlOp) : Bool := decide (c.targets.length < 2 * c.acked.length) || c.targets.isEmpty

/-! ### Write jobs (R218, R237, R241) -/

/-- The spans of rows a job locks (R237, R241). -/
def jobSpans (j : FlashJob) : List (Nat × Nat) :=
  match j.kind with
  | .free lo hi => [(rowOf (256 * lo), rowOf (256 * hi - 1))]
  | _ => ((j.units.map rowOf).eraseDups).map fun r => (r, r)

/-- Do two jobs need a row in common? -/
def clash (a b : FlashJob) : Bool :=
  (jobSpans a).any fun x => (jobSpans b).any fun y => decide (x.1 ≤ y.2 ∧ y.1 ≤ x.2)

/-- Does a job hold the lock of a row? -/
def rowBusy (s : State) (r : Nat) : Bool :=
  s.flash.jobs.any fun j => j.st ≠ .waiting && (jobSpans j).any fun x => decide (x.1 ≤ r ∧ r ≤ x.2)

/-- Rows of a deallocated range shared with a neighbour, and the first whole row and their number (R241). -/
def freeRows (lo hi : Nat) : List Nat × Nat × Nat :=
  let a := 256 * lo
  let b := 256 * hi
  let r0 := ceilDiv a 7
  let r1 := b / 7
  (((if a % 7 = 0 then [] else [rowOf a]) ++ (if b % 7 = 0 then [] else [rowOf (b - 1)])).eraseDups, r0, r1 - r0)

/-- The bytes of a superblock (R632). -/
def superBytes (hid : Nat) (w : Super) : List Byte :=
  let b := sub (leBytes 4 0x4B50434A ++ leBytes 1 1 ++ leBytes 3 0 ++ leBytes 8 w.sbseq ++ leBytes 8 w.ckptJ ++ leBytes 4 w.ckptPos ++
    leBytes 2 hid) 0 4032
  sub (b ++ sub (Config.sha384 b) 0 48) 0 4096

/-- The data blocks of a journal record: 64 lines each, in header order (R190). -/
def recData (r : JRec) : List (List Line) :=
  (List.range (r.blocks - 1)).map fun j => ((r.lines.drop (64 * j)).take 64).map fun e => e.2.data

/-- The bytes of a header block (R190). -/
def headerBytes (hid : Nat) (r : JRec) : List Byte :=
  let h := sub (leBytes 8 r.jseq ++ leBytes 8 r.age ++ leBytes 8 r.issue ++ leBytes 2 hid ++ leBytes 2 r.lines.length ++ leBytes 1 1 ++
    leBytes 1 r.gen) 0 64
  let b := sub (h ++ r.lines.flatMap fun e => leBytes 8 (64 * e.1)) 0 4032
  let data := (recData r).flatMap fun d => sub (d.flatMap lineBytes) 0 4096
  sub (b ++ sub (Config.sha384 (b ++ data)) 0 48) 0 4096

/-- 4,096 bytes as the 64 lines of a unit. -/
def bytesUnit (b : List Byte) : List Line := (List.range 64).map fun i => bytesLine (sub b (64 * i) 64)

/-- Position in the ring after a record (R191, R632). -/
def ringAfter (pos blocks : Nat) : Nat := 2 + (pos - 2 + blocks) % 262142

/-- First unit of a hall's journal, and the units of a record (R190, R191, R632). -/
def jrnBase (s : State) (hid : Nat) : Nat := 2 ^ 30 * (tierRec s hid).jbase / 4096
def jrnUnits (s : State) (hid : Nat) (r : JRec) : List Nat :=
  (List.range r.blocks).map fun i => jrnBase s hid + ringAfter r.pos i

/-- The key and generation under which a hall's units are stored (R218, R457). -/
def metaOf (s : State) (hid : Nat) (poison : BitVec 8) (journal : Bool) : UnitMeta :=
  match hallOf s hid with
  | none => { gen := 0, poison := poison, hall := hid, journal := journal }
  | some h => { gen := curGen s hid h, poison := poison, hall := hid, journal := journal, key := (curSlot s hid h).key }

/-- A staged unit: unwritten granules zero, poison by part (R218, R235). A line that the copy left out keeps what flash holds of it
(R404). -/
def stagedUnit (s : State) (hid : Nat) (h : Hall) (b : Nat) (ls : List (Nat × LineData)) (u : Nat) : UnitMeta × List Line :=
  let base := blockFda s hid h b
  let hl0 := (b * blockBytes h + (4096 * u - base)) / 64
  let mine := ls.filter fun e => decide (hl0 ≤ e.1 ∧ e.1 < hl0 + 64)
  let old := ((unitAt s u).map fun m => m.poison).getD 0
  let was := unitData s u
  let covered := fun (k : Nat) => mine.any fun e => decide ((e.1 - hl0) / 8 = k)
  let poison : BitVec 8 := (List.range 8).foldl (fun (a : BitVec 8) k =>
    let bad := (mine.any fun e => decide ((e.1 - hl0) / 8 = k) && decide (e.2.poison ≠ 0)) ||
      (!covered k && old.getLsbD k)
    if bad then a ||| BitVec.ofNat 8 (2 ^ k) else a) 0
  (metaOf s hid poison false, (List.range 64).map fun i => match mine.find? fun e => e.1 = hl0 + i with
    | some e => e.2.data
    | none => (was[i]?).getD 0)

/-- What a job stores, unit by unit (R190, R218, R632). -/
def jobUnits (s : State) (j : FlashJob) : NMap (UnitMeta × List Line) :=
  match j.kind with
  | .block hid b => match hallOf s hid, blockOf s hid b with
    | some h, some x => j.units.foldl (fun m u => m.set u (stagedUnit s hid h b x.staging u)) []
    | _, _ => []
  | .record hid q => match (s.jrn.get? hid).bind fun x => x.recs.find? fun r => r.jseq = q with
    | some r =>
      let blocks := bytesUnit (headerBytes hid r) :: recData r
      (j.units.zip blocks).foldl (fun m e => m.set e.1 ({ metaOf s hid 0 true with gen := r.gen }, e.2)) []
    | none => []
  | .super hid => match s.jrn.get? hid with
    | some x => x.sbWrite.foldl (fun m w => m.set (jrnBase s hid + b2n w.2) (metaOf s hid 0 true, bytesUnit (superBytes hid w.1))) []
    | none => []
  | .free _ _ => []

/-- May a row take its parity after a write of some units: the parity drive takes writes, every other unit is known, and of the
drives whose slot is not read at most one, unless all take writes again (R237, R248, R251)? -/
def parityKept (s : State) (us : List Nat) (r : Nat) : Bool :=
  let away := (List.range 8).filter fun d => !rowReadable s d r
  driveTakes s (parityDrive r) && (decide (away.length ≤ 1) || away.all (driveTakes s)) &&
    (List.range 7).all fun p => us.contains (7 * r + p) || decide (unitRead s [] (7 * r + p) ≠ .lost)

/-- The slots a write of some units writes: the units' own and the parity (R237, R248). -/
def writeSlots (s : State) (us : List Nat) : List (Nat × Nat) :=
  ((us.map fun u => (driveOf u, rowOf u)) ++
    ((us.map rowOf).eraseDups.filter (parityKept s us)).map fun r => (parityDrive r, r)).filter fun x => driveTakes s x.1

/-- The slots a write that covers a row in part reads first: the units it replaces and the parity, or the whole row where a slot of
it cannot be read (R237, R248). -/
def preSlots (s : State) (us : List Nat) : List (Nat × Nat) :=
  (partRows us).flatMap fun r =>
    let all := (List.range 8).filter fun d => slotGood s [] d r
    if all.length = 8 then
      ((us.filter fun u => rowOf u = r).map fun u => (driveOf u, r)) ++ [(parityDrive r, r)]
    else all.map fun d => (d, r)

/-- A row after a write of some units: which slots hold its current value (R237, R248, R250, R251). -/
def settleRow (us : List Nat) (s : State) (r : Nat) : State :=
  let hit := (us.filter fun u => rowOf u = r).map driveOf ++ (if parityKept s us r then [parityDrive r] else [])
  let stale := (us.filter fun u => rowOf u = r).map driveOf ++ [parityDrive r]
  let miss := stale.foldl (fun m d => if hit.contains d && driveTakes s d then dropSlot m (d, r) else addSlot m (d, r)) s.flash.missing
  let news := hit.filter fun d => driveSt s d = .rebuilding && !rowReadable s d r
  { s with flash := { s.flash with
    missing := miss, fresh := news.foldl (fun f d => addSlot f (d, r)) s.flash.fresh } }

/-- Units of flash hold new data and metadata (R235, R237). -/
def putUnits (s : State) (new : NMap (UnitMeta × List Line)) : State :=
  let us := new.map fun e => e.1
  let s := (us.map rowOf).eraseDups.foldl (settleRow us) s
  new.foldl (fun s e => { s with flash := { s.flash with
    units := s.flash.units.set e.1 e.2.1
    lines := (List.range 64).foldl (fun t i => t.put (64 * e.1 + i) ((e.2.2[i]?).getD 0) 0) s.flash.lines } }) s

def modJob (s : State) (id : Nat) (f : FlashJob → FlashJob) : State :=
  { s with flash := { s.flash with jobs := s.flash.jobs.map fun j => if j.id = id then f j else j } }
def jobAt (s : State) (id : Nat) : Option FlashJob := s.flash.jobs.find? fun j => j.id = id
/-- The job of a kind that has its commands out. -/
def runningJob (s : State) (k : JobKind) : Option FlashJob := s.flash.jobs.find? fun j => j.kind = k && j.st = .running

/-- A job's maps are durable: its commands go out (R237, R241). A journal row's parity is in SRAM, so a record reads nothing. -/
def jobGo (s : State) (j : FlashJob) : State :=
  let s := modJob s j.id fun j => { j with st := .running }
  match j.kind with
  | .free lo hi =>
    let (shared, r0, n) := freeRows lo hi
    let s := if n = 0 then s
      else ((List.range 8).filter (driveTakes s)).foldl (fun s p =>
        nvIssue s p .dsm r0 n (.job j.id) (.nvme p 0x09 (rowLba r0) n [])) s
    let s := readRows s (shared.flatMap fun r => ((List.range 8).filter fun d => decide (d ≠ parityDrive r) && slotGood s [] d r).map
      fun d => (d, r)) (.job j.id) j.sub j.svc
    let s := writeRows s [] ((shared.filter (parityKept s [])).map fun r => (parityDrive r, r)) .write (.job j.id) j.sub j.svc
    shared.foldl (settleRow []) s
  | k =>
    let new := jobUnits s j
    let s := match k with
      | .record hid _ =>
        let r := (j.units.getLast?.map rowOf).getD 0
        { s with jrn := s.jrn.modify hid fun x => { x with sram := some (r, slotStored s new (parityDrive r) r) } }
      | _ => readRows s (preSlots s j.units) (.job j.id) j.sub j.svc
    writeRows (setIntent s j.units) new (writeSlots s j.units) .write (.job j.id) j.sub j.svc

/-- A deallocation of which no command is outstanding is over. -/
def freeOver (s : State) (j : FlashJob) : State :=
  if nvLeft s (.job j.id) then s else { s with flash := { s.flash with jobs := s.flash.jobs.filter fun x => x.id ≠ j.id } }

/-- A job whose control-area write is over goes on. -/
def jobNext (s : State) (j : FlashJob) : State :=
  let s := jobGo s j
  match j.kind with
  | .free _ _ => freeOver s j
  | _ => s

/-- Control-area writes that a majority has acknowledged are over, and the jobs that waited for them go on (R238). -/
def ctlSettle (s : State) : State :=
  let (done, rest) := s.flash.ctlOps.partition ctlOver
  done.foldl (fun s c => (s.flash.jobs.filter fun j => j.st = .control c.id).foldl jobNext s)
    { s with flash := { s.flash with ctlOps := rest } }

/-- A waiting job takes its row locks: bits it needs are set and made durable first (R210, R239, R241). -/
def jobStart (s : State) (j : FlashJob) : State :=
  let change := match j.kind with
    | .free _ _ => true
    | _ => needsBits s j.units
  if change then
    let (s, n) := ctlWrite (setBitsFor s j.units)
    ctlSettle (modJob s j.id fun j => { j with st := .control n })
  else jobNext s j

/-- Waiting jobs start, in order of arrival, where no earlier job needs a row of theirs (R237, R241). -/
def runJobs (s : State) : State :=
  if flashHalt s then s
  else (s.flash.jobs.foldl (fun (a : State × List FlashJob) j =>
    if j.st = .waiting ∧ (a.2.any (clash j)) = false then
      let t := jobStart a.1 j
      (t, if (jobAt t j.id).isSome then a.2 ++ [j] else a.2)
    else (a.1, a.2 ++ [j])) (s, [])).1

/-- A new job. -/
def addJob (s : State) (kind : JobKind) (units : List Nat) (sub svc : Nat) : State :=
  let j : FlashJob := { id := s.flash.nextJob, kind := kind, units := units, sub := sub, svc := svc }
  runJobs { s with flash := { s.flash with nextJob := s.flash.nextJob + 1, jobs := s.flash.jobs ++ [j] } }

/-- A job's writes are acknowledged: `keep` stores its units (R218). -/
def endJob (s : State) (j : FlashJob) (keep : Bool) : State :=
  let new := jobUnits s j
  let s := nvEnd s (.job j.id)
  let s := if keep then putUnits (setIntent s j.units) new else s
  { s with flash := { s.flash with jobs := s.flash.jobs.filter fun x => x.id ≠ j.id } }

/-- Jobs that have not started are given up. -/
def dropJobs (s : State) (p : JobKind → Bool) : State :=
  { s with flash := { s.flash with jobs := s.flash.jobs.filter fun j => j.st ≠ .waiting || !p j.kind } }

/-- Deallocate an FDA range of MiBs: its units read as never stored from here on; the maps, the drives and the shared rows follow
(R241). -/
def deallocate (s : State) (lo hi : Nat) : State :=
  let s := { s with
    tier := { s.tier with stored := s.tier.stored.filter fun m => decide (m < lo ∨ hi ≤ m) }
    flash := { s.flash with
      units := s.flash.units.clear (lo * 256) (hi * 256)
      lines := s.flash.lines.clear (16384 * lo) (16384 * hi)
      wiped := if s.flash.foreign.isSome then s.flash.wiped ++ [(lo, hi)] else s.flash.wiped } }
  addJob s (.free lo hi) [] sysSub 5

end Sys2Proof.Machine
end

