-- ==== Sys2Proof/Machine/TierOps.lean ====
section
/-! DEFINITION. The tier engine's operations: frames and victims (R213, R214, R415), landings (R210 to R212, R229, R236), writebacks
(R208, R218, R640), closed sets and checkpoints (R192, R632), replay (R193), drive states (R247). -/

namespace Sys2Proof.Machine

/-! ### Blocks and frames -/

/-- The blocks of a hall, by number. -/
def hallBlocks (s : State) (hid : Nat) : List (Nat × Block) :=
  (s.tier.blocks.filter fun e => e.1 / 2 ^ 32 = hid).map fun e => (e.1 % 2 ^ 32, e.2)

def modBlock (s : State) (hid b : Nat) (f : Block → Block) : State :=
  { s with tier := { s.tier with blocks := s.tier.blocks.modify (blkKey hid b) f } }

/-- Channels that hold part of a block (R43, R415). -/
def blockChans (h : Hall) (b : Nat) : List Nat :=
  ((List.range (max 1 (blockBytes h / grainBytes h))).map fun i => chanOf h (b * blockBytes h + i * grainBytes h)).eraseDups

/-- Ranges on a channel that a new slot of a hall may not touch: RESIDENT extents, its own slots, the 4 KiB frames of other
halls' slots (R61, R415). -/
def takenOn (s : State) (hid c : Nat) : List (Nat × Nat) :=
  (s.halls.flatMap fun e => (e.2.extents.filter fun x => x.1 = c).map fun x => (2 ^ 30 * x.2, 2 ^ 30 * (x.2 + 1))) ++
    s.tier.blocks.flatMap fun e =>
      let n := match hallOf s (e.1 / 2 ^ 32) with
        | some h => slotBytes h
        | none => 4096
      (e.2.slots.filter fun x => x.1 = c).map fun x =>
        if e.1 / 2 ^ 32 = hid then (x.2, x.2 + n) else (4096 * (x.2 / 4096), 4096 * ceilDiv (x.2 + n) 4096)

/-- The lowest free slot of a hall on a channel (R61, R415). -/
def freeSlot (s : State) (hid : Nat) (h : Hall) (c : Nat) : Option Nat :=
  let n := slotBytes h
  let taken := takenOn s hid c
  let lo := if hid = 4095 then 0 else 2 ^ 26
  let hi := if hid = 4095 then 2 ^ 26 else 2 ^ 30 * (s.dram.chans.getD c {}).capGib
  let cands := (lo :: taken.map fun r => ceilDiv r.2 n * n).filter fun a =>
    decide (lo ≤ a ∧ a + n ≤ hi) && taken.all fun r => decide (a + n ≤ r.1 ∨ r.2 ≤ a)
  minBy id cands

/-- Which victim a landing of a block needs (R213): none; any of the hall; one with a slot on a channel. -/
inductive Need where | none | any | on (c : Nat)
  deriving DecidableEq, Repr

def landNeed (s : State) (hid : Nat) (h : Hall) (b : Nat) : Need :=
  let bs := hallBlocks s hid
  let share := 2 ^ 30 * h.quota / max 1 (hallChans h).length
  match (blockChans h b).find? fun c =>
      decide (share < ((bs.filter fun e => e.2.slots.any fun x => x.1 = c).length + 1) * slotBytes h) with
  | some c => .on c
  | none => if 2 ^ 30 * h.quota < (bs.length + 1) * blockBytes h then .any else .none

/-- Does a block hold a pinned line (R177)? -/
def blockPinned (s : State) (h : Hall) (b : Nat) : Bool :=
  let lo := lineOf h (b * blockBytes h)
  s.home.dir.any fun e => e.2.pin.isSome && decide (lo ≤ e.1 ∧ e.1 < lo + blockBytes h / 64)

/-- The blocks that bytes of a hall lie in. -/
def blocksOf (h : Hall) (off len : Nat) : List Nat :=
  let b0 := off / blockBytes h
  (List.range (ceilDiv (off + len) (blockBytes h) - b0)).map fun i => b0 + i

/-- Is a block held from eviction: by a KEEP hint, by a landing order it was ordered by, or by one still queued (R214, R229)? -/
def blockHeld (s : State) (hid : Nat) (h : Hall) (e : Nat × Block) : Bool :=
  (e.2.keepUntil.any fun t => s.now < t) || (e.2.holdUntil.any fun t => s.now < t) ||
    s.tier.orders.any fun o => o.hall = hid && (blocksOf h o.offset o.length).contains e.1

/-- May a block be a victim (R214, R252)? -/
def victimOk (s : State) (hid : Nat) (h : Hall) (n : Need) (e : Nat × Block) : Bool :=
  (e.2.st = .clean || (e.2.st = .dirty && !flashHalt s)) && !blockPinned s h e.1 && !blockHeld s hid h e &&
    (match n with
      | .on c => e.2.slots.any fun x => x.1 = c
      | _ => true)

/-- The first group of 32 blocks from the hand that holds a victim, best first: lowest heat, CLEAN before DIRTY, earlier
landing (R214). The hand moves past it. -/
def pickVictim (s : State) (hid : Nat) (h : Hall) (n : Need) : Option (Nat × Nat) :=
  let bs := (hallBlocks s hid).filter fun e => e.2.st ≠ .landing
  let hand := (tierRec s hid).hand
  let order := (bs.filter fun e => decide (hand ≤ e.1)) ++ bs.filter fun e => decide (e.1 < hand)
  let rec go : Nat → List (Nat × Block) → Option (Nat × Nat)
    | 0, _ => none
    | fuel + 1, l =>
      if l.isEmpty then none
      else
        let w := l.take 32
        let ok := w.filter (victimOk s hid h n)
        let rank := fun (e : Nat × Block) => 2 * e.2.heat + (if e.2.st = .clean then 0 else 1)
        let best := (minBy rank ok).elim 0 rank
        match minBy (fun e => e.2.seq) (ok.filter fun e => rank e = best) with
        | some v => some (v.1, ((w.getLast?).map fun e => e.1 + 1).getD 0)
        | none => go fuel (l.drop 32)
  go (order.length + 1) order

/-- The slots of a block are cleared of WRITTEN (R59, R210, R212). -/
def clearSlots (s : State) (h : Hall) (slots : List (Nat × Nat)) : State :=
  slots.foldl (fun s e => clearRange s e.1 e.2 (e.2 + slotBytes h)) s

/-- A block leaves its frame, which is cleared of WRITTEN for what comes into it next (R59). -/
def dropBlock (s : State) (hid b : Nat) : State :=
  let s := match hallOf s hid, blockOf s hid b with
    | some h, some x => clearSlots s h x.slots
    | _, _ => s
  { s with tier := { s.tier with blocks := s.tier.blocks.erase (blkKey hid b) } }

/-- A block's frame is released: it is unlanded (R207, R221). -/
def evictBlock (s : State) (hid b : Nat) : State :=
  let s := dropBlock s hid b
  { s with tier := { s.tier with evicted := (s.tier.evicted.filter fun e => s.now < sec 1 + e.2.2) ++ [(hid, b, s.now)] } }

/-! ### Filling and copying frames -/

/-- A line of a landing block is placed in its frame, every granule WRITTEN (R211, R212). -/
def fillLine (s : State) (hid : Nat) (h : Hall) (x : Nat) (d : LineData) : State :=
  match locate s hid h x with
  | none => s
  | some (c, ca) =>
    if chanOnline s c = false then s
    else
      let k := curSlot s hid h
      (List.range 4).foldl (fun s i =>
        putGran s c (ca + 16 * i)
          (if d.poison.getLsbD i || !slotLoaded k then poisonGranule s hid h
           else { data := granOf d.data i, poison := false, written := true, gen := curGen s hid h
                  tag := if h.light then h.tenant else 0, key := k.key })) s

/-- The decrypted lines of a stored unit, none when it has to land as poison; the second part says that its key is retired
(R212, R457, R469). -/
def unitLines (s : State) (hid : Nat) (h : Hall) (u : Nat) (m : UnitMeta) : List (Nat × LineData) × Bool :=
  let k := genSlot s hid h m.gen
  let retired := !slotLoaded k
  let ls := unitData s u
  ((List.range 64).map fun i =>
    let bad := retired || m.poison.getLsbD (i / 8)
    let d := if k.key = m.key then (ls[i]?).getD 0 else (Config.beyondData (s.free + u + i)).setWidth 512
    (i, { data := if bad then 0 else d, poison := if bad then 0xF else 0 }), retired)

/-- Does a STORED unit name another hall, or a journal where the range holds none (R236)? -/
def misplaced (s : State) (hid u : Nat) : Bool := (unitAt s u).any fun m => decide (m.hall ≠ hid) || m.journal

/-- FLASH_UNIT_LOST and FLASH_UNIT_REBUILT (R236, R637): why the unit was bad is known of a misplaced one; which of the first three tests
a read failed is free. -/
def unitEvent (s : State) (e : Ev) (hid : Nat) (h : Hall) (u : Nat) : State :=
  let why := match unitAt s u with
    | some m => if m.hall ≠ hid then 3 else if m.journal then 4 else Config.freeChoice s.free % 3
    | none => Config.freeChoice s.free % 3
  event s e (srcDrive (driveOf u)) (some h.tenant) (some hid) (4096 * u) [(0, 8, lbaOf u), (8, 1, why)]

/-- Land one unit of a block: as read, reconstructed and rewritten, or as poison (R211, R212, R236, R246, R248, R640). `bad`: slots that
read bad; `late`: slots whose read passed IO_TMO. -/
def landUnit (s : State) (hid : Nat) (h : Hall) (b : Nat) (bad late : List (Nat × Nat)) (i : Nat) : State :=
  let u := blockFda s hid h b / 4096 + i
  let k := (driveOf u, rowOf u)
  let x0 := b * blockBytes h + 4096 * i
  let wasBad := bad.contains k
  let s := if wasBad then { s with flash := { s.flash with mediaErr := satAdd 32 s.flash.mediaErr 1 } } else s
  let lose := fun (s : State) =>
    (List.range 64).foldl (fun s j => fillLine s hid h (x0 + 64 * j) allPoison) (unitEvent s.tickFree .flashUnitLost hid h u)
  match unitRead s (bad ++ late) u with
  | .lost => lose (if wasBad then { s with flash := { s.flash with missing := addSlot s.flash.missing k } } else s)
  | _ =>
    if misplaced s hid u then lose s
    else
      let s := if wasBad then
          writeRows (unitEvent s.tickFree .flashUnitRebuilt hid h u) [] [k] .s5write (.row (rowOf u)) sysSub 5
        else s
      match unitAt s u with
      | none => s
      | some m =>
        let (ls, retired) := unitLines s hid h u m
        let s := if retired then
            event s .keyRetiredAccess srcTier (some h.tenant) (some hid) (ppaOf h x0) [(0, 1, 1)] else s
        ls.foldl (fun s e => fillLine s hid h (x0 + 64 * e.1) e.2) s.tickFree

/-- One more asks for a landing: its hold is the longest of several orders, and the first that asked is charged (R229). -/
def Want.join (w : Want) (by_ : LandBy) (sub : Nat) : Want :=
  let w := if w.demand || w.hint || w.order.isSome then w else { w with sub := sub }
  match by_ with
  | .demand => { w with demand := true }
  | .hint => { w with hint := true }
  | .order t => { w with order := some (w.order.elim t fun u => max t u) }

/-- The hold that orders put on a block (R229). -/
def Want.hold (w : Want) (t : Option Nat) : Option Nat := match w.order, t with
  | some a, some b => some (max a b)
  | some a, none => some a
  | none, b => b

/-- Is a landing hinted or ordered (R219)? -/
def Want.hot (w : Want) : Bool := w.hint || w.order.isSome

/-- A landing ends: its block is CLEAN, with the heat of R219. -/
def landEnd (s : State) (hid b : Nat) : State :=
  let hot := (tierRec s hid).hintIn
  modBlock s hid b fun x => { x with st := .clean, heat := max (if x.want.hot then hot else 1) x.heat, bad := [], late := [], asked := [] }

/-- The slots a landing still has to read (R236, R246, R248). -/
def landSlots (s : State) (hid : Nat) (h : Hall) (b : Nat) (x : Block) : List (Nat × Nat) :=
  ((blockUnits s hid h b).flatMap (readSlots s (x.bad ++ x.late))).eraseDups.filter fun k => !x.asked.contains k

/-- A landing's reads go out, charged to what asked for it (R211, R229, R375). -/
def landReads (s : State) (hid : Nat) (h : Hall) (b : Nat) : State :=
  match blockOf s hid b with
  | none => s
  | some x =>
    let l := landSlots s hid h b x
    readRows (modBlock s hid b fun x => { x with asked := x.asked ++ l }) l (.land hid b) x.want.sub 3

/-- What a landing reads: nothing when its MiB's stored bit is clear (R210), poison when the flash tier is offline (R252), else
its units. -/
def landBegin (s : State) (hid : Nat) (h : Hall) (b : Nat) (w : Want) : State :=
  let slots := (blockChans h b).filterMap fun c => (freeSlot s hid h c).map fun a => (c, a)
  let k := blkKey hid b
  let refault := s.tier.evicted.any fun e => e.1 = hid ∧ e.2.1 = b ∧ s.now < sec 1 + e.2.2
  let s := { s with tier := { s.tier with
    seq := s.tier.seq + 1
    blocks := s.tier.blocks.set k { st := .landing, seq := s.tier.seq, slots := slots, want := w, holdUntil := w.hold none }
    halls := s.tier.halls.set hid (let t := tierRec s hid
      { t with
        landings := satAdd 32 t.landings 1
        refaults := if refault then satAdd 32 t.refaults 1 else t.refaults }) } }
  let s := clearSlots s h slots
  if flashOff s then
    let s := modBlock s hid b fun x => { x with offPoison := true }
    landEnd ((List.range (blockBytes h / 64)).foldl (fun s i => fillLine s hid h (b * blockBytes h + 64 * i) allPoison) s) hid b
  else if storedBit s (blockFda s hid h b) = false then landEnd s hid b
  else landReads s hid h b

/-! ### Writeback (R208, R217, R218, R640, R404) -/

/-- Is a line WRITTEN in any granule? -/
def lineWritten (s : State) (hid : Nat) (h : Hall) (x : Nat) : Bool :=
  match locate s hid h x with
  | some (c, ca) => chanOnline s c && (List.range 4).any fun i => (granAt s c (ca + 16 * i)).written
  | none => false

/-- Does the line's channel hold data at all (R404)? -/
def lineThere (s : State) (hid : Nat) (h : Hall) (x : Nat) : Bool :=
  match locate s hid h x with
  | some (c, _) => chanOnline s c
  | none => false

/-- The staging copy of a block: the lines of every unit with a WRITTEN granule, those of missing channels left out (R208,
R404, R640). -/
def stageCopy (s : State) (hid : Nat) (h : Hall) (b : Nat) : State × List (Nat × LineData) :=
  let x0 := b * blockBytes h
  let us := (List.range (blockBytes h / 4096)).filter fun i =>
    (List.range 64).any fun j => lineWritten s hid h (x0 + 4096 * i + 64 * j)
  let xs := us.flatMap fun i => ((List.range 64).map fun j => x0 + 4096 * i + 64 * j).filter fun x => lineThere s hid h x
  xs.foldl (fun (acc : State × List (Nat × LineData)) x =>
    let (s, d) := readLine acc.1 hid h x
    (s, acc.2 ++ [(x / 64, d)])) (s, [])

/-- The hall's key slots drain: no landing or writeback starts (R467). -/
def slotDraining (s : State) (hid : Nat) (h : Hall) : Bool := (curSlot s hid h).st = .draining

/-- May writebacks of a hall start: not offline or stopped, no key draining, no replay outstanding (R193, R252, R256, R467)? -/
def wbMay (s : State) (hid : Nat) (h : Hall) : Bool :=
  !flashHalt s && !slotDraining s hid h && !((s.jrn.get? hid).any fun j => j.skipped)

/-- Start the writeback of a DIRTY block, as a victim or not (R208, R217). -/
def startWriteback (s : State) (hid : Nat) (h : Hall) (b : Nat) (evict : Bool) : State :=
  match blockOf s hid b with
  | none => s
  | some x =>
    let fda := blockFda s hid h b
    if x.st ≠ .dirty ∨ wbMay s hid h = false ∨ (s.flash.jobs.any fun j => j.kind = .block hid b) = true then s
    else
      let (s, ls) := stageCopy s hid h b
      let us := (ls.map fun e => fda / 4096 + (e.1 * 64 - b * blockBytes h) / 4096).eraseDups
      let s := modBlock s hid b fun y => { y with
        st := if evict then .evicting true else .flushing
        redirty := false
        staging := ls
        for_ := none }
      addJob s (.block hid b) us sysSub 4

/-- The unit and parity writes of a writeback are acknowledged (R208, R218, R469): the units are stored, or dropped where the
key slot is retired, and the block leaves FLUSHING or EVICTING. One that has come to hold a pinned line stays landed (R177), and so does
a DIRTY victim while the flash tier is offline (R252). -/
def writebackEnd (s : State) (hid : Nat) (h : Hall) (b : Nat) (j : FlashJob) : State :=
  match blockOf s hid b with
  | none => endJob s j false
  | some x =>
    let loaded := slotLoaded (curSlot s hid h)
    let s := endJob s j loaded
    let s := if loaded then s
      else event s .keyRetiredAccess srcTier (some h.tenant) (some hid) (blockFda s hid h b) [(0, 1, 4)]
    let keep := fun (s : State) => modBlock s hid b fun y => { y with
        st := if y.redirty then .dirty else .clean
        dirtyAt := if y.redirty then s.now else y.dirtyAt
        maxDirty := if y.redirty then sec (tierRec s hid).maxDirty else y.maxDirty
        redirty := false
        staging := [] }
    match x.st with
    | .evicting _ => if blockPinned s h b || flashOff s then keep s else evictBlock s hid b
    | .flushing => keep s
    | _ => modBlock s hid b fun y => { y with staging := [] }

/-! ### Closed sets and checkpoints (R192, R632) -/

/-- Blocks a journal record names. -/
def recBlocks (h : Hall) (r : JRec) : List Nat := (r.lines.map fun e => e.1 * 64 / blockBytes h).eraseDups

/-- The last record naming one of some blocks, 0 when none. -/
def lastNaming (h : Hall) (rs : List JRec) (bs : List Nat) : Nat :=
  rs.foldl (fun a r => if (recBlocks h r).any (fun b => bs.contains b) then max a r.jseq else a) 0

/-- The closed set of blocks of R192 and its record number J, from one block. -/
def closedSet (h : Hall) (rs : List JRec) (b : Nat) : List Nat × Nat :=
  let rec go : Nat → List Nat → Nat → List Nat × Nat
    | 0, set, j => (set, j)
    | fuel + 1, set, j =>
      let set := (set ++ (rs.filter fun r => decide (r.jseq ≤ j)).flatMap (recBlocks h)).eraseDups
      let j' := lastNaming h rs set
      if j' ≤ j then (set, j) else go fuel set j'
  go (rs.length + 1) [b] (lastNaming h rs [b])

/-- The valid superblock with the higher SBSEQ: the checkpoint in force (R632). -/
def checkpoint (j : Journal) : Super :=
  if j.sb1.valid ∧ (j.sb0.valid = false ∨ j.sb0.sbseq < j.sb1.sbseq) then j.sb1 else j.sb0

/-- A checkpoint goes to the superblock that does not hold the one in force (R632). -/
def nextSuper (j : Journal) (ckptJ ckptPos : Nat) : Super × Bool :=
  ({ sbseq := max j.sb0.sbseq j.sb1.sbseq + 1, ckptJ := ckptJ, ckptPos := ckptPos }, decide (checkpoint j = j.sb0))

/-- Superblocks are written (R632). -/
def writeSupers (s : State) (hid : Nat) (l : List (Super × Bool)) : State :=
  addJob { s with jrn := s.jrn.modify hid fun j => { j with sbWrite := l } } (.super hid) (l.map fun w => jrnBase s hid + b2n w.2) sysSub 4

/-- The journal of a new PERSISTENT hall: block 0 with SBSEQ 1, block 1 with SBSEQ 2, neither valid before it is written (R632). -/
def emptyJournal : Journal :=
  { sb0 := { sbseq := 1, ckptJ := 0, ckptPos := 2, valid := false }, sb1 := { sbseq := 2, ckptJ := 0, ckptPos := 2, valid := false } }

def newJournal (s : State) (hid : Nat) : State :=
  let j := emptyJournal
  writeSupers { s with jrn := s.jrn.set hid j } hid [({ j.sb0 with valid := true }, false), ({ j.sb1 with valid := true }, true)]

/-- Write the checkpoint of the lowest goal whose writebacks are durable to the other superblock (R192, R632). -/
def seekCheckpoint (s : State) (hid : Nat) : State :=
  match s.jrn.get? hid with
  | none => s
  | some j => match j.sbWrite, (j.goals.filter fun g => g.2.isEmpty).getLast? with
    | [], some g =>
      let goals := j.goals.filter fun x => decide (g.1 < x.1)
      let s := { s with jrn := s.jrn.set hid { j with goals := goals } }
      match j.recs.find? fun r => r.jseq = g.1 with
      | some r => writeSupers s hid [nextSuper j g.1 (ringAfter r.pos r.blocks)]
      | none => s
    | _, _ => s

/-- Has a record a committed line of a block that is not in memory yet: it is being made durable or applied (R187, R192)? -/
def unapplied (s : State) (hid : Nat) (h : Hall) (r : JRec) (b : Nat) : Bool :=
  match s.welt.slots.get? r.slot with
  | none => false
  | some w => w.st = .committing && decide (w.hall = hid ∧ w.age = r.age) &&
      (match w.phase with
        | .collect => false
        | .durable => (recBlocks h r).contains b
        | .apply => w.left.any fun l => decide ((l * 64 - 2 ^ 30 * h.base) / blockBytes h = b))

/-- Does a block hold or await what a record up to J wrote to it and flash has not? -/
def goalNeeds (s : State) (hid : Nat) (h : Hall) (j : Journal) (jn b : Nat) : Bool :=
  (j.recs.any fun r => decide (r.jseq ≤ jn) && unapplied s hid h r b) || (match (blockOf s hid b).map fun x => x.st with
    | some BlkSt.dirty | some BlkSt.flushing | some (BlkSt.evicting true) => true
    | _ => false)

/-- Write back a DIRTY block; one that a record beyond the checkpoint names takes its closed set with it, in JSEQ order
(R192). The goal waits for each block once, and for one rewritten during its writeback twice. -/
def writeBack (s : State) (hid : Nat) (h : Hall) (b : Nat) (evict : Bool) : State :=
  match s.jrn.get? hid with
  | none => startWriteback s hid h b evict
  | some j =>
    if (j.recs.any fun r => (recBlocks h r).contains b) = false then startWriteback s hid h b evict
    else if wbMay s hid h = false then s
    else
      let (set, jn) := closedSet h j.recs b
      let rank := fun b => lastNaming h j.recs [b]
      let order := sortBy rank set
      let out := order.flatMap fun c =>
        if goalNeeds s hid h j jn c then
          (match blockOf s hid c with
            | some x => if x.st = .flushing ∧ x.redirty = true then [c, c] else [c]
            | none => [c])
        else []
      let s := order.foldl (fun s c => startWriteback s hid h c (evict && decide (c = b))) s
      seekCheckpoint { s with jrn := s.jrn.modify hid fun j => { j with goals := j.goals ++ [(jn, out)] } } hid

/-- A block's writeback is durable: it leaves the goals that waited for it, and is written back again where a goal needs what
came during the writeback (R192). -/
def goalDone (s : State) (hid : Nat) (h : Hall) (b : Nat) : State :=
  match s.jrn.get? hid with
  | none => s
  | some j =>
    let stay := fun (g : Nat × List Nat) => (j.recs.any fun r => decide (r.jseq ≤ g.1) && unapplied s hid h r b)
    let s := { s with jrn := s.jrn.set hid { j with goals := j.goals.map fun g => if stay g then g else (g.1, g.2.erase b) } }
    let again := (s.jrn.get? hid).any fun j => j.goals.any fun g => g.2.contains b
    seekCheckpoint (if again then writeBack s hid h b false else s) hid

/-- Goals go on: a block that none of the goal's records keeps back leaves it; a DIRTY one is written back (R192). -/
def goalTick (s : State) (hid : Nat) : State :=
  match s.jrn.get? hid, hallOf s hid with
  | some j, some h =>
    if j.goals.isEmpty then s
    else
      let goals := j.goals.map fun g => (g.1, g.2.filter (goalNeeds s hid h j g.1))
      let s := { s with jrn := s.jrn.set hid { j with goals := goals } }
      let todo := (goals.flatMap fun g => g.2).eraseDups.filter fun b => !j.recs.any fun r => unapplied s hid h r b
      seekCheckpoint (todo.foldl (fun s b => startWriteback s hid h b false) s) hid
  | _, _ => s

/-! ### Drive states (R247, R248) and replay (R193) -/

/-- DRIVE_STATE codes (R519). -/
def drvCode : DrvSt → Nat
  | .online => 0
  | .failed => 1
  | .rebuilding => 2
  | .absent => 3
  | .foreign => 4

/-- The records a replay takes, one after the other from the checkpoint: JSEQ in sequence, every unit readable (R193). -/
def replayed (s : State) (hid : Nat) : Nat → List JRec → List JRec
  | _, [] => []
  | n, r :: t =>
    if r.jseq = n ∧ r.durable = true ∧ ((jrnUnits s hid r).all fun u => decide (unitRead s [] u ≠ .lost)) = true then
      r :: replayed s hid (n + 1) t
    else []

/-- One recorded line is written into its unit by read, merge and write (R193). -/
def replayLine (s : State) (hid : Nat) (x : Nat × LineData) : State :=
  let u := (2 ^ 30 * (tierRec s hid).fbase + x.1 * 64) / 4096
  let m := metaOf s hid (((unitAt s u).map fun m => m.poison).getD 0) false
  let new : NMap (UnitMeta × List Line) := [(u, (m, (unitData s u).set (x.1 % 64) x.2.data))]
  let s := setBitsFor s [u]
  let f : NvFor := .row (rowOf u)
  let s := readRows s ((readSlots s [] u ++ preSlots s [u]).eraseDups) f sysSub 1
  putUnits (nvEnd (writeRows s new (writeSlots s [u]) .write f sysSub 1) f) new

/-- A journal's records are applied to the hall's flash data, up to the first that cannot be read, and the checkpoint moves past them.
With neither superblock valid nothing is, and both are written afresh (R193, R632). Each line's unit is read and written in the replay
itself (DEDUCED, log 94). -/
def replayJournal (s : State) (hid : Nat) : State :=
  match s.jrn.get? hid, hallOf s hid with
  | some j, some h =>
    let c := checkpoint j
    let keepJ := fun (j : Journal) (n pos : Nat) => { j with recs := [], goals := [], queue := [], sbWrite := [], pos := pos, nextJ := n + 1
                                                             skipped := false }
    if j.sb0.valid = false ∧ j.sb1.valid = false then
      let top := j.recs.foldl (fun a r => max a r.jseq) 0
      let s := { s with jrn := s.jrn.set hid (keepJ j top 2) }
      let n := max j.sb0.sbseq j.sb1.sbseq
      let s := writeSupers s hid [({ sbseq := n + 1, ckptJ := top, ckptPos := 2 }, false), ({ sbseq := n + 2, ckptJ := top, ckptPos := 2 }, true)]
      event s .journalLost srcTier (some h.tenant) (some hid) 0 [(8, 8, top)]
    else
      let rs := replayed s hid (c.ckptJ + 1) j.recs
      let s := rs.foldl (fun s r => (r.lines.filter fun e => decide (e.1 * 64 < 2 ^ 30 * h.size)).foldl (fun s e => replayLine s hid e) s) s
      let s := if rs.isEmpty then s else (ctlWrite s).1
      let (jn, pos) := ((rs.getLast?).map fun r => (r.jseq, ringAfter r.pos r.blocks)).getD (c.ckptJ, c.ckptPos)
      let s := { s with jrn := s.jrn.set hid (keepJ j jn pos) }
      let s := if rs.isEmpty then s else writeSupers s hid [nextSuper j jn pos]
      event s .journalReplayed srcTier (some h.tenant) (some hid) 0 [(0, 4, rs.length), (8, 8, jn)]
  | _, _ => s

/-- A hall whose tenant's key slot awaits its key cannot be replayed yet: its units could not be encrypted (DEDUCED, log 94). -/
def replayMay (s : State) (hid : Nat) : Bool :=
  (hallOf s hid).all fun h => slotLoaded (curSlot s hid h) && !s.flash.jobs.any fun j => (match j.kind with
    | .free lo hi => decide (1024 * (tierRec s hid).fbase < hi ∧ lo < 1024 * ((tierRec s hid).fbase + h.size))
    | _ => false)

/-- Skipped replays run when the flash tier leaves the offline state, before any writeback of the hall; blocks that landed as poison
meanwhile land again (R193). -/
def replaySkipped (s : State) : State :=
  if flashHalt s then s
  else s.jrn.foldl (fun s e =>
    if e.2.skipped && replayMay s e.1 then
      let s := replayJournal s e.1
      (hallBlocks s e.1).foldl (fun s b => if b.2.st = .clean ∧ b.2.offPoison = true then dropBlock s e.1 b.1 else s) s
    else s) s

/-- The flash tier has gone offline: no writeback runs (R252); what was being written waits. -/
def stopJobs (s : State) : State :=
  let s := s.flash.jobs.foldl (fun s j => nvEnd s (.job j.id)) s
  let s := s.flash.ctlOps.foldl (fun s c => nvEnd s (.ctl c.id)) s
  { s with flash := { s.flash with jobs := s.flash.jobs.map fun j => { j with st := .waiting }, ctlOps := [] } }

/-- A drive changes state; the state of the flash tier follows, and what waited for the drive alone goes on (R193, R238, R247, R248,
R250, R252). -/
def driveTo (s : State) (p : Nat) (st : DrvSt) (cause : Nat) : State :=
  let d := s.flash.drives.getD p {}
  if d.st = st then s
  else
    let before := flashState s
    let inUse := decide (st = .online ∨ st = .rebuilding)
    let s := { s with flash := { s.flash with
      drives := s.flash.drives.set p { d with
        st := st
        cmds := if inUse then d.cmds else []
        holder := if inUse then d.holder else none
        resetting := none }
      fresh := s.flash.fresh.filter fun x => x.1 ≠ p
      ctlOps := if st = .online then s.flash.ctlOps else s.flash.ctlOps.map fun c =>
        { c with targets := c.targets.filter fun q => q ≠ p, acked := c.acked.filter fun q => q ≠ p }
      rebuild := if st = .rebuilding then s.flash.rebuild.set p 0 else s.flash.rebuild.erase p } }
    let s := event s .driveState (srcDrive p) none none 0 [(0, 1, drvCode d.st), (1, 1, drvCode st), (2, 1, cause)]
    let s := s.flash.jobs.foldl (fun s j => match j.kind with
      | .free _ _ => if j.st = .running then freeOver s j else s
      | _ => s) (ctlSettle s)
    let now := flashState s
    if now = before then runJobs s
    else
      let s := event s .flashState srcTier none none 0 [(0, 1, now), (1, 1, drivesOut s)]
      if now = 2 then stopJobs s else runJobs (if before = 2 then replaySkipped s else s)

/-! ### Landings -/

/-- Take frames from victims until the landing needs none, as far as victims are CLEAN; a DIRTY one is written back first, and
the landing waits for it (R213 to R215). True when a frame is there. -/
def makeRoom (s : State) (hid : Nat) (h : Hall) (b : Nat) : Nat → State × Bool
  | 0 => (s, false)
  | fuel + 1 => match landNeed s hid h b with
    | .none => (s, true)
    | n => if (hallBlocks s hid).any fun e => decide (e.2.st = .evicting true ∧ e.2.for_ = some b) then (s, false)
      else match pickVictim s hid h n with
      | none => (s, false)
      | some (v, hand) =>
        let s := { s with tier := { s.tier with halls := s.tier.halls.set hid { tierRec s hid with hand := hand } } }
        match (blockOf s hid v).map fun x => x.st with
        | some BlkSt.clean => makeRoom (evictBlock s hid v) hid h b fuel
        | _ => (modBlock (writeBack s hid h v true) hid v fun x => { x with for_ := some b }, false)

/-- A waiting landing, with what asks for it, and its place in the waiting line. -/
def waitLand (s : State) (hid b : Nat) (w : Want) : State :=
  let mine := fun (e : Nat × Nat × Want) => decide (e.1 = hid ∧ e.2.1 = b)
  let l := s.tier.waitVictim
  let l := if l.any mine then l.map (fun e => if mine e then (hid, b, w) else e) else l ++ [(hid, b, w)]
  { s with tier := { s.tier with waitVictim := l } }

/-- Land a block: join its landing or raise a landed block's heat; else take frames and begin, or wait for a victim (R211,
R213, R219, R226, R229). -/
def land (s : State) (hid : Nat) (h : Hall) (b : Nat) (by_ : LandBy) (sub : Nat) : State :=
  match blockOf s hid b with
  | some x =>
    if x.st = .landing then modBlock s hid b fun y =>
      let w := y.want.join by_ sub
      { y with want := w, holdUntil := w.hold y.holdUntil }
    else match by_ with
      | .demand => s
      | _ =>
        let hot := (tierRec s hid).hintIn
        modBlock s hid b fun y => { y with heat := max y.heat hot, holdUntil := (Want.join {} by_ sub).hold y.holdUntil }
  | none =>
    let mine := fun (e : Nat × Nat × Want) => decide (e.1 = hid ∧ e.2.1 = b)
    let was : Want := ((s.tier.waitVictim.find? mine).map fun (e : Nat × Nat × Want) => e.2.2).getD {}
    let w := was.join by_ sub
    let (s, room) := if slotDraining s hid h || s.flash.stopped then (s, false) else makeRoom s hid h b 64
    if room then
      landBegin { s with tier := { s.tier with waitVictim := s.tier.waitVictim.filter fun e => ¬(e.1 = hid ∧ e.2.1 = b) } } hid h b w
    else waitLand s hid b w

/-- A landing that waits tries again (R214). -/
def landAgain (s : State) (hid : Nat) (h : Hall) (b : Nat) (w : Want) : State :=
  if slotDraining s hid h || s.flash.stopped then s
  else match makeRoom s hid h b 64 with
    | (s, true) =>
      landBegin { s with tier := { s.tier with waitVictim := s.tier.waitVictim.filter fun e => ¬(e.1 = hid ∧ e.2.1 = b) } } hid h b w
    | (s, false) => s

/-- A landing's reads are done (R211): the units fill the frame and the block is CLEAN. -/
def landFinish (s : State) (hid : Nat) (h : Hall) (b : Nat) (x : Block) : State :=
  let us := blockUnits s hid h b
  let s := if flashOff s then
      let s := modBlock s hid b fun x => { x with offPoison := true }
      (List.range (blockBytes h / 64)).foldl (fun s i => fillLine s hid h (b * blockBytes h + 64 * i) allPoison) s
    else (List.range us.length).foldl (fun s i => landUnit s hid h b x.bad x.late i) s
  let s := x.slots.foldl (fun s e => xfer s (8 + e.1) x.want.sub 3 (slotBytes h) e.2) s
  landEnd s hid b

/-- A committed line of a block is in memory: checkpoints that wait for the block want it written back (R192). -/
def blockDirtied (s : State) (hid : Nat) (h : Hall) (b : Nat) : State :=
  match s.jrn.get? hid with
  | none => s
  | some j =>
    if (j.goals.any fun g => g.2.contains b) = false then s
    else
      let twice := (blockOf s hid b).any fun x => x.st = .flushing
      let s := if twice then { s with jrn := s.jrn.set hid { j with goals := j.goals.map fun g =>
          (g.1, if (g.2.filter fun c => c = b).length = 1 then b :: g.2 else g.2) } } else s
      startWriteback s hid h b false

end Sys2Proof.Machine
end

