-- ==== Sys2Proof/Machine/HomeOps.lean ====
section
/-! DEFINITION. What the home slices do with requests: completions (R119, R120, R150, R570), snoops (R117, R118), the directory
(R125 to R129), stores to memory (R149, R206, R638) and atomics (R144 to R146). -/

namespace Sys2Proof.Machine

/-! ### Who asks -/

/-- Subscriber and service a request's traffic is charged to (R375). -/
def reqSub (s : State) (r : Req) : Nat := match r.org with
  | .ep _ _ => ((aclOf s r.hall r.ep).map fun a => a.subscriber).getD 0
  | .engine lid _ _ => ((s.eng.lasts.get? lid).map (lastSub s)).getD 0
  | .ring qid _ => ((s.eng.queues.get? qid).map fun q => q.sub).getD 0
  | .load _ _ | .diag _ _ => sysSub
def reqSvc (r : Req) : Nat := match r.org with
  | .ep _ _ => if r.kind = .wltRd ∨ r.kind = .wltWr then 1 else 0
  | .diag _ _ => 7
  | _ => 2

/-- Does the request carry an engine context (R46, R219)? -/
def reqEngine (r : Req) : Bool := match r.org with
  | .ep _ _ => r.ctx.isSome
  | .diag _ _ => false
  | _ => true

/-! ### Completions -/

/-- Note what a tracker's request completed with (R150); the state of `dropped` says whether its completion found no path
(R152). -/
def trackDone (s : State) (ep tag : Nat) (code : CmpCode) (grant : Nat) (data : Bool) (v : Option (BitVec 128)) (lost : Bool) :
    State :=
  { s with home := { s.home with trackers := s.home.trackers.modify (trkKey ep tag) fun t =>
      { t with done := some (code, grant), data := data, value := v, dropped := if lost then some s.now else none } } }

/-- Hold a message for the standby's acknowledgement of mirror record `q` (R570). -/
def holdFor (s : State) (q port : Nat) (c : Cargo) (m : Emit) : State :=
  { s with pair := { s.pair with waits := s.pair.waits.map fun w =>
      if w.mseq = q then { w with send := w.send ++ [(port, c, m)] } else w } }

/-- Send a completion on a port, or hold it for the standby's acknowledgement of mirror record `mir` (R570). -/
def sendRsp (s : State) (port ep tag slots sub svc : Nat) (mir : Option Nat) (m : Emit) : State :=
  match mir with
  | some q => holdFor s q port (.rsp ep tag) m
  | none => send (xfer s (portRes port) sub svc (56 * slots) 0) port (.rsp ep tag) m

/-- A line of a `DRAM_DIAG_WRITE` has ended: the command completes when none of its lines is left (R430). -/
def diagEnd (s : State) (order half : Nat) (code : CmpCode) : State :=
  let mine := fun (r : Req) => match r.org with
    | .diag o i => decide (o = order ∧ i ≠ half)
    | _ => false
  match s.win.find? fun e => e.2.cmd.any fun c => c.order = order with
  | none => s
  | some (w, _) =>
    if code ≠ .ok then finishCmd s w (if code = .revoked then stRevoked else stFault) 0 []
    else if s.home.lines.any (fun e => e.2.fifo.any mine || e.2.active.any fun a => mine a.req) then s
    else finishCmd s w stOk 0 []

/-- XOR a mask into the stored bits of a line's four granules, undecoded (R430, R431). -/
def xorLine (s : State) (hid : Nat) (h : Hall) (x : Nat) (mask : BitVec 640) : State :=
  match locate s hid h x with
  | none => s
  | some (c, ca) => (List.range 4).foldl (fun s i =>
      let g := granAt s c (ca + 16 * i)
      putGran s c (ca + 16 * i) { g with err := g.err ^^^ (mask >>> (160 * i)).setWidth 160 }) s

/-- Complete a request: to its endpoint on the port its tracker names, or to the engine or ring that issued it. A dead
endpoint gets no response (R154). -/
def complete (s : State) (r : Req) (code : CmpCode) (grant : Nat) (data : Option LineData)
    (short : Option (BitVec 128 × BitVec 4)) (fwd : Bool) (mir : Option Nat) : State :=
  match r.org with
  | .ep port0 tag =>
    match s.home.trackers.get? (trkKey r.ep tag) with
    | none => s
    | some t =>
      if r.mute || isDead s r.ep then s
      else
        let port := if t.port < 8 then t.port else port0
        let lost := (pickPort s port false).isNone
        let s := trackDone s r.ep tag code grant (data.isSome || fwd) (short.map fun x => x.1) lost
        let m : Emit := match data, short with
          | some d, _ => .dataCmp port r.ep tag code grant s.homeEpoch d
          | none, some (v, p) => .dataShort port r.ep tag code grant s.homeEpoch v p
          | none, none => .cmp port r.ep tag code grant s.homeEpoch
        sendRsp s port r.ep tag (if data.isSome then 2 else 1) (reqSub s r) (reqSvc r) mir m
  | .engine lid _ idx =>
    { s with eng := { s.eng with lasts := s.eng.lasts.modify lid fun l => { l with reqs := l.reqs.map fun q =>
        if q.idx = idx then { q with code := some code, got := data.getD {} } else q } } }
  | .ring qid idx =>
    { s with eng := { s.eng with queues := s.eng.queues.modify qid fun q => { q with acc := q.acc.map fun a =>
        if a.idx = idx then { a with code := some code, got := data.getD {} } else a } } }
  | .load w idx =>
    { s with eng := { s.eng with loads := s.eng.loads.modify w fun l =>
      match code with
      | .ok | .poison => { l with got := l.got.set idx (data.getD {}) }
      | _ => { l with bad := some code } } }
  | .diag order half => diagEnd s order half code

/-- A dataless completion. -/
def completeCode (s : State) (r : Req) (code : CmpCode) : State := complete s r code 0 none none false none

/-! ### Snoops -/

def snpCode : SnpOp → Nat
  | .s => 0x21
  | .i => 0x22
  | .fwdS => 0x23
  | .fwdX => 0x24
  | .rdNa => 0x25
  | .bi => 0x26

/-- An STAG unique among the snoops outstanding to an endpoint (R118). -/
def freeStag (s : State) (ep : Nat) : Nat :=
  let used := (s.home.snoops.filter fun x => x.1.ep = ep).map fun x => x.1.stag
  let rec go : Nat → Nat → Nat
    | 0, t => t
    | fuel + 1, t => if used.contains t then go fuel ((t + 1) % 65536) else t
  go used.length (epInfo s ep).stag

/-- Send a snoop (R117, R118, R142). -/
def sendSnoop (s : State) (ep : Nat) (op : SnpOp) (hid : Nat) (h : Hall) (line : Nat) (use : SnoopUse) (reqEp reqTag grant : Nat)
    (sub svc : Nat) : State :=
  let stag := freeStag s ep
  let x : Snoop := { ep := ep, stag := stag, op := op, line := line, hall := hid, sentAt := s.now }
  let s := { s with
    home := { s.home with snoops := s.home.snoops ++ [(x, use)] }
    eps := s.eps.set ep { epInfo s ep with stag := (stag + 1) % 65536 } }
  let s := xfer s (portRes (sendPort s ep)) sub svc 56 0
  sendEp s ep (.snp ep stag) fun p =>
    .snoop p ep stag (snpCode op) hid (line * 64 - 2 ^ 30 * h.base) reqEp reqTag grant s.homeEpoch

/-- Snoops outstanding for one use. -/
def snoopsFor (s : State) (line : Nat) (use : SnoopUse) : Bool :=
  s.home.snoops.any fun x => decide (x.1.line = line) && decide (x.2 = use)

/-! ### The directory -/

def dirAt (s : State) (line : Nat) : Option DirEntry := s.home.dir.get? line
/-- Write an entry. A way is used, for R128, each time its entry is written (DESIGN CHOICE, log 90). -/
def setDir (s : State) (line : Nat) (e : DirEntry) : State :=
  { s with home := { s.home with lruSeq := s.home.lruSeq + 1, dir := s.home.dir.set line { e with lru := s.home.lruSeq } } }
def freeDir (s : State) (line : Nat) : State := { s with home := { s.home with dir := s.home.dir.erase line } }

/-- Endpoints of the hall's list that hold CACHE in a set group of a coarse vector (R127). -/
def coarseEps (s : State) (hid : Nat) (v : BitVec 64) : List Nat :=
  (s.acl.filter fun e => decide (e.1 / 262144 = hid) && e.2.rights.cache && v.getLsbD (e.1 % 262144 / 4096)).map
    fun e => e.1 % 262144

/-- The endpoints an entry's sharers or owner stand for (R126, R127). -/
def entryEps (s : State) (hid : Nat) (e : DirEntry) : List Nat :=
  match e.owner with
  | some o => [o]
  | none => match e.coarse with
    | some v => coarseEps s hid v
    | none => e.ptrs

/-- Does an S entry record an endpoint as sharer (R135)? -/
def sharesIn (e : DirEntry) (ep : Nat) : Bool :=
  e.owner.isNone && (match e.coarse with
    | some v => v.getLsbD (ep / 4096)
    | none => e.ptrs.contains ep)

def groupBit (ep : Nat) : BitVec 64 := BitVec.ofNat 64 (2 ^ (ep / 4096))

/-- Add a sharer: three pointers, then the coarse vector (R126, R127). -/
def addSharer (e : DirEntry) (ep : Nat) : DirEntry :=
  match e.coarse with
  | some v => { e with owner := none, coarse := some (v ||| groupBit ep) }
  | none =>
    if e.ptrs.contains ep then { e with owner := none }
    else if e.ptrs.length < 3 then { e with owner := none, ptrs := e.ptrs ++ [ep] }
    else { e with owner := none, ptrs := [], coarse := some ((ep :: e.ptrs).foldl (fun v p => v ||| groupBit p) 0) }

/-- Take an endpoint out of the entry of a line: an owner or the last pointer frees it; a coarse entry stays (R139, R155). -/
def dropFrom (s : State) (line ep : Nat) : State :=
  match dirAt s line with
  | none => s
  | some e =>
    if e.owner = some ep then freeDir s line
    else if e.coarse.isSome then s
    else
      let ps := e.ptrs.filter fun p => p ≠ ep
      if ps.isEmpty ∧ e.owner.isNone ∧ e.pin.isNone then freeDir s line
      else { s with home := { s.home with dir := s.home.dir.set line { e with ptrs := ps } } }

/-- The set of a line's slice (R125), its entries, and the pinned ones. -/
def setEntries (s : State) (line : Nat) : List (Nat × DirEntry) := s.home.dir.filter fun e => dirSet e.1 = dirSet line
def pinnedWays (s : State) (line : Nat) : List (Nat × DirEntry) := (setEntries s line).filter fun e => e.2.pin.isSome

/-! ### Stores to memory -/

/-- A write of a hall is mirrored now: MIRRORED, or every hall during a planned swap (R570, R577). -/
def mirrors (s : State) (h : Hall) : Bool := (h.mirrored || s.pair.swap.isSome) && mirrorLive s

/-- Send lines of a hall, as memory now holds them, in one mirror record (R204, R570). -/
def mirrorLines (s : State) (hid : Nat) (h : Hall) (hls : List Nat) : State × Option Nat :=
  if mirrors s h = false ∨ hls = [] then (s, none)
  else
    let (s, ls) := hls.foldl (fun (a : State × List (Nat × LineData)) hl =>
      let (s, d) := readLine a.1 hid h (hl * 64)
      (s, a.2 ++ [(hl, d)])) (s, [])
    let s := xfer s 0x20 sysSub 6 (64 * hls.length) 0
    let (s, m) := sendMirror s (.lines hid ls)
    ({ s with pair := { s.pair with waits := s.pair.waits ++ [{ mseq := m, sentAt := s.now }] } }, some m)

/-- Transfer at the DRAM channel of an offset: a whole pair under STRONG, a line under LIGHT (R373, R416, R419). -/
def dramXfer (s : State) (hid : Nat) (h : Hall) (x sub svc : Nat) : State :=
  match locate s hid h x with
  | some (c, ca) => xfer s (8 + c) sub svc (if h.light then 64 else 128) ca
  | none => s

/-- Data held for a line is written before the line is used, its block having landed (R638). -/
def flushMerge (s : State) (hid : Nat) (h : Hall) (x : Nat) : State :=
  match s.home.merge.get? (lineOf h x) with
  | none => s
  | some d =>
    let s := { s with home := { s.home with merge := s.home.merge.erase (lineOf h x) } }
    let (s, _) := writeLine (touchBlock s hid h x false) hid h x d (BitVec.allOnes 64)
    (mirrorLines s hid h [x / 64]).1

/-- A whole line is stored where its block is landed (R149); the answer and the mirror record. -/
def storeNow (s : State) (hid : Nat) (h : Hall) (x : Nat) (d : LineData) (mask : BitVec 64) (sub svc : Nat) :
    State × CmpCode × Option Nat :=
  let (s, code) := writeLine (dramXfer (flushMerge s hid h x) hid h x sub svc) hid h x d mask
  let (s, m) := mirrorLines s hid h [x / 64]
  (s, code, m)

/-- Collected data is stored, an access as every other (R206, R219); for a block not landed it is held and written once the block has landed (R206, R638). -/
def storeLine (s : State) (hid : Nat) (h : Hall) (line : Nat) (d : LineData) (sub svc : Nat) : State :=
  let x := line * 64 - 2 ^ 30 * h.base
  if isLanded s hid h x then (storeNow (touchBlock s hid h x false) hid h x d (BitVec.allOnes 64) sub svc).1
  else land { s with home := { s.home with merge := s.home.merge.set line d } } hid h (x / blockBytes h) .demand sub

/-- Read a line whose block is landed, counting its heat (R219). -/
def loadLine (s : State) (hid : Nat) (h : Hall) (x : Nat) (engine : Bool) (sub svc : Nat) : State × LineData :=
  readLine (touchBlock (dramXfer (flushMerge s hid h x) hid h x sub svc) hid h x engine) hid h x

/-! ### Atomics (R144 to R146) -/

/-- Bytes of an operand size code. -/
def amoBytes (sz : Nat) : Nat := if sz = 0 then 4 else if sz = 1 then 8 else 16

/-- Is an atomic's size listed for its operation (R144)? -/
def amoListed (op : AmoOp) (sz : Nat) : Bool := match op with
  | .rsvd => false
  | .swap | .cas => decide (sz ≤ 2)
  | .fadd => decide (sz = 0)
  | _ => decide (sz ≤ 1)

/-- A value of `w` bits as a signed number. -/
def asSigned (w x : Nat) : Int := if 2 ^ (w - 1) ≤ x then (x : Int) - 2 ^ w else x

/-- The new value of an atomic on operands of `w` bits (R144, R145). -/
def amoNew (op : AmoOp) (w old a b : Nat) : Nat := match op with
  | .add => (old + a) % 2 ^ w
  | .and => old &&& a
  | .or => old ||| a
  | .xor => old ^^^ a
  | .smax => if asSigned w old < asSigned w a then a else old
  | .smin => if asSigned w a < asSigned w old then a else old
  | .umax => max old a
  | .umin => min old a
  | .swap => a
  | .cas => if old = a then b else old
  | .fadd => f32Add old a
  | .rsvd => old

/-- Run an atomic on memory (R137, R146): the code, the old value or zero, and the poison bit of DATA_SHORT. -/
def amoRun (s : State) (r : Req) (h : Hall) : State × CmpCode × (BitVec 128 × BitVec 4) × Option Nat :=
  let n := amoBytes r.amoSize
  let w := 8 * n
  let at_ := r.offset % 64
  let (s, d) := loadLine s r.hall h r.offset (reqEngine r) (reqSub s r) (reqSvc r)
  let g := at_ / 16
  if d.poison.getLsbD g then (s, .poison, (0, BitVec.ofNat 4 (2 ^ g)), none)
  else
    let old := bits d.data.toNat (8 * at_) w
    let new := amoNew r.amoOp w old (r.opA.toNat % 2 ^ w) (r.opB.toNat % 2 ^ w)
    let mask : BitVec 64 := BitVec.ofNat 64 ((2 ^ n - 1) * 2 ^ at_)
    let (s, code, m) := storeNow s r.hall h r.offset { data := BitVec.ofNat 512 (new * 2 ^ (8 * at_)) } mask (reqSub s r) (reqSvc r)
    (s, code, (BitVec.ofNat 128 old, 0), m)

end Sys2Proof.Machine
end

