-- ==== Sys2Proof/Machine/Flight.lean ====
section
/-! DEFINITION. Flights, treads and shapers (F10): the scheduled resources, the load checks, takeover, token buckets,
arbitration, and the commands and events of the flight sequencers. -/

namespace Sys2Proof.Machine

/-! ### Resources -/

/-- RES_LIMIT of a resource now in force, in MB/s (R373). -/
def resLimit (s : State) (r : Nat) : Nat :=
  if r < 8 then
    match s.ports.get? r with
    | some p => 112000 / ((if p.degraded then 2 else 1) * (if p.rate32 then 2 else 1))
    | none => 112000
  else if r < 0x18 then 68 * (s.dram.chans.getD (r - 8) {}).rate / 10
  else if r < 0x20 then 24000
  else if r < 0x22 then
    match s.ports.get? (r - 0x18) with
    | some p => if p.rate32 then 28000 else 56000
    | none => 56000
  else 576000

/-- Is it a scheduled resource of this part? Grade D1 has no galleries (R2). -/
def resKnown (s : State) (r : Nat) : Bool := resourceCodes.contains r && !(s.hw.gradeD1 && decide (0x22 ≤ r))

/-! ### Flights -/

def cycleLen (f : Flight) : Nat := sumNat (f.treads.map fun t => t.len)

/-- Bytes a flight image spells, from a byte list (R378 to R380). -/
def imageTread (b : List Byte) (i : Nat) : Tread :=
  let o := 64 + 32 * i
  { len := subNat b o 4, resFirst := subNat b (o + 4) 2, resCount := subNat b (o + 6) 2
    svc := (List.range 8).map fun k => subNat b (o + 8 + 3 * k) 3 }

def imageRes (b : List Byte) (j : Nat) : ResEntry :=
  let v := subNat b (64 + 32 * subNat b 6 2 + 8 * j) 8
  { sub := bits v 0 11, svc := bits v 11 3, cir := bits v 16 24 }

def imageFlight (b : List Byte) : Flight :=
  { force := (subNat b 10 1).testBit 0, takeover := subNat b 16 8
    treads := (List.range (subNat b 6 2)).map (imageTread b)
    res := (List.range (subNat b 8 2)).map (imageRes b) }

/-- A flight as an image (R378 to R380). -/
def flightBytes (r : Nat) (f : Flight) : List Byte :=
  leBytes 4 0x54484C46 ++ leBytes 1 1 ++ leBytes 1 r ++ leBytes 2 f.treads.length ++ leBytes 2 f.res.length ++
    leBytes 1 (b2n f.force) ++ leBytes 5 0 ++ leBytes 8 f.takeover ++ leBytes 8 (cycleLen f) ++ leBytes 32 0 ++
    f.treads.flatMap (fun t => leBytes 4 t.len ++ leBytes 2 t.resFirst ++ leBytes 2 t.resCount ++ t.svc.flatMap (leBytes 3)) ++
    f.res.flatMap fun e => leBytes 8 (packBits [(11, e.sub), (3, e.svc), (2, 0), (24, e.cir), (24, 0)])

/-- The reservation entries of a tread (R379, R380). -/
def treadEntries (f : Flight) (t : Tread) : List ResEntry := (f.res.drop t.resFirst).take t.resCount

/-- No element occurs twice. -/
def noTwice {α : Type} [DecidableEq α] (l : List α) : Bool := l.eraseDups.length = l.length

/-- A tread meets R379 and R381 on a resource with a limit. -/
def treadOk (r limit : Nat) (f : Flight) (t : Tread) : Bool :=
  let es := treadEntries f t
  inRange t.len 100 100000000 && decide (t.resFirst + t.resCount ≤ f.res.length ∧ t.resCount ≤ 4096) &&
    decide (sumNat t.svc ≤ limit) &&
    ((List.range 8).all fun k => decide (sumNat ((es.filter fun e => e.svc = k).map fun e => e.cir) ≤ (t.svc[k]?).getD 0)) &&
    noTwice (es.map fun e => (e.sub, e.svc)) &&
    ((List.range 8).all fun k => (t.svc[k]?).getD 0 = 0 || (resServices r).contains k) &&
    es.all fun e => (resServices r).contains e.svc

/-- A flight meets the rules of R377 to R381 that do not depend on the image's bytes or its takeover. -/
def flightOk (r limit : Nat) (f : Flight) : Bool :=
  inRange f.treads.length 1 256 && decide (f.res.length ≤ 4096) && f.treads.all (treadOk r limit f) &&
    f.res.all fun e => inRange e.cir 1 16777215

/-- The checks of R381 on an image, first faulty field first. -/
def flightCheck (limit accept : Nat) (b : List Byte) : Option (Nat × Nat) :=
  let f := imageFlight b
  let r := subNat b 5 1
  badArg (
    [ (decide (subNat b 0 4 ≠ 0x54484C46), 0), (decide (subNat b 4 1 ≠ 1), 4), (!resourceCodes.contains r, 5),
      (!inRange f.treads.length 1 256, 6), (decide (4096 < f.res.length), 8), (decide (2 ≤ subNat b 10 1), 10),
      (decide (subNat b 11 5 ≠ 0), 11),
      (!inRange f.takeover (10000 + accept) (1000000000 + accept), 16),
      (decide (subNat b 24 8 ≠ cycleLen f), 24), (decide (subNat b 32 32 ≠ 0), 32) ] ++
    ((List.range f.treads.length).map fun i =>
      (!((f.treads[i]?).any fun t => treadOk r limit f t), 64 + 32 * i)) ++
    (List.range f.res.length).map fun j =>
      let o := 64 + 32 * f.treads.length + 8 * j
      let v := subNat b o 8
      (decide (bits v 14 2 ≠ 0 ∨ bits v 40 24 ≠ 0 ∨ bits v 16 24 = 0), o))

/-- The tread in force `d` ticks after the takeover, with its index, and the ticks before it in the cycle (R377). -/
def treadAt (f : Flight) (d : Nat) : Nat × Tread :=
  let d := if cycleLen f = 0 then 0 else d % cycleLen f
  let rec go : Nat → Nat → List Tread → Nat × Tread
    | i, _, [] => (i, { len := 0, resFirst := 0, resCount := 0, svc := [] })
    | i, d, t :: rest => if d < t.len ∨ rest = [] then (i, t) else go (i + 1) (d - t.len) rest
  go 0 d f.treads

/-- The committed rate of a pair in a tread, if the tread has an entry for it (R380). -/
def pairCir (f : Flight) (t : Tread) (sub svc : Nat) : Option Nat :=
  ((treadEntries f t).find? fun e => e.sub = sub ∧ e.svc = svc).map fun e => e.cir

/-- The pooled rate of a service in a tread (R392). -/
def poolCir (f : Flight) (t : Tread) (svc : Nat) : Nat :=
  (t.svc[svc]?).getD 0 - sumNat (((treadEntries f t).filter fun e => e.svc = svc).map fun e => e.cir)

/-- Treads of a flight in force at some tick of [a, b), the flight having taken over at t0. -/
def treadsIn (f : Flight) (t0 a b : Nat) : List Tread :=
  if b ≤ a then []
  else
    let c := cycleLen f
    let a' := a - t0
    let span := b - a
    if c = 0 then []
    else
      let lo := a' % c
      let rec go : Nat → List Tread → List Tread
        | _, [] => []
        | o, t :: rest =>
          let hit := decide (c ≤ span) || decide (o < lo + span ∧ lo < o + t.len) ||
            decide (o + c < lo + span ∧ lo < o + c + t.len)
          if hit then t :: go (o + t.len) rest else go (o + t.len) rest
      go 0 f.treads

/-- The treads of a flight that overlap the ticks [a, b), cycle after cycle, each with its own first tick and the tick after its
last. -/
def treadSpans (f : Flight) (t0 a b : Nat) : List ((Nat × Nat) × Tread) :=
  let c := cycleLen f
  let rec cycle : Nat → List Tread → List ((Nat × Nat) × Tread)
    | _, [] => []
    | o, t :: rest => ((o, o + t.len), t) :: cycle (o + t.len) rest
  if c = 0 ∨ b ≤ a then []
  else
    let k := (a - t0) / c
    ((List.range ((b - 1 - t0) / c + 1 - k)).flatMap fun i => cycle (t0 + (k + i) * c) f.treads).filter fun e =>
      decide (e.1.1 < b ∧ a < e.1.2)

/-- What a rate adds up to over the first `d` ticks of a flight: whole cycles, then the treads of the last one. -/
def earned (f : Flight) (rate : Tread → Nat) (d : Nat) : Nat :=
  let c := cycleLen f
  if c = 0 then 0
  else
    let rec part : Nat → List Tread → Nat
      | _, [] => 0
      | d, t :: rest => if d ≤ t.len then rate t * d else rate t * t.len + part (d - t.len) rest
    d / c * sumNat (f.treads.map fun t => rate t * t.len) + part (d % c) f.treads

/-- Units of 1/100 byte earned in [a, b) (F10: a rate of r MB/s adds r/100 bytes a tick). -/
def gained (q : Seqr) (rate : Tread → Nat) (a b : Nat) : Nat :=
  earned q.active rate (b - q.t0) - earned q.active rate (a - q.t0)

/-! ### Shapers -/

/-- The default shaper of a pair (R391, R393). -/
def defaultShaper (s : State) (r : Nat) : ShaperCfg := { pir := resLimit s r }

/-- Key of a pair in a shaper table. -/
def shKey (sub svc : Nat) : Nat := sub * 8 + svc

/-- A pair's shaper; a pair used for the first time since its reconfiguration holds what that left it (R390, R391). -/
def shaperOf (s : State) (r : Nat) (q : Seqr) (sub svc : Nat) : Shaper :=
  match q.shapers.get? (shKey sub svc) with
  | some x => x
  | none => { cfg := defaultShaper s r, cTok := 1024 * (100 * 64), pTok := 0, tokAt := q.t0 }

/-- A shaper with its buckets filled up to a time: committed at the pair's CIR, peak at max(PIR − CIR, 0), each up to its
size. -/
def fillShaper (q : Seqr) (sub svc now : Nat) (x : Shaper) : Shaper :=
  let cir := fun t => (pairCir q.active t sub svc).getD 0
  { x with
    cTok := min (6400 * x.cfg.cbs) (x.cTok + gained q cir x.tokAt now)
    pTok := min (6400 * x.cfg.pbs) (x.pTok + gained q (fun t => x.cfg.pir - cir t) x.tokAt now)
    tokAt := now }

/-- The pooled bucket of a service filled up to a time, at most 65,536 bytes (R390, R392). -/
def poolTok (q : Seqr) (svc now : Nat) : Nat :=
  let (tok, at_) := q.pools.getD svc (6553600, q.t0)
  min 6553600 (tok + gained q (fun t => poolCir q.active t svc) at_ now)

/-- A reconfigured shaper: committed bucket full, peak bucket empty (R390). -/
def reconfig (now : Nat) (x : Shaper) : Shaper := { x with cTok := 6400 * x.cfg.cbs, pTok := 0, tokAt := now }

/-! ### Takeover (R383 to R386, R390, R298) -/

/-- Lasts whose claims a flight no longer covers: those running with a claim on the resource above the pair's rate in some
tread (R298). -/
def claimsCut (s : State) (r : Nat) (f : Flight) (t0 : Nat) : List (Nat × Last) :=
  s.eng.lasts.filter fun e =>
    let (a, b) := lastWindow e.2
    let sub := lastSub s e.2
    (liveClaims s e.2).any fun c => c.res = r &&
      ((treadSpans f t0 (max a t0) b).any fun t =>
        let held := sumNat (s.eng.lasts.flatMap fun o =>
          let (oa, ob) := lastWindow o.2
          if lastSub s o.2 = sub ∧ oa < t.1.2 ∧ t.1.1 < ob then
            ((liveClaims s o.2).filter fun d => d.res = r ∧ d.svc = c.svc).map fun d => d.rate
          else [])
        decide ((pairCir f t.2 sub c.svc).getD 0 < held))

/-- Each last that lost its reservation carries RESERVE_LOST (R298). -/
def markLost (s : State) (ls : List (Nat × Last)) : State :=
  { s with eng := { s.eng with lasts := ls.foldl (fun m e => m.modify e.1 fun l => { l with reserveLost := true }) s.eng.lasts } }

/-- The pending flight of a resource takes over (R383 to R385, R390); a FORCE flight records its event. -/
def takeOver (s : State) (r : Nat) : State :=
  match s.flt.get? r with
  | none => s
  | some q => match q.pending with
    | none => s
    | some f =>
      let q' := { q with
        active := f
        pending := none
        bank := 1 - q.bank
        t0 := f.takeover
        tread := 0
        derated := q.pendDerived
        keptFlight := if q.pendDerived then some (q.keptFlight.getD q.active) else none
        pendDerived := false
        takeovers := satAdd 32 q.takeovers 1
        shapers := q.shapers.map fun e => (e.1, reconfig f.takeover e.2)
        pools := [] }
      let s := { s with flt := s.flt.set r q' }
      if f.force then
        let lost := claimsCut s r f f.takeover
        let s := markLost s lost
        if lost.isEmpty then event s .forcedTakeover (srcFlight r) none none 0 [(0, 2, 0xFFFF), (8, 8, f.takeover)]
        else lost.foldl (fun s e => event s .forcedTakeover (srcFlight r) none none 0
          [(0, 2, e.2.qid), (2, 2, e.2.sqIdx % 65536), (8, 8, f.takeover)]) s
      else s

/-- Load a derived flight, or the retained flight again, FORCE, 10,000 ticks ahead (R386). -/
def derateFlight (s : State) (r oldLimit newLimit : Nat) (restore : Bool) : State :=
  { s with flt := s.flt.modify r fun q =>
      if restore then
        match q.keptFlight with
        | some f => { q with pending := some { f with force := true, takeover := 10000 + s.now }, pendDerived := false }
        | none => if q.pendDerived then { q with pending := none, pendDerived := false } else q
      else
        let k := fun x => x * newLimit / max 1 oldLimit
        let f := q.active
        { q with
          pending := some { f with
            force := true
            takeover := 10000 + s.now
            treads := f.treads.map fun t => { t with svc := t.svc.map k }
            res := f.res.map fun e => { e with cir := k e.cir } }
          pendDerived := true } }

/-! ### Commands (R518) -/

/-- Would a flight give a subscriber less, in some tread, than its admitted lasts' claims there (R297)? -/
def breaksClaims (s : State) (r : Nat) (f : Flight) : Bool := !(claimsCut s r f f.takeover).isEmpty

/-- A resource's sequencer when a command accepted at a tick finds the pending flight's takeover reached: it has occurred
(R382). -/
def settleTakeover (s : State) (r accept : Nat) : State :=
  match (s.flt.get? r).bind fun q => q.pending with
  | some f => if f.takeover ≤ accept then takeOver s r else s
  | none => s

def cmdAccept (x : Win) : Nat := (x.cmd.map fun c => c.accept).getD 0

/-- `FLIGHT_LOAD` (R297, R381, R382, R385). -/
def flightLoadBody (s : State) (x : Win) : Answer :=
  let b := x.bytes 0 (flightLen (x.arg 6 2) (x.arg 8 2))
  let r := subNat b 5 1
  let f := imageFlight b
  guardArg s (flightCheck (resLimit s r) (cmdAccept x) b) fun _ =>
    if f.force = false ∧ breaksClaims s r f = true then fail s stBusy
    else
      let t := settleTakeover s r (cmdAccept x)
      retain s { t with flt := t.flt.modify r fun q => { q with pending := some f, pendDerived := false } } fun u => good u

def execFlightLoad (w : Nat) (s : State) : Host.Outcome State Fault Refusal := .next (runRetained s w 0x0700 flightLoadBody)

/-- `FLIGHT_CANCEL` empties the pending bank, before its takeover (R382). -/
def flightCancelBody (s : State) (x : Win) : Answer :=
  let r := x.arg 0 1
  guardArg s (badArg [(!resKnown s r, 0)]) fun _ =>
    let t := settleTakeover s r (cmdAccept x)
    match (t.flt.get? r).bind fun q => q.pending with
    | none => fail t stNotActive
    | some _ => retain s { t with flt := t.flt.modify r fun q => { q with pending := none, pendDerived := false } } fun u => good u

def execFlightCancel (w : Nat) (s : State) : Host.Outcome State Fault Refusal :=
  .next (runRetained s w 0x0701 flightCancelBody)

/-- The flight record (R399). -/
def flightRecord (s : State) (r : Nat) (q : Seqr) : List Byte :=
  let p := q.pending
  leBytes 32 (packBits [ (8, r), (1, q.bank), (1, b2n p.isSome), (1, b2n ((p.map fun f => f.force).getD false)),
    (1, b2n q.derated), (4, 0), (8, (treadAt q.active (s.now - q.t0)).1), (8, 0),
    (32, resLimit s r), (64, q.t0),
    (64, (p.map fun f => f.takeover).getD 0), (32, q.takeovers), (32, 0) ])

/-- `FLIGHT_QUERY` (R399). -/
def flightQueryBody (s : State) (x : Win) : Answer :=
  let r := x.arg 0 1
  guardArg s (badArg [(!resKnown s r, 0)]) fun _ => good s (flightRecord s r (s.flt.getD r { active := bareFlight }))

def execFlightQuery (w : Nat) (s : State) : Host.Outcome State Fault Refusal := .next (runCmd s w 0x0702 flightQueryBody)

/-- `FLIGHT_READ`: the image of a bank; an empty pending bank answers `ST_NOT_ACTIVE` (R518). -/
def flightReadBody (s : State) (x : Win) : Answer :=
  let r := x.arg 0 1
  guardArg s (badArg [(!resKnown s r, 0), (decide (1 < x.arg 1 1), 1)]) fun _ =>
    let q := s.flt.getD r { active := bareFlight }
    if x.arg 1 1 = 0 then good s (flightBytes r q.active)
    else
      match q.pending with
      | some f => good s (flightBytes r f)
      | none => fail s stNotActive

def execFlightRead (w : Nat) (s : State) : Host.Outcome State Fault Refusal := .next (runCmd s w 0x0703 flightReadBody)

/-- The shaper record of a pair (R393). -/
def shaperRecord (s : State) (r sub svc : Nat) (q : Seqr) : List Byte :=
  let x := shaperOf s r q sub svc
  leBytes 32 (packBits [ (8, r), (11, sub), (3, svc), (1, b2n x.explicit_), (1, 0), (24, x.cfg.pir), (16, x.cfg.cbs),
    (16, x.cfg.pbs), (16, x.cfg.latTgt), (32, 0), (48, x.green), (48, x.yellow), (16, x.redWaits), (16, x.tgtMiss) ])

/-- The checks of `SHAPER_SET` (R393, R518): the record stands at offset 8. Its reserved bits are refused under R10, with DEFAULT too; its
other RO fields are ignored (DEDUCED, log 94). -/
def shaperCheck (s : State) (x : Win) : Option (Nat × Nat) :=
  let r := x.arg 0 1
  let v := x.arg 8 32
  let lat := bits v 80 16
  badArg [ (!resKnown s r, 0), (!(resServices r).contains (x.arg 1 1), 1), (decide (2048 ≤ x.arg 2 2), 2),
    (decide (2 ≤ x.arg 4 1), 4), (decide (x.arg 5 3 ≠ 0), 5), (v.testBit 23, 10), (decide (bits v 96 32 ≠ 0), 20),
    (decide (x.arg 4 1 = 0 ∧ ¬(inRange (bits v 24 24) 1000 (resLimit s r) = true)), 11),
    (decide (x.arg 4 1 = 0 ∧ bits v 48 16 < 16), 14), (decide (x.arg 4 1 = 0 ∧ bits v 64 16 < 16), 16),
    (decide (x.arg 4 1 = 0 ∧ lat ≠ 0 ∧ ¬(inRange lat 10 10000 = true ∧ 8 ≤ r ∧ r < 0x18)), 18) ]

/-- `SHAPER_SET` writes an explicit entry, or frees it with DEFAULT (R390, R391, R393); a LAT_TGT has no place in format 2
(R552). -/
def shaperSetBody (s : State) (x : Win) : Answer :=
  let r := x.arg 0 1
  let svc := x.arg 1 1
  let sub := x.arg 2 2
  let v := x.arg 8 32
  guardArg s (shaperCheck s x) fun _ =>
    let q := s.flt.getD r { active := bareFlight }
    let old := shaperOf s r q sub svc
    let cfg : ShaperCfg := if x.arg 4 1 = 1 then defaultShaper s r
      else { pir := bits v 24 24, cbs := bits v 48 16, pbs := bits v 64 16, latTgt := bits v 80 16 }
    let n := (q.shapers.filter fun e => e.2.explicit_).length
    if x.arg 4 1 = 0 ∧ cfg.latTgt ≠ 0 ∧ s.store.fmtWrite = 2 then fail s stVersion
    else if x.arg 4 1 = 0 ∧ old.explicit_ = false ∧ 4096 ≤ n then fail s stNoSpace
    else
      let new := reconfig s.now { old with cfg := cfg, explicit_ := decide (x.arg 4 1 = 0) }
      let q' := { q with shapers := q.shapers.set (shKey sub svc) new }
      retain s { s with flt := s.flt.set r q' } fun u => good u (shaperRecord u r sub svc q')

def execShaperSet (w : Nat) (s : State) : Host.Outcome State Fault Refusal := .next (runRetained s w 0x0704 shaperSetBody)

/-- `SHAPER_QUERY` (R393). -/
def shaperQueryBody (s : State) (x : Win) : Answer :=
  let r := x.arg 0 1
  guardArg s (badArg [(!resKnown s r, 0), (decide (8 ≤ x.arg 1 1), 1), (decide (2048 ≤ x.arg 2 2), 2)]) fun _ =>
    good s (shaperRecord s r (x.arg 2 2) (x.arg 1 1) (s.flt.getD r { active := bareFlight }))

def execShaperQuery (w : Nat) (s : State) : Host.Outcome State Fault Refusal := .next (runCmd s w 0x0705 shaperQueryBody)

/-! ### Takeover and tread boundary -/

/-- FLIGHT_TAKEOVER: the pool time reaches the pending flight's TAKEOVER (R383). -/
def execFlightTakeover (res : Nat) (s : State) : Host.Outcome State Fault Refusal := .next (settleTakeover s res s.now)

/-- TREAD_BOUNDARY: the next tread comes into force; the rates change and the buckets keep their content (R377, R390). -/
def execTreadBoundary (res : Nat) (s : State) : Host.Outcome State Fault Refusal :=
  .next { s with flt := s.flt.modify res fun q =>
    { q with
      tread := (treadAt q.active (s.now - q.t0)).1
      shapers := q.shapers.map fun e => (e.1, fillShaper q (e.1 / 8) (e.1 % 8) s.now e.2)
      pools := q.pools.map fun e => (e.1, (poolTok q e.1 s.now, s.now)) } }

/-! ### Arbitration (R394 to R398) -/

inductive Colour where | green | yellow | red
  deriving DecidableEq, Repr

/-- The colour of a waiting transfer (R394). -/
def colourOf (s : State) (r : Nat) (q : Seqr) (x : Xfer) : Colour :=
  let t := (treadAt q.active (s.now - q.t0)).2
  let sh := fillShaper q x.sub x.svc s.now (shaperOf s r q x.sub x.svc)
  let n := 100 * x.bytes
  let inTread := (pairCir q.active t x.sub x.svc).isSome
  if (inTread ∧ n ≤ sh.cTok) ∨ (¬inTread ∧ n ≤ poolTok q x.svc s.now) then .green
  else if n ≤ sh.pTok then .yellow
  else .red

/-- Urgency of a DRAM access (R396): by its age against LAT_TGT. -/
def urgency (s : State) (r : Nat) (q : Seqr) (x : Xfer) : Nat :=
  let tgt := (shaperOf s r q x.sub x.svc).cfg.latTgt
  let age := s.now - x.at_
  if tgt = 0 then 0
  else if tgt ≤ age then 3
  else if 3 * tgt ≤ 4 * age then 2
  else if tgt ≤ 2 * age then 1
  else 0

/-- Bank and row of a waiting DRAM access, the bank numbered over rank, group and bank (R414). -/
def bankRow (s : State) (r : Nat) (x : Xfer) : Nat × Nat :=
  let c := s.dram.chans.getD (r - 8) {}
  let (rank, bg, bank, row, _) := dramFields c.x4 c.ranks (if x.rewrite then x.addr / 2 else x.addr)
  (rank * 32 + bg * 4 + bank, row)

def rowHit (s : State) (r : Nat) (q : Seqr) (x : Xfer) : Bool :=
  let (b, row) := bankRow s r x
  q.rows.get? b = some row

/-- The row hit counts only while no access of urgency 2 or 3 waits for the same bank on another row (R397). -/
def hitCounts (s : State) (r : Nat) (q : Seqr) (x : Xfer) : Bool :=
  rowHit s r q x && !(q.wait.any fun y =>
    decide ((bankRow s r y).1 = (bankRow s r x).1) && !rowHit s r q y && decide (2 ≤ urgency s r q y))

/-- Position after `last` in a turn over `n` numbers. -/
def turn (n last x : Nat) : Nat := (x + n - last - 1) % n

/-- Which waiting transfer is granted: its index (R394, R396). On a DRAM channel, within one colour, the highest urgency,
then row hits, then the oldest; elsewhere green serves the oldest, yellow serves services, then subscribers, in turn. -/
def pickXfer (s : State) (r : Nat) (q : Seqr) : Option Nat :=
  let dram := decide (8 ≤ r ∧ r < 0x18)
  let key := fun (c : Colour) (x : Xfer) =>
    if dram then (3 - urgency s r q x) * 2 + (if hitCounts s r q x then 0 else 1)
    else match c with
      | .yellow => 4096 * turn 8 q.lastSvc x.svc + turn 2048 (q.lastSub.getD x.svc 2047) x.sub
      | _ => 0
  let idx := (List.range q.wait.length).filterMap fun i => (q.wait[i]?).map fun x => (i, colourOf s r q x, x)
  let best := fun c => (minBy (fun e => key c e.2.2) (idx.filter fun e => e.2.1 = c)).map fun e => e.1
  match best .green with
  | some i => some i
  | none => best .yellow

/-- Spend the tokens of a granted transfer and count it (R393, R394, R398). -/
def grantXfer (s : State) (r : Nat) (q : Seqr) (i : Nat) (x : Xfer) : Seqr :=
  let c := colourOf s r q x
  let sh := fillShaper q x.sub x.svc s.now (shaperOf s r q x.sub x.svc)
  let t := (treadAt q.active (s.now - q.t0)).2
  let inTread := (pairCir q.active t x.sub x.svc).isSome
  let n := 100 * x.bytes
  let late := decide (sh.cfg.latTgt ≠ 0 ∧ sh.cfg.latTgt < s.now - x.at_)
  let sh := match c with
    | .green => { sh with green := satAdd 48 sh.green x.bytes, cTok := if inTread then sh.cTok - n else sh.cTok }
    | .yellow => { sh with yellow := satAdd 48 sh.yellow x.bytes, pTok := sh.pTok - n }
    | .red => sh
  let sh := if late then { sh with tgtMiss := satAdd 16 sh.tgtMiss 1 } else sh
  { q with
    shapers := q.shapers.set (shKey x.sub x.svc) sh
    pools := if c = .green ∧ inTread = false then q.pools.set x.svc (poolTok q x.svc s.now - n, s.now) else q.pools
    wait := q.wait.eraseIdx i
    lastSvc := x.svc
    lastSub := q.lastSub.set x.svc x.sub
    rows := if 8 ≤ r ∧ r < 0x18 then q.rows.set (bankRow s r x).1 (bankRow s r x).2 else q.rows }

/-- Transfers found red for the first time count in RED_WAITS (R393, R394). -/
def markRed (s : State) (r : Nat) (q : Seqr) : Seqr :=
  q.wait.foldl (fun (q' : Seqr) x =>
    if x.red = false ∧ colourOf s r q x = .red then
      let sh := shaperOf s r q' x.sub x.svc
      { q' with shapers := q'.shapers.set (shKey x.sub x.svc) { sh with redWaits := satAdd 16 sh.redWaits 1 } }
    else q') { q with wait := q.wait.map fun x => { x with red := x.red || decide (colourOf s r q x = .red) } }

/-- Issue a pending rewrite (R429): decode again what is stored and write it back, corrected, or as poison where it cannot be
corrected; both counters and the record were made when it was queued. -/
def issueRewrite (s : State) (c key : Nat) : State :=
  let x := s.dram.chans.getD c {}
  if !x.pend.contains key then s
  else
    let s := modChan s c fun y => { y with pend := y.pend.filter fun a => a ≠ key }
    let ca := key / 2
    let fix := fun (bad : Bool) (s : State) (a : Nat) =>
      let g := granAt s c a
      putGran s c a (if bad then { g with data := 0, poison := true, written := true, err := 0 } else { g with err := 0 })
    if key % 2 = 1 then fix (decide (decodeLight s (granAt s c ca).err = .uncorrectable)) s ca
    else
      let at_ := (List.range 8).map fun i => ca + 16 * i
      at_.foldl (fix (decide (decodePair s (at_.map fun a => (granAt s c a).err) = .uncorrectable))) s

/-- ARBITRATION_GRANT: the sequencer colours the waiting transfers and grants the next one (R394); a pending rewrite is
issued under its grant (R429). -/
def arbitrate (s : State) (r : Nat) : State :=
  match s.flt.get? r with
  | none => s
  | some q =>
    let q := markRed s r q
    match pickXfer s r q with
    | none => { s with flt := s.flt.set r q }
    | some i => match q.wait[i]? with
      | none => { s with flt := s.flt.set r q }
      | some x =>
        let s := { s with flt := s.flt.set r (grantXfer s r q i x) }
        if x.rewrite then issueRewrite s (r - 8) x.addr else s

end Sys2Proof.Machine
end

