-- ==== Sys2Proof/Machine/Link.lean ====
section
/-! DEFINITION. The Dirdody link layer (F03): acknowledgement and replay, link loss and reroute, lane sparing, negotiation. -/

namespace Sys2Proof.Machine

/-! ### Ports -/

/-- A message addressed to another port. -/
def onPort (m : Emit) (p : Nat) : Emit :=
  match m with
  | .cmp _ e t c g h => .cmp p e t c g h
  | .dataCmp _ e t c g h d => .dataCmp p e t c g h d
  | .dataShort _ e t c g h v x => .dataShort p e t c g h v x
  | .snoop _ e t o h f a b g n => .snoop p e t o h f a b g n
  | .wltOpened _ e t h n a b => .wltOpened p e t h n a b
  | .wltEnd _ e t h n a c x l b => .wltEnd p e t h n a c x l b
  | .push _ e w o b d => .push p e w o b d
  | .mbxOpened _ d w x => .mbxOpened p d w x
  | .budget _ e h b n => .budget p e h b n
  | .epoch _ e x t w => .epoch p e x t w
  | .linkRekey _ a b c => .linkRekey p a b c
  | .qcq _ e q t => .qcq p e q t
  | .qflt _ e q t => .qflt p e q t
  | .qerr _ e q t => .qerr p e q t
  | .spdmFrag _ e f n d => .spdmFrag p e f n d
  | .mirror _ r => .mirror p r
  | .mirrorAck _ n => .mirrorAck p n
  | m => m

/-- An IDLE flit with the port's acknowledgements (R75, R76, R476). -/
def sendIdle (s : State) (p : Nat) : State :=
  match s.ports.get? p with
  | none => s
  | some q => sendControl s p 1 0 0 [] (.idle p (ackOf q.sn) (ackOf q.sp))

/-- A NAK for NEXT of a space (R75, R78). -/
def sendNak (s : State) (p : Nat) (priv : Bool) : State :=
  match s.ports.get? p with
  | none => s
  | some q =>
    let x := portSpace q priv
    sendControl { s with ports := s.ports.set p (setSpace q priv { x with gapAt := some s.now }) } p 2 (b2n priv) (x.next % 4096) []
      (.nak p (b2n priv) (x.next % 4096))

/-! ### Acknowledgement (R79, R93, R108, R291) -/

/-- What a flit's acknowledgement releases: the tracker of its completion (R108), a push of its last (R291). -/
def ackCargo (s : State) (c : Cargo) : State :=
  match c with
  | .rsp ep tag => { s with home := { s.home with trackers := s.home.trackers.erase (trkKey ep tag) } }
  | .wlt ep tag => { s with home := { s.home with trackers := s.home.trackers.erase (trkKey ep tag) } }
  | .push lid q ep => { s with eng := { s.eng with lasts := s.eng.lasts.modify lid fun l => { l with pushes := l.pushes.erase (q, ep) } } }
  | .rekey p => modPort s p fun q => { q with key := { q.key with swTxAcked := true } }
  | _ => s

/-- Messages that wait for room in a space are put into flits while the window has room (R73). -/
def sendWaiting (s : State) (p : Nat) (priv : Bool) : State :=
  match s.ports.get? p with
  | none => s
  | some q =>
    let x := portSpace q priv
    if fencedNow s && !priv then s
    else
      let w := x.wait
      let s := { s with ports := s.ports.set p (setSpace q priv { x with wait := [] }) }
      w.foldl (fun s e => sendFlit s p e.1 e.2) s

/-- Snoops and MGT messages to an endpoint still in flight on a port. -/
def inFlightTo (q : Port) (ep : Nat) : Bool :=
  let sentTo := fun c => match c with
    | Cargo.snp e _ => decide (e = ep)
    | Cargo.mgt e => decide (e = ep)
    | _ => false
  (q.sn.unack.any fun f => sentTo f.cargo) || (q.sp.unack.any fun f => sentTo f.cargo) ||
    (q.sn.wait.any fun f => sentTo f.1) || (q.sp.wait.any fun f => sentTo f.1)

/-- Endpoints whose partner-port flits are all acknowledged resume on their original port, with what was held for them (R93). -/
def resumeBack (s : State) (p : Nat) : State :=
  match s.ports.get? p, s.ports.get? (partnerPort p) with
  | some q, some r =>
    let done := q.movingBack.filter fun e => !inFlightTo r e
    if done.isEmpty then s
    else
      let mine := fun (c : Cargo) => match c with
        | .snp e _ => done.contains e
        | .mgt e => done.contains e
        | _ => false
      let go := q.held.filter fun h => mine h.1
      let s := { s with ports := s.ports.set p { q with
        movingBack := q.movingBack.filter fun e => !done.contains e
        held := q.held.filter fun h => !mine h.1 } }
      go.foldl (fun s h => send s p h.1 h.2) s
  | _, _ => s

/-- Where an acknowledgement number stands: freed flits below the extended number it names, or a number never sent. The last
flit sent is ESEQ txNext − 1; a number up to 2,048 behind it has been sent (R74, R79). -/
def ackPoint (x : Space) (a : Nat) : Option Nat :=
  let d := (x.txNext + 4095 - a % 4096) % 4096
  if d ≤ 2048 ∧ d ≤ x.txNext then some (x.txNext - d) else none

/-- Free the flits an acknowledgement covers (R79). -/
def freeUpTo (s : State) (p : Nat) (priv : Bool) (upTo : Nat) : State :=
  match s.ports.get? p with
  | none => s
  | some q =>
    let x := portSpace q priv
    let gone := x.unack.filter fun f => f.seq < upTo
    if gone.isEmpty then s
    else
      let s := { s with ports := s.ports.set p (setSpace q priv
        { x with unack := x.unack.filter (fun f => upTo ≤ f.seq), progressAt := s.now }) }
      let s := gone.foldl (fun s f => ackCargo s f.cargo) s
      resumeBack (sendWaiting (sendWaiting s p priv) p (!priv)) (partnerPort p)

/-! ### Link loss (R87, R88, R90, R95, R100) -/

/-- A push leaves on its endpoint's route; without a path the gallery keeps it until one comes up (R89, R291). -/
def sendPush (s : State) (ep : Nat) (c : Cargo) (m : Emit) : State :=
  let p := sendPort s ep
  match pickPort s p false with
  | some q => if fencedNow s then s else sendFlit s q c (onPort m q)
  | none => if fencedNow s then s else { s with eng := { s.eng with pushWait := s.eng.pushWait ++ [(ep, c, m)] } }

/-- The messages of a lost link: snoops and MGT messages go on the partner port, completions and heartbeats are dropped, pushes
take the endpoint's route; what a link partner's own keying carries ends with its link (R90, R95, R152, R291, R474). -/
def rerouteCargo (s : State) (p : Nat) (c : Cargo) (m : Emit) : State :=
  match c with
  | .snp _ _ | .mgt _ | .peer => send s (partnerPort p) c (onPort m (partnerPort p))
  | .push _ _ ep => sendPush s ep c m
  | .rsp ep tag => { s with home := { s.home with trackers := s.home.trackers.modify (trkKey ep tag) fun t =>
      { t with dropped := some s.now } } }
  | .wlt ep tag => { s with home := { s.home with trackers := s.home.trackers.modify (trkKey ep tag) fun t =>
      { t with dropped := some s.now } } }
  | .note _ | .hbt | .rekey _ | .keying _ => s

/-- A completion not yet sent leaves on the partner; the rest as for a sent message (R89, R90). -/
def rerouteUnsent (s : State) (p : Nat) (c : Cargo) (m : Emit) : State :=
  match c with
  | .rsp _ _ | .wlt _ _ | .note _ => send s (partnerPort p) c (onPort m (partnerPort p))
  | c => rerouteCargo s p c m

/-- With neither peer session open, window 66 closes (R474, R479). -/
def closePeerWindow (s : State) : State :=
  if s.ports.any fun e => decide (8 ≤ e.1) && e.2.key.keyed then s else closeWin s 66

/-- Declare a link down: record it, reroute what was in flight, and train again (R87, R88, R90). -/
def linkDown (s : State) (p cause : Nat) : State :=
  match s.ports.get? p with
  | none => s
  | some q =>
    if q.st = .down ∨ q.st = .training then s
    else
      let q' := { q with
        st := if q.outOfUse then .down else .training
        routedAway := decide (p < 8)
        swapEn := false
        swap := none
        linkDowns := satAdd 32 q.linkDowns 1
        sn := {}
        sp := {}
        recoverySince := none
        failTimes := []
        partner := none
        key := {}
        movingBack := []
        held := [] }
      let s := { s with ports := s.ports.set p q' }
      let s := event s .linkDown (srcPort p) none none 0 [(0, 1, cause), (1, 1, portCode q.st)]
      let s := (q.sn.unack ++ q.sp.unack).foldl (fun s f => rerouteCargo s p f.cargo f.emit) s
      let s := (q.sn.wait ++ q.sp.wait ++ q.held).foldl (fun s f => rerouteUnsent s p f.1 f.2) s
      let s := resumeBack s (partnerPort p)
      recomputeLevels (if p < 8 then s else closePeerWindow (checkPeerPath s p))

/-! ### Reception -/

/-- Eight integrity failures within 1 ms declare the link down (R84). -/
def integrityFail (s : State) (p : Nat) : State :=
  match s.ports.get? p with
  | none => s
  | some q =>
    let recent := (q.failTimes.filter fun t => s.now < ms 1 + t) ++ [s.now]
    let s := { s with ports := s.ports.set p { q with tagFail := satAdd 32 q.tagFail 1, failTimes := recent } }
    if 8 ≤ recent.length then linkDown s p 4 else s

/-- The extended sequence number of an arriving SEQ flit: congruent to SEQ and within 2,048 of ENEXT (R475). -/
def eseqOf (next seq : Nat) : Nat :=
  let d := (seq + 4096 - next % 4096) % 4096
  if d < 2048 then next + d else (next + d + (2 ^ 64 - 4096)) % 2 ^ 64

/-- The slot bytes of an arriving SEQ flit that passes the integrity check, none where it fails: on a keyed link KEYED is set and
the tag verifies under the key its ESEQ names; on one without keys KEYED is clear, for nothing could verify it (R84, R475, R477;
DEDUCED, log 93). -/
def openSeq (q : Port) (f : List Byte) : Option (List Byte) :=
  if q.key.keyed then
    let priv := decide (flitSpace f = 1)
    let n := eseqOf (portSpace q priv).next (flitSeq f)
    let key := keyAt q.key.secRx (genAt (pointsOf q.key.swRx (b2n priv)) n)
    let nonce := nonceOf (b2n priv) n
    let b := cipher key nonce (flitSlots f)
    if flitKeyed f = true ∧ flitTag f = Config.gcmTag key nonce (flitHdr f) b then some b else none
  else if flitKeyed f then none else some (flitSlots f)

/-- CCTR of a control flit: S0 bytes 48 to 55 (R476). -/
def flitCctr (f : List Byte) : Nat := subNat f 48 8

/-- Does a control flit pass the integrity check: on a keyed link its tag verifies and its CCTR exceeds the last accepted
(R84, R476)? -/
def controlOk (q : Port) (f : List Byte) : Bool :=
  if q.key.keyed then
    let key := keyAt q.key.secRx (genAt (pointsOf q.key.swRx 2) (flitCctr f))
    flitKeyed f && decide (flitTag f = Config.gcmTag key (nonceOf 2 (flitCctr f)) (flitSlots f ++ flitHdr f) []) &&
      (match q.key.cctrRx with
        | some c => decide (c < flitCctr f)
        | none => true)
  else !flitKeyed f

/-- Process ACK_N and ACK_P (R79): an acknowledgement naming a number not sent declares the link down. -/
def takeAcks (s : State) (p : Nat) (f : List Byte) : State :=
  match s.ports.get? p with
  | none => s
  | some q =>
    match ackPoint q.sn (flitAckN f), ackPoint q.sp (flitAckP f) with
    | some a, some b => freeUpTo (freeUpTo s p false a) p true b
    | _, _ => linkDown s p 2

/-- Does the port's link stand? -/
def linkAlive (q : Port) : Bool := q.st = .keying || q.st = .up || q.st = .swapping || q.st = .recovery

def alive (s : State) (p : Nat) : Bool := (s.ports.get? p).any linkAlive

/-- The classes of R77. -/
inductive SeqClass where | accept | gap | duplicate | outside
  deriving DecidableEq, Repr

/-- A SEQ flit's class against NEXT (R77). -/
def seqClass (next seq : Nat) (priv : Bool) : SeqClass :=
  let a := (seq + 4096 - next % 4096) % 4096
  let b := (next + 4096 - seq) % 4096
  let w := if priv then 2048 else 512
  if a = 0 then .accept
  else if a < w then .gap
  else if b ≤ w then .duplicate
  else .outside

/-- The receiver erases a secret once every flit below each of its switch points has been accepted (R477). -/
def switchRx (q : Port) : Port :=
  let past := (q.key.swRx.filter fun e => decide (e.1 ≤ q.sn.next ∧ e.2.1 ≤ q.sp.next ∧ e.2.2 ≤ q.key.cctrRx.elim 0 fun c => c + 1)).length
  { q with key := { q.key with erased := max q.key.erased past } }

/-- A SEQ flit that passed CRC, integrity and the encoding checks (R77, R78); in KEYING only MGT flits are accepted, others are
discarded without acknowledgement (R103). -/
def seqAccept (s : State) (p : Nat) (f : List Byte) (mgtOnly : Bool) : State :=
  match s.ports.get? p with
  | none => s
  | some q =>
    let priv := decide (flitSpace f = 1)
    if q.st = .keying ∧ mgtOnly = false then s
    else
      let x := portSpace q priv
      match seqClass (x.next % 4096) (flitSeq f) priv with
      | .accept =>
        sendIdle { s with ports := s.ports.set p (switchRx (setSpace q priv { x with next := x.next + 1, gapAt := none })) } p
      | .gap => if x.gapAt.isSome then s else sendNak s p priv
      | .duplicate => s
      | .outside => linkDown s p 2

/-- No slot holds a message of another channel than MGT, and the flit is privileged (R103). -/
def onlyMgt (space : Nat) (l : List (List Byte)) : Bool :=
  decide (space = 1) && l.all fun a => decide (slotLen a = 0 ∨ slotVc a = 5)

/-- A SEQ flit arrives (R77 to R79, R84, R87, R103). A flit of another TYPE is another row's (log 93). -/
def seqFlit (s : State) (p : Nat) (f : List Byte) : State :=
  match s.ports.get? p with
  | none => s
  | some q =>
    if linkAlive q = false ∨ inRange (flitType f) 1 4 = true then s
    else match openSeq q f with
      | none => integrityFail s p
      | some b =>
        let s := modPort s p fun q => { q with lastValid := s.now }
        let l := fourSlots b
        if hdrBad f || slotsBad l then linkDown s p 3
        else if slotsWrong p (flitSpace f) l then linkDown s p 2
        else
          let s := takeAcks s p f
          if alive s p then seqAccept s p f (onlyMgt (flitSpace f) l) else s

/-- A control flit's common checks: integrity and CCTR, then the link header, the slot headers and the acknowledgements, then `k`
where the link still stands (R71, R79, R84, R87, R476). -/
def controlFlit (s : State) (p typ : Nat) (f : List Byte) (k : State → State) : State :=
  match s.ports.get? p with
  | none => s
  | some q =>
    if linkAlive q = false ∨ (flitType f ≠ typ ∧ flitType f ≤ 4) then s
    else if controlOk q f = false then integrityFail s p
    else
      let s := modPort s p fun q => switchRx { q with
        lastValid := s.now
        key := { q.key with cctrRx := if q.key.keyed then some (flitCctr f) else none } }
      if hdrBad f || !((fourSlots (flitSlots f)).all fun a => zeros a 0 1) then linkDown s p 3
      else
        let s := takeAcks s p f
        if alive s p then k s else s

/-- FLIT_CRC_ERROR: discarded unread (R84). -/
def execFlitCrcError (_port : Nat) (s : State) : Host.Outcome State Fault Refusal := .next s

/-! ### Replay (R80 to R83) -/

/-- Resend the unacknowledged flits of a space from an extended number on, as sent (R81). A flit already sent 8 times puts the
port in physical recovery instead (R83). `count` says that a NAK or a timeout asks for it (REPLAYS of R111). -/
def replayFrom (s : State) (p : Nat) (priv : Bool) (from_ : Nat) (count : Bool) : State :=
  match s.ports.get? p with
  | none => s
  | some q =>
    let x := portSpace q priv
    let again := x.unack.filter fun f => from_ ≤ f.seq
    if again.isEmpty ∨ linkSends q = false ∨ (fencedNow s = true ∧ priv = false) then s
    else if again.any fun f => 8 ≤ f.sends then
      { s with ports := s.ports.set p { q with st := .recovery, recoverySince := some s.now } }
    else
      let x' := { x with
        progressAt := s.now
        unack := x.unack.map fun f => if from_ ≤ f.seq then { f with sends := f.sends + 1, sentAt := s.now } else f }
      { s with
        ports := s.ports.set p (setSpace { q with
          replays := if count then satAdd 32 q.replays 1 else q.replays, lastSent := s.now } priv x')
        out := s.out ++ again.map fun f => .flit p f.bytes f.emit }

/-- A NAK arrives (R80): one for a freed flit changes nothing; one for a number not sent declares the link down. -/
def nakTake (f : List Byte) (p : Nat) (s : State) : State :=
  match s.ports.get? p with
  | none => s
  | some q =>
    let priv := decide (flitSpace f = 1)
    let x := portSpace q priv
    let d := (x.txNext + 4095 - flitSeq f) % 4096
    if d < 2048 ∧ d < x.txNext then
      let e := x.txNext - 1 - d
      if x.unack.any fun f => f.seq = e then replayFrom s p priv e true else s
    else linkDown s p 2

/-- NAK_REPEAT: while the gap persists, again every REPLAY_TMO (R78). -/
def execNakRepeat (port space : Nat) (s : State) : Host.Outcome State Fault Refusal :=
  match s.ports.get? port with
  | none => .next s
  | some q => match (portSpace q (space = 1)).gapAt with
    | some t => .next (if t + 10 * q.cfg.replayTmo ≤ s.now ∧ linkSends q = true then sendNak s port (space = 1) else s)
    | none => .next s

/-- REPLAY_TIMEOUT: no acknowledgement progress for REPLAY_TMO (R82). -/
def execReplayTimeout (port space : Nat) (s : State) : Host.Outcome State Fault Refusal :=
  match s.ports.get? port with
  | none => .next s
  | some q =>
    let x := portSpace q (space = 1)
    match x.unack with
    | [] => .next s
    | f :: _ => .next (if x.progressAt + 10 * q.cfg.replayTmo ≤ s.now ∧ (q.st = .keying ∨ q.st = .up) then
        replayFrom s port (space = 1) f.seq true else s)

/-- Flits flow again after a quiet or a recovery: an IDLE with the acknowledgements, and what waited for the link (R83, R96,
R98). -/
def linkResumes (s : State) (p : Nat) : State := sendWaiting (sendWaiting (sendIdle s p) p true) p false

/-- PHY_RECOVERY_DONE: a valid flit returns; sequence state was kept and replay resumes (R83). The count of a flit's sends starts
again (DESIGN CHOICE, log 89). -/
def recoveryDone (s : State) (p : Nat) : State :=
  match s.ports.get? p with
  | none => s
  | some q =>
    if q.st ≠ .recovery then s
    else
      let fresh := fun (x : Space) => { x with unack := x.unack.map fun f => { f with sends := 0 } }
      let up := q.key.keyed || (q.cfg.keyOff && decide (p < 8))
      let s := { s with ports := s.ports.set p { q with
        st := if up then .up else .keying, recoverySince := none, lastValid := s.now, sn := fresh q.sn, sp := fresh q.sp } }
      linkResumes (replayFrom (replayFrom s p true 0 false) p false 0 false) p

def execPhyRecoveryDone (port : Nat) (s : State) : Host.Outcome State Fault Refusal := .next (recoveryDone s port)

/-- KEEP_ALIVE: an IDLE when no flit was sent for 1 µs (R86). -/
def execKeepAlive (port : Nat) (s : State) : Host.Outcome State Fault Refusal :=
  match s.ports.get? port with
  | none => .next s
  | some q => .next (if linkSends q = true ∧ us 1 + q.lastSent ≤ s.now then sendIdle s port else s)

/-- DOWN_TIMEOUT: no valid flit, or recovery not completed, for DOWN_TMO (R87). -/
def execDownTimeout (port : Nat) (s : State) : Host.Outcome State Fault Refusal :=
  match s.ports.get? port with
  | none => .next s
  | some q =>
    let tmo := us q.cfg.downTmo
    .next (match q.recoverySince with
      | some t => if t + tmo ≤ s.now then linkDown s port 1 else s
      | none => if linkAlive q = true ∧ q.lastValid + tmo ≤ s.now then linkDown s port 0 else s)

/-- Endpoints with snoops or MGT messages in flight or waiting on a port. -/
def epsOn (q : Port) : List Nat :=
  let of := fun (c : Cargo) => match c with
    | .snp e _ => some e
    | .mgt e => some e
    | _ => none
  ((q.sn.unack ++ q.sp.unack).filterMap (fun f => of f.cargo) ++ (q.sn.wait ++ q.sp.wait).filterMap fun f => of f.1).eraseDups

/-- FAIL_BACK_HOLD_EXPIRY: up for 1 s, the port takes its endpoints back; those with flits on the partner wait (R93). -/
def failBack (s : State) (p : Nat) : State :=
  match s.ports.get? p, s.ports.get? (partnerPort p) with
  | some q, some r =>
    if q.st = .up ∧ q.routedAway = true ∧ sec 1 + q.upSince ≤ s.now then
      recomputeLevels { s with ports := s.ports.set p { q with
        routedAway := false, movingBack := (epsOn r).filter fun e => routePort s e = p } }
    else s
  | _, _ => s

def execFailBackHoldExpiry (port : Nat) (s : State) : Host.Outcome State Fault Refusal := .next (failBack s port)

/-! ### Training and negotiation (R65, R88, R99 to R102) -/

/-- Flights of a port follow its width (R386). -/
def widthChange (s : State) (p : Nat) (was now_ : Bool) (oldLimit : Nat) : State :=
  if p < 8 ∧ was ≠ now_ then derateFlight s p oldLimit (resLimit s p) (!now_) else s

/-- The lanes of a x8 retrain on a fabric port: the lower half of the lanes or else the upper, the spare standing in for one failed
lane of it; each half's lanes and the lane replaced. None where two lanes of each half have failed (R100). -/
def halfLanes (bad : List Nat) : Option (Nat × Nat) :=
  let pick := fun (lo : Nat) =>
    let out := bad.filter fun l => decide (lo ≤ l ∧ l < lo + 8)
    match out.eraseDups with
    | [] => some (255 * 2 ^ lo, 31)
    | [l] => some (255 * 2 ^ lo - 2 ^ l + 2 ^ 16, l)
    | _ => none
  match pick 0, pick 8 with
  | some (m, 31), _ => some (m, 31)
  | _, some (m, 31) => some (m, 31)
  | some x, _ => some x
  | none, y => y

/-- The lanes of a full training: those that margining chose, 16 of 17 on a fabric port and 8 of 9 on a peer port, the spare last;
the lane it replaces, 31 for none (R66, R100, R111). -/
def fullLanes (p lanes : Nat) : Option (Nat × Nat) :=
  let n := if p < 8 then 16 else 8
  match (List.range n).filter fun i => !lanes.testBit i with
  | [] => some (2 ^ n - 1, 31)
  | [l] => if lanes.testBit n then some (2 ^ (n + 1) - 1 - 2 ^ l, l) else none
  | _ => none

/-- The NEGOTIATE flit: REV_MAX, REV_MIN, DOWN_TMO, and the capabilities, lane swap and on a fabric port ×8 operation (R101). -/
def sendNegotiate (s : State) (p : Nat) : State :=
  match s.ports.get? p with
  | none => s
  | some q =>
    let caps := if p < 8 then 3 else 1
    sendControl (modPort s p fun q => { q with lastNegotiate := s.now }) p 3 0 0 (msgOf 47 [(1, 2), (1, 1), (2, q.cfg.downTmo), (1, caps)])
      (.negotiate p 2 1 q.cfg.downTmo caps)

/-- PHY_TRAINING_DONE: training ends at 64 or 32 GT/s, or fails (R65). `lanes` is the mask of lanes margining chose, the spare
last; a fabric port that lost a further lane trains ×8 on the half that is left, and fully again at the link-up after that
(R100). Training on a set of lanes that R66 does not have is a failure. -/
def trainingDone (s : State) (p : Nat) (rate32 trained : Bool) (lanes highest : Nat) : State :=
  match s.ports.get? p with
  | none => s
  | some q =>
    if q.st ≠ .training then s
    else match (if trained then if q.half then halfLanes q.badLanes else fullLanes p lanes else none) with
    | none => event { s with ports := s.ports.set p { q with st := .down } } .trainFail (srcPort p) none none 0
        [(0, 1, (setBits 17 lanes).length), (1, 1, highest)]
    | some (mask, swapped) =>
      let old := resLimit s p
      let deg := q.half
      let s' := sendNegotiate { s with
        ports := s.ports.set p { q with
          st := .negotiating
          rate32 := rate32
          degraded := deg
          half := false
          spareUsed := decide (swapped ≠ 31)
          swappedLane := swapped
          badLanes := if deg then q.badLanes else if swapped = 31 then [] else [swapped]
          lastValid := s.now } } p
      let s'' := if q.degraded ≠ deg then
          event s' .portDegraded (srcPort p) none none 0 [(0, 1, b2n deg), (4, 4, mask)] else s'
      widthChange s'' p q.degraded deg old

def execPhyTrainingDone (port : Nat) (rate32 trained : Bool) (lanes highest : Nat) (s : State) :
    Host.Outcome State Fault Refusal := .next (trainingDone s port rate32 trained lanes highest)

/-- NEGOTIATE_RESEND: every 1 µs until the other end's arrives (R101). -/
def execNegotiateResend (port : Nat) (s : State) : Host.Outcome State Fault Refusal :=
  match s.ports.get? port with
  | none => .next s
  | some q => .next (if q.st = .negotiating ∧ q.partner = none ∧ us 1 + q.lastNegotiate ≤ s.now then sendNegotiate s port else s)

/-- Pushes that had no path take one again (R291). -/
def pushesGo (s : State) : State :=
  let l := s.eng.pushWait
  l.foldl (fun s e => sendPush s e.1 e.2.1 e.2.2) { s with eng := { s.eng with pushWait := [] } }

/-- A port comes up: EPOCH goes to every listed endpoint routed to it (R504), pushes that waited for a path leave (R291), and the
peer path may rise (R563). Its counting intervals start with the LANE_THR set (R112). -/
def portComesUp (s : State) (p : Nat) : State :=
  let s := modPort s p fun q => { q with st := .up, upSince := s.now, lastValid := s.now, laneThr := q.cfg.laneThr }
  if p < 8 then pushesGo (sendEpochs s ((listedEps s).filter fun e => routePort s e = p))
  else checkPeerPath s p

/-- May normal traffic start: the SH940 is READY (R542), and the link is keyed or runs unkeyed by KEY_MODE OFF (R478)? -/
def mayComeUp (s : State) (p : Nat) (q : Port) : Bool :=
  (q.key.keyed || (q.cfg.keyOff && decide (p < 8))) && (s.pwr.ready || decide (8 ≤ p))

/-- The keying session of a link starts with GET_VERSION; on a fabric port, and as side 0 on a peer port, the SH940 is the
requester (R474). -/
def askVersion (s : State) (p : Nat) : State :=
  if p < 8 ∨ s.pair.cfg.side = 0 then sendSpdm s (linkConn p) false [0x10, 0x84, 0, 0] (.keying p) else s

/-- With both announcements known, the highest common revision, and whether lanes may be swapped (R99, R102). -/
def negotiated (s : State) (p revMax revMin downTmo caps : Nat) : State :=
  match s.ports.get? p with
  | none => s
  | some q =>
    let rev := min 2 revMax
    let q := { q with partner := some (revMax, revMin, downTmo, caps) }
    if rev < max 1 revMin then
      event { s with ports := s.ports.set p { q with st := .down } } .noCommonRev (srcPort p) none none 0
        [(0, 1, revMin), (1, 1, revMax)]
    else
      let q := { q with
        st := .keying
        dfp1 := decide (rev = 1)
        swapEn := decide (32 ≤ q.cfg.downTmo ∧ 32 ≤ downTmo) && caps.testBit 0
        key := { q.key with retryAt := sec 10 + s.now } }
      let s := recomputeLevels { s with ports := s.ports.set p q }
      let s := if q.cfg.keyOff && decide (p < 8) then s else askVersion s p
      if mayComeUp s p q then portComesUp s p else s

/-- A NEGOTIATE flit arrives (R87, R101). It comes before any key; its slot headers are zero. Reserved capability bits and bytes 6
to 55 are not looked at (DESIGN CHOICE, log 89). -/
def negotiateTake (s : State) (p : Nat) (f : List Byte) : State :=
  match s.ports.get? p with
  | none => s
  | some q =>
    if (q.st ≠ .negotiating ∧ linkAlive q = false) ∨ (flitType f ≠ 3 ∧ flitType f ≤ 4) then s
    else if flitKeyed f then integrityFail s p
    else
      let s := modPort s p fun q => { q with lastValid := s.now }
      if hdrBad f || !((fourSlots (flitSlots f)).all fun a => zeros a 0 1) then linkDown s p 3
      else
        let s := takeAcks s p f
        if (s.ports.get? p).any fun q => q.st = .negotiating then
          negotiated s p (subNat f 1 1) (subNat f 2 1) (subNat f 3 2) (subNat f 5 1)
        else s

def execNegotiate (port : Nat) (flit : List Byte) (s : State) : Host.Outcome State Fault Refusal :=
  .next (negotiateTake s port flit)

/-! ### Lane sparing (R96 to R100) -/

/-- Record a crossing while the lane stays in use (R97, R99). -/
def laneCrossing (s : State) (p lane kind count : Nat) : State :=
  event s .laneThreshold (srcPort p) none none 0 [(0, 1, lane), (1, 1, kind), (4, 4, count)]

/-- A LANE_SWAP flit: KIND 0 REQUEST, 1 ACCEPT, 2 REFUSE, with its lane and SWAP_ID (R97). -/
def sendLaneSwap (s : State) (p kind lane id : Nat) : State :=
  match s.ports.get? p with
  | none => s
  | some q => sendControl s p 4 0 0 (msgOf 47 [(1, kind), (1, lane), (1, id)])
      (.laneSwap p kind lane id (if q.key.keyed then q.key.cctrTx else 0))

/-- A lane swap REQUEST leaves (R96, R97). -/
def requestSwap (s : State) (p lane count : Nat) (q : Port) : State :=
  let id := (q.swapId + 1) % 256
  sendLaneSwap { s with
    ports := s.ports.set p { q with
      swapId := id
      swap := some { lane := lane, id := id, mine := true, count := count, sentAt := s.now } } } p 0 lane id

/-- LANE_ERROR_INTERVAL: a counting interval ends. A lane over the LANE_THR of this interval starts a swap; with the spare in use
the link goes down and retrains at ×8, a peer port for good (R96, R99, R100, R112). -/
def laneInterval (s : State) (p : Nat) (counts : List Nat) : State :=
  match s.ports.get? p with
  | none => s
  | some q0 =>
    let q := { q0 with laneThr := q0.cfg.laneThr }
    let s := { s with ports := s.ports.set p q }
    if q.st ≠ .up then s
    else match (List.range counts.length).find? fun i => q0.laneThr < (counts[i]?).getD 0 with
      | none => s
      | some lane =>
        let n := (counts[lane]?).getD 0
        if q.spareUsed then
          linkDown { s with ports := s.ports.set p { q with
            badLanes := q.badLanes ++ [lane], half := decide (p < 8), outOfUse := decide (8 ≤ p) } } p 6
        else if q.swapEn = false then laneCrossing s p lane 0 n
        else if q.swap.isSome then s
        else requestSwap s p lane n q

def execLaneErrorInterval (port : Nat) (counts : List Nat) (s : State) : Host.Outcome State Fault Refusal :=
  .next (laneInterval s port counts)

/-- A LANE_SWAP request, accept or refusal (R97): an end refuses with swap disabled or its spare used; of two crossing requests
the SH940's stands on a fabric port and side 0's on a peer port. A reserved KIND, or a LANE the port does not have, changes
nothing (DESIGN CHOICE, log 89). -/
def swapTake (s : State) (p kind lane id : Nat) : State :=
  match s.ports.get? p with
  | none => s
  | some q =>
    if (if p < 8 then 16 else 8) ≤ lane then s
    else match kind with
    | 0 =>
      if q.swapEn = false ∨ q.spareUsed = true then sendLaneSwap s p 2 lane id
      else
        let open_ := q.swap.any fun w => w.mine && w.accepted.isNone
        if open_ && (decide (p < 8) || s.pair.cfg.side = 0) then s
        else if q.swap.isSome && !open_ then
          if q.swap.any fun w => !w.mine && w.lane = lane && w.id = id then sendLaneSwap s p 1 lane id else s
        else
          sendLaneSwap { s with
            ports := s.ports.set p { q with
              badLanes := q.badLanes ++ [lane]
              swap := some { lane := lane, id := id, mine := false, sentAt := s.now, accepted := some s.now } } } p 1 lane id
    | 1 => match q.swap with
      | some w =>
        if w.mine ∧ w.lane = lane ∧ w.id = id ∧ w.accepted = none then
          { s with ports := s.ports.set p { q with
            badLanes := q.badLanes ++ [lane], swap := some { w with accepted := some s.now } } }
        else s
      | none => s
    | 2 => match q.swap with
      | some w =>
        if w.mine ∧ w.lane = lane ∧ w.id = id ∧ w.accepted = none then
          laneCrossing { s with ports := s.ports.set p { q with swap := none } } p lane 2 w.count
        else s
      | none => s
    | _ => s

/-- LANE_SWAP_RECEIVE: the checks of a control flit, then its contents in S0 bytes 1 to 3 (R71, R97). -/
def execLaneSwapReceive (port : Nat) (flit : List Byte) (s : State) : Host.Outcome State Fault Refusal :=
  .next (controlFlit s port 4 flit fun s => swapTake s port (subNat flit 1 1) (subNat flit 2 1) (subNat flit 3 1))

/-- LANE_SWAP_REQUEST_TIMEOUT: no answer within 10 µs; sent again up to four times, then recorded (R97). -/
def execLaneSwapRequestTimeout (port : Nat) (s : State) : Host.Outcome State Fault Refusal :=
  match s.ports.get? port with
  | none => .next s
  | some q => match q.swap with
    | none => .next s
    | some w =>
      .next (if w.mine = false ∨ w.accepted.isSome ∨ s.now < us 10 + w.sentAt then s
        else if w.tries < 5 then
          sendLaneSwap { s with
            ports := s.ports.set port { q with swap := some { w with tries := w.tries + 1, sentAt := s.now } } } port 0 w.lane w.id
        else laneCrossing { s with ports := s.ports.set port { q with swap := none } } port w.lane 1 w.count)

/-- LANE_SWAP_QUIET_START: 1 µs after the accept the link falls quiet (R96). -/
def execLaneSwapQuietStart (port : Nat) (s : State) : Host.Outcome State Fault Refusal :=
  match s.ports.get? port with
  | none => .next s
  | some q => .next (if q.st = .up ∧ (q.swap.any fun w => w.accepted.any fun t => decide (us 1 + t ≤ s.now)) = true then
      { s with ports := s.ports.set port { q with st := .swapping } } else s)

/-- LANE_SWAP_QUIET_END: flits resume on the new lane set (R96, R98). -/
def execLaneSwapQuietEnd (port : Nat) (s : State) : Host.Outcome State Fault Refusal :=
  match s.ports.get? port with
  | none => .next s
  | some q => match q.swap with
    | none => .next s
    | some w =>
      .next (if q.st = .swapping then
        linkResumes (event { s with ports := s.ports.set port { q with
          st := .up, spareUsed := true, swappedLane := w.lane, swap := none, lastValid := s.now } }
          .laneSwap (srcPort port) none none 0 [(0, 1, w.lane), (1, 1, w.id)]) port else s)

end Sys2Proof.Machine
end

