-- ==== Sys2Proof/Machine/WeltOps.lean ====
section
/-! DEFINITION. Welts: handles, pins, abort, commit and the hall journal (R162 to R204, R632, R639). -/

namespace Sys2Proof.Machine

/-! ### Slots and handles (R163) -/

def weltAt (s : State) (slot : Nat) : Welt := s.welt.slots.getD slot {}
def setWelt (s : State) (slot : Nat) (w : Welt) : State := { s with welt := { s.welt with slots := s.welt.slots.set slot w } }
def modWelt (s : State) (slot : Nat) (f : Welt → Welt) : State := setWelt s slot (f (weltAt s slot))
def handleOf (slot : Nat) (w : Welt) : Nat := 4096 * w.inc + slot

/-- Does a handle name this welt of this owner in this hall (R165)? -/
def handleFits (w : Welt) (handle ep hid : Nat) : Bool :=
  w.used && decide (w.inc = handle / 4096 % 16 ∧ w.owner = ep ∧ w.hall = hid)

/-- The welt a handle names, not free (R165). -/
def weltOf (s : State) (handle ep hid : Nat) : Option Welt :=
  let w := weltAt s (handle % 4096)
  if w.st ≠ .free ∧ handleFits w handle ep hid = true then some w else none

/-- Subscriber of a welt's owner (R375). -/
def weltSub (s : State) (w : Welt) : Nat := ((aclOf s w.hall w.owner).map fun a => a.subscriber).getD 0

/-! ### Answers (R164, R202) -/

/-- Answer a WLT request: the tracker records the message (R202). It is held for the standby's acknowledgement of mirror
record `mir` (R570). -/
def wltAnswerAfter (mir : Option Nat) (s : State) (port0 ep tag : Nat) (m : Nat → Emit) : State :=
  match s.home.trackers.get? (trkKey ep tag) with
  | none => s
  | some t =>
    let port := if t.port < 8 then t.port else port0
    let lost := (pickPort s port false).isNone
    let s := trackDone s ep tag .ok 0 false none lost
    let s := { s with home := { s.home with trackers := s.home.trackers.modify (trkKey ep tag) fun t => { t with wlt := some (m port) } } }
    match mir with
    | some q => holdFor s q port (.wlt ep tag) (m port)
    | none => send (xfer s (portRes port) 0 1 56 0) port (.wlt ep tag) (m port)

/-- Answer a WLT request at once. -/
def wltAnswer (s : State) (port0 ep tag : Nat) (m : Nat → Emit) : State := wltAnswerAfter none s port0 ep tag m

/-- A WLT_END of a welt for one of its owner's requests. -/
def weltEndTo (mir : Option Nat) (s : State) (slot : Nat) (w : Welt) (port tag : Nat) (status : Nat) (committed : Bool)
    (lines : Nat) : State :=
  wltAnswerAfter mir s port w.owner tag fun p => .wltEnd p w.owner tag w.hall (handleOf slot w) false committed status lines s.homeEpoch

/-- A welt ends: WLT_END answers the requests that wait for it, or goes out as a notice; the slot is free (R163, R196). -/
def endWelt (mir : Option Nat) (s : State) (slot status : Nat) (committed : Bool) (lines : Nat) : State :=
  let w := weltAt s slot
  let s := if w.silent then s
    else if w.asked then
      ((w.port, w.tag) :: w.waitTags).foldl (fun s e => weltEndTo mir s slot w e.1 e.2 status committed lines) s
    else
      let p := sendPort s w.owner
      send (xfer s (portRes p) (weltSub s w) 1 56 0) p (.note w.owner)
        (.wltEnd p w.owner 0 w.hall (handleOf slot w) true false status 0 s.homeEpoch)
  { s with welt := { s.welt with
    freeSeq := s.welt.freeSeq + 1
    slots := s.welt.slots.set slot
      { inc := w.inc, owner := w.owner, hall := w.hall, used := true, freedAt := s.welt.freeSeq
        status := if w.asked || w.silent then 0 else status } } }

/-! ### Pins -/

/-- Unpin a line and leave its entry as recorded (R187). -/
def unpin (s : State) (line : Nat) : State :=
  { s with home := { s.home with dir := s.home.dir.modify line fun e => { e with pin := none } } }

/-- The welt that pins a line. -/
def pinOf (s : State) (line : Nat) : Option Nat := (dirAt s line).bind fun e => e.pin

/-- The line is in the write set of the welt that pins it (R169). -/
def inWriteSet (s : State) (slot line : Nat) : Bool := (weltAt s slot).writes.contains line

/-- Is a request an access of this welt? Its slot is not reused before the access has ended. -/
def accessOf (slot : Nat) (r : Req) : Bool := (r.kind = .wltRd || r.kind = .wltWr) && decide (r.handle % 4096 = slot)

/-- The accesses of a welt that are their lines' active transactions. -/
def accesses (s : State) (slot : Nat) : List (Nat × Req) :=
  s.home.lines.filterMap fun e => e.2.active.bind fun a => if accessOf slot a.req then some (e.1, a.req) else none

/-- Lines of a welt's sets, its active accesses counted with them (R168, R199). -/
def readLines (s : State) (slot : Nat) : List Nat :=
  let w := weltAt s slot
  (w.reads.map (fun e => e.1) ++ ((accesses s slot).filter fun e => e.2.kind = .wltRd && !w.writes.contains e.1).map
    fun e => e.1).eraseDups
def writeLines (s : State) (slot : Nat) : List Nat :=
  ((weltAt s slot).writes ++ ((accesses s slot).filter fun e => e.2.kind = .wltWr).map fun e => e.1).eraseDups

/-- The owner is asked to give up a write-set line recorded X{owner} (R187, R197). -/
def askOwner (s : State) (slot : Nat) (h : Hall) (line : Nat) (use : SnoopUse) : State :=
  let w := weltAt s slot
  if ((dirAt s line).bind fun e => e.owner) = some w.owner then
    sendSnoop s w.owner .i w.hall h line use 0 0 0 (weltSub s w) 1
  else s

/-! ### Abort (R195 to R201) -/

/-- Release a write-set line of an aborting welt: its owner is snooped first, unless that is under way or the owner is dead
(R197, R200). -/
def releaseLine (s : State) (slot : Nat) (line : Nat) : State :=
  let w := weltAt s slot
  if s.home.snoops.any fun x => decide (x.1.line = line) && decide (x.2 = .weltAbort slot) then s
  else match hallOf s w.hall with
    | some h =>
      if !(w.silent || isDead s w.owner) && decide (((dirAt s line).bind fun e => e.owner) = some w.owner) then
        askOwner s slot h line (.weltAbort slot)
      else freeDir s line
    | none => freeDir s line

/-- Release the lines an aborting welt still pins, but for one whose active transaction is an access of it: that goes first.
The welt ends once every line is released (R197). -/
def abortGo (s : State) (slot : Nat) : State :=
  let w := weltAt s slot
  if w.st ≠ .aborting then s
  else
    let busy := (accesses s slot).map fun e => e.1
    let free := fun (s : State) (l : Nat) => decide (pinOf s l = some slot) && !busy.contains l
    let s := w.reads.foldl (fun s e => if free s e.1 then unpin s e.1 else s) s
    let s := w.writes.foldl (fun s l => if free s l then releaseLine s slot l else s) s
    if busy ≠ [] ∨ (s.home.snoops.any fun x => x.2 = .weltAbort slot) then s else endWelt none s slot w.status false 0

/-- Abort a welt that has not passed its commit point: its owner is snooped for the write set, the read set is unpinned, the buffer is
discarded (R197, R199, R200). -/
def abortWelt (s : State) (slot status : Nat) (silent : Bool) : State :=
  let w := weltAt s slot
  if w.st = .free ∨ w.st = .aborting ∨ (w.st = .committing ∧ w.phase = .apply) then s
  else
    let s := { s with
      jrn := s.jrn.modify w.hall fun j => { j with queue := j.queue.filter fun q => q ≠ slot }
      pair := { s.pair with waits := s.pair.waits.map fun m => if m.welt = some slot then { m with welt := none } else m }
      home := { s.home with snoops := s.home.snoops.map fun x => if x.2 = .weltCommit slot then (x.1, .weltAbort slot) else x } }
    abortGo (setWelt s slot { w with st := .aborting, status := status, silent := silent, buf := [], todo := [] }) slot

/-! ### The journal (R190 to R194) -/

/-- Ring blocks in use beyond the checkpoint. -/
def ringUsed (j : Journal) : Nat := sumNat (j.recs.map fun r => r.blocks)

/-- Issue the next queued record of a hall, one at a time; without room the tier engine writes back the closed set of the
oldest record (R191, R192). With the flash tier offline the queued commits abort (R252). -/
def jrnIssue (s : State) (hid : Nat) : State :=
  match s.jrn.get? hid, hallOf s hid with
  | some j, some h =>
    match j.queue with
    | [] => s
    | slot :: rest =>
      if s.flash.stopped then s
      else if flashOff s then j.queue.foldl (fun s q => abortWelt s q stFault false) s
      else if j.recs.any fun r => !r.durable then s
      else
        let w := weltAt s slot
        let ls := w.buf.map fun e => (e.1 - 2 ^ 24 * h.base, e.2)
        let n := 1 + ceilDiv ls.length 64
        if ringUsed j + n ≤ 262142 then
          let r : JRec := { jseq := j.nextJ, age := w.age, issue := s.now, pos := j.pos, blocks := n, gen := curGen s hid h
                            lines := ls, slot := slot }
          let s := { s with jrn := s.jrn.set hid { j with
            queue := rest, nextJ := j.nextJ + 1, pos := ringAfter j.pos n, recs := j.recs ++ [r] } }
          let s := modWelt s slot fun w => { w with jissued := true }
          addJob s (.record hid r.jseq) (jrnUnits s hid r) (weltSub s w) 1
        else match j.recs.head? with
          | some r => if j.goals.isEmpty && j.sbWrite.isEmpty then ((recBlocks h r).head?).elim s fun b => writeBack s hid h b false else s
          | none => s
  | _, _ => s

/-! ### Commit (R185 to R189, R639) -/

/-- A committed line goes to memory where its block is landed; its entry is freed with that (R188, R219). -/
def applyLine (s : State) (slot : Nat) (hid : Nat) (h : Hall) (line : Nat) : State :=
  let w := weltAt s slot
  let x := line * 64 - 2 ^ 30 * h.base
  let sub := weltSub s w
  let s := touchBlock (dramXfer (flushMerge s hid h x) hid h x sub 1) hid h x false
  let s := (writeLine s hid h x (w.buf.getD line {}) (BitVec.allOnes 64)).1
  blockDirtied (freeDir (modWelt s slot fun w => { w with left := w.left.erase line }) line) hid h (x / blockBytes h)

/-- Past the commit point: lines go to memory as their blocks are landed. Once every line is there the WLT_END goes out and the slot is
free (R187 steps 5 and 6, R188). In a planned swap a persist commit's lines went to the standby before (R570, R577). -/
def applyGo (s : State) (slot : Nat) : State :=
  let w := weltAt s slot
  match hallOf s w.hall with
  | none => s
  | some h =>
    let offOf := fun l => l * 64 - 2 ^ 30 * h.base
    let s := w.left.foldl (fun s l =>
      if isLanded s w.hall h (offOf l) then applyLine s slot w.hall h l
      else land s w.hall h (offOf l / blockBytes h) .demand (weltSub s w)) s
    if (weltAt s slot).left.isEmpty then endWelt none s slot stOk true w.writes.length else s

/-- The commit point: the welt is marked committed and its lines are applied (R187 steps 4 to 6). -/
def commitPoint (s : State) (slot : Nat) : State :=
  let w := weltAt s slot
  applyGo (w.reads.foldl (fun s e => unpin s e.1) (setWelt s slot { w with phase := .apply, phaseAt := s.now, left := w.writes })) slot

/-- Step 3 of R187 is over once the record is durable and the standby has acknowledged. -/
def durableGo (s : State) (slot : Nat) : State :=
  let w := weltAt s slot
  if w.st = .committing ∧ w.phase = .durable ∧ w.jwait = false ∧ w.mwait = false then commitPoint s slot else s

/-- Step 1 of R187: the owner is asked for every write-set line recorded in X, once no access of the welt is active on it. -/
def collectLines (s : State) (slot : Nat) : State :=
  let w := weltAt s slot
  match hallOf s w.hall with
  | none => s
  | some h =>
    let ready := w.todo.filter fun l => ((s.home.lines.getD l {}).active).isNone
    let s := setWelt s slot { w with todo := w.todo.filter fun l => !ready.contains l }
    ready.foldl (fun s l => askOwner s slot h l (.weltCommit slot)) s

/-- An uncorrectable error in a welt buffer is poison in the data it holds (R440, R583). -/
def spoilBuf (s : State) (slot : Nat) : State :=
  let w := weltAt s slot
  let hit := w.bad.filter fun e => (w.buf.get? e.1).isSome
  let s := setWelt s slot { w with bad := [], buf := hit.foldl (fun m e => m.modify e.1 fun d =>
    { data := d.data &&& ~~~((BitVec.allOnes 128).setWidth 512 <<< (128 * (e.2 % 4))), poison := d.poison ||| (1 <<< (e.2 % 4)) }) w.buf }
  hit.foldl (fun s e => event s .arrayPoison (srcOf 0x06 ((s.home.slices[homeSlice e.1]?).getD 0x3FF)) none (some w.hall) (64 * e.1)
    [(0, 1, 1)]) s

/-- Steps 2 and 3 of R187, once the owner's answers are collected and every line's value is at hand (R639). -/
def commitNext (s : State) (slot : Nat) : State :=
  let w := weltAt s slot
  if w.todo ≠ [] ∨ accesses s slot ≠ [] ∨ (s.home.snoops.any fun x => x.2 = .weltCommit slot) then s
  else match hallOf s w.hall with
    | none => s
    | some h =>
      let need := w.writes.filter fun l => (w.buf.get? l).isNone
      let look := w.fwdReads.filter fun l => w.reads.any fun e => e.1 = l
      let offOf := fun l => l * 64 - 2 ^ 30 * h.base
      let s := (need ++ look).foldl (fun s l =>
        if isLanded s w.hall h (offOf l) then s else land s w.hall h (offOf l / blockBytes h) .demand (weltSub s w)) s
      if (need ++ look).any fun l => !isLanded s w.hall h (offOf l) then s
      else
        let s := need.foldl (fun s l =>
          let (s, d) := loadLine s w.hall h (offOf l) false (weltSub s w) 1
          modWelt s slot fun w => { w with buf := w.buf.set l d }) s
        let s := look.foldl (fun s l =>
          let (s, d) := loadLine s w.hall h (offOf l) false (weltSub s w) 1
          modWelt s slot fun w => { w with reads := w.reads.map fun e => if e.1 = l then (l, e.2 || decide (d.poison ≠ 0)) else e }) s
        let s := spoilBuf (modWelt s slot fun w => { w with fwdReads := [] }) slot
        let w := weltAt s slot
        let mir := (h.mirrored || s.pair.swap.isSome) && decide (s.pair.role = .active)
        if (w.reads.any fun e => e.2) || w.buf.any fun e => decide (e.2.poison ≠ 0) then abortWelt s slot stAbortPoison false
        else if w.writes = [] then commitPoint s slot
        else if w.persist && s.flash.stopped then s
        else if (w.persist && flashOff s) || (mir && !mirrorLive s) then abortWelt s slot stFault false
        else
          let s := setWelt s slot { w with phase := .durable, phaseAt := s.now, jwait := w.persist, mwait := mir }
          let s := if mir then
              let s := xfer s 0x20 sysSub 6 (64 * w.buf.length) 0
              let (s, m) := sendMirror s (.lines w.hall (w.buf.map fun e => (e.1 - 2 ^ 24 * h.base, e.2)))
              let s := { s with pair := { s.pair with waits := s.pair.waits ++ [{ mseq := m, sentAt := s.now, welt := some slot }] } }
              modWelt s slot fun w => { w with mseq := some m }
            else s
          let s := if w.persist then
              jrnIssue { s with jrn := s.jrn.modify w.hall fun j => { j with queue := j.queue ++ [slot] } } w.hall
            else s
          durableGo s slot

/-- A commit goes on while it collects (R187). -/
def commitStep (s : State) (slot : Nat) : State :=
  let w := weltAt s slot
  if w.st ≠ .committing ∨ w.phase ≠ .collect then s else commitNext (collectLines s slot) slot

/-- An accepted commit begins: no further access is taken (R185). -/
def commitStart (s : State) (slot : Nat) : State := commitStep (modWelt s slot fun w => { w with todo := w.writes }) slot

/-- An access of a welt has ended, or a block has landed: an abort or a commit that waited for it goes on. -/
def accessEnded (s : State) (slot : Nat) : State :=
  match (weltAt s slot).st with
  | .aborting => abortGo s slot
  | .committing => if (weltAt s slot).phase = .apply then applyGo s slot else commitStep s slot
  | _ => s

/-! ### Opening (R163, R166 to R168) -/

/-- The slot a new welt takes: one never used, lowest first, else the one free longest (R163). -/
def takeSlot (s : State) : Option Nat :=
  match s.welt.slots.freeKey 0 4096 with
  | some n => some n
  | none => (minBy (fun e => e.2.freedAt) (s.welt.slots.filter fun e => e.2.st = .free)).map fun e => e.1

/-- Open a welt, its AGE below AGE_LIMIT (R166 to R168). -/
def openWelt (s : State) (m : WltMsg) : State :=
  let busy := s.welt.slots.filter fun e => e.2.st ≠ .free
  let refuse := fun (s : State) (st : Nat) => wltAnswer s m.port m.ep m.tag fun p => .wltEnd p m.ep m.tag m.hall 0 false false st 0 s.homeEpoch
  match takeSlot s with
  | none => refuse s stNoSpace
  | some slot =>
    if 64 ≤ (busy.filter fun e => e.2.owner = m.ep).length then refuse s stNoSpace
    else match hallOf s m.hall with
      | none => s
      | some h =>
        let old := weltAt s slot
        let w : Welt :=
          { st := .open_, inc := if old.used then (old.inc + 1) % 16 else 0, owner := m.ep, port := m.port, hall := m.hall
            age := s.welt.age, openedAt := s.now, tmo := us (10 * h.weltTmo), used := true }
        let s := setWelt { s with welt := { s.welt with age := s.welt.age + 1 } } slot w
        let s := if mirrorLive s then mirrorNote s (.age w.age) else s
        wltAnswer s m.port m.ep m.tag fun p => .wltOpened p m.ep m.tag m.hall (handleOf slot w) w.age s.homeEpoch

/-- A waiting WLT_OPEN was checked before a withdrawal that covers it: its stamp is old and its hall is being destroyed or gone, or its
endpoint has lost WELT (R51, R52). -/
def openWithdrawn (s : State) (m : WltMsg) (stamp : Nat) : Bool :=
  match s.halls.get? m.hall with
  | none => true
  | some h => decide (stamp ≠ h.epoch) && (match s.drains.get? m.hall with
    | none => false
    | some d => match d.kind with
      | .acl => d.scope.any (fun x => decide (x.1 = m.ep)) && !((aclOf s m.hall m.ep).any fun a => a.rights.welt)
      | .trim => false
      | .destroy => true)

/-- WLT_OPENs that waited for AGE_LIMIT reach their ordering point, in order (R52, R167). -/
def openWaiting (s : State) : State :=
  let ws := s.welt.waiting
  ws.foldl (fun s e =>
    if openWithdrawn s e.1 e.2.2 then
      completeCode s { kind := .wltRd, ep := e.1.ep, org := .ep e.1.port e.1.tag, hall := e.1.hall, line := 0, offset := 0 } .revoked
    else if s.welt.age < s.welt.ageLimit then openWelt s e.1
    else { s with welt := { s.welt with waiting := s.welt.waiting ++ [e] } }) { s with welt := { s.welt with waiting := [] } }

end Sys2Proof.Machine
end

