-- ==== Sys2Proof/Machine/Home.lean ====
section
/-! DEFINITION. The home slices: arrival and checks (R45 to R48, R108, R109, R115, R121, R151), the ordering point (R128 to
R130, R156, R178 to R184), snoops and their answers (R123, R131 to R139), the memory phase, endpoint death (R153 to R157). -/

namespace Sys2Proof.Machine

/-! ### Rights and the request-context check (R45 to R47) -/

/-- The rights a request needs (R45). -/
def needs : ReqKind → Rights → Bool
  | .rdNa, a => a.read
  | .rdS, a => a.read && a.cache
  | .rdX, a | .upg, a => a.read && a.write && a.cache
  | .wrFull, a | .wrPart, a => a.write
  | .amo, a => a.read && a.write && a.atomic
  | .wltRd, a => a.welt && a.read
  | .wltWr, a => a.welt && a.write
  | .diag, _ => true

def rightsOf (s : State) (hid ep : Nat) : Option Rights := (aclOf s hid ep).map fun a => a.rights

/-- A hall takes requests: ACTIVE or TRIMMING, its tenant's key slot ACTIVE, and never hall 4095 (R47, R62, R454). -/
def hallTakes (s : State) (hid off : Nat) : Bool :=
  match s.halls.get? hid with
  | none => false
  | some h => decide (hid ≠ 4095) && (h.state = .active || h.state = .trimming) && decide (off < 2 ^ 30 * h.size) &&
      decide ((curSlot s hid h).st = .active)

/-- An engine context is bound to the hall and of its tenant (R46). -/
def ctxFits (s : State) (hid : Nat) : Option Nat → Bool
  | none => true
  | some c => match s.eng.ctxs.get? c, s.halls.get? hid with
    | some x, some h => x.halls.contains hid && decide (x.tenant = h.tenant)
    | _, _ => false

/-- The request-context check (R46, R47): before any directory lookup, snoop, tier action or memory access (R17). -/
def passes (s : State) (k : ReqKind) (hid off ep : Nat) (ctx : Option Nat) : Bool :=
  hallTakes s hid off && ctxFits s hid ctx && (rightsOf s hid ep).any (needs k)

/-! ### Line queues (R130) -/

def lineCtl (s : State) (line : Nat) : LineCtl := s.home.lines.getD line {}

/-- A line with nothing waiting or active keeps no entry. -/
def setLine (s : State) (line : Nat) (c : LineCtl) : State :=
  { s with home := { s.home with lines := s.home.lines.put line c {} } }

def modActive (s : State) (line : Nat) (f : Active → Active) : State :=
  let c := lineCtl s line
  setLine s line { c with active := c.active.map f }

/-- The active transaction of a line is over. -/
def endActive (s : State) (line : Nat) : State := setLine s line { lineCtl s line with active := none }

/-! ### Endpoint death, entry by entry (R155, R156) -/

/-- Resolve an unpinned entry that names a dead endpoint (R155). -/
def resolveEntry (s : State) (line ep : Nat) : State :=
  match dirAt s line, hallAt s (line * 64) with
  | some e, some (hid, h) =>
    if e.pin.isSome then s
    else if e.owner = some ep then
      let s := freeDir s line
      let i := epInfo s ep
      if h.orphanRevert then { s with eps := s.eps.set ep { i with reverted := i.reverted + 1 } }
      else
        let s := storeLine s hid h line allPoison sysSub 0
        { s with eps := s.eps.set ep { epInfo s ep with poisoned := i.poisoned + 1 } }
    else if e.owner.isNone ∧ e.coarse.isNone ∧ e.ptrs.contains ep = true then
      let s := dropFrom s line ep
      { s with eps := s.eps.set ep { epInfo s ep with removed := (epInfo s ep).removed + 1 } }
    else s
  | some _, none => freeDir s line
  | none, _ => s

/-- A transaction that meets an entry naming dead endpoints resolves it on the spot (R156). -/
def resolveDead (s : State) (line : Nat) : State :=
  match dirAt s line with
  | none => s
  | some e => ((e.owner.toList ++ e.ptrs).filter (isDead s)).foldl (fun s ep => resolveEntry s line ep) s

/-! ### The nearest sharer (R140 to R142) -/

def leafOf (s : State) (ep : Nat) : Nat := s.leaf.getD ep 0x3FF

/-- Distance between leaves; every distance to or from leaf 0x3FF is 15 (R142). -/
def distOf (s : State) (a b : Nat) : Nat := if a = 0x3FF ∨ b = 0x3FF then 15 else s.dist.getD (1024 * a + b) 15

/-- The nearest eligible sharer, the lower endpoint ID at a tie (R140). -/
def nearest (s : State) (line ep : Nat) (e : DirEntry) : Option Nat :=
  let owner := e.pin.map fun w => (weltAt s w).owner
  let ok := e.ptrs.filter fun n => decide (n ≠ ep) && !isDead s n && decide (owner ≠ some n) &&
    decide (distOf s (leafOf s ep) (leafOf s n) < 15)
  let _ := line
  minBy (fun n => 2 ^ 18 * distOf s (leafOf s ep) (leafOf s n) + n) ok

/-! ### The snoop phase (R133 to R137, R143, R171, R172) -/

/-- Snoops of a request on the entry it finds, and the endpoint asked to forward. -/
def snoopPlan (s : State) (r : Req) (h : Hall) (line : Nat) (e : DirEntry) : List (Nat × SnpOp) × Option Nat :=
  let others := (entryEps s r.hall e).filter fun n => n ≠ r.ep
  let near := if e.coarse.isSome || ownerFwd h then none else nearest s line r.ep e
  match r.kind with
  | .rdS | .wltRd => match e.owner with
    | some o => if o = r.ep then ([], none) else ([(o, .fwdS)], some o)
    | none => match near with
      | some n => ([(n, .fwdS)], some n)
      | none => ([], none)
  | .rdX | .wltWr => match e.owner with
    | some o => if o = r.ep then ([], none) else ([(o, .fwdX)], some o)
    | none => match near with
      | some n => ((n, .fwdX) :: (others.filter fun x => x ≠ n).map fun x => (x, .i), some n)
      | none => (others.map fun x => (x, .i), none)
  | .upg => (others.map fun x => (x, .i), none)
  | .rdNa => match e.owner with
    | some o => ([(o, .rdNa)], none)
    | none => ([], none)
  | .wrFull | .wrPart | .amo | .diag => ((entryEps s r.hall e).map fun x => (x, .i), none)

def reqTag (r : Req) : Nat := match r.org with
  | .ep _ t => t
  | .engine _ _ i => i
  | .ring _ i => i
  | .load _ i => i
  | .diag _ i => i

/-- Kinds whose snoops invalidate every other copy. -/
def invalidates : ReqKind → Bool
  | .rdX | .upg | .wltWr | .wrFull | .wrPart | .amo | .diag => true
  | _ => false

/-- Kinds that need a directory entry afterwards. -/
def needsEntry : ReqKind → Bool
  | .rdS | .rdX | .upg | .wltRd | .wltWr => true
  | _ => false

/-! ### Completion of a transaction -/

/-- A welt access joins its set (R169, R171, R172); to a commit under way its line is one more to ask for (R187). -/
def joinSet (s : State) (r : Req) (line : Nat) (poisoned : Bool) : State :=
  let slot := r.handle % 4096
  let s := { s with home := { s.home with dir := s.home.dir.modify line fun e => { e with pin := some slot } } }
  modWelt s slot fun w =>
    if r.kind = .wltWr then
      { w with reads := w.reads.filter fun e => e.1 ≠ line, writes := if w.writes.contains line then w.writes else w.writes ++ [line],
                todo := if w.st = .committing ∧ w.todo.contains line = false then w.todo ++ [line] else w.todo }
    else
      { w with reads := if w.reads.any fun e => e.1 = line then w.reads.map fun e => if e.1 = line then (line, e.2 || poisoned) else e
                        else w.reads ++ [(line, poisoned)] }

/-- The entry with its requester as owner; a pin stays. -/
def ownBy (s : State) (line ep : Nat) : State :=
  setDir s line { (dirAt s line).getD {} with owner := some ep, ptrs := [], coarse := none }

/-- The entry with its requester as a further sharer, an owner becoming one. -/
def shareBy (s : State) (line ep : Nat) : State :=
  let e := (dirAt s line).getD {}
  let e := match e.owner with
    | some o => { e with owner := none, ptrs := [o], coarse := none }
    | none => e
  setDir s line (addSharer e ep)

/-- A forwarded request completes with a dataless CMP (R133, R134). What a sharer forwards to a welt equals memory, which its commit
looks at for poison (R187, DEDUCED, log 94). -/
def endForward (s : State) (line : Nat) (a : Active) : State :=
  let r := a.req
  let poisoned := a.got.any fun d => decide (d.poison ≠ 0)
  let s := endActive s line
  match r.kind with
  | .rdS => complete (shareBy s line r.ep) r .ok 1 none none true none
  | .wltRd =>
    let s := joinSet (shareBy s line r.ep) r line poisoned
    let s := if a.got.isNone then modWelt s (r.handle % 4096) fun w => { w with fwdReads := w.fwdReads ++ [line] } else s
    accessEnded (complete s r .ok 1 none none true none) (r.handle % 4096)
  | .wltWr => accessEnded (complete (joinSet (ownBy s line r.ep) r line poisoned) r .ok 2 none none true none) (r.handle % 4096)
  | _ => complete (ownBy s line r.ep) r .ok 2 none none true none

/-- The code of a read by its poison (R147). -/
def readCode (d : LineData) : CmpCode := if d.poison = 0 then .ok else .poison

/-- Serve a transaction from its landed block (R133 to R137, R146, R171 to R174). -/
def serve (s : State) (line : Nat) (a : Active) (h : Hall) : State :=
  let r := a.req
  let s := endActive s line
  let sub := reqSub s r
  let load := fun (s : State) => loadLine s r.hall h r.offset (reqEngine r) sub (reqSvc r)
  match r.kind with
  | .rdS =>
    let (s, d) := load s
    let e := dirAt s line
    let excl : Bool := match e with
      | none => !a.fwd.isSome && !a.owned.isSome && (rightsOf s r.hall r.ep).any fun x => x.write
      | some e => decide (e.owner = some r.ep)
    let s := if excl then ownBy s line r.ep else shareBy s line r.ep
    complete s r (readCode d) (if excl then 2 else 1) (some d) none false none
  | .rdX | .upg =>
    let (s, d) := load s
    complete (ownBy s line r.ep) r (readCode d) 2 (some d) none false none
  | .wltRd =>
    let (s, d) := load s
    accessEnded (complete (joinSet (shareBy s line r.ep) r line (decide (d.poison ≠ 0))) r (readCode d) 1 (some d) none false none)
      (r.handle % 4096)
  | .wltWr =>
    let (s, d) := load s
    accessEnded (complete (joinSet (ownBy s line r.ep) r line false) r (readCode d) 2 (some d) none false none) (r.handle % 4096)
  | .rdNa =>
    let (s, d) := load s
    let s := if a.naCode = 2 then a.owned.elim s fun o => dropFrom s line o else s
    complete s r (readCode d) 0 (some d) none false none
  | .wrFull | .wrPart =>
    let (s, code, m) := storeNow (freeDir s line) r.hall h r.offset r.d
      (if r.kind = .wrFull then BitVec.allOnes 64 else r.mask) sub (reqSvc r)
    complete (touchBlock s r.hall h r.offset (reqEngine r)) r code 0 none none false m
  | .amo =>
    let (s, code, v, m) := amoRun (freeDir s line) r h
    complete s r code 0 none (if r.ret then some v else none) false m
  | .diag => complete (xorLine (dramXfer (freeDir s line) r.hall h r.offset sub (reqSvc r)) r.hall h r.offset r.dmask) r .ok 0
      none none false none

/-- The snoop phase is over: complete at once where no memory is needed, else go to the tier and memory phase; `settle` serves
it once its block is landed (R135 to R137, R158, R206). -/
def memPhase (s : State) (line : Nat) : State :=
  match (lineCtl s line).active with
  | none => s
  | some a =>
    let r := a.req
    -- every copy but the requester's is gone
    let s := if invalidates r.kind then
        match dirAt s line with
        | some e =>
          -- a coarse entry stays until it becomes X or is freed (R127)
          let keep := (sharesIn e r.ep && needsEntry r.kind) || e.pin.isSome
          if e.coarse.isNone || keep then s else freeDir s line
        | none => s
      else s
    if a.fwdDone then endForward s line a
    else if r.kind = .upg then complete (ownBy (endActive s line) line r.ep) r .ok 2 none none false none
    else match r.kind, a.got with
      | .rdNa, some d => complete (endActive s line) r (readCode d) 0 (some d) none false none
      | _, _ =>
        match hallOf s r.hall with
        | none => completeCode (endActive s line) r .revoked
        | some h =>
          let s := if isLanded s r.hall h r.offset then s
            else land s r.hall h (r.offset / blockBytes h) .demand (reqSub s r)
          modActive s line fun a => { a with phase := .tier, since := s.now }

/-- Begin the snoop phase of an active transaction (R130, R133 to R137, R173, R174). -/
def beginSnoops (s : State) (line : Nat) (r : Req) (h : Hall) : State :=
  let e0 := dirAt s line
  -- UPG without its copy proceeds as RD_X (R135)
  let r := if r.kind = .upg ∧ (e0.any fun e => sharesIn e r.ep) = false then { r with kind := .rdX } else r
  -- a welt read of a line its owner is recorded to own treats it as not held (R173)
  let inSet := (r.kind = .wltRd || r.kind = .wltWr) && inWriteSet s (r.handle % 4096) line
  let s := if r.kind = .wltRd ∧ inSet = false ∧ (e0.any fun e => e.owner = some r.ep) = true then freeDir s line else s
  let c := lineCtl s line
  if inSet then
    match (weltAt s (r.handle % 4096)).buf.get? line with
    | some d => accessEnded (complete (endActive s line) r (readCode d) 2 (some d) none false none) (r.handle % 4096)
    | none =>
      memPhase (setLine s line { c with active := some { req := { r with kind := .wltWr }, since := s.now } }) line
  else
    let (sn, fwd) := match dirAt s line with
      | some e => snoopPlan s r h line e
      | none => ([], none)
    let a : Active := { req := r, since := s.now, fwd := fwd, owned := (dirAt s line).bind fun e => e.owner }
    let s := setLine s line { c with active := some a }
    let grant := if r.kind = .rdS ∨ r.kind = .wltRd then 1 else 2
    let s := (sn.filter fun x => !isDead s x.1).foldl (fun s x =>
      let f := x.2 = .fwdS ∨ x.2 = .fwdX
      sendSnoop s x.1 x.2 r.hall h line .active (if f then r.ep else 0) (if f then reqTag r else 0) (if f then grant else 0)
        (reqSub s r) (reqSvc r)) s
    if snoopsFor s line .active then s else memPhase s line

/-! ### The ordering point (R128 to R130, R168, R178 to R184) -/

/-- Is a request within the scope withdrawn from its hall, with an old stamp (R51, R52)? -/
def withdrawn (s : State) (r : Req) : Bool :=
  match s.halls.get? r.hall with
  | none => true
  | some h => decide (r.stamp ≠ h.epoch) && (match s.drains.get? r.hall with
    | none => false
    | some d => match d.kind with
      | .acl => d.scope.any (fun x => decide (x.1 = r.ep)) && !(rightsOf s r.hall r.ep).any (needs r.kind)
      | _ => decide (d.lo ≤ r.offset))

def isWelt (r : Req) : Bool := r.kind = .wltRd || r.kind = .wltWr

/-- The welt a request belongs to, open (R165, R185). -/
def openOf (s : State) (r : Req) : Option Welt :=
  if isWelt r then (weltOf s r.handle r.ep r.hall).filter fun w => w.st = .open_ else none

/-- Plain requests that conflict with a pinned line (R178). -/
def conflicts (inWrite : Bool) : ReqKind → Bool
  | .rdS | .rdNa => inWrite
  | .wltRd | .wltWr => false
  | _ => true

/-- What waiting requests do to the welt that pins their line: the owner's own plain request and an older welt's access abort
it while it is open (R179, R181). -/
def meet (s : State) (line : Nat) : State :=
  (lineCtl s line).fifo.foldl (fun s r =>
    match pinOf s line with
    | none => s
    | some slot =>
      let w := weltAt s slot
      if w.st ≠ .open_ then s
      else match openOf s r with
        | some x => if r.handle % 4096 ≠ slot ∧ x.age < w.age then abortWelt s slot stAbortConflict false else s
        | none => if isWelt r = false ∧ r.ep = w.owner then abortWelt s slot stAbortConflict false else s) s

/-- Which waiting request goes next: on a pinned line an access of the pinning welt first, else the head unless it is
deferred (R178, R180, R181). -/
def pickReq (s : State) (line : Nat) (fifo : List Req) : Option Nat :=
  match pinOf s line with
  | none => if fifo.isEmpty then none else some 0
  | some slot =>
    match fifo.findIdx? fun r => (openOf s r).isSome && decide (r.handle % 4096 = slot) with
    | some i => some i
    | none => match fifo.head? with
      | none => none
      | some r =>
        if isWelt r then (if (openOf s r).isNone then some 0 else none)
        else if conflicts (inWriteSet s slot line) r.kind && !withdrawn s r then none
        else some 0

/-- Ways of a set in use: entries, and active transactions that will make one; one whose victim is being invalidated is to have that
way (R128). -/
def waysUsed (s : State) (line : Nat) : Nat :=
  (setEntries s line).length + (s.home.lines.filter fun e =>
    decide (e.1 ≠ line) && decide (dirSet e.1 = dirSet line) && (dirAt s e.1).isNone &&
      e.2.active.any fun a => needsEntry a.req.kind && a.phase ≠ .victim).length

/-- The victim way: least recently used, neither pinned nor held by a transaction or snoop (R128). -/
def victimWay (s : State) (line : Nat) : Option (Nat × DirEntry) :=
  minBy (fun e => e.2.lru) ((setEntries s line).filter fun e =>
    e.2.pin.isNone && (lineCtl s e.1).active.isNone && !(s.home.snoops.any fun x => x.1.line = e.1))

/-- The welts that pin ways of a line's set, one entry a way: pinned entries, and active welt accesses that are about to pin
(R183). -/
def pinners (s : State) (line : Nat) : List Nat :=
  ((pinnedWays s line).filterMap fun e => e.2.pin) ++ (s.home.lines.filter fun e =>
      decide (e.1 ≠ line) && decide (dirSet e.1 = dirSet line) && (pinOf s e.1).isNone).filterMap
    fun e => e.2.active.bind fun a => if isWelt a.req then some (a.req.handle % 4096) else none

/-- The welt to abort for a thirteenth pinned way: the youngest of the accessing one and those pinning ways of the set, none
committing (R184). -/
def youngest (s : State) (line slot : Nat) : Nat :=
  let slots := (slot :: pinners s line).eraseDups.filter fun w => (weltAt s w).st = .open_
  ((minBy (fun w => 2 ^ 64 - (weltAt s w).age) slots)).getD slot

/-- A request at the head of its line reaches its ordering point: `r` has left the FIFO (R52, R128, R129, R156, R165, R168,
R184). While a pinning welt of the set is aborting, a thirteenth way waits for it (DESIGN CHOICE, log 90). -/
def takeUp (s : State) (line : Nat) (r : Req) : State :=
  let back := fun (s : State) => setLine s line { lineCtl s line with fifo := r :: (lineCtl s line).fifo }
  match hallOf s r.hall with
  | none => completeCode s r .revoked
  | some h =>
    if withdrawn s r then completeCode s r .revoked
    else
      let slot := r.handle % 4096
      let w := weltAt s slot
      let fresh := isWelt r && !(w.writes.contains line) && !(r.kind = .wltRd && w.reads.any fun e => e.1 = line)
      if isWelt r ∧ (openOf s r).isNone = true then completeCode s r .denied
      else if fresh && (if r.kind = .wltWr then decide (256 ≤ (writeLines s slot).length) else decide (1024 ≤ (readLines s slot).length)) then
        completeCode (abortWelt s slot stAbortCapacity false) r .denied
      else if isWelt r && (pinOf s line).isNone && decide (12 ≤ (pinners s line).length) then
        if (pinners s line).any fun w => (weltAt s w).st = .aborting then back s
        else
        let y := youngest s line slot
        if y = slot then completeCode (abortWelt s slot stAbortDir false) r .denied
        else back (abortWelt s y stAbortDir false)
      else
        let s := resolveDead s line
        let r := { r with stamp := (s.halls.get? r.hall).elim r.stamp fun h => h.epoch }
        if needsEntry r.kind && (dirAt s line).isNone && decide (16 ≤ waysUsed s line) then
          match victimWay s line with
          | none => back s
          | some (v, _) =>
            let s := resolveDead s v
            match dirAt s v, hallAt s (v * 64) with
            | none, _ => beginSnoops s line r h
            | some _, none => beginSnoops (freeDir s v) line r h
            | some e, some (vh, vhall) =>
              let eps := (entryEps s vh e).filter fun n => !isDead s n
              if eps.isEmpty then beginSnoops (freeDir s v) line r h
              else
                let s := setLine s line { lineCtl s line with active := some { req := r, phase := .victim, since := s.now } }
                eps.foldl (fun s n => sendSnoop s n .bi vh vhall v (.victimOf line) 0 0 0 (reqSub s r) (reqSvc r)) s
        else beginSnoops s line r h

/-- The next request of a line becomes its active transaction (R130), once a back-invalidation of the line is over (R129); in the
recovery window every one is held (R574). -/
def activate (s : State) (line : Nat) : State :=
  let leaving := s.home.snoops.any fun x => decide (x.1.line = line) && (match x.2 with
    | .victimOf _ => true
    | _ => false)
  if (lineCtl s line).active.isSome ∨ leaving = true ∨ s.now < s.home.recoveryEnd ∨ s.pwr.diesHeld = true ∨ s.pair.role = .fenced then s
  else
    let s := meet s line
    let c := lineCtl s line
    match pickReq s line c.fifo with
    | none => s
    | some i => match c.fifo[i]? with
      | none => s
      | some r => takeUp (setLine s line { c with fifo := c.fifo.eraseIdx i }) line r

/-! ### Serving what has landed (R206, R638) -/

/-- A WB_M that waited for its landing is written and completes (R638). -/
def serveWb (s : State) (x : HeldWb) : State :=
  match hallAt s (x.line * 64) with
  | none => s
  | some (hid, h) =>
    let off := x.line * 64 - 2 ^ 30 * h.base
    if isLanded s hid h off = false then
      { s with home := { s.home with wbHeld := s.home.wbHeld ++ [x] } }
    else
      let r : Req := { kind := .wrFull, ep := x.ep, org := .ep x.port x.tag, hall := hid, line := x.line, offset := off, mute := x.mute }
      let (s, code, m) := storeNow s hid h off x.d (BitVec.allOnes 64) (reqSub s r) 0
      complete (touchBlock s hid h off false) r code 0 none none false m

/-- A checked request waits in its line's FIFO with its stamp; welts it meets are dealt with at once (R48, R130, R179, R181). -/
def enqueue (s : State) (r : Req) : State :=
  match s.halls.get? r.hall with
  | none => s
  | some h =>
    let line := lineOf h r.offset
    let r := { r with line := line, stamp := h.epoch, at_ := s.now }
    let c := lineCtl s line
    meet (setLine s line { c with fifo := c.fifo ++ [r] }) line

/-- Is the read of a completed original still covered by the directory (R151)? -/
def stillGranted (s : State) (line ep grant : Nat) : Bool :=
  decide (grant = 0) || (dirAt s line).any fun e => if grant = 2 then decide (e.owner = some ep) else sharesIn e ep

/-- A request executed again meets the context check as a new one does (R47, R151). -/
def runAgain (s : State) (r : Req) : State :=
  if passes s r.kind r.hall r.offset r.ep r.ctx then enqueue s { r with again := true } else completeCode s r .denied

/-- A completed read's data goes out again: from the welt buffer, from memory once the block is landed, with the recorded grant; a
read whose entry has changed meanwhile is executed again, an access of a welt that is no longer open denied (R151, R174, R202). -/
def serveAgain (s : State) (x : Resend) : State :=
  let r := x.req
  match s.halls.get? r.hall with
  | none => completeCode s r .denied
  | some h =>
    let line := lineOf h r.offset
    let w := openOf s r
    if isWelt r && w.isNone then completeCode s r .denied
    else if isWelt r = false && stillGranted s line r.ep x.grant = false then runAgain s r
    else match w.bind fun w => if w.writes.contains line then w.buf.get? line else none with
      | some d => complete s r (readCode d) x.grant (some d) none false none
      | none =>
        if isLanded s r.hall h r.offset then
          let (s, d) := loadLine s r.hall h r.offset (reqEngine r) (reqSub s r) (reqSvc r)
          complete s r (readCode d) x.grant (some d) none false none
        else
          let s := land s r.hall h (r.offset / blockBytes h) .demand (reqSub s r)
          { s with home := { s.home with resends := s.home.resends ++ [{ x with req := { r with line := line } }] } }

/-- Everything whose block is landed is served: held data, writebacks, transactions in the tier phase, data to be sent again, commits
collecting or applying values. -/
def serveReady (s : State) : State :=
  let s := s.home.merge.foldl (fun s e => match hallAt s (e.1 * 64) with
    | some (hid, h) =>
      let x := e.1 * 64 - 2 ^ 30 * h.base
      if isLanded s hid h x then flushMerge s hid h x else s
    | none => { s with home := { s.home with merge := s.home.merge.erase e.1 } }) s
  let s := s.home.wbHeld.foldl serveWb { s with home := { s.home with wbHeld := [] } }
  let s := s.home.lines.foldl (fun s e => match (lineCtl s e.1).active with
    | some a =>
      if a.phase = .tier then
        match hallOf s a.req.hall with
        | some h => if isLanded s a.req.hall h a.req.offset then serve s e.1 a h else s
        | none => completeCode (endActive s e.1) a.req .revoked
      else s
    | none => s) s
  let s := s.home.resends.foldl serveAgain { s with home := { s.home with resends := [] } }
  s.welt.slots.foldl (fun s e => accessEnded s e.1) s

/-- A hint that waits is complete: LAND and KEEP when every block is landed, WRITEBACK when every block is CLEAN or has been
rewritten since (R226). Blocks named by a WRITEBACK leave the list as they are done. -/
def hintDone (s : State) (h : Hint) : Bool :=
  if h.verb = 4 then h.blocks.isEmpty
  else h.blocks.all fun b => (blockOf s h.hall b).any landed

/-- KEEP holds the blocks of its range as they land (R226). -/
def holdKept (s : State) (h : Hint) : State :=
  h.hold.foldl (fun s b => modBlock s h.hall b fun x =>
    if s.now < h.until_ then { x with keepUntil := some (x.keepUntil.elim h.until_ fun t => max t h.until_) } else x) s

/-- Complete the hints that are done. -/
def serveHints (s : State) : State :=
  let s := s.tier.hints.foldl holdKept s
  let (done, rest) := s.tier.hints.partition (hintDone s)
  done.foldl (fun s h => h.w.elim s fun w => finishCmd s w stOk 0 (leBytes 4 0)) { s with tier := { s.tier with hints := rest } }

/-! ### Revocation drains (R53) and lowered quotas (R510) -/

/-- The endpoints a drain snoops for an entry (R53). -/
def drainWants (s : State) (hid : Nat) (d : Drain) (e : DirEntry) : List Nat :=
  match d.kind with
  | .acl => (d.scope.filter fun x =>
      if x.2.read || x.2.cache then decide (e.owner = some x.1) || sharesIn e x.1
      else x.2.write && decide (e.owner = some x.1)).map fun x => x.1
  | _ => entryEps s hid e

/-- A drain takes up a line: its copies in the withdrawn scope are snooped, unless a welt's abort frees its entry (R53,
R197). -/
def drainLine (s : State) (hid : Nat) (h : Hall) (d : Drain) (line : Nat) : State :=
  match dirAt s line with
  | none => s
  | some e =>
    if s.home.snoops.any fun x => decide (x.1.line = line) && (match x.2 with
      | .weltAbort _ => true
      | _ => false) then s
    else
      let eps := (drainWants s hid d e).filter fun n => !isDead s n
      if eps.isEmpty then (if d.kind = .acl then s else freeDir s line)
      else eps.foldl (fun s n => sendSnoop s n .i hid h line (.drain hid) 0 0 0 sysSub 0) s

/-- Lines of the hall that were busy at a drain's epoch step: once its transaction has ended, one in the withdrawn range is
taken up (R52, R53). -/
def settleDrains (s : State) : State :=
  s.drains.foldl (fun s e => match hallOf s e.1 with
    | some h =>
      let ready := e.2.todo.filter fun l => (lineCtl s l).active.isNone
      if ready.isEmpty then s
      else
        let s := { s with drains := s.drains.modify e.1 fun d => { d with todo := d.todo.filter fun l => !ready.contains l } }
        (ready.filter fun l => lineOf h e.2.lo ≤ l).foldl (fun s l => drainLine s e.1 h e.2 l) s
    | none => s) s

/-- Does a hall hold more than its QUOTA, over all or on a channel, blocks on their way out not counted? -/
def overQuota (s : State) (hid : Nat) (h : Hall) : Need :=
  let bs := (hallBlocks s hid).filter fun e => e.2.st ≠ .evicting true
  let share := 2 ^ 30 * h.quota / max 1 (hallChans h).length
  if 2 ^ 30 * h.quota < bs.length * blockBytes h then .any
  else match (hallChans h).find? fun c =>
      decide (share < (bs.filter fun e => e.2.slots.any fun x => x.1 = c).length * slotBytes h) with
    | some c => .on c
    | none => .none

/-- Write back and evict until the hall fits its QUOTA; blocks are never dropped (R214, R215, R510). -/
def shrinkHall (s : State) (hid : Nat) (h : Hall) : Nat → State
  | 0 => s
  | fuel + 1 => match overQuota s hid h with
    | .none => s
    | n => match pickVictim s hid h n with
      | none => s
      | some (v, hand) =>
        let s := { s with tier := { s.tier with halls := s.tier.halls.set hid { tierRec s hid with hand := hand } } }
        match (blockOf s hid v).map fun x => x.st with
        | some BlkSt.clean => shrinkHall (evictBlock s hid v) hid h fuel
        | _ =>
          let t := writeBack s hid h v true
          if (blockOf t hid v).any fun x => x.st = .evicting true then shrinkHall t hid h fuel else t

/-- Halls being shrunk go on; those that fit are done, and their `HALL_SET` completes through `k`. -/
def settleShrink (s : State) (k : State → Nat → Nat → State) : State :=
  s.tier.shrink.foldl (fun s e => match hallOf s e.1 with
    | some h =>
      let s := shrinkHall s e.1 h ((hallBlocks s e.1).length + 1)
      if (hallBlocks s e.1).length * blockBytes h ≤ 2 ^ 30 * h.quota ∧ overQuota s e.1 h = .none then
        let s := { s with tier := { s.tier with shrink := s.tier.shrink.filter fun x => x.1 ≠ e.1 } }
        e.2.elim s fun w => k s w e.1
      else s
    | none => { s with tier := { s.tier with shrink := s.tier.shrink.filter fun x => x.1 ≠ e.1 } }) s

/-! ### The hall descriptor -/

/-- Entries of a hall's access list. -/
def aclCount (s : State) (hid : Nat) : Nat := (s.acl.filter fun e => e.1 / 262144 = hid).length

/-- The 32-byte descriptor; a hall ID without a hall reads FREE with every other field zero. -/
def hallBytes (s : State) (hid : Nat) : List Byte :=
  match hallOf s hid with
  | none => leBytes 32 (packBits [(12, hid)])
  | some h => leBytes 32 (packBits [ (12, hid), (12, h.tenant), (2, classCode h.cls), (1, b2n h.mirrored), (1, b2n h.light),
      (2, h.tierBlock), (2, h.grain), (16, h.chMask), (1, b2n h.orphanRevert), (1, b2n h.fwdForce), (1, b2n h.levelDfp1),
      (2, stateCode h.state), (11, 0), (22, h.base), (10, 0), (15, h.size), (17, 0), (15, h.quota), (17, 0), (16, h.weltTmo),
      (16, h.epoch), (17, aclCount s hid), (47, 0) ])

/-- Ordered landings not started by their DEADLINE are dropped and counted; what else asks for the block stays (R230). -/
def dropLate (s : State) : State :=
  let late := fun (e : Nat × Nat × Want) => e.2.2.order.any fun t => decide (t < ms 1 + s.now)
  let rest := s.tier.waitVictim.map fun e => if late e then (e.1, e.2.1, { e.2.2 with order := none }) else e
  { s with tier := { s.tier with
    ordersDropped := satAdd 32 s.tier.ordersDropped (s.tier.waitVictim.filter late).length
    waitVictim := rest.filter fun e => e.2.2.demand || e.2.2.hint || e.2.2.order.isSome } }

/-- The flash engine goes on: with the flash tier offline persist commits that wait for their record abort (R252); queued records are
issued, checkpoints sought, waiting jobs started (R191, R192, R237). -/
def settleFlash (s : State) : State :=
  let s := if flashOff s then s.welt.slots.foldl (fun s e =>
      if (weltAt s e.1).st = .committing ∧ (weltAt s e.1).phase = .durable ∧ (weltAt s e.1).jwait = true then abortWelt s e.1 stFault false
      else s) s
    else s
  runJobs (s.jrn.foldl (fun s e => goalTick (jrnIssue s e.1) e.1) s)

/-- Landings that wait for a victim examine their hall again (R214); then everything ready is served, and drains and lowered
quotas go on. -/
def settleTier (s : State) : State :=
  let s := dropLate (serveReady (settleFlash s))
  let s := s.tier.waitVictim.foldl (fun s e => match hallOf s e.1 with
    | some h => if (blockOf s e.1 e.2.1).isSome then s else serveReady (landAgain s e.1 h e.2.1 e.2.2)
    | none => s) s
  let s := serveHints { s with tier := { s.tier with waitVictim := s.tier.waitVictim.filter fun e =>
    (hallOf s e.1).isSome && (blockOf s e.1 e.2.1).isNone } }
  settleDrains (settleShrink s fun s w hid => finishCmd s w stOk 0 (hallBytes s hid))

/-! ### Answers to snoops (R123, R131, R132, R137, R139, R187, R197) -/

inductive Resp where
  | i | s | fwdS | fwdI
  | wb (d : LineData)
  deriving DecidableEq, Repr

/-- An answer for the active transaction of a line. -/
def answerActive (s : State) (x : Snoop) (resp : Resp) (h : Hall) : State :=
  match (lineCtl s x.line).active with
  | none => s
  | some a =>
    let asked := decide (a.fwd = some x.ep)
    let s := match resp with
      | .wb d =>
        if x.op = .rdNa then modActive s x.line fun a => { a with got := some d, naCode := 3 }
        else
          -- WR_FULL discards it with its own write, or keeps it should the write not come about (R137, R638)
          let s := if a.req.kind = .wrFull then s else storeLine s x.hall h x.line d (reqSub s a.req) (reqSvc a.req)
          modActive s x.line fun a => { a with got := some d, fwdDone := a.fwdDone || asked }
      | .fwdS | .fwdI => modActive s x.line fun a => { a with fwdDone := a.fwdDone || asked }
      | .s => if x.op = .rdNa then modActive s x.line fun a => { a with naCode := 1 } else s
      | .i =>
        let s := if x.op = .rdNa then modActive s x.line fun a => { a with naCode := 2 } else s
        if asked then dropFrom s x.line x.ep else s
    let s := if x.op = .i ∨ x.op = .fwdX then dropFrom s x.line x.ep else s
    if snoopsFor s x.line .active then s else memPhase s x.line

/-- An answer to a snoop of whatever use; the snoop is no longer outstanding. -/
def answerSnoop (s : State) (x : Snoop) (use : SnoopUse) (resp : Resp) : State :=
  match hallOf s x.hall with
  | none => s
  | some h =>
    match use with
    | .active => answerActive s x resp h
    | .victimOf line =>
      let s := match resp with
        | .wb d => storeLine s x.hall h x.line d sysSub 0
        | _ => s
      if snoopsFor s x.line use then s
      else
        let s := freeDir s x.line
        match (lineCtl s line).active with
        | some a => match hallOf s a.req.hall with
          | some rh => beginSnoops (endActive s line) line a.req rh
          | none => completeCode (endActive s line) a.req .revoked
        | none => s
    | .drain hid =>
      let acl := (s.drains.get? hid).all fun d => d.kind = .acl
      let s := match resp with
        | .wb d => if acl then storeLine s x.hall h x.line d sysSub 0 else s
        | _ => s
      if acl then dropFrom s x.line x.ep
      else if snoopsFor s x.line use then s else freeDir s x.line
    | .weltAbort slot => abortGo (freeDir s x.line) slot
    | .weltCommit slot =>
      let s := match resp with
        | .wb d => modWelt s slot fun w => { w with buf := w.buf.set x.line d }
        | _ => s
      commitStep s slot

/-- Take a snoop off the outstanding ones. -/
def dropSnoop (s : State) (ep stag : Nat) : State :=
  { s with home := { s.home with snoops := s.home.snoops.filter fun x => ¬(x.1.ep = ep ∧ x.1.stag = stag) } }

def findSnoop (s : State) (ep stag : Nat) : Option (Snoop × SnoopUse) :=
  s.home.snoops.find? fun x => x.1.ep = ep ∧ x.1.stag = stag

/-- A snoop response arrives (R5, R115, R118, R154): on a link that is not up, of a reserved form, from a dead endpoint or matching no
snoop it is discarded. -/
def snoopResponse (s : State) (m : RspMsg) (bad : Bool) (resp : Resp) : State :=
  if heard s m.port false = false then s
  else if bad then countBad s m.port
  else if isDead s m.ep then s
  else match findSnoop s m.ep m.stag with
    | none => s
    | some (x, use) => settleTier (answerSnoop (dropSnoop s m.ep m.stag) x use resp)

/-- Has the WB_M that a RSP_WB_PEND speaks of been taken already: it came while the snoop was out, or its completion is still
unacknowledged (R132)? -/
def wbTaken (s : State) (x : Snoop) : Bool :=
  x.wbSeen || s.home.trackers.any fun t => decide (t.1 / 65536 = x.ep ∧ t.2.kind = 7 ∧ t.2.line = x.line) && t.2.done.isSome

/-- RSP_WB_PEND: the transaction waits for the WB_M, or uses the memory copy when it has come (R132, R139). -/
def wbPendResponse (s : State) (m : RspMsg) : State :=
  if heard s m.port false = false then s
  else if m.bad 0x45 then countBad s m.port
  else if isDead s m.ep then s
  else match findSnoop s m.ep m.stag with
    | none => s
    | some (x, use) =>
      if wbTaken s x then settleTier (answerSnoop (dropSnoop s m.ep m.stag) x use .i)
      else { s with home := { s.home with snoops := s.home.snoops.map fun y =>
        if y.1.ep = m.ep ∧ y.1.stag = m.stag then ({ y.1 with wbPend := true }, y.2) else y } }

/-- A WB_M has been taken: snoops outstanding to its endpoint for the line are answered by it or know of it (R132). -/
def noteWb (s : State) (line ep : Nat) : State :=
  let mine := s.home.snoops.filter fun x => decide (x.1.line = line ∧ x.1.ep = ep)
  mine.foldl (fun s x =>
    if x.1.wbPend then answerSnoop (dropSnoop s ep x.1.stag) x.1 x.2 .i
    else { s with home := { s.home with snoops := s.home.snoops.map fun y =>
      if y.1.ep = ep ∧ y.1.stag = x.1.stag then ({ y.1 with wbSeen := true }, y.2) else y } }) s

/-! ### Endpoint death (R153, R154) -/

/-- Close the HOST windows of the endpoints a test picks (R480). -/
def closeHosts (s : State) (gone : Nat → Bool) : State :=
  s.win.foldl (fun s e => if e.2.cls = .host ∧ gone e.2.owner = true then closeWin s e.1 else s) s

/-- The endpoint a message goes to. -/
def cargoEp : Cargo → Option Nat
  | .rsp ep _ | .snp ep _ | .mgt ep | .wlt ep _ | .note ep | .push _ _ ep => some ep
  | _ => none

/-- What the home holds of a dead endpoint's requests: those that have not reached their ordering point are dropped, those past it
complete without a response, its trackers are released (R154). -/
def dropRequests (s : State) (ep : Nat) : State :=
  let mine := fun (r : Req) => decide (r.ep = ep) && (match r.org with
    | .ep _ _ => true
    | _ => false)
  let s := s.home.lines.foldl (fun s e => setLine s e.1 { e.2 with
    fifo := e.2.fifo.filter (fun r => !mine r)
    active := e.2.active.map fun a => if mine a.req then { a with req := { a.req with mute := true } } else a }) s
  { s with
    home := { s.home with
      trackers := s.home.trackers.filter fun t => t.1 / 65536 ≠ ep
      wbHeld := s.home.wbHeld.map fun x => if x.ep = ep then { x with mute := true } else x
      resends := s.home.resends.filter fun x => !mine x.req }
    pair := { s.pair with waits := s.pair.waits.map fun w => { w with send := w.send.filter fun x => cargoEp x.2.1 ≠ some ep } }
    welt := { s.welt with waiting := s.welt.waiting.filter fun x => x.1.ep ≠ ep } }

/-- Declare an endpoint dead: its requests, then its welts, then its entries with a snoop outstanding, then its snoops (R153 to R156,
R200). A further report of an endpoint already dead only withdraws that it is up again (R157). -/
def endpointDead (s : State) (ep cause stag hall : Nat) : State :=
  if isDead s ep then { s with eps := s.eps.set ep { epInfo s ep with upAgain := false } }
  else
    let s := { s with eps := s.eps.set ep { epInfo s ep with
      dead := true, walking := true, upAgain := false, poisoned := 0, reverted := 0, removed := 0 } }
    let s := event s .endpointDead srcSlices none none ep [(0, 1, cause), (2, 2, stag), (4, 2, hall)]
    let s := dropRequests s ep
    -- its welts abort unless past their commit point; none of them answers
    let s := s.welt.slots.foldl (fun s e =>
      if e.2.owner = ep ∧ e.2.st ≠ .free then abortWelt (modWelt s e.1 fun w => { w with silent := true }) e.1 stOk true else s) s
    -- its snoops count as answered RSP_I
    let out := s.home.snoops.filter fun x => x.1.ep = ep
    let s := out.foldl (fun s x => resolveEntry s x.1.line ep) s
    let s := out.foldl (fun s x => answerSnoop (dropSnoop s ep x.1.stag) x.1 x.2 .i) s
    settleTier (closeHosts s fun n => decide (n = ep))

/-! ### Arrival (R108, R109, R115, R121, R151, R154, R555) -/

/-- Answer a request that takes no tracker. -/
def answerNote (s : State) (port ep tag : Nat) (code : CmpCode) : State :=
  send (xfer s (portRes port) 0 0 56 0) port (.note ep) (.cmp port ep tag code 0 s.homeEpoch)

/-- Trackers charged to an entry (R108). -/
def charged (s : State) (hid ep : Nat) : Nat :=
  (s.home.trackers.filter fun t => decide (t.1 / 65536 = ep ∧ t.2.hall = hid)).length

/-- How an arriving message of the REQ or WLT channel stands: dealt with, refused for want of an entry, a reissue, or accepted with a
tracker. -/
inductive Arrival where
  | over (s : State)
  | noEntry (s : State)
  | reissue (s : State) (t : Tracker)
  | taken (s : State)

/-- The checks every REQ and WLT message meets before the request-context check; nothing arrives on a link that is not up (R5). -/
def arrive (s : State) (port tag ep hid epoch kind line : Nat) (rsvd : Bool) : Arrival :=
  if heard s port false = false then .over s
  else if s.pair.role = .standby then .over { s with pair := { s.pair with discarded := satAdd 32 s.pair.discarded 1 } }
  else if s.pair.role = .fenced ∨ s.pwr.diesHeld = true then .over s
  else if isDead s ep then .over s
  else if s.pwr.quiesceSince.isSome then .over (answerNote (learn s ep port) port ep tag .timeout)
  else
    let s := learn s ep port
    if rsvd then .over (answerNote (countBad s port) port ep tag .denied)
    else if epoch ≠ s.homeEpoch then .over (answerNote s port ep tag .epoch)
    else match s.home.trackers.get? (trkKey ep tag) with
      | some t => .reissue s t
      | none =>
        match aclOf s hid ep with
        | none => .noEntry (answerNote (modPort s port fun q => { q with budgetDeny := satAdd 32 q.budgetDeny 1 }) port ep tag .denied)
        | some a =>
          if a.inForce ≤ charged s hid ep then
            .over (answerNote (modPort s port fun q => { q with budgetDeny := satAdd 32 q.budgetDeny 1 }) port ep tag .denied)
          else
            let t : Tracker := { hall := hid, kind := kind, line := line, port := port }
            .taken { s with home := { s.home with trackers := s.home.trackers.set (trkKey ep tag) t } }

/-- REQ opcodes (R116). -/
def kindCode : ReqKind → Nat
  | .rdS => 0x01
  | .rdX => 0x02
  | .rdNa => 0x03
  | .upg => 0x04
  | .wrFull => 0x05
  | .wrPart => 0x06
  | .amo => 0x08
  | .wltRd => 0x11
  | .wltWr => 0x12
  | .diag => 0

/-- A tracker starts again for a request executed again (R151). -/
def reopen (s : State) (ep tag port : Nat) : State :=
  { s with home := { s.home with trackers := s.home.trackers.modify (trkKey ep tag) fun t =>
      { t with done := none, data := false, value := none, dropped := none, port := port } } }

/-- A reissue, by the state of its original (R92, R151, R202): what was recorded goes out again, and the data of a read from where it
is now. -/
def reissued (s : State) (r : Req) (port tag : Nat) (t : Tracker) : State :=
  let s := { s with home := { s.home with trackers := s.home.trackers.modify (trkKey r.ep tag) fun t =>
    { t with port := port, dropped := none } } }
  match t.done with
  | none => s
  | some (code, grant) =>
    if t.data = false ∨ (code ≠ .ok ∧ code ≠ .poison) then
      let g : BitVec 4 := if code = .poison then BitVec.ofNat 4 (2 ^ (r.offset % 64 / 16)) else 0
      complete s r code grant none (t.value.map fun v => (v, g)) false none
    else serveAgain (reopen s r.ep tag port) { req := r, grant := grant, since := s.now }

/-- A REQ message other than WB_M arrives (R45 to R48, R108, R109, R115, R121, R151, R162, R165). -/
def request (s : State) (m : ReqMsg) (rsvd : Bool) (r : Req) : State :=
  let line := ((s.halls.get? m.hall).map fun h => lineOf h m.offset).getD 0
  match arrive s m.port m.tag m.src m.hall m.epoch (kindCode r.kind) line rsvd with
  | .over s | .noEntry s => s
  | .reissue s t => reissued s r m.port m.tag t
  | .taken s =>
    if passes s r.kind m.hall m.offset m.src m.ctx = false then completeCode s r .denied
    else if isWelt r ∧ (m.ctx.isSome = true ∨ (openOf s r).isNone = true) then completeCode s r .denied
    else enqueue s r

/-- The request of a REQ message (R116). -/
def reqOf (k : ReqKind) (m : ReqMsg) : Req :=
  { kind := k, ep := m.src, org := .ep m.port m.tag, hall := m.hall, line := 0, offset := m.offset, ctx := m.ctx }

end Sys2Proof.Machine
end

