-- ==== Sys2Proof/Machine/Requests.lean ====
section
/-! DEFINITION. The rows of the REQ channel, of snoop answers and of their bounds (R113 to R161). -/

namespace Sys2Proof.Machine

/-! ### Requests (R133 to R138, R144) -/

/-- A plain request by its opcode. -/
def plainReq (k : ReqKind) (m : ReqMsg) (s : State) : State := request s m (m.bad (kindCode k)) (reqOf k m)

/-- `RD_S` (R133). -/
def execRdS (m : ReqMsg) (s : State) : Host.Outcome State Fault Refusal := .next (plainReq .rdS m s)
/-- `RD_X` (R134). -/
def execRdX (m : ReqMsg) (s : State) : Host.Outcome State Fault Refusal := .next (plainReq .rdX m s)
/-- `RD_NA` (R136). -/
def execRdNa (m : ReqMsg) (s : State) : Host.Outcome State Fault Refusal := .next (plainReq .rdNa m s)
/-- `UPG` (R135). -/
def execUpg (m : ReqMsg) (s : State) : Host.Outcome State Fault Refusal := .next (plainReq .upg m s)
/-- `WR_FULL` (R137). -/
def execWrFull (m : ReqMsg) (s : State) : Host.Outcome State Fault Refusal :=
  .next (request s m (m.bad 0x05) { reqOf .wrFull m with d := m.line })
/-- `WR_PART` (R137, R149). -/
def execWrPart (m : ReqMsg) (s : State) : Host.Outcome State Fault Refusal :=
  .next (request s m (m.bad 0x06) { reqOf .wrPart m with d := m.line, mask := m.mask })

/-- An atomic with an unlisted size, or an offset not aligned to it, is a reserved encoding (R115, R116, R144). -/
def amoBad (m : ReqMsg) : Bool := m.bad 0x08 || !amoListed m.amoOp m.amoSize || decide (m.offset % amoBytes m.amoSize ≠ 0)

/-- Operand B follows operand A by 16 bytes whatever the size (R116). -/
def amoReq (m : ReqMsg) : Req :=
  { reqOf .amo m with amoOp := m.amoOp, amoSize := m.amoSize, ret := m.ret, opA := m.opA, opB := m.opB }

/-- `AMO` (R137, R144). -/
def execAmo (m : ReqMsg) (s : State) : Host.Outcome State Fault Refusal := .next (request s m (amoBad m) (amoReq m))

/-- `WLT_RD` (R171, R173, R174, R180, R181). -/
def execWltRd (m : ReqMsg) (s : State) : Host.Outcome State Fault Refusal :=
  .next (settleTier (request s m (m.bad 0x11) { reqOf .wltRd m with handle := m.handle }))
/-- `WLT_WR` (R172 to R174, R180, R181). -/
def execWltWr (m : ReqMsg) (s : State) : Host.Outcome State Fault Refusal :=
  .next (settleTier (request s m (m.bad 0x12) { reqOf .wltWr m with handle := m.handle }))

/-! ### WB_M (R131, R132, R138, R175, R198, R574, R638) -/

/-- A writeback that is taken: written now or once its block has landed, then completed with `CMP_OK`. -/
def takeWb (s : State) (line port ep tag : Nat) (d : LineData) : State :=
  settleTier (noteWb { s with home := { s.home with wbHeld := s.home.wbHeld ++ [{ line := line, port := port, ep := ep, tag := tag, d := d }] } } line ep)

/-- The tier engine lands the block of a writeback (R206). -/
def landFor (s : State) (hid : Nat) (h : Hall) (off ep : Nat) : State :=
  if isLanded s hid h off then s
  else land s hid h (off / blockBytes h) .demand (((aclOf s hid ep).map fun a => a.subscriber).getD 0)

/-- A WB_M by what the directory records (R138, R175, R198). -/
def writeBackMsg (s : State) (m : ReqMsg) (d : LineData) (h : Hall) : State :=
  let line := lineOf h m.offset
  let r : Req := { reqOf .wrFull m with line := line, d := d }
  match dirAt s line with
  | none => completeCode s r .denied
  | some e =>
    if e.owner ≠ some m.src then completeCode s r .denied
    else match e.pin with
      | some slot =>
        let w := weltAt s slot
        if w.owner = m.src ∧ w.writes.contains line = true then
          let s := if w.st = .aborting then s else modWelt s slot fun w => { w with buf := w.buf.set line d }
          settleTier (noteWb (completeCode s r .ok) line m.src)
        else takeWb (landFor (freeDir s line) m.hall h m.offset m.src) line m.port m.src m.tag d
      | none => takeWb (landFor (freeDir s line) m.hall h m.offset m.src) line m.port m.src m.tag d

/-- Is this a writeback of the recovery window: the epoch before the current one, from an endpoint that holds WRITE (R574)? -/
def oldWb (s : State) (m : ReqMsg) : Bool :=
  decide (s.now < s.home.recoveryEnd) && decide (m.epoch = (s.homeEpoch + 255) % 256) &&
    (rightsOf s m.hall m.src).any fun a => a.write

/-- A writeback that the check refuses while a drain's snoop to its owner is out answers that snoop: stored after a revocation of
rights, discarded after a trim or destroy (R53, R132). -/
def wbDrain (s : State) (m : ReqMsg) : State :=
  match s.halls.get? m.hall with
  | none => s
  | some h =>
    let line := lineOf h m.offset
    let out := s.home.snoops.any fun x => decide (x.1.line = line ∧ x.1.ep = m.src ∧ x.2 = .drain m.hall)
    if out = false ∨ ((dirAt s line).bind fun e => e.owner) ≠ some m.src then s
    else
      let acl := (s.drains.get? m.hall).all fun d => d.kind = .acl
      let s := if acl then storeLine (freeDir s line) m.hall h line m.line sysSub 0 else s
      settleTier (noteWb s line m.src)

/-- `WB_M`: applied on arrival, whatever transaction is active (R131). -/
def wbArrive (s : State) (m : ReqMsg) : State :=
  let d := m.line
  let old := oldWb s m
  let epoch := if old then s.homeEpoch else m.epoch
  let line := ((s.halls.get? m.hall).map fun h => lineOf h m.offset).getD 0
  match arrive s m.port m.tag m.src m.hall epoch 0x07 line (m.bad 0x07) with
  | .over s => s
  | .noEntry s => wbDrain s m
  | .reissue s t => reissued s { reqOf .wrFull m with d := d } m.port m.tag t
  | .taken s =>
    match s.halls.get? m.hall with
    | none => completeCode s (reqOf .wrFull m) .denied
    | some h =>
      if hallTakes s m.hall m.offset = false then wbDrain (completeCode s (reqOf .wrFull m) .denied) m
      else if old then
        let s := if ((dirAt s line).bind fun e => e.owner) = some m.src then freeDir s line else s
        takeWb (landFor s m.hall h m.offset m.src) line m.port m.src m.tag d
      else writeBackMsg s m d h

def execWbM (m : ReqMsg) (s : State) : Host.Outcome State Fault Refusal := .next (wbArrive s m)

/-! ### The ordering point and snoop answers -/

/-- ORDERING_POINT_REACHED (R130). -/
def execOrderingPointReached (line : Nat) (s : State) : Host.Outcome State Fault Refusal := .next (settleTier (activate s line))

/-- RSP_I, RSP_S, RSP_FWD_S, RSP_FWD_I, RSP_WB_PEND and DATA_WB (R119, R120, R123, R131, R132). -/
def execRspI (m : RspMsg) (s : State) : Host.Outcome State Fault Refusal := .next (snoopResponse s m (m.bad 0x41) .i)
def execRspS (m : RspMsg) (s : State) : Host.Outcome State Fault Refusal := .next (snoopResponse s m (m.bad 0x42) .s)
def execRspFwdS (m : RspMsg) (s : State) : Host.Outcome State Fault Refusal := .next (snoopResponse s m (m.bad 0x43) .fwdS)
def execRspFwdI (m : RspMsg) (s : State) : Host.Outcome State Fault Refusal := .next (snoopResponse s m (m.bad 0x44) .fwdI)
def execRspWbPend (m : RspMsg) (s : State) : Host.Outcome State Fault Refusal := .next (wbPendResponse s m)
def execDataWb (m : RspMsg) (s : State) : Host.Outcome State Fault Refusal := .next (snoopResponse s m m.badData (.wb m.line))

/-! ### Bounds (R152, R153, R156, R158) -/

/-- SNOOP_TIMEOUT: no response for 2 ms since the snoop's first send (R153). An endpoint that answered RSP_WB_PEND and whose WB_M has not
come by then is one too (DESIGN CHOICE, log 90). -/
def execSnoopTimeout (ep stag : Nat) (s : State) : Host.Outcome State Fault Refusal :=
  .next (match findSnoop s ep stag with
    | none => s
    | some (x, _) => if ms 2 + x.sentAt ≤ s.now then endpointDead s ep 1 stag x.hall else s)

/-- ORPHAN_WALK: Felti resolves every unpinned entry that names the dead endpoint; once none is left, and none of its requests can make
one, the walk ends (R155 to R157). -/
def orphanWalk (s : State) (ep : Nat) : State :=
  if (epInfo s ep).walking = false ∨ s.pwr.feltiOn = false then s
  else
    let s := settleTier (s.home.dir.foldl (fun s e => resolveEntry s e.1 ep) s)
    let names := fun (e : DirEntry) => decide (e.owner = some ep) || (e.coarse.isNone && e.ptrs.contains ep)
    let busy := (s.home.lines.any fun e => e.2.active.any fun a => a.req.mute && decide (a.req.ep = ep)) ||
      s.home.wbHeld.any fun x => x.mute && decide (x.ep = ep)
    if (s.home.dir.any fun e => names e.2) || busy then s
    else
      let i := epInfo s ep
      let s := { s with eps := s.eps.set ep { i with walking := false, dead := !i.upAgain } }
      event s .orphanWalkDone srcSlices none none ep [(0, 4, i.poisoned), (4, 4, i.reverted), (8, 4, i.removed)]

def execOrphanWalk (ep : Nat) (s : State) : Host.Outcome State Fault Refusal := .next (orphanWalk s ep)

/-- The ordering bound runs from arrival, or from the end of the recovery window (R158, R574). -/
def orderingDue (s : State) (at_ : Nat) : Bool := decide (us 1500 + max at_ s.home.recoveryEnd ≤ s.now)

/-- ORDERING_BOUND_EXPIRY: 1.5 ms without reaching the ordering point ends with `CMP_TIMEOUT` (R158, R178); a `WLT_OPEN` that
waits for AGE_LIMIT ends with STATUS `ST_TIMEOUT` (R164, R167). -/
def orderingBound (s : State) (line ep tag : Nat) : State :=
  let c := lineCtl s line
  match c.fifo.findIdx? fun r => decide (r.ep = ep ∧ reqTag r = tag) && orderingDue s r.at_ with
  | some i => match c.fifo[i]? with
    | some r => completeCode (setLine s line { c with fifo := c.fifo.eraseIdx i }) r .timeout
    | none => s
  | none =>
    match s.welt.waiting.findIdx? fun x => decide (x.1.ep = ep ∧ x.1.tag = tag) && orderingDue s x.2.1 with
    | some i => match s.welt.waiting[i]? with
      | some (m, _) =>
        wltAnswer { s with welt := { s.welt with waiting := s.welt.waiting.eraseIdx i } } m.port ep tag
          fun p => .wltEnd p ep tag m.hall 0 false false stTimeout 0 s.homeEpoch
      | none => s
    | none => s

def execOrderingBoundExpiry (line ep tag : Nat) (s : State) : Host.Outcome State Fault Refusal :=
  .next (orderingBound s line ep tag)

/-- TIER_BOUND_EXPIRY: 16 ms in the tier phase end with `CMP_TIMEOUT`; the landing goes on, and data that the snoops collected is kept
(R158, R216, R638). -/
def tierBound (s : State) (line : Nat) : State :=
  let due := fun (x : Resend) => decide (x.req.line = line ∧ ms 16 + x.since ≤ s.now)
  let late := s.home.resends.filter due
  let s := late.foldl (fun s x => completeCode s x.req .timeout)
    { s with home := { s.home with resends := s.home.resends.filter fun x => !due x } }
  match (lineCtl s line).active, hallAt s (line * 64) with
  | some a, some (hid, h) =>
    if a.phase = .tier ∧ ms 16 + a.since ≤ s.now then
      let s := completeCode (endActive s line) a.req .timeout
      settleTier (match a.req.kind, a.got with
        | .wrFull, some d => storeLine s hid h line d (reqSub s a.req) (reqSvc a.req)
        | _, _ => s)
    else s
  | _, _ => s

def execTierBoundExpiry (line : Nat) (s : State) : Host.Outcome State Fault Refusal := .next (tierBound s line)

/-- TRACKER_HOLD_EXPIRY: 1 s after a link loss dropped its completion, a tracker is released (R152). -/
def execTrackerHoldExpiry (ep tag : Nat) (s : State) : Host.Outcome State Fault Refusal :=
  .next (match s.home.trackers.get? (trkKey ep tag) with
    | none => s
    | some t => match t.dropped with
      | none => s
      | some at_ =>
        if s.now < sec 1 + at_ then s
        else event { s with home := { s.home with trackers := s.home.trackers.erase (trkKey ep tag) } } .trackerReleased srcSlices
          none none ep [(0, 2, tag), (2, 1, t.kind)])

end Sys2Proof.Machine
end

