-- ==== Sys2Proof/Machine/Tier.lean ====
section
/-! DEFINITION. The tier engine's rows and the tier commands (R207 to R230, R519). -/

namespace Sys2Proof.Machine

/-! ### Landings and writebacks -/

/-- LANDING_READ_DONE: the flash reads of a landing are complete; `bad` names the slots (drive, row) that read bad. A unit that is bad,
misplaced or on a drive gone since is read from the rest of its row first; then the block lands (R211, R236, R248). -/
def landingDone (s : State) (hid b : Nat) (bad : List (Nat × Nat)) : State :=
  match hallOf s hid, blockOf s hid b with
  | some h, some x =>
    if x.st ≠ .landing then s
    else
      let s := nvEnd s (.land hid b)
      let odd := ((blockUnits s hid h b).filter (misplaced s hid)).map fun u => (driveOf u, rowOf u)
      let new := ((bad ++ odd).eraseDups).filter fun k => x.asked.contains k && !x.bad.contains k
      let x := { x with bad := x.bad ++ new }
      let s := modBlock s hid b fun y => { y with bad := x.bad }
      if !flashOff s && !(landSlots s hid h b x).isEmpty then landReads s hid h b
      else settleTier (landFinish s hid h b x)
  | _, _ => s

def execLandingReadDone (hall block : Nat) (bad : List (Nat × Nat)) (s : State) : Host.Outcome State Fault Refusal :=
  .next (landingDone s hall block bad)

/-- WRITEBACK hints that wait for a block: written back again where it was rewritten before the hint (R226). -/
def hintBlockDone (s : State) (hid : Nat) (h : Hall) (b : Nat) : State :=
  let mine := fun (x : Hint) => decide (x.verb = 4 ∧ x.hall = hid)
  let again := s.tier.hints.any fun x => mine x && decide (2 ≤ (x.blocks.filter fun c => c = b).length)
  let hints := s.tier.hints.map fun x => if mine x then { x with blocks := x.blocks.erase b } else x
  let s := { s with tier := { s.tier with hints := hints } }
  if again then writeBack s hid h b false else s

/-- WRITEBACK_DONE: the writes of a writeback that is out are acknowledged (R192, R208, R218, R570). None ends while the flash tier is
offline (R252). -/
def writebackDone (s : State) (hid b : Nat) : State :=
  match runningJob s (.block hid b) with
  | none => s
  | some j =>
    if flashOff s then s
    else match hallOf s hid with
      | none => settleTier (endJob s j false)
      | some h =>
        let s := writebackEnd s hid h b j
        let s := if mirrors s h then mirrorNote s (.clean hid b) else s
        settleTier (hintBlockDone (goalDone s hid h b) hid h b)

def execWritebackDone (hall block : Nat) (s : State) : Host.Outcome State Fault Refusal := .next (writebackDone s hall block)

/-- SUPERBLOCK_WRITE_DONE: the new checkpoint takes effect and frees ring space (R632). -/
def superblockDone (s : State) (hid : Nat) : State :=
  match runningJob s (.super hid) with
  | none => s
  | some job =>
    if flashOff s then s
    else
      let s := endJob s job true
      settleTier { s with jrn := s.jrn.modify hid fun j =>
        let j := j.sbWrite.foldl (fun (j : Journal) w => if w.2 then { j with sb1 := w.1 } else { j with sb0 := w.1 }) j
        { j with sbWrite := [], recs := j.recs.filter fun r => decide ((checkpoint j).ckptJ < r.jseq) } }

def execSuperblockWriteDone (hall : Nat) (s : State) : Host.Outcome State Fault Refusal := .next (superblockDone s hall)

/-- MAX_DIRTY_EXPIRY (R217, R225). -/
def execMaxDirtyExpiry (hall block : Nat) (s : State) : Host.Outcome State Fault Refusal :=
  .next (match hallOf s hall, blockOf s hall block with
    | some h, some x => if x.st = .dirty ∧ x.dirtyAt + x.maxDirty ≤ s.now then writeBack s hall h block false else s
    | _, _ => s)

/-! ### Heat and policy (R220, R222, R223) -/

def modTier (s : State) (hid : Nat) (f : TierRec → TierRec) : State :=
  { s with tier := { s.tier with halls := s.tier.halls.set hid (f (tierRec s hid)) } }

/-- DECAY_PERIOD_EXPIRY: heat of every landed block shifts right (R220); new settings apply from here on (R225). -/
def execDecayPeriodExpiry (hall : Nat) (s : State) : Host.Outcome State Fault Refusal :=
  let t := tierRec s hall
  .next (if (hallOf s hall).isNone ∨ s.now < ms t.decayIn + t.lastDecay then s
    else
      let s := modTier s hall fun t => { t with lastDecay := s.now, decayIn := t.decayPeriod, hintIn := t.hintHeat }
      (hallBlocks s hall).foldl (fun s e => if landed e.2 then
        modBlock s hall e.1 fun x => { x with heat := x.heat / 2 ^ t.decayShift } else s) s)

/-- Felti's writebacks for one hall: the coldest DIRTY blocks until free frames and CLEAN blocks reach FREE_PCT of QUOTA, and
every DIRTY block at or below WB_HEAT (R222); a new HINT_HEAT applies from here on (R225). -/
def policyHall (s : State) (hid : Nat) (h : Hall) : State :=
  let t := tierRec s hid
  let bs := hallBlocks s hid
  let quota := 2 ^ 30 * h.quota
  let ready := quota - (bs.filter fun e => e.2.st = .dirty ∨ e.2.st = .landing).length * blockBytes h
  let want := quota * t.freePct / 100
  let n := if want ≤ ready then 0 else ceilDiv (want - ready) (blockBytes h)
  let dirty := sortBy (fun e => e.2.heat) (bs.filter fun e => e.2.st = .dirty)
  let due := (dirty.take n) ++ (dirty.drop n).filter fun e => decide (e.2.heat ≤ t.wbHeat)
  due.foldl (fun s e => writeBack s hid h e.1 false) (modTier s hid fun t => { t with hintIn := t.hintHeat })

/-- TIER_POLICY_PASS: every 10 ms, hall 4095 among the halls (R63, R222). -/
def execTierPolicyPass (s : State) : Host.Outcome State Fault Refusal :=
  .next (if s.pwr.feltiOn = false ∨ s.now < ms 10 + s.tier.lastPolicy then s
    else
      let ids := (s.halls.map fun e => e.1) ++ [4095]
      ids.foldl (fun (s : State) hid => match hallOf s hid with
        | some h => if h.cls = .resident then s else policyHall s hid h
        | none => s) { s with tier := { s.tier with lastPolicy := s.now } })

/-- The adjustment of DECAY_PERIOD (R223). -/
def adaptRec (t : TierRec) : TierRec :=
  let dl := t.landings - t.lastLandings
  let dr := t.refaults - t.lastRefaults
  let p := if 0 < dl ∧ dl < dr * 10 then min (2 * t.decayPeriod) 10000
    else if dr * 50 < dl then max (t.decayPeriod / 2) 10
    else t.decayPeriod
  { t with decayPeriod := if t.adapt then p else t.decayPeriod, lastLandings := t.landings, lastRefaults := t.refaults }

/-- DECAY_ADAPT_PASS: every 1 s (R223). -/
def execDecayAdaptPass (s : State) : Host.Outcome State Fault Refusal :=
  .next (if s.pwr.feltiOn = false ∨ s.now < sec 1 + s.tier.lastAdapt then s
    else { s with tier := { s.tier with lastAdapt := s.now, halls := s.tier.halls.map fun e => (e.1, adaptRec e.2) } })

/-! ### Holds and hints (R226 to R230) -/

/-- KEEP_EXPIRY: UNTIL has passed and the block may be a victim (R214, R226). -/
def execKeepExpiry (hall block : Nat) (s : State) : Host.Outcome State Fault Refusal :=
  .next (settleTier (modBlock s hall block fun x => match x.keepUntil with
    | some t => if t ≤ s.now then { x with keepUntil := none } else x
    | none => x))

/-- ORDER_HOLD_EXPIRY: DEADLINE plus 1 ms has passed (R214, R229). -/
def execOrderHoldExpiry (hall block : Nat) (s : State) : Host.Outcome State Fault Refusal :=
  .next (settleTier (modBlock s hall block fun x => match x.holdUntil with
    | some t => if t ≤ s.now then { x with holdUntil := none } else x
    | none => x))

/-- ORDER_DEADLINE_PASSED: an order not started is dropped and counted (R230). -/
def execOrderDeadlinePassed (index : Nat) (s : State) : Host.Outcome State Fault Refusal :=
  .next (match s.tier.orders[index]? with
    | some o => if o.deadline ≤ s.now then
        { s with tier := { s.tier with orders := s.tier.orders.eraseIdx index, ordersDropped := satAdd 32 s.tier.ordersDropped 1 } }
      else s
    | none => s)

/-- HINT_TIMEOUT: after 2 s the command completes with `ST_TIMEOUT` and its work goes on (R227). -/
def execHintTimeout (w : Nat) (s : State) : Host.Outcome State Fault Refusal :=
  .next (match s.tier.hints.find? fun h => h.w = some w with
    | some h => if sec 2 + h.since ≤ s.now then
        finishCmd { s with tier := { s.tier with hints := s.tier.hints.map fun x => if x.w = some w then { x with w := none } else x } }
          w stTimeout 0 []
      else s
    | none => s)

/-- Bytes a hall holds by KEEP and live orders, with some blocks more (R227, R230, R510). -/
def heldBytes (s : State) (hid : Nat) (h : Hall) (more : List Nat) : Nat :=
  let kept := ((hallBlocks s hid).filter (blockHeld s hid h)).map fun e => e.1
  let keeps := (s.tier.hints.filter fun x => decide (x.hall = hid ∧ s.now < x.until_)).flatMap fun x => x.hold
  let orders := (s.tier.orders.filter fun o => o.hall = hid).flatMap fun o => blocksOf h o.offset o.length
  (kept ++ keeps ++ orders ++ more).eraseDups.length * blockBytes h

/-- The checks of `TIER_HINT` (R226, R227). -/
def hintCheck (s : State) (x : Win) (h : Hall) : Option (Nat × Nat) :=
  let hid := x.arg 0 2
  let verb := x.arg 2 1
  let off := x.arg 8 8
  let len := x.arg 16 8
  let b := blockBytes h
  let r := rightsOf s hid x.owner
  firstFail [ (decide (5 < verb), stBadArg, 2),
    (x.cls = .host && !(r.any fun a => a.read), stDenied, 0),
    (x.cls = .host && decide (verb = 5) && !(r.any fun a => a.write), stDenied, 0),
    (h.cls = .resident, stBadArg, 0),
    (decide (x.arg 3 5 ≠ 0), stBadArg, 3),
    (decide (off % b ≠ 0 ∨ 2 ^ 30 * h.size ≤ off), stBadArg, 8),
    (decide (len = 0 ∨ len % b ≠ 0 ∨ 2 ^ 36 < len ∨ 2 ^ 30 * h.size < off + len), stBadArg, 16),
    (h.state = .trimming || h.state = .destroying, stDraining, 0),
    (decide (verb = 1 ∧ 2 ^ 29 * h.quota < heldBytes s hid h (blocksOf h off len)), stNoSpace, 0) ]

/-- `TIER_HINT` (R226). -/
def tierHintBody (s : State) (x : Win) : Answer :=
  let hid := x.arg 0 2
  match s.halls.get? hid with
  | none => fail s stBadArg 0
  | some h =>
    guardArg s (hintCheck s x h) fun _ =>
      let b := blockBytes h
      let bs := (List.range (x.arg 16 8 / b)).map fun i => x.arg 8 8 / b + i
      let zero := leBytes 4 0
      -- the window that waits for a hint's blocks
      let w := cmdWin s x
      let wait := fun (s : State) (blocks : List Nat) =>
        let hint : Hint := { w := w, hall := hid, verb := x.arg 2 1, blocks := blocks, since := s.now, until_ := x.arg 24 8
                             hold := if x.arg 2 1 = 1 then blocks else [] }
        let s := holdKept s hint
        if hintDone s hint then good s zero else goesOn { s with tier := { s.tier with hints := s.tier.hints ++ [hint] } }
      match x.arg 2 1 with
      | 0 | 1 => wait (bs.foldl (fun s b => settleTier (land s hid h b .hint sysSub)) s) bs
      | 2 =>
        let s := { s with tier := { s.tier with hints := s.tier.hints.map fun y =>
          if y.hall = hid then { y with hold := y.hold.filter fun b => !bs.contains b } else y } }
        good (settleTier (bs.foldl (fun s b => modBlock s hid b fun y => { y with keepUntil := none }) s)) zero
      | 3 => good (bs.foldl (fun s b => modBlock s hid b fun y => { y with heat := 0 }) s) zero
      | 4 =>
        let out := bs.flatMap fun b => match blockOf s hid b with
          | some y => if y.st = .dirty ∨ y.st = .evicting true then [b]
            else if y.st = .flushing then (if y.redirty then [b, b] else [b])
            else []
          | none => []
        wait (out.foldl (fun s b => writeBack s hid h b false) s) out
      | _ =>
        let lo := lineOf h 0
        let keeps := fun (b : Nat) (y : Block) => y.st = .landing || y.st = .flushing || y.st = .evicting true ||
          s.home.dir.any fun e => decide (lo + b * (blockBytes h / 64) ≤ e.1 ∧ e.1 < lo + (b + 1) * (blockBytes h / 64))
        let skip := bs.filter fun b => (blockOf s hid b).any (keeps b)
        let drop := bs.filter fun b => (blockOf s hid b).any fun y => !keeps b y
        let s := drop.foldl (fun s b => dropBlock s hid b) s
        good (settleTier s) (leBytes 4 skip.length)

def execTierHint (w : Nat) (s : State) : Host.Outcome State Fault Refusal := .next (runCmd s w 0x0802 tierHintBody)

/-! ### Tier records (R224, R225) -/

/-- The 32-byte tier record. -/
def tierBytes (s : State) (hid : Nat) : List Byte :=
  let t := tierRec s hid
  let bs := hallBlocks s hid
  leBytes 32 (packBits [ (12, hid), (4, 0), (20, t.fbase), (20, t.jbase), (8, 0), (16, t.decayPeriod), (4, t.decayShift),
    (1, b2n t.adapt), (1, b2n t.engineHeat), (2, 0), (8, t.maxDirty), (8, t.hintHeat), (8, t.wbHeat), (8, t.freePct), (8, 0),
    (32, bs.length), (32, (bs.filter fun e => e.2.st = .dirty ∨ e.2.st = .flushing ∨ e.2.st = .evicting true).length),
    (32, t.landings), (32, t.refaults) ])

/-- `TIER_HALL_QUERY` (R62, R224): a RESIDENT hall is refused. -/
def tierHallQueryBody (s : State) (x : Win) : Answer :=
  let hid := x.arg 0 2
  match hallOf s hid with
  | none => fail s stBadArg 0
  | some h => if h.cls = .resident then fail s stBadArg 0 else good s (tierBytes s hid)

def execTierHallQuery (w : Nat) (s : State) : Host.Outcome State Fault Refusal := .next (runCmd s w 0x0800 tierHallQueryBody)

/-- `TIER_HALL_SET` writes the RW fields (R224, R225, R635). Reserved bits of the record are refused under R10, its other RO fields ignored
(DEDUCED, log 94). -/
def tierHallSetBody (s : State) (x : Win) : Answer :=
  let hid := x.arg 0 2
  let v := x.arg 8 32
  match s.halls.get? hid with
  | none => fail s stBadArg 0
  | some h =>
    guardArg s (firstFail [ (h.cls = .resident, stBadArg, 0), (h.state = .destroying, stDraining, 0),
        (decide (x.arg 2 6 ≠ 0), stBadArg, 2),
        (decide (bits v 12 4 ≠ 0), stBadArg, 9), (decide (bits v 56 8 ≠ 0), stBadArg, 15), (decide (bits v 86 2 ≠ 0), stBadArg, 18),
        (decide (bits v 120 8 ≠ 0), stBadArg, 23),
        (!inRange (bits v 64 16) 10 10000, stBadArg, 16), (!inRange (bits v 80 4) 1 4, stBadArg, 18),
        (!inRange (bits v 88 8) 1 255, stBadArg, 19), (!inRange (bits v 96 8) 1 255, stBadArg, 20),
        (decide (50 < bits v 112 8), stBadArg, 22) ]) fun _ =>
      let t := { tierRec s hid with
        decayPeriod := bits v 64 16, decayShift := bits v 80 4, adapt := v.testBit 84, engineHeat := v.testBit 85
        maxDirty := bits v 88 8, hintHeat := bits v 96 8, wbHeat := bits v 104 8, freePct := bits v 112 8 }
      retain s { s with tier := { s.tier with halls := s.tier.halls.set hid t } } fun u => good u (tierBytes u hid)

def execTierHallSet (w : Nat) (s : State) : Host.Outcome State Fault Refusal := .next (runRetained s w 0x0801 tierHallSetBody)

/-- Flash capacity in GiB (R232), what halls and journals may use of it (R41, R231), and what they use. -/
def flashGib (s : State) : Nat :=
  if s.flash.cmin ≤ 262144 then 0 else min 1048576 (4096 * (7 * (s.flash.cmin - 262144)) / 2 ^ 30)
def flashUsable (s : State) : Nat := flashGib s - 64
def flashUsed (s : State) : Nat :=
  sumNat (s.halls.map fun e => match e.2.cls with
    | .resident => 0
    | .tiered => e.2.size
    | .persistent => e.2.size + 1)

/-- `TIER_QUERY` (R519). -/
def tierQueryBody (s : State) (_x : Win) : Answer :=
  let pos := match s.flash.rebuild.head? with
    | some (_, r) => 2 ^ 32 * r / max 1 (s.flash.cmin - 262144)
    | none => 0
  good s (lay ([(4, s.tier.ordersDropped), (2, s.tier.orders.length), (1, flashState s), (4, flashGib s),
    (4, flashUsable s - flashUsed s)] ++ [(8, leNat ((List.range 8).map fun p => BitVec.ofNat 8 (drvCode (driveSt s p)))),
    (4, pos), (4, s.flash.mediaErr)]))

def execTierQuery (w : Nat) (s : State) : Host.Outcome State Fault Refusal := .next (runCmd s w 0x0803 tierQueryBody)

end Sys2Proof.Machine
end

