-- ==== Sys2Proof/Machine/Halls.lean ====
section
/-! DEFINITION. Halls and access lists (F02, R509 to R511, R635): creation and placement (R31, R40 to R42, R231, R415), trims,
destroys and access-list changes as revocations (R51 to R59), queries and settings. -/

namespace Sys2Proof.Machine

/-! ### Space (R31, R41, R42, R231, R415) -/

/-- SIZE as far as space goes: a range being released still counts (R56). -/
def spaceSize (s : State) (hid : Nat) (h : Hall) : Nat :=
  match s.drains.get? hid with
  | some d => if d.kind = .acl then h.size else max d.oldSize h.size
  | none => h.size

/-- The DRAM share a hall sets aside on each of its channels, in sixteenths of a GiB (R41). -/
def share16 (h : Hall) (size : Nat) : Nat :=
  let n := max 1 (hallChans h).length
  match h.cls with
  | .resident => 16 * ceilDiv size n
  | _ => 16 * h.quota / n

/-- What all halls set aside on a channel, in sixteenths of a GiB. -/
def setAside (s : State) (c : Nat) : Nat :=
  sumNat ((s.halls.filter fun e => (hallChans e.2).contains c).map fun e => share16 e.2 (spaceSize s e.1 e.2))

def chanGib (s : State) (c : Nat) : Nat := (s.dram.chans.getD c {}).capGib

/-- The figures the checks of R41 use: for a paired SH940 the smaller of the two partners'. The extents of R42 follow them (DEDUCED,
log 58). -/
def chanFit (s : State) (c : Nat) : Nat := if s.pair.cfg.enable then min (chanGib s c) (Config.partnerDram c) else chanGib s c
def flashFit (s : State) : Nat := if s.pair.cfg.enable then min (flashUsable s) Config.partnerFlash else flashUsable s

/-- Does a channel have room for a share beside the 64 MiB of R61? -/
def dramFits (s : State) (c share : Nat) : Bool := decide (setAside s c + share + 1 ≤ 16 * chanFit s c)

/-- Extents that RESIDENT halls and running clears hold on a channel. -/
def extentsOn (s : State) (c : Nat) : List Nat :=
  ((s.halls.flatMap fun e => e.2.extents) ++ s.clears.flatMap fun e => e.extents).filterMap fun x =>
    if x.1 = c then some x.2 else none

/-- Free extents of a channel, the highest first; extent 0 is never one (R42, R415). -/
def freeExtents (s : State) (c : Nat) : List Nat :=
  let used := extentsOn s c
  (((List.range (chanFit s c)).filter fun e => decide (0 < e) && !used.contains e).reverse)

/-- The lowest start of a free range of `n` units below `top`, given the ranges in use. -/
def lowestFree (used : List (Nat × Nat)) (n top : Nat) : Option Nat :=
  minBy id ((0 :: used.map fun r => r.1 + r.2).filter fun a =>
    decide (a + n ≤ top) && used.all fun r => decide (a + n ≤ r.1 ∨ r.1 + r.2 ≤ a))

/-- PPA units in use or being cleared (R31, R59). -/
def unitsUsed (s : State) : List (Nat × Nat) :=
  (s.halls.map fun e => (e.2.base, spaceSize s e.1 e.2)) ++ s.clears.map fun e => (e.base, e.size)

/-- GiB of the flash data space in use: hall 4095, halls, journals (R231). -/
def flashRanges (s : State) : List (Nat × Nat) :=
  (0, 64) :: s.halls.flatMap fun e =>
    let t := s.tier.halls.getD e.1 {}
    match e.2.cls with
    | .resident => []
    | .tiered => [(t.fbase, spaceSize s e.1 e.2)]
    | .persistent => [(t.fbase, spaceSize s e.1 e.2), (t.jbase, 1)]

/-- Move the landed slots that lie in an extent to frames outside every RESIDENT extent, and clear the extent of WRITTEN (R59, R415).
None when a slot finds no frame. -/
def clearExtent (s : State) (c e : Nat) : Option State :=
  let lo := 2 ^ 30 * e
  let hit := fun (x : Nat × Nat) => decide (x.1 = c ∧ lo ≤ x.2 ∧ x.2 < 2 ^ 30 + lo)
  let moved := (s.tier.blocks.filter fun b => b.2.slots.any hit).foldl (fun o b => o.bind fun s =>
    match hallOf s (b.1 / 2 ^ 32) with
    | none => some s
    | some h =>
      (b.2.slots.filter hit).foldl (fun o x => o.bind fun s =>
        (freeSlot s (b.1 / 2 ^ 32) h c).map fun a =>
          let n := slotBytes h
          let from_ := granKey c x.2
          let cells := (s.dram.mem.filter fun g => decide (from_ ≤ g.1 ∧ g.1 < from_ + n / 16)).map fun g =>
            (g.1 - from_ + granKey c a, g.2)
          let s := xfer s (8 + c) sysSub 5 (2 * n) x.2
          let bare := (s.dram.mem.clear from_ (from_ + n / 16)).clear (granKey c a) (granKey c a + n / 16)
          { s with
            dram := { s.dram with mem := cells.foldl (fun m g => m.set g.1 g.2) bare }
            tier := { s.tier with blocks := s.tier.blocks.modify b.1 fun y =>
              { y with slots := y.slots.map fun z => if z = x then (c, a) else z } } }) (some s)) (some s)
  moved.map fun s => clearRange s c lo (2 ^ 30 + lo)

/-! ### HALL_CREATE (R31, R36, R40 to R42) -/

/-- The hall that the arguments of `HALL_CREATE` describe, before its placement. -/
def newHall (x : Win) : Hall :=
  let size := x.arg 14 2
  let cls : HallClass := if x.arg 4 1 = 0 then .resident else if x.arg 4 1 = 1 then .tiered else .persistent
  { tenant := x.arg 2 2, cls := cls, mirrored := decide (x.arg 5 1 = 1), light := decide (x.arg 6 1 = 1)
    tierBlock := x.arg 7 1, grain := x.arg 8 1, chMask := x.arg 12 2, orphanRevert := decide (x.arg 9 1 = 1)
    fwdForce := decide (x.arg 10 1 = 1), base := 0, size := size
    quota := if cls = .resident then size else x.arg 16 2
    weltTmo := if x.arg 18 2 = 0 then 100 else x.arg 18 2 }

/-- The refusals of R36 and R40, in the order of the fields. -/
def createCheck (s : State) (x : Win) : Option (Nat × Nat) :=
  let hid := x.arg 0 2
  let cls := x.arg 4 1
  let size := x.arg 14 2
  let quota := x.arg 16 2
  badArg [ (decide (4095 ≤ hid) || (s.halls.get? hid).isSome, 0), ((s.ten.recs.get? (x.arg 2 2)).isNone, 2),
    (decide (2 < cls), 4), (decide (1 < x.arg 5 1 ∨ (x.arg 5 1 = 1 ∧ cls = 2)), 5), (decide (1 < x.arg 6 1), 6),
    (decide (2 < x.arg 7 1 ∨ (cls = 0 ∧ x.arg 7 1 ≠ 0)), 7), (decide (2 < x.arg 8 1), 8), (decide (1 < x.arg 9 1), 9),
    (decide (1 < x.arg 10 1), 10), (decide (x.arg 11 1 ≠ 0), 11),
    (!([1, 2, 4, 8, 16].contains (setBits 16 (x.arg 12 2)).length), 12), (!inRange size 1 16384, 14),
    (if cls = 0 then decide (quota ≠ 0 ∧ quota ≠ size) else !inRange quota 1 size, 16), (decide (200 < x.arg 18 2), 18) ]

/-- The tier record of a new hall: its first decay interval begins now (R220). -/
def newTier (f j now : Nat) : TierRec := { fbase := f, jbase := j, lastDecay := now }

/-- Where a new hall goes: its PPA range, extents, flash range and journal; none for want of space (R29, R31, R41, R42, R231). -/
def placeHall (s : State) (h : Hall) : Option (Hall × TierRec) :=
  let cs := hallChans h
  let need := ceilDiv h.size cs.length
  let flash := match h.cls with
    | .resident => 0
    | .tiered => h.size
    | .persistent => h.size + 1
  if !(cs.all fun c => dramFits s c (share16 h h.size)) then none
  else if h.cls = .resident ∧ (cs.any fun c => decide ((freeExtents s c).length < need)) = true then none
  else if decide (0 < flash) && decide (flashFit s < flashUsed s + flash) then none
  else match lowestFree (unitsUsed s) h.size 0x3FFFC0 with
    | none => none
    | some base =>
      let h := { h with
        base := base
        extents := if h.cls = .resident then cs.flatMap fun c => ((freeExtents s c).take need).map fun e => (c, e) else [] }
      if h.cls = .resident then some (h, {})
      else match lowestFree (flashRanges s) h.size (64 + flashFit s) with
        | none => none
        | some f =>
          if h.cls = .tiered then some (h, newTier f 0 s.now)
          else (lowestFree (flashRanges s ++ [(f, h.size)]) 1 (64 + flashFit s)).map fun j =>
            (h, newTier f j s.now)

def hallCreateBody (s : State) (x : Win) : Answer :=
  let hid := x.arg 0 2
  guardArg s (createCheck s x) fun _ =>
    match placeHall s (newHall x) with
    | none => fail s stNoSpace
    | some (h, t) =>
      let u := { s with halls := s.halls.set hid h }
      let u := if h.cls = .resident then u else { u with tier := { u.tier with halls := u.tier.halls.set hid t } }
      match h.extents.foldl (fun o e => o.bind fun s => clearExtent s e.1 e.2) (some u) with
      | none => fail s stNoSpace
      | some u => retain s u fun t =>
        let t := if h.cls = .persistent then newJournal t hid else t
        good t (hallBytes t hid)

def execHallCreate (w : Nat) (s : State) : Host.Outcome State Fault Refusal := .next (runRetained s w 0x0200 hallCreateBody)

/-! ### Revocations (R51 to R58, R199) -/

/-- Does an open or committing welt fall to a revocation (R54, R199)? An access-list revocation withdraws the lines a welt
holds when its owner loses READ or CACHE, its write set with WRITE (DEDUCED for CACHE). -/
def weltHit (s : State) (h : Hall) (d : Drain) (slot : Nat) (w : Welt) : Bool :=
  let rs := readLines s slot
  let ws := writeLines s slot
  match d.kind with
  | .acl => d.scope.any fun x => decide (x.1 = w.owner) && (x.2.welt ||
      ((x.2.read || x.2.cache) && !(rs.isEmpty && ws.isEmpty)) || (x.2.write && !ws.isEmpty))
  | .trim => (rs ++ ws).any fun l => decide (lineOf h d.lo ≤ l)
  | .destroy => true

/-- Lines a drain reaches: those of the hall from the first withdrawn offset. -/
def inDrain (h : Hall) (d : Drain) (size line : Nat) : Bool :=
  decide (lineOf h d.lo ≤ line ∧ line < lineOf h (2 ^ 30 * size))

/-- What follows an epoch step: welts abort, copies are snooped (R53, R54). `size` is the SIZE before it. -/
def beginDrain (s : State) (hid : Nat) (d : Drain) (size : Nat) : State :=
  match s.halls.get? hid with
  | none => s
  | some h =>
    let busy := (s.home.lines.filter fun e => e.2.active.any fun a => a.req.hall = hid).map fun e => e.1
    let held := (s.pair.waits.flatMap fun w => w.send).filterMap fun (c : Nat × Cargo × Emit) => match c.2.1 with
      | .rsp ep tag => if (s.home.trackers.get? (ep * 65536 + tag)).any fun k => k.hall = hid then some (ep * 65536 + tag) else none
      | _ => none
    let d := { d with
      stepAt := s.now
      todo := busy
      reqs := held ++ ((s.home.resends.filter fun x => x.req.hall = hid).map fun x => x.req.ep * 65536 + reqTag x.req) ++
        ((s.home.wbHeld.filter fun x => (hallAt s (64 * x.line)).any fun y => y.1 = hid).map fun x => x.ep * 65536 + x.tag) ++
        (s.home.lines.filterMap fun e => e.2.active.bind fun a => if a.req.hall = hid then some (a.req.ep * 65536 + reqTag a.req) else none)
      commits := (s.welt.slots.filter fun e => decide (e.2.hall = hid ∧ e.2.st = .committing)).map fun e => (e.1, e.2.inc) }
    let s := { s with drains := s.drains.set hid d }
    let s := s.welt.slots.foldl (fun s e =>
      if e.2.hall = hid ∧ (e.2.st = .open_ ∨ e.2.st = .committing) ∧ weltHit s h d e.1 e.2 = true then
        abortWelt s e.1 stRevoked false else s) s
    let mine := (s.home.dir.filter fun e => inDrain h d size e.1 && !busy.contains e.1).map fun e => e.1
    settleTier (mine.foldl (fun s l => drainLine s hid h d l) s)

/-- A revocation raises EPOCH in one step (R51). -/
def stepEpoch (h : Hall) : Hall := { h with epoch := (h.epoch + 1) % 65536 }

/-- Close the HOST windows of endpoints that no access list names (R480). -/
def closeUnlisted (s : State) : State := closeHosts s fun n => !listedIn s none n

/-- Refusals of a revoking command on a hall: hall 4095 is denied before; one revocation at a time (R57). -/
def revokeCheck (s : State) (hid : Nat) : Option (Nat × Nat) :=
  match s.halls.get? hid with
  | none => some (stBadArg, 0)
  | some _ => if (s.drains.get? hid).isSome then some (stBusy, 0) else none

/-- Destroy a hall: the epoch step and its drain (R51 to R55). -/
def startDestroy (s : State) (hid : Nat) (w : Option Nat) : State :=
  match s.halls.get? hid with
  | none => s
  | some h => beginDrain { s with halls := s.halls.set hid { stepEpoch h with state := .destroying } } hid
      { kind := .destroy, oldSize := h.size, stepAt := s.now, window := w } h.size

def hallDestroyBody (s : State) (x : Win) : Answer :=
  let hid := x.arg 0 2
  guardArg s (revokeCheck s hid) fun _ =>
    retain s { s with halls := s.halls.modify hid fun h => { stepEpoch h with state := .destroying } } fun t =>
      let old := (s.halls.get? hid).elim 0 fun h => h.size
      goesOn (beginDrain t hid { kind := .destroy, oldSize := old, stepAt := t.now, window := cmdWin s x } old)

def execHallDestroy (w : Nat) (s : State) : Host.Outcome State Fault Refusal := .next (runRetained s w 0x0201 hallDestroyBody)

/-- `HALL_TRIM` (R58). -/
def hallTrimBody (s : State) (x : Win) : Answer :=
  let hid := x.arg 0 2
  let new := x.arg 2 2
  guardArg s (revokeCheck s hid) fun _ =>
    match s.halls.get? hid with
    | none => fail s stBadArg 0
    | some h =>
      if new = 0 ∨ h.size ≤ new then fail s stBadArg 2
      else
        let h' := { stepEpoch h with state := .trimming, size := new, quota := min h.quota new }
        retain s { s with halls := s.halls.set hid h' } fun t => goesOn (beginDrain t hid
          { kind := .trim, lo := 2 ^ 30 * new, oldSize := h.size, stepAt := t.now, window := cmdWin s x } h.size)

def execHallTrim (w : Nat) (s : State) : Host.Outcome State Fault Refusal := .next (runRetained s w 0x0202 hallTrimBody)

/-! ### Access lists (R44, R105, R106, R110, R376, R511) -/

/-- One entry of an access-list argument: endpoint, rights, budget, subscriber, and its reserved bits. -/
structure AclArg where
  ep : Nat
  rights : Rights
  budget : Nat
  sub : Nat
  rsvd : Nat

def rightsOfBits (v : Nat) : Rights :=
  { read := v.testBit 0, write := v.testBit 1, cache := v.testBit 2, atomic := v.testBit 3, welt := v.testBit 4 }

def aclArgs (x : Win) : List AclArg :=
  (List.range (x.arg 2 2)).map fun i =>
    let v := x.arg (8 + 8 * i) 4
    { ep := v % 2 ^ 18, rights := rightsOfBits (bits v 18 5), rsvd := v / 2 ^ 23, budget := x.arg (12 + 8 * i) 2
      sub := x.arg (14 + 8 * i) 2 }

/-- Rights that the first set holds and the second lacks. -/
def rightsLost (a b : Rights) : Rights :=
  { read := a.read && !b.read, write := a.write && !b.write, cache := a.cache && !b.cache, atomic := a.atomic && !b.atomic
    welt := a.welt && !b.welt }

def noRights : Rights := { read := false, write := false, cache := false, atomic := false, welt := false }

/-- The rights a list of entries withdraws (R511). -/
def aclLost (s : State) (hid : Nat) (as : List AclArg) : List (Nat × Rights) :=
  as.filterMap fun a => match aclOf s hid a.ep with
    | some e => let l := rightsLost e.rights a.rights
      if l = noRights then none else some (a.ep, l)
    | none => none

/-- Set one entry: its budget follows R110. -/
def setEntry (s : State) (hid : Nat) (a : AclArg) : State :=
  let e : AclEntry := match aclOf s hid a.ep with
    | none => { rights := a.rights, budget := a.budget, subscriber := a.sub, inForce := a.budget, nseq := 1 }
    | some o => { rights := a.rights, budget := a.budget, subscriber := a.sub, nseq := (o.nseq + 1) % 65536
                  inForce := max o.inForce a.budget, notice := if a.budget < o.inForce then some s.now else none }
  { s with acl := s.acl.set (aclKey hid a.ep) e }

/-- Tell an endpoint its budget (R110, R503). -/
def sayBudget (s : State) (hid ep : Nat) : State :=
  match aclOf s hid ep with
  | some e => sendMgt s ep fun p => .budget p ep hid e.budget e.nseq
  | none => s

/-- The offset of the first entry that breaks R105 or R376, or names an endpoint twice. -/
def aclArgCheck (x : Win) : Option (Nat × Nat) :=
  let as := aclArgs x
  let entry := fun (i : Nat) => match as[i]? with
    | none => none
    | some a => badArg [ (decide (a.rsvd ≠ 0) || (as.take i).any fun b => decide (b.ep = a.ep), 8 + 8 * i),
        (!inRange a.budget 1 1024, 12 + 8 * i), (decide (0x7FF ≤ a.sub), 14 + 8 * i) ]
  match badArg [(!inRange (x.arg 2 2) 1 256, 2), (decide (x.arg 4 4 ≠ 0), 4)] with
  | some e => some e
  | none => (List.range (x.arg 2 2)).findSome? entry

/-- The limits of R44 and R106 on the lists a change would make. -/
def aclFits (s t : State) (hid : Nat) : Bool :=
  let sum := fun (u : State) => sumNat (u.acl.map fun e => e.2.budget)
  decide (aclCount t hid ≤ 65536 ∧ t.acl.length ≤ 262144) && (decide (sum t ≤ 2097152) || decide (sum t ≤ sum s))

/-- `HALL_ACL_SET` (R509, R511, R635). -/
def hallAclSetBody (s : State) (x : Win) : Answer :=
  let hid := x.arg 0 2
  let as := aclArgs x
  match s.halls.get? hid with
  | none => fail s stBadArg 0
  | some h =>
    guardArg s (aclArgCheck x) fun _ =>
      let lost := aclLost s hid as
      let fresh := (as.filter fun a => (aclOf s hid a.ep).isNone).map fun a => a.ep
      let t := as.foldl (fun s a => setEntry s hid a) s
      if lost ≠ [] ∧ (s.drains.get? hid).isSome = true then fail s stBusy
      else if lost = [] ∧ h.state = .destroying then fail s stDraining
      else if aclFits s t hid = false then fail s stNoSpace
      else
        let t := if lost = [] then t else { t with halls := t.halls.modify hid stepEpoch }
        retain s t fun t =>
          let t := recomputeLevels t
          let t := sendEpochs (as.foldl (fun s a => sayBudget s hid a.ep) t) fresh
          if lost = [] then good t
          else goesOn (beginDrain t hid { kind := .acl, scope := lost, stepAt := t.now, window := cmdWin s x } h.size)

def execHallAclSet (w : Nat) (s : State) : Host.Outcome State Fault Refusal := .next (runRetained s w 0x0205 hallAclSetBody)

/-- `HALL_ACL_REMOVE` (R509, R511). -/
def hallAclRemoveBody (s : State) (x : Win) : Answer :=
  let hid := x.arg 0 2
  let n := x.arg 2 2
  let eps := ((List.range n).map fun i => x.arg (8 + 4 * i) 4)
  match s.halls.get? hid with
  | none => fail s stBadArg 0
  | some h =>
    guardArg s (match badArg [(!inRange n 1 256, 2), (decide (x.arg 4 4 ≠ 0), 4)] with
      | some e => some e
      | none => (List.range n).findSome? fun i => badArg [(decide (2 ^ 18 ≤ (eps[i]?).getD 0), 8 + 4 * i)]) fun _ =>
      let gone := (eps.eraseDups).filterMap fun ep => (aclOf s hid ep).map fun e => (ep, e.rights)
      if gone = [] then good s
      else if (s.drains.get? hid).isSome then fail s stBusy
      else
        let t := { s with acl := gone.foldl (fun m e => m.erase (aclKey hid e.1)) s.acl
                          halls := s.halls.modify hid stepEpoch }
        retain s t fun t =>
          let t := closeUnlisted (recomputeLevels t)
          goesOn (beginDrain t hid { kind := .acl, scope := gone, stepAt := t.now, window := cmdWin s x } h.size)

def execHallAclRemove (w : Nat) (s : State) : Host.Outcome State Fault Refusal := .next (runRetained s w 0x0206 hallAclRemoveBody)

/-- An entry as `HALL_ACL_SET` gives it. -/
def entryBytes (ep : Nat) (e : AclEntry) : List Byte :=
  leBytes 4 (ep + 2 ^ 18 * rightsBits e.rights) ++ leBytes 2 e.budget ++ leBytes 2 e.subscriber

/-- `HALL_ACL_QUERY` (R509). -/
def hallAclQueryBody (s : State) (x : Win) : Answer :=
  let hid := x.arg 0 2
  guardArg s (badArg [(decide (4095 < hid), 0), (!inRange (x.arg 2 2) 1 4096, 2)]) fun _ =>
    let es := s.acl.filter fun e => e.1 / 262144 = hid
    let page := (es.drop (x.arg 4 4)).take (x.arg 2 2)
    good s (lay [(4, es.length), (2, page.length), (2, 0)] ++ page.flatMap fun e => entryBytes (e.1 % 262144) e.2)

def execHallAclQuery (w : Nat) (s : State) : Host.Outcome State Fault Refusal := .next (runCmd s w 0x0207 hallAclQueryBody)

/-- `HALL_QUERY` (R62, R509). -/
def hallQueryBody (s : State) (x : Win) : Answer :=
  guardArg s (badArg [(decide (4095 < x.arg 0 2), 0)]) fun _ => good s (hallBytes s (x.arg 0 2))

def execHallQuery (w : Nat) (s : State) : Host.Outcome State Fault Refusal := .next (runCmd s w 0x0203 hallQueryBody)

/-! ### HALL_SET (R510, R635) -/

def hallSetCheck (s : State) (x : Win) (hid : Nat) (h : Hall) : Option (Nat × Nat) :=
  let q := x.arg 4 2
  let res := decide (h.cls = .resident)
  let n := max 1 (hallChans h).length
  let more := decide (h.quota < q) && !((hallChans h).all fun c => dramFits s c (16 * q / n - 16 * h.quota / n))
  firstFail [ (h.state = .destroying, stDraining, 0), (decide (1 < x.arg 2 1), stBadArg, 2), (decide (1 < x.arg 3 1), stBadArg, 3),
    (if res then decide (q ≠ 0 ∧ q ≠ h.size) else !inRange q 1 h.size, stBadArg, 4), (decide (200 < x.arg 6 2), stBadArg, 6),
    (!res && decide (2 ^ 29 * q < heldBytes s hid h []), stBusy, 4), (!res && more, stNoSpace, 4) ]

def hallSetBody (s : State) (x : Win) : Answer :=
  let hid := x.arg 0 2
  match s.halls.get? hid with
  | none => fail s stBadArg 0
  | some h =>
    guardArg s (hallSetCheck s x hid h) fun _ =>
      let h' := { h with
        orphanRevert := decide (x.arg 2 1 = 1), fwdForce := decide (x.arg 3 1 = 1)
        quota := if h.cls = .resident then h.size else x.arg 4 2
        weltTmo := if x.arg 6 2 = 0 then 100 else x.arg 6 2 }
      retain s { s with halls := s.halls.set hid h' } fun t =>
        let t := recomputeLevels t
        if h.cls = .resident ∨ overQuota t hid h' = .none then good t (hallBytes t hid)
        else
          let rest := t.tier.shrink.filter fun e => e.1 ≠ hid
          goesOn (settleTier { t with tier := { t.tier with shrink := rest ++ [(hid, cmdWin s x)] } })

/-- `HALL_SET`; eviction towards a lowered QUOTA begins with it. -/
def execHallSet (w : Nat) (s : State) : Host.Outcome State Fault Refusal := .next (runRetained s w 0x0204 hallSetBody)

/-! ### The end of a drain (R55, R56, R59) -/

/-- Is a request that was under way at a drain's epoch step still to be answered, under mirroring, sent again or held for its block
(R52, R55)? -/
def reqLeft (s : State) (d : Drain) : Bool :=
  (s.pair.waits.any fun w => w.send.any fun (c : Nat × Cargo × Emit) => match c.2.1 with
    | .rsp ep tag => d.reqs.contains (ep * 65536 + tag)
    | _ => false) ||
    (s.home.resends.any fun x => d.reqs.contains (x.req.ep * 65536 + reqTag x.req)) ||
    s.home.wbHeld.any fun x => d.reqs.contains (x.ep * 65536 + x.tag)

/-- Is a commit that ran at the epoch step, or a WLT_OPEN within the withdrawn scope, not over (R52, R55)? -/
def weltLeft (s : State) (hid : Nat) (d : Drain) : Bool :=
  (d.commits.any fun c => (s.welt.slots.get? c.1).any fun w => w.inc = c.2 && w.st = .committing) ||
    s.welt.waiting.any fun e => e.1.hall = hid && openWithdrawn s e.1 e.2.2

/-- Is a drain finished (R52, R53, R55)? -/
def drained (s : State) (hid : Nat) (h : Hall) (d : Drain) : Bool :=
  d.todo.isEmpty && !(s.home.snoops.any fun x => x.2 = .drain hid) &&
    (s.home.lines.all fun e => e.2.fifo.all fun r => !(decide (r.hall = hid) && withdrawn s r)) &&
    (s.welt.slots.all fun e => !(decide (e.2.hall = hid ∧ e.2.st = .aborting) && weltHit s h d e.1 e.2)) &&
    !reqLeft s d && !weltLeft s hid d &&
    (d.kind = .acl || ((s.home.wbHeld.all fun x => !inDrain h d d.oldSize x.line) &&
      s.home.dir.all fun e => !inDrain h d d.oldSize e.1))

/-- Landed blocks from an offset on are dropped without writeback; nothing lands or waits there any more (R54). -/
def dropBlocks (s : State) (hid : Nat) (h : Hall) (lo : Nat) : State :=
  let b0 := lo / blockBytes h
  let out := fun (h' b : Nat) => decide (h' = hid ∧ b0 ≤ b)
  let s := ((hallBlocks s hid).filter fun e => decide (b0 ≤ e.1)).foldl (fun s e => dropBlock s hid e.1) s
  let s := dropJobs s fun k => match k with
    | .block h' b => out h' b
    | .record h' _ | .super h' => decide (h' = hid ∧ lo = 0)
    | .free _ _ => false
  { s with
    tier := { s.tier with
      waitVictim := s.tier.waitVictim.filter fun e => !out e.1 e.2.1
      evicted := s.tier.evicted.filter fun e => !out e.1 e.2.1
      orders := s.tier.orders.filter fun o => !out o.hall (o.offset / blockBytes h)
      hints := s.tier.hints.map fun t => { t with blocks := t.blocks.filter fun b => !out t.hall b } }
    jrn := s.jrn.modify hid fun j => { j with goals := j.goals.map fun g => (g.1, g.2.filter fun b => decide (b < b0)) }
    home := { s.home with merge := s.home.merge.filter fun e =>
      ¬(lineOf h lo ≤ e.1 ∧ e.1 < lineOf h (2 ^ 44) ∧ (hallAt s (e.1 * 64)).all (fun y => y.1 = hid)) } }

/-- Flash GiB `lo` to `hi` of the data space are deallocated (R54, R241). -/
def freeFlash (s : State) (lo hi : Nat) : State := if lo < hi then deallocate s (1024 * lo) (1024 * hi) else s

/-- A trim's range is released: extents and PPA units go to the WRITTEN clear, blocks and flash at once (R54, R58, R59). -/
def releaseTrim (s : State) (hid : Nat) (h : Hall) (d : Drain) : State :=
  match h.cls with
  | .resident =>
    let keep := ceilDiv h.size (max 1 (hallChans h).length)
    let kept := (hallChans h).flatMap fun c => (h.extents.filter fun e => e.1 = c).take keep
    let freed : Clear := { hall := hid, base := h.base + h.size, size := d.oldSize - h.size
                           extents := h.extents.filter fun e => !kept.contains e }
    { s with
      halls := s.halls.set hid { h with state := .active, extents := kept }
      clears := s.clears ++ [freed] }
  | _ =>
    let f := (tierRec s hid).fbase
    let s := freeFlash (dropBlocks s hid h d.lo) (f + h.size) (f + d.oldSize)
    { s with halls := s.halls.set hid { h with state := .active } }

/-- A destroyed hall is FREE (R54, R59). -/
def releaseDestroy (s : State) (hid : Nat) (h : Hall) (d : Drain) : State :=
  let t := tierRec s hid
  let s : State := match h.cls with
    | .resident => { s with clears := s.clears ++ [{ hall := hid, base := h.base, size := d.oldSize, extents := h.extents }] }
    | .tiered => freeFlash (dropBlocks s hid h 0) t.fbase (t.fbase + d.oldSize)
    | .persistent =>
      freeFlash (freeFlash (dropBlocks s hid h 0) t.fbase (t.fbase + d.oldSize)) t.jbase (t.jbase + 1)
  closeUnlisted { s with
    halls := s.halls.erase hid
    acl := s.acl.filter fun e => e.1 / 262144 ≠ hid
    jrn := s.jrn.erase hid
    tier := { s.tier with halls := s.tier.halls.erase hid, shrink := s.tier.shrink.filter fun e => e.1 ≠ hid }
    eng := { s.eng with ctxs := s.eng.ctxs.map fun e => (e.1, { e.2 with halls := e.2.halls.filter fun n => n ≠ hid }) } }

/-- A drain ends: the range or the rights are released; a late one is recorded (R55, R56, R637). -/
def endDrain (s : State) (hid : Nat) (h : Hall) (d : Drain) : State :=
  let s := { s with drains := s.drains.erase hid }
  let kind := match d.kind with
    | .acl => 0
    | .trim => 1
    | .destroy => 2
  let s := match d.kind with
    | .acl => s
    | .trim => commitSelf (releaseTrim s hid h d)
    | .destroy => commitSelf (releaseDestroy s hid h d)
  let s := if d.late then
      event s .drainLate srcSlices (some h.tenant) (some hid) 0 [(0, 2, h.epoch), (2, 1, kind), (8, 8, s.now - d.stepAt)]
    else s
  settleTier (match d.window with
    | some w => finishCmd s w stOk 0 (if d.kind = .trim then hallBytes s hid else [])
    | none => s)

/-- The drain bound by class (R55). -/
def drainBoundOf (h : Hall) : Nat := if h.cls = .resident then ms 8 else ms 24

/-- WRITTEN_CLEAR_DONE: a released range has been cleared and is free again (R59, R422). -/
def execWrittenClearDone (hall : Nat) (s : State) : Host.Outcome State Fault Refusal :=
  .next (match s.clears.find? fun c => c.hall = hall with
    | some c =>
      let s := c.extents.foldl (fun s e => clearRange s e.1 (2 ^ 30 * e.2) (2 ^ 30 * (e.2 + 1))) s
      { s with clears := s.clears.erase c }
    | none => s)

/-! ### EP_STATE (R49, R153, R157, R502, R504) -/

/-- Reserved forms of EP_STATE (R498). -/
def epStateBad (b : List Byte) : Bool :=
  mgtBad b 0x62 [(1, 5)] || decide (2 ^ 18 ≤ subNat b 1 3 ∨ 1 < subNat b 4 1 ∨ 2 < subNat b 5 1)

/-- A switch reports an endpoint. -/
def epState (s : State) (ep : Nat) (up : Bool) (rev : Nat) : State :=
  let i := epInfo s ep
  let was := i.rev
  let s := { s with eps := s.eps.set ep { i with rev := rev } }
  let s := if was ≠ rev then recomputeLevels s else s
  if up then
    let s := if i.dead then
        { s with eps := s.eps.modify ep fun i => { i with upAgain := true, dead := i.walking } }
      else s
    if listedIn s none ep then sendEpoch s ep else s
  else endpointDead s ep 0 0 0

/-- EP_STATE: taken from the switch at the end of a fabric link only; on a peer port it is a reserved form (R115, R498, R502). -/
def execEpState (m : MgtMsg) (s : State) : Host.Outcome State Fault Refusal :=
  let b := m.bytes
  .next (if heard s m.port true = false then s
    else if decide (8 ≤ m.port) || epStateBad b then countBad s m.port
    else epState s (subNat b 1 3) (decide (subNat b 4 1 = 1)) (subNat b 5 1))

end Sys2Proof.Machine
end

