-- ==== Sys2Proof/Machine/Operators.lean ====
section
/-! DEFINITION. The operators of a last (F08): number formats, tiles and blocks, the exact result of each operator, poison
through operators. Every operator is a function of a tile's input bytes. -/

namespace Sys2Proof.Machine

/-! ### Formats (R302 to R309) -/

/-- Bits of an element of a format code. -/
def fmtBits (f : Nat) : Nat :=
  if f = 0x00 then 32 else if f = 0x01 ∨ f = 0x02 then 16 else if f = 0x06 ∨ f = 0x13 then 4 else if f = 0x12 then 6 else 8

/-- A microscaling format (R302). -/
def isMx (f : Nat) : Bool := decide (0x10 ≤ f ∧ f ≤ 0x14)

/-- An integer format. -/
def isInt (f : Nat) : Bool := decide (5 ≤ f ∧ f ≤ 7)

/-- A number format (R302). -/
def isNumFmt (f : Nat) : Bool := decide (f ≤ 7) || isMx f

/-- The element encoding of a floating or MX code; MXINT8 and the integers have none. -/
def floatOf (f : Nat) : Option FFmt :=
  match f with
  | 0x00 => some fp32
  | 0x01 => some bf16
  | 0x02 => some fp16
  | 0x03 | 0x10 => some e4m3
  | 0x04 | 0x11 => some e5m2
  | 0x12 => some e3m2
  | 0x13 => some e2m1
  | _ => none

/-- A signed number as an exact value. -/
def intFp (n : Int) (e : Int) : Fp := .fin (decide (n < 0)) n.natAbs e

/-- A field of `w` bits as two's complement. -/
def signedOf (w x : Nat) : Int := if 2 ^ (w - 1) ≤ x then (x : Int) - 2 ^ w else x

/-- The value of an element without its scale (R302). -/
def eltVal (f raw : Nat) : Fp :=
  match floatOf f with
  | some g => g.decode raw
  | none => match f with
    | 0x05 => intFp (signedOf 8 raw) 0
    | 0x06 => intFp (signedOf 4 raw) 0
    | 0x14 => intFp (signedOf 8 raw) (-6)
    | _ => intFp raw 0

/-- A value times 2^(e − 127); scale 0xFF is NaN (R305). -/
def scaleBy (e : Nat) (x : Fp) : Fp :=
  if e = 0xFF then .nan else match x with
    | .fin n m k => .fin n m (k + e - 127)
    | y => y

/-- An exact value rounded to an integer, ties to even (R307). -/
def Fp.toIntRne : Fp → Int
  | .fin n m e =>
    let k : Nat := if 0 ≤ e then m * 2 ^ e.toNat else shrRne m (-e).toNat
    if n then -(k : Int) else k
  | _ => 0

/-- Conversion to an integer range (R307). -/
def toRange (lo hi : Int) : Fp → Int
  | .nan => 0
  | .inf n => if n then lo else hi
  | x => max lo (min hi x.toIntRne)

/-- Conversion of a value to a format that is not MX (R306 to R308). -/
def outBits (f : Nat) (sat : Bool) (x : Fp) : Nat :=
  match floatOf f with
  | some g => g.encode sat x
  | none => match f with
    | 0x05 => ((toRange (-128) 127 x) % 256).toNat
    | 0x06 => ((toRange (-8) 7 x) % 16).toNat
    | _ => (toRange 0 255 x).toNat

/-- floor(log2) of a positive finite magnitude. -/
def log2Of (m : Nat) (e : Int) : Int := e + bitLen m - 1

/-- EMAX of R309. -/
def mxEmax (f : Nat) : Int := match f with
  | 0x10 => 8
  | 0x11 => 15
  | 0x12 => 4
  | 0x13 => 2
  | _ => 0

/-- One element of an MX block at a scale: RNE, saturating (R309). -/
def mxElt (f e : Nat) (x : Fp) : Nat :=
  let y := match x with
    | .fin n m k => Fp.fin n m (k - e + 127)
    | z => z
  match floatOf f with
  | some g => match y with
    | .inf n => if f = 0x11 then g.encode false y else signBit g n + g.maxBits
    | _ => g.encode true y
  | none => match y with
    | .inf n => if n then 256 - 127 else 127
    | .fin n m k => ((max (-127) (min 127 (Fp.fin n m (k + 6)).toIntRne)) % 256).toNat
    | .nan => 0

/-- Conversion of a block to an MX format: the scale byte and the elements (R309). -/
def mxBlock (f : Nat) (xs : List Fp) : Nat × List Nat :=
  if xs.contains Fp.nan then (0xFF, xs.map fun _ => 0)
  else
    let top := xs.foldl (fun (a : Option Int) x => match x with
      | .fin _ m e => if m = 0 then a else match a with
        | some b => some (max b (log2Of m e))
        | none => some (log2Of m e)
      | _ => a) none
    let e : Nat := match top with
      | none => 127
      | some t => (max 0 (min 254 (t - mxEmax f + 127))).toNat
    (e, xs.map (mxElt f e))

/-! ### Tile memory -/

/-- Where an operator reads: the bytes of a space with the poison of their granules (R338). -/
structure Env where
  views : List View
  args : List Nat
  mem : Nat → Nat → Byte × Bool

/-- A field of a byte memory: its number, and whether any of its bytes is poisoned. -/
def rdField (m : Nat → Byte × Bool) (at_ w : Nat) : Nat × Bool :=
  let bs := (List.range ((at_ % 8 + w + 7) / 8)).map fun i => m (at_ / 8 + i)
  (bits (leNat (bs.map fun b => b.1)) (at_ % 8) w, bs.any fun b => b.2)

/-- A field written: bit address, width, value, poison. -/
structure Wr where
  view : Nat
  at_ : Nat
  w : Nat
  val : Nat
  poison : Bool := false
  deriving DecidableEq, Repr

def noView : View := { fmt := 0, space := 1, bind := 0, rank := 1, base := 0, dims := [0, 1, 1, 1], strides := [0, 0, 0], ep := 0
                       window := 0, aux := 255, write := false }
def Env.view (e : Env) (i : Nat) : View := (e.views[i]?).getD noView

def dim (v : View) (k : Nat) : Nat := (v.dims[k]?).getD 1
def stride (v : View) (k : Nat) : Nat := (v.strides[k - 1]?).getD 0
def nth (l : List Nat) (k : Nat) : Nat := (l[k]?).getD 0

/-- BASE with its argument (R268). -/
def viewBase (args : List Nat) (v : View) : Nat :=
  v.base + if 1 ≤ v.bind ∧ v.bind ≤ 4 then nth args (v.bind - 1) else 0

/-- Bit address of an element of `w` bits at coordinates (R268, R303). -/
def eltAt (args : List Nat) (v : View) (w : Nat) (c : List Nat) : Nat :=
  8 * (viewBase args v + nth c 1 * stride v 1 + nth c 2 * stride v 2 + nth c 3 * stride v 3) + nth c 0 * w

def Env.raw (e : Env) (v : View) (w : Nat) (c : List Nat) : Nat × Bool := rdField (e.mem v.space) (eltAt e.args v w c) w

/-- Coordinates of the scale of an element (R304). -/
def scaleCo (c : List Nat) : List Nat := (nth c 0 / 32) :: c.drop 1

/-- An element's value; a poisoned one enters as +0 (R305, R338). -/
def Env.val (e : Env) (v : View) (c : List Nat) : Fp × Bool :=
  let (r, p) := e.raw v (fmtBits v.fmt) c
  let (x, p) := if isMx v.fmt then
      let (s, q) := e.raw (e.view v.aux) 8 (scaleCo c)
      (scaleBy s (eltVal v.fmt r), p || q)
    else (eltVal v.fmt r, p)
  if p then (.fin false 0 0, true) else (x, false)

/-- A 32-bit index at coordinates (R319); a poisoned one enters as 0 (R338). -/
def Env.idx (e : Env) (v : View) (c : List Nat) : Nat × Bool :=
  let (i, p) := e.raw v 32 c
  (if p then 0 else i, p)

/-! ### Blocks (R316 to R318) -/

/-- All coordinates of an extent, dimension 0 fastest. -/
def coords (ext : List Nat) : List (List Nat) :=
  (List.range (nth ext 3)).flatMap fun d => (List.range (nth ext 2)).flatMap fun c => (List.range (nth ext 1)).flatMap fun b =>
    (List.range (nth ext 0)).map fun a => [a, b, c, d]

def addCo (a b : List Nat) : List Nat := (List.range 4).map fun k => nth a k + nth b k

/-- Blocks per dimension of a view under a TILE_SHAPE. -/
def gridOf (st : Stage) (v : View) : List Nat := (List.range 4).map fun k => ceilDiv (dim v k) (max 1 (nth st.shape k))
def gridSize (st : Stage) (v : View) : Nat := (gridOf st v).foldl (· * ·) 1

/-- Origin and extent of the block a tile uses; bench views and views of one block are whole. -/
def blockIn (st : Stage) (v : View) (t : Nat) : List Nat × List Nat :=
  let dims := (List.range 4).map (dim v)
  let g := gridOf st v
  if v.space = 1 ∨ gridSize st v ≠ st.tiles then ([0, 0, 0, 0], dims)
  else
    let co := [t % nth g 0, t / nth g 0 % nth g 1, t / (nth g 0 * nth g 1) % nth g 2, t / (nth g 0 * nth g 1 * nth g 2)]
    let o := (List.range 4).map fun k => nth co k * nth st.shape k
    (o, (List.range 4).map fun k => min (nth st.shape k) (nth dims k - nth o k))

/-- The extents of a full block of a tile: TILE_SHAPE cut to the view, or the whole view. -/
def blockShape (st : Stage) (v : View) : List Nat :=
  if v.space = 1 ∨ gridSize st v ≠ st.tiles then (List.range 4).map (dim v)
  else (List.range 4).map fun k => min (nth st.shape k) (dim v k)

/-- Lists that one tile of TOPK makes room for: the rows of a full block (R326; DEDUCED, log 62). -/
def topRows (st : Stage) (v : View) : Nat :=
  let s := blockShape st v
  nth s 1 * nth s 2 * nth s 3

/-! ### Results -/

/-- Raw elements of a view. -/
def rawOut (e : Env) (i w : Nat) (xs : List (List Nat × Nat × Bool)) : List Wr :=
  xs.map fun x => { view := i, at_ := eltAt e.args (e.view i) w x.1, w := w, val := x.2.1, poison := x.2.2 }

/-- Values converted to a view's format, with their scales for an MX view (R306 to R309). -/
def numOut (e : Env) (i : Nat) (sat : Bool) (xs : List (List Nat × Fp × Bool)) : List Wr :=
  let v := e.view i
  if isMx v.fmt then
    ((xs.map fun x => scaleCo x.1).eraseDups).flatMap fun g =>
      let mine := xs.filter fun x => scaleCo x.1 = g
      let at_ := fun (k : Nat) => mine.find? fun x => nth x.1 0 % 32 = k
      let (sc, es) := mxBlock v.fmt ((List.range 32).map fun k => ((at_ k).map fun x => x.2.1).getD (.fin false 0 0))
      rawOut e v.aux 8 [(g, sc, mine.any fun x => x.2.2)] ++
        rawOut e i (fmtBits v.fmt) (mine.map fun x => (x.1, nth es (nth x.1 0 % 32), x.2.2))
  else rawOut e i (fmtBits v.fmt) (xs.map fun x => (x.1, outBits v.fmt sat x.2.1, x.2.2))

/-- Coordinates of a view at which no field was written. -/
def gapsOf (e : Env) (i w : Nat) (cs : List (List Nat)) (ws : List Wr) : List (List Nat × Nat × Bool) :=
  let have_ := (ws.filter fun x => x.view = i).map fun x => x.at_
  (cs.filter fun c => !have_.contains (eltAt e.args (e.view i) w c)).map fun c => (c, 0, false)

/-- Bench positions of an output beyond what was computed read as +0, their scales with them (R317). -/
def padBench (e : Env) (i w : Nat) (ws : List Wr) : List Wr :=
  let v := e.view i
  let all := coords ((List.range 4).map (dim v))
  if v.space ≠ 1 then ws
  else ws ++ rawOut e i w (gapsOf e i w all ws) ++
    (if isMx v.fmt then rawOut e v.aux 8 (gapsOf e v.aux 8 ((all.map scaleCo).eraseDups) ws) else [])

/-! ### Sparse views (R310 to R315) -/

def stEfmt (st : Stage) : Nat := subNat st.params 0 1
def stSat (st : Stage) : Bool := (subNat st.params 1 1).testBit 0
def stKeep (st : Stage) : Bool := (subNat st.params 1 1).testBit 1
/-- Byte `k` (40 to 63) of a stage entry. -/
def stParam (st : Stage) (k n : Nat) : Nat := subNat st.params (k - 36) n

def isSparse (f : Nat) : Bool := decide (0x20 ≤ f ∧ f ≤ 0x23)

/-- N, M and index width of an N:M format (R314). -/
def nmOf (f : Nat) : Nat × Nat × Nat := match f with
  | 0x21 => (2, 4, 2)
  | 0x22 => (4, 8, 3)
  | _ => (1, 4, 2)

/-- Byte `k` of a metadata view. -/
def Env.meta (e : Env) (v : View) (k n : Nat) : Nat × Bool :=
  let m := e.view v.aux
  rdField (e.mem m.space) (8 * (viewBase e.args m + k)) (8 * n)

/-- The BSB block row `r`: directory entries, bitmap bytes' offset, whether they agree, whether they are poisoned (R312,
R313). -/
def bsbRow (e : Env) (v : View) (r : Nat) : Nat × List Bool × Bool × Bool :=
  let br := dim v 1 / 16
  let bc := dim v 0 / 16
  let a := e.meta v (4 * r) 4
  let b := e.meta v (4 * (r + 1)) 4
  let rowLen := ceilDiv bc 8
  let m := e.meta v (4 * (br + 1) + r * rowLen) rowLen
  let present := (List.range bc).map fun c => m.1.testBit c
  (a.1, present, decide (b.1 = a.1 + (present.filter fun x => x).length), a.2 || b.2 || m.2)

/-- A dense element of a sparse view: raw value, poison; the third part says that its metadata is poisoned. -/
def sparseElt (e : Env) (st : Stage) (v : View) (c r : Nat) : Nat × Bool × Bool :=
  let w := fmtBits (stEfmt st)
  let base := viewBase e.args v
  if v.fmt = 0x20 then
    let (first, present, agrees, bad) := bsbRow e v (r / 16)
    if !agrees then (0, true, bad)
    else if ((present[c / 16]?).getD false) = false then (0, false, bad)
    else
      let k := first + ((present.take (c / 16)).filter fun x => x).length
      let (x, p) := rdField (e.mem v.space) (8 * base + (k * 256 + r % 16 * 16 + c % 16) * w) w
      (x, p, bad)
  else
    let (n, m, iw) := nmOf v.fmt
    let g := r * (dim v 0 / m) + c / m
    let mv := e.view v.aux
    (List.range n).foldl (fun (acc : Nat × Bool × Bool) j =>
      let (i, q) := rdField (e.mem mv.space) (8 * viewBase e.args mv + (g * n + j) * iw) iw
      if i = c % m then
        let (x, p) := rdField (e.mem v.space) (8 * base + (g * n + j) * w) w
        (x, p, acc.2.2 || q)
      else (acc.1, acc.2.1, acc.2.2 || q)) (0, false, false)

/-- The scale view of a sparse MX view: its metadata view's AUX (R310, R311). -/
def sparseScale (e : Env) (v : View) : View := e.view (e.view v.aux).aux

/-! ### Arithmetic (R333 to R336) -/

/-- An exact sum; exactly zero is +0 unless every term is −0 (R335). -/
def exactSum (ts : List Fp) : Fp :=
  let s := match ts with
    | [] => Fp.fin false 0 0
    | t :: r => r.foldl Fp.add t
  match s with
  | .fin _ 0 e => .fin (ts.all fun t => match t with
      | .fin n m _ => n && decide (m = 0)
      | _ => false) 0 e
  | x => x

/-- Groups of 32 consecutive terms (R333). -/
def groups32 (fuel : Nat) (ts : List Fp) : List (List Fp) :=
  match fuel with
  | 0 => []
  | n + 1 => if ts.isEmpty then [] else ts.take 32 :: groups32 n (ts.drop 32)

/-- The block rule (R333, R335). -/
def blockSum (ts : List Fp) : Fp :=
  match (groups32 ts.length ts).map fun b => (exactSum b).toF32 with
  | [] => .fin false 0 0
  | b :: r => r.foldl (fun a x => (a.add x).toF32) b

/-- The sequential rule (R334). -/
def seqSum (ts : List Fp) : Fp := ts.foldl (fun a x => (a.add x).toF32) (.fin false 0 0)

def isNan : Fp → Bool
  | .nan => true
  | _ => false

/-- Is one value below another, numbers only? -/
def fpLt (a b : Fp) : Bool := match a, b with
  | .nan, _ => false
  | _, .nan => false
  | .inf n, .inf m => n && !m
  | .inf n, _ => n
  | _, .inf m => !m
  | .fin n1 m1 e1, .fin n2 m2 e2 =>
    let lo := min e1 e2
    decide (alignTo lo n1 m1 e1 < alignTo lo n2 m2 e2)

/-- An entry to be ordered: score, index, poison of either. -/
structure Cand where
  score : Fp
  idx : Nat
  sp : Bool := false
  ip : Bool := false
  deriving DecidableEq, Repr

/-- Does entry `a` precede `b` (R324)? A poisoned score ranks as NaN (R339). -/
def precedes (largest : Bool) (a b : Cand) : Bool :=
  let x := if a.sp then Fp.nan else a.score
  let y := if b.sp then Fp.nan else b.score
  if isNan x || isNan y then (if isNan x && isNan y then decide (a.idx < b.idx) else isNan y)
  else if (if largest then fpLt y x else fpLt x y) then true
  else if (if largest then fpLt x y else fpLt y x) then false
  else decide (a.idx < b.idx)

def insertCand (largest : Bool) (a : Cand) : List Cand → List Cand
  | [] => [a]
  | b :: t => if precedes largest a b then a :: b :: t else b :: insertCand largest a t

def sortCands (largest : Bool) (l : List Cand) : List Cand := l.foldl (fun acc a => insertCand largest a acc) []

/-- The K first entries, filled up (R324, R325), as score bits, index, poison of the score and of the index (R339). -/
def topK (largest : Bool) (k : Nat) (l : List Cand) : List (Nat × Nat × Bool × Bool) :=
  let best := ((sortCands largest l).take k).map fun c =>
    (fp32.encode false (if c.sp then .nan else c.score), c.idx, c.sp, c.sp || c.ip)
  best ++ List.replicate (k - best.length) (0x7FC00000, 0xFFFFFFFF, false, false)

/-- Lists of K entries at elements of OUT and of its AUX (R326). -/
def listOut (e : Env) (i first : Nat) (l : List (Nat × Nat × Bool × Bool)) : List Wr :=
  let v := e.view i
  (List.range l.length).flatMap fun j =>
    let (sc, ix, p, q) := (l[j]?).getD (0, 0, false, false)
    rawOut e i 32 [([first + j, 0, 0, 0], sc, p)] ++ rawOut e v.aux 32 [([first + j, 0, 0, 0], ix, q)]

/-! ### The operators (R320 to R332) -/

/-- What a stage of a tile produces: fields written, tiles marked (R329). -/
structure StageOut where
  wrs : List Wr := []
  marks : List Nat := []

/-- Raw copy of a block with its scales (GATHER apart): EMIT, STAGE. -/
def copyBlock (e : Env) (st : Stage) (t : Nat) : List Wr :=
  let v := e.view st.in0
  let o := e.view st.out
  let w := fmtBits v.fmt
  let (io, ie) := if st.op = 0x0E ∧ stKeep st = true then ([0, 0, 0, 0], (List.range 4).map (dim v)) else blockIn st v t
  let (oo, oe) := blockIn st o t
  let ext := (List.range 4).map fun k => min (nth ie k) (nth oe k)
  let body := rawOut e st.out w ((coords ext).map fun c =>
    let (x, p) := e.raw v w (addCo io c)
    (addCo oo c, x, p || (isMx v.fmt && (e.raw (e.view v.aux) 8 (scaleCo (addCo io c))).2)))
  let scales := if isMx v.fmt then
      rawOut e o.aux 8 ((((coords ext).map fun c => (scaleCo (addCo io c), scaleCo (addCo oo c))).eraseDups).map fun c =>
        let (x, p) := e.raw (e.view v.aux) 8 c.1
        (c.2, x, p))
    else []
  padBench e st.out w (body ++ scales)

/-- The indices of a GATHER tile in order (R321). -/
def gatherIdx (e : Env) (st : Stage) (t : Nat) : List (Nat × Bool) :=
  let v := e.view st.in1
  let (o, ext) := blockIn st v t
  (coords ext).map fun c => e.idx v (addCo o c)

/-- GATHER (R315, R321, R323). -/
def runGather (e : Env) (st : Stage) (t : Nat) : List Wr :=
  let v := e.view st.in0
  let o := e.view st.out
  let f := if v.fmt = 0x24 then stEfmt st else v.fmt
  let w := fmtBits f
  let (oo, oe) := blockIn st o t
  let ix := gatherIdx e st t
  let rows := List.range (min ix.length (nth oe 1 * nth oe 2 * nth oe 3))
  let put := fun (j c : Nat) => addCo oo [c, j % nth oe 1, j / nth oe 1 % nth oe 2, j / (nth oe 1 * nth oe 2)]
  let bad := fun (j : Nat) => match ix[j]? with
    | some (i, p) => p || decide (dim v 1 ≤ i)
    | none => true
  let row := fun (j : Nat) => ((ix[j]?).map fun x => x.1).getD 0
  let scale := fun (j c : Nat) =>
    if v.fmt = 0x24 then rdField (e.mem v.space) (8 * (viewBase e.args v + row j * stride v 1 + dim v 0 * w / 8 + c)) 8
    else e.raw (e.view v.aux) 8 [c, row j, 0, 0]
  let body := rows.flatMap fun j => rawOut e st.out w ((List.range (min (dim v 0) (nth oe 0))).map fun c =>
    if bad j then (put j c, 0, true)
    else
      let (x, p) := rdField (e.mem v.space) (8 * (viewBase e.args v + row j * stride v 1) + c * w) w
      (put j c, x, p || (isMx f && (scale j (c / 32)).2)))
  let scales := if isMx f then rows.flatMap fun j => rawOut e o.aux 8 ((List.range (min (dim v 0) (nth oe 0) / 32)).map fun c =>
      if bad j then (scaleCo (put j (32 * c)), 0, true)
      else
        let (x, p) := scale j c
        (scaleCo (put j (32 * c)), x, p))
    else []
  padBench e st.out w (body ++ scales)

/-- EXPAND (R312 to R314, R321, R339). -/
def runExpand (e : Env) (st : Stage) (t : Nat) : List Wr :=
  let v := e.view st.in0
  let o := e.view st.out
  let f := stEfmt st
  let w := fmtBits f
  let (io, ie) := blockIn st v t
  let (oo, oe) := blockIn st o t
  let ext := [min (nth ie 0) (nth oe 0), min (nth ie 1) (nth oe 1), 1, 1]
  let elts := (coords ext).map fun c => (addCo oo c, sparseElt e st v (nth io 0 + nth c 0) (nth io 1 + nth c 1))
  let all := elts.any fun x => x.2.2.2
  let sv := sparseScale e v
  let cos := ((coords ext).map fun c => (scaleCo (addCo io c), scaleCo (addCo oo c))).eraseDups
  let badScale := fun (c : List Nat) => isMx f && (e.raw sv 8 (scaleCo (addCo io c))).2
  let body := rawOut e st.out w ((elts.zip (coords ext)).map fun x =>
    (x.1.1, x.1.2.1, x.1.2.2.1 || all || badScale x.2))
  let scales := if isMx f then rawOut e o.aux 8 (cos.map fun c =>
      let (x, p) := e.raw sv 8 c.1
      (c.2, x, p || all))
    else []
  padBench e st.out w (body ++ scales)

/-- Does magnitude order put element `a` before `b`: NaN first, larger first, then lower position (R321)? -/
def magBefore (a b : Nat × Fp) : Bool :=
  let mag : Fp → Fp := fun x => match x with
    | .fin _ m e => .fin false m e
    | .inf _ => .inf false
    | .nan => .nan
  let x : Fp := mag a.2
  let y : Fp := mag b.2
  if isNan x || isNan y then (if isNan x && isNan y then decide (a.1 < b.1) else isNan x)
  else if fpLt y x then true else if fpLt x y then false else decide (a.1 < b.1)

/-- PACK (R314, R321, R339). -/
def runPack (e : Env) (st : Stage) (t : Nat) : List Wr :=
  let v := e.view st.in0
  let o := e.view st.out
  let w := fmtBits v.fmt
  let (n, m, iw) := nmOf o.fmt
  let mv := e.view o.aux
  let (io, ie) := blockIn st v t
  let (oo, _) := blockIn st o t
  let groups := (List.range (nth ie 1)).flatMap fun r => (List.range (nth ie 0 / m)).map fun g => (r, g)
  let body := groups.flatMap fun x =>
    let co := fun (k : Nat) => addCo io [x.2 * m + k, x.1, 0, 0]
    let vals := (List.range m).map fun k => (k, e.val v (co k))
    let bad := vals.any fun y => y.2.2
    let ord := vals.map fun y => (y.1, if y.2.2 then Fp.nan else y.2.1)
    let keep := (List.range m).filter fun k =>
      decide ((ord.filter fun y => magBefore y ((ord[k]?).getD (k, .nan))).length < n)
    let g := (nth oo 1 + x.1) * (dim o 0 / m) + nth oo 0 / m + x.2
    (List.range n).flatMap fun j =>
      let k := nth keep j
      [ { view := st.out, at_ := 8 * viewBase e.args o + (g * n + j) * w, w := w, val := (e.raw v w (co k)).1, poison := bad },
        { view := o.aux, at_ := 8 * viewBase e.args mv + (g * n + j) * iw, w := iw, val := k, poison := bad } ]
  let scales := if isMx v.fmt then
      rawOut e mv.aux 8 ((((coords ie).map fun c => (scaleCo (addCo io c), scaleCo (addCo oo c))).eraseDups).map fun c =>
        let (x, p) := e.raw (e.view v.aux) 8 c.1
        (c.2, x, p))
    else []
  -- groups of a bench view beyond the block hold +0 (R317)
  let rest := if o.space ≠ 1 then [] else (List.range (dim o 0 / m * dim o 1)).filter fun g =>
    !groups.any fun x => decide ((nth oo 1 + x.1) * (dim o 0 / m) + nth oo 0 / m + x.2 = g)
  let pads := rest.flatMap fun g => (List.range n).flatMap fun j =>
    [ ({ view := st.out, at_ := 8 * viewBase e.args o + (g * n + j) * w, w := w, val := 0 } : Wr),
      { view := o.aux, at_ := 8 * viewBase e.args mv + (g * n + j) * iw, w := iw, val := j } ]
  body ++ scales ++ pads

/-- CONVERT and SCALE, element by element (R305 to R309, R321, R328). -/
def runElementwise (e : Env) (st : Stage) (t : Nat) : List Wr :=
  let v := e.view st.in0
  let o := e.view st.out
  let (io, ie) := blockIn st v t
  let (oo, oe) := blockIn st o t
  let ext := (List.range 4).map fun k => min (nth ie k) (nth oe k)
  let par := fun (i : Nat) (dflt : Nat) (c : Nat) =>
    if i = 255 then (fp32.decode dflt, false)
    else
      let p := e.view i
      let (po, pe) := blockIn st p t
      -- dimension-0 position of the element: in the block of a view that has one, absolute in a whole view
      e.val p [if nth pe 0 < dim p 0 ∨ v.space = 1 then nth po 0 + c else nth io 0 + c, 0, 0, 0]
  let xs := (coords ext).map fun c =>
    let (x, p) := e.val v (addCo io c)
    let x := x.toF32
    if st.op = 0x04 then (addCo oo c, x, p)
    else
      let (a, pa) := par st.in1 (stParam st 40 4) (nth c 0)
      let (b, pb) := par st.in2 (stParam st 44 4) (nth c 0)
      (addCo oo c, ((x.mul a).add b).toF32, p || pa || pb)
  padBench e st.out (fmtBits o.fmt) (numOut e st.out (stSat st) xs)

/-- A row of a view as values with their poison. -/
def rowVals (e : Env) (v : View) (o : List Nat) (n : Nat) (row : List Nat) : List (Fp × Bool) :=
  (List.range n).map fun k => e.val v (addCo o (k :: row))

/-- DOT and DIST (R321, R333, R335, R336). -/
def runDot (e : Env) (st : Stage) (t : Nat) : List Wr :=
  let a := e.view st.in0
  let b := e.view st.in1
  let o := e.view st.out
  let (ao, ae) := blockIn st a t
  let (bo, be) := blockIn st b t
  let (oo, oe) := blockIn st o t
  let k := min (nth ae 0) (nth be 0)
  let ints := isInt a.fmt && isInt b.fmt && decide (st.op = 0x05)
  let ext := [min (nth be 1) (nth oe 0), min (nth ae 1) (nth oe 1), min (nth ae 2) (nth oe 2), min (nth ae 3) (nth oe 3)]
  let xs := (coords ext).map fun c =>
    let x := rowVals e a ao k (c.drop 1)
    let y := rowVals e b bo k [nth c 0, 0, 0]
    let ps := x.zip y
    let bad := ps.any fun p => p.1.2 || p.2.2
    let prods := ps.map fun p => p.1.1.mul p.2.1
    let s := if st.op = 0x06 then
        if stParam st 40 1 = 0 then blockSum (ps.map fun p =>
          let d := p.1.1.add p.2.1.neg
          d.mul d)
        else (blockSum prods).neg
      else if ints then exactSum prods else blockSum prods
    if st.op = 0x05 ∧ st.in2 ≠ 255 then
      let v := e.view st.in2
      let (po, pe) := blockIn st v t
      let (z, q) := e.val v [if nth pe 0 < dim v 0 then nth po 0 + nth c 0 else nth bo 1 + nth c 0, 0, 0, 0]
      (addCo oo c, if ints then s.add z else (s.add z).toF32, bad || q)
    else (addCo oo c, s, bad)
  padBench e st.out (fmtBits o.fmt) (numOut e st.out (stSat st) xs)

/-- LUT (R321, R334). -/
def runLut (e : Env) (st : Stage) (t : Nat) : List Wr :=
  let v := e.view st.in0
  let tb := e.view st.in1
  let o := e.view st.out
  let four := decide (stParam st 40 1 = 4)
  let m := stParam st 42 2
  let (io, ie) := blockIn st v t
  let (to_, te) := blockIn st tb t
  let (oo, oe) := blockIn st o t
  let ext := [min (nth ie 1) (nth oe 0), min (nth te 2) (nth oe 1), 1, 1]
  let xs := (coords ext).map fun c =>
    let terms := (List.range m).map fun j =>
      let (code, p) := if four then e.raw v 4 (addCo io [0, nth c 0, 0, 0] |>.set 0 (2 * nth io 0 + j))
        else e.raw v 8 (addCo io [j, nth c 0, 0, 0])
      let (x, q) := e.val tb (addCo to_ [code, j, nth c 1, 0])
      (x, p || q)
    (addCo oo c, seqSum (terms.map fun x => x.1), terms.any fun x => x.2)
  padBench e st.out (fmtBits o.fmt) (numOut e st.out (stSat st) xs)

/-- The candidates of one row, or of the whole block (R326). -/
def candsOf (e : Env) (st : Stage) (t : Nat) (row : Option (List Nat)) : List Cand :=
  let v := e.view st.in0
  let (io, ie) := blockIn st v t
  let cs := match row with
    | some r => (List.range (nth ie 0)).map fun k => k :: r
    | none => coords ie
  cs.map fun c =>
    let (x, p) := e.val v (addCo io c)
    let (ix, q) := if v.aux = 255 then (t * stParam st 44 4 + nth c 0, false)
      else
        let av := e.view v.aux
        e.idx av (addCo (blockIn st av t).1 c)
    { score := x, idx := ix % 2 ^ 32, sp := p, ip := q }

/-- TOPK and MERGE (R324 to R326). -/
def runTop (e : Env) (st : Stage) (t : Nat) : List Wr :=
  let k := stParam st 40 2
  let largest := decide (stParam st 42 1 = 1)
  if st.op = 0x09 then listOut e st.out (t * k) (topK largest k (candsOf e st t none))
  else
    let (_, ie) := blockIn st (e.view st.in0) t
    let rows := coords [nth ie 1, nth ie 2, nth ie 3, 1]
    (List.range rows.length).flatMap fun r =>
      listOut e st.out ((t * topRows st (e.view st.in0) + r) * k) (topK largest k (candsOf e st t (some (((rows[r]?).getD []).take 3))))

/-- MAX and MIN of values decoded to FP32 (R327). -/
def maxMin (isMax : Bool) (xs : List Fp) : Fp :=
  if xs.contains Fp.nan then .nan
  else match xs with
    | [] => .fin false 0 0
    | x :: r => r.foldl (fun a b =>
        if (if isMax then fpLt a b else fpLt b a) then b
        else if (if isMax then fpLt b a else fpLt a b) then a
        -- equal: of zeros of both signs MAX is +0 and MIN is −0
        else match a, b with
          | .fin n 0 k, .fin m 0 _ => .fin (if isMax then n && m else n || m) 0 k
          | a, _ => a) x

/-- REDUCE; the reduced axis has extent 1 in OUT (R321, R327, R334). -/
def runReduce (e : Env) (st : Stage) (t : Nat) : List Wr :=
  let v := e.view st.in0
  let o := e.view st.out
  let ax := stParam st 41 1
  let (io, ie) := blockIn st v t
  let (oo, oe) := blockIn st o t
  let ext := ((List.range 4).map fun k => min (nth ie k) (nth oe k)).set ax 1
  let xs := (coords ext).map fun c =>
    let vs := (List.range (nth ie ax)).map fun k =>
      let (x, p) := e.val v (addCo io (c.set ax k))
      (x.toF32, p)
    let r := match stParam st 40 1 with
      | 0 => seqSum (vs.map fun x => x.1)
      | k => maxMin (decide (k = 1)) (vs.map fun x => x.1)
    (addCo oo c, r, vs.any fun x => x.2)
  padBench e st.out (fmtBits o.fmt) (numOut e st.out (stSat st) xs)

/-- ROUTE: the R best experts of each token, and the tiles they mark (R329). -/
def runRoute (e : Env) (st : Stage) (t : Nat) : StageOut :=
  let v := e.view st.in0
  let o := e.view st.out
  let n := stParam st 42 1
  let tpe := stParam st 44 2
  let (io, ie) := blockIn st v t
  let (oo, _) := blockIn st o t
  let (xo, _) := blockIn st (e.view o.aux) t
  let rows := coords [nth ie 1, nth ie 2, nth ie 3, 1]
  let per := rows.map fun r =>
    let cs := (List.range (min (nth ie 0) (stParam st 40 2))).map fun k =>
      let (x, p) := e.val v (addCo io (k :: r.take 3))
      ({ score := x, idx := k, sp := p } : Cand)
    let bad := cs.any fun c => c.sp
    (r.take 3, (topK true n cs).map fun x => (x.1, x.2.1, bad))
  { wrs := per.flatMap fun x => (List.range x.2.length).flatMap fun j =>
      let (sc, ix, p) := (x.2[j]?).getD (0, 0, false)
      rawOut e st.out 32 [(addCo oo (j :: x.1), sc, p)] ++ rawOut e o.aux 32 [(addCo xo (j :: x.1), ix, p)]
    marks := (per.flatMap fun x => x.2.flatMap fun y =>
      if y.2.1 = 0xFFFFFFFF then [] else (List.range tpe).map fun i => y.2.1 * tpe + i).eraseDups }

/-- Run one stage of a tile. -/
def runStage (e : Env) (st : Stage) (t : Nat) : StageOut :=
  match st.op with
  | 0x01 => { wrs := runGather e st t }
  | 0x02 => { wrs := runExpand e st t }
  | 0x03 => { wrs := runPack e st t }
  | 0x04 | 0x0B => { wrs := runElementwise e st t }
  | 0x05 | 0x06 => { wrs := runDot e st t }
  | 0x07 => { wrs := runLut e st t }
  | 0x08 | 0x09 => { wrs := runTop e st t }
  | 0x0A => { wrs := runReduce e st t }
  | 0x0C => runRoute e st t
  | _ => { wrs := copyBlock e st t }

/-! ### What a stage touches (R316, R318, R363) -/

/-- Byte ranges of a block of a dense view. -/
def blockRanges (args : List Nat) (v : View) (w : Nat) (o ext : List Nat) : List (Nat × Nat) :=
  if nth ext 0 = 0 then []
  else (coords [1, nth ext 1, nth ext 2, nth ext 3]).map fun c =>
    let lo := eltAt args v w (addCo o c)
    (lo / 8, (lo + nth ext 0 * w + 7) / 8)

/-- The block of a companion of `k` elements each. -/
def shrinkBlock (b : List Nat × List Nat) (k : Nat) : List Nat × List Nat :=
  let lo := nth b.1 0 / k
  (lo :: b.1.drop 1, (ceilDiv (nth b.1 0 + nth b.2 0) k - lo) :: b.2.drop 1)

/-- One access of a stage: its view, whether it writes, whether it comes first (GATHER indices, sparse directories), ranges. -/
structure Touch where
  view : Nat
  write : Bool
  early : Bool := false
  ranges : List (Nat × Nat)

/-- Ranges of packed values, metadata and scales of a sparse view's block; directory and bitmap come first. -/
def sparseTouch (e : Env) (st : Stage) (i : Nat) (write : Bool) (t : Nat) : List Touch :=
  let v := e.view i
  let mv := e.view v.aux
  let f := if write then (e.view st.in0).fmt else stEfmt st
  let w := fmtBits f
  let (o, ext) := blockIn st v t
  let base := viewBase e.args v
  let mb := viewBase e.args mv
  let scale := if isMx f then
      let b := shrinkBlock (o, ext) 32
      [({ view := mv.aux, write := write, ranges := blockRanges e.args (sparseScale e v) 8 b.1 b.2 } : Touch)]
    else []
  if v.fmt = 0x20 then
    let br := dim v 1 / 16
    let rowLen := ceilDiv (dim v 0 / 16) 8
    let rows := (List.range (ceilDiv (nth o 1 + nth ext 1) 16)).filter fun r => decide (nth o 1 / 16 ≤ r)
    let c0 := nth o 0 / 16
    let c1 := ceilDiv (nth o 0 + nth ext 0) 16
    let vals := rows.flatMap fun r =>
      let (first, present, agrees, _) := bsbRow e v r
      if !agrees then []
      else ((List.range c1).filter fun c => decide (c0 ≤ c) && (present[c]?).getD false).map fun c =>
        let k := first + ((present.take c).filter fun x => x).length
        (base + k * 32 * w, base + (k + 1) * 32 * w)
    [ { view := i, write := write, ranges := vals },
      { view := v.aux, write := write, early := true
        ranges := rows.map (fun r => (mb + 4 * r, mb + 4 * r + 8)) ++
          rows.map fun r => (mb + 4 * (br + 1) + r * rowLen, mb + 4 * (br + 1) + (r + 1) * rowLen) } ] ++ scale
  else
    let (n, m, iw) := nmOf v.fmt
    let spans := (List.range (nth ext 1)).map fun r =>
      let g0 := (nth o 1 + r) * (dim v 0 / m) + nth o 0 / m
      (g0, g0 + ceilDiv (nth ext 0) m)
    [ { view := i, write := write, ranges := spans.map fun g => (base + g.1 * n * w / 8, base + (g.2 * n * w + 7) / 8) },
      { view := v.aux, write := write
        ranges := spans.map fun g => (mb + g.1 * n * iw / 8, mb + (g.2 * n * iw + 7) / 8) } ] ++ scale

/-- Accesses of one view of a stage with its companions. -/
def viewTouch (e : Env) (st : Stage) (t i : Nat) (write early : Bool) : List Touch :=
  let v := e.view i
  if i = 255 then []
  else if isSparse v.fmt then sparseTouch e st i write t
  else if write ∧ (st.op = 0x08 ∨ st.op = 0x09) then
    let k := stParam st 40 2
    let (_, ie) := blockIn st (e.view st.in0) t
    let r := if st.op = 0x09 then 1 else nth ie 1 * nth ie 2 * nth ie 3
    let full := if st.op = 0x09 then 1 else topRows st (e.view st.in0)
    let at_ := fun (j : Nat) => blockRanges e.args (e.view j) 32 [t * full * k, 0, 0, 0] [r * k, 1, 1, 1]
    [{ view := i, write := true, ranges := at_ i }, { view := v.aux, write := true, ranges := at_ v.aux }]
  else if st.op = 0x01 ∧ i = st.in0 ∧ write = false then
    let f := if v.fmt = 0x24 then stEfmt st else v.fmt
    let w := fmtBits f
    let rows := ((gatherIdx e st t).filter fun x => !x.2 && decide (x.1 < dim v 1)).map fun x => x.1
    let len := if v.fmt = 0x24 ∧ isMx f = true then dim v 0 * w / 8 + dim v 0 / 32 else dim v 0 * w / 8
    [{ view := i, write := false, ranges := rows.map fun r =>
        (viewBase e.args v + r * stride v 1, viewBase e.args v + r * stride v 1 + len) }] ++
      (if isMx f ∧ v.fmt ≠ 0x24 then
        [{ view := v.aux, write := false, ranges := rows.flatMap fun r =>
            blockRanges e.args (e.view v.aux) 8 [0, r, 0, 0] [dim v 0 / 32, 1, 1, 1] }]
      else [])
  else
    let b := if st.op = 0x0E ∧ stKeep st = true ∧ write = false then ([0, 0, 0, 0], (List.range 4).map (dim v)) else blockIn st v t
    let main : Touch := { view := i, write := write, early := early, ranges := blockRanges e.args v (fmtBits v.fmt) b.1 b.2 }
    if v.aux = 255 then [main]
    else if isMx v.fmt then
      let c := shrinkBlock b 32
      [main, { view := v.aux, write := write, ranges := blockRanges e.args (e.view v.aux) 8 c.1 c.2 }]
    else
      let c := blockIn st (e.view v.aux) t
      [main, { view := v.aux, write := write, ranges := blockRanges e.args (e.view v.aux) 32 c.1 c.2 }]

/-- The SPACE 0 accesses of a stage: IN0, IN1, IN2, OUT, then companions (R365). `kept` says that a KEEP copy is held. -/
def touches (e : Env) (st : Stage) (t : Nat) (kept : Bool) : List Touch :=
  let gather := decide (st.op = 0x01)
  let all := [ if st.op = 0x0E ∧ stKeep st = true ∧ kept = true then [] else viewTouch e st t st.in0 false false,
    viewTouch e st t st.in1 false gather, viewTouch e st t st.in2 false false, viewTouch e st t st.out true false ]
  ((all.flatMap fun l => l.take 1) ++ all.flatMap fun l => l.drop 1).filter fun x => decide ((e.view x.view).space = 0)

end Sys2Proof.Machine
end

