-- ==== Sys2Proof/Machine/ImageCheck.lean ====
section
/-! DEFINITION. The checks of `LAST_LOAD` (R264 to R271, R303, R304, R310 to R322, R330, R364). -/

namespace Sys2Proof.Machine

/-! ### Views (R268, R303, R304, R310 to R315) -/

/-- A format code of R302 or of the sparse formats. -/
def fmtKnown (f : Nat) : Bool := isNumFmt f || decide (0x20 ≤ f ∧ f ≤ 0x24)

/-- The scale view that an MX view needs (R304). -/
def scaleFits (vs : List View) (v : View) (a : Nat) : Bool :=
  match vs[a]? with
  | some s => decide (s.fmt = 7 ∧ s.rank = v.rank ∧ dim s 0 = dim v 0 / 32 ∧ dim v 0 % 32 = 0) &&
      [1, 2, 3].all fun k => decide (dim s k = dim v k)
  | none => false

/-- A view's own rules; `e` is the 64-byte entry. -/
def viewOk (vs : List View) (e : List Byte) (v : View) : Bool :=
  let raw2 := subNat e 2 1
  decide (subNat e 0 1 < 64) && fmtKnown v.fmt && decide (v.space ≤ 2 ∧ raw2 ≤ 4 ∧ 1 ≤ v.rank ∧ v.rank ≤ 4) &&
    decide (v.base < match v.space with
      | 0 => 2 ^ 57
      | 1 => 524288
      | _ => 2 ^ 40) &&
    ((List.range 4).all fun k => decide (1 ≤ dim v k ∧ (v.rank ≤ k → dim v k = 1))) && decide (subNat e 46 2 = 0) &&
    (if v.space = 2 then decide (v.ep < 2 ^ 18) else decide (v.ep = 0 ∧ v.window = 0)) &&
    (decide (v.aux = 255) || (vs[v.aux]?).isSome) && decide (subNat e 55 1 ≤ 1) && decide (subNat e 56 8 = 0) &&
    (if fmtBits v.fmt = 4 ∧ v.fmt < 0x20 then decide (dim v 0 % 2 = 0) else true) &&
    (if v.fmt = 0x12 then decide (dim v 0 % 4 = 0) else true) &&
    (if isMx v.fmt then scaleFits vs v v.aux else true) &&
    (if isSparse v.fmt then
      decide (v.rank = 2 ∧ v.strides = [0, 0, 0]) && (match vs[v.aux]? with
        | some m => decide (m.fmt = 7 ∧ m.rank = 1)
        | none => false) &&
        (if v.fmt = 0x20 then decide (dim v 0 % 16 = 0 ∧ dim v 1 % 16 = 0) else decide (dim v 0 % (nmOf v.fmt).2.1 = 0))
    else true) &&
    (if v.fmt = 0x24 then decide (v.rank = 2 ∧ stride v 1 % 64 = 0) else true)

/-- An extent of dimension 0 that elements of a format pack into whole bytes and whole MX blocks (R303, R304). -/
def packs (f n : Nat) : Bool :=
  if isMx f then decide (n % 32 = 0) else decide (fmtBits f ≠ 4 ∨ n % 2 = 0)

/-- The companions of a sparse view whose elements have format `f`: in an MX format its metadata view names the scale view of the dense
matrix (R304, R310, R311). -/
def sparseFits (vs : List View) (v : View) (f : Nat) : Bool :=
  packs f (dim v 0) && (!isMx f || (vs[v.aux]?).any fun m => scaleFits vs v m.aux)

/-- An index view: FORMAT 0x00 (R319). -/
def isIndex (vs : List View) (i : Nat) : Bool := (vs[i]?).any fun v => decide (v.fmt = 0)

/-- The index output of TOPK and MERGE: RANK 1 and as long as OUT (R319, R326). -/
def listFits (vs : List View) (o : View) : Bool :=
  decide (o.fmt = 0 ∧ o.rank = 1) && (vs[o.aux]?).any fun x => decide (x.fmt = 0 ∧ x.rank = 1 ∧ dim x 0 = dim o 0)

/-! ### Stages (R265, R266, R316, R320 to R322, R330, R364) -/

def usesView (i : Nat) : Bool := decide (i ≠ 255)

/-- The views an operator takes: IN0, IN1, IN2, OUT; 2 means optional. -/
def viewRoles (op : Nat) : List Nat :=
  match op with
  | 0x01 => [1, 1, 0, 1]
  | 0x05 => [1, 1, 2, 1]
  | 0x06 | 0x07 => [1, 1, 0, 1]
  | 0x0B => [1, 2, 2, 1]
  | _ => [1, 0, 0, 1]

/-- Is a view's grid one that R316 allows? -/
def gridOk (st : Stage) (v : View) : Bool := decide (v.space = 1 ∨ gridSize st v = st.tiles ∨ gridSize st v = 1)

/-- Does an operator read sparse or EMB elements, so that EFMT counts (R310, R320)? -/
def readsEfmt (st : Stage) (v0 : View) : Bool := st.op = 0x02 || (st.op = 0x01 && v0.fmt = 0x24)

/-- The rule of each operator on formats, ranks and parameters (R321). -/
def operatorOk (vs : List View) (sts : List Stage) (i : Nat) (st : Stage) : Bool :=
  let v := fun (k : Nat) => (vs[k]?).getD noView
  let a := v st.in0
  let b := v st.in1
  let o := v st.out
  let k2 := stParam st 40 2
  let dense := fun (x : View) => isNumFmt x.fmt
  match st.op with
  | 0x01 => decide (a.rank = 2 ∧ b.fmt = 0 ∧ b.space ≠ 1) &&
      (if a.fmt = 0x24 then decide (o.fmt = stEfmt st) &&
          (let row := dim a 0 * fmtBits (stEfmt st) / 8 + if isMx (stEfmt st) then dim a 0 / 32 else 0
           decide (row ≤ stride a 1)) && packs (stEfmt st) (dim a 0)
        else dense a && decide (o.fmt = a.fmt))
  | 0x02 => isSparse a.fmt && decide (o.fmt = stEfmt st) && sparseFits vs a (stEfmt st)
  | 0x03 => dense a && decide (0x21 ≤ o.fmt ∧ o.fmt ≤ 0x23) && sparseFits vs o a.fmt
  | 0x04 => dense a && dense o
  | 0x05 => dense a && dense b && dense o && decide (a.fmt ≠ 0 ∧ b.fmt ≠ 0 ∧ dim a 0 = dim b 0) && (isInt a.fmt == isInt b.fmt) &&
      (!isInt a.fmt || decide (dim a 0 ≤ 65536)) && (!usesView st.in2 || decide ((v st.in2).fmt = 0))
  | 0x06 => dense a && dense b && dense o && decide (a.fmt ≠ 0 ∧ b.fmt ≠ 0 ∧ dim a 0 = dim b 0 ∧ stParam st 40 1 ≤ 1)
  | 0x07 => decide (a.fmt = 7 ∧ (b.fmt = 0 ∨ b.fmt = 2) ∧ o.fmt = 0 ∧ (stParam st 40 1 = 8 ∨ stParam st 40 1 = 4)) &&
      inRange (stParam st 42 2) 1 256 && decide (dim b 0 = 2 ^ stParam st 40 1 ∧ dim b 1 = stParam st 42 2)
  | 0x08 => decide (a.fmt = 0 ∧ stParam st 42 1 ≤ 1) && inRange k2 1 1024 && listFits vs o &&
      (decide (a.aux = 255) || isIndex vs a.aux) && decide (dim o 0 = st.tiles * topRows st a * k2)
  | 0x09 => decide (a.fmt = 0 ∧ stParam st 42 1 ≤ 1 ∧ dim o 0 = st.tiles * k2) && inRange k2 1 1024 && listFits vs o &&
      isIndex vs a.aux
  | 0x0A => dense a && dense o && decide (stParam st 40 1 ≤ 2 ∧ stParam st 41 1 ≤ 3)
  | 0x0B => dense a && dense o && (!usesView st.in1 || decide (b.fmt = 0)) && (!usesView st.in2 || decide ((v st.in2).fmt = 0))
  | 0x0C =>
    let e := k2
    let tpe := stParam st 44 2
    let target := stParam st 46 1
    decide (a.fmt = 0 ∧ o.fmt = 0 ∧ dim a 0 = e ∧ e * tpe ≤ 65536 ∧ i < target) && inRange e 1 4096 &&
      inRange (stParam st 42 1) 1 16 && inRange tpe 1 4096 && isIndex vs o.aux &&
      (match sts[target]? with
        | some x => x.cond && !x.fuse && decide (x.tiles = e * tpe)
        | none => false) &&
      (sts.filter fun x => decide (x.op = 0x0C ∧ stParam x 46 1 = target)).length == 1 &&
      (decide (stParam st 47 1 = 255) || (vs[stParam st 47 1]?).isSome)
  | 0x0D => dense a && decide (a.space = 1 ∧ o.space ≠ 1 ∧ a.fmt = o.fmt) && decide (blockShape st a = blockShape st o)
  | 0x0E => dense a && decide (a.space = 0 ∧ o.space = 1 ∧ a.fmt = o.fmt) &&
      decide ((if stKeep st then (List.range 4).map (dim a) else blockShape st a) = (List.range 4).map (dim o))
  | _ => false

/-- Operator bytes that R321 leaves reserved, by offset and length. -/
def reservedParams (op : Nat) : List (Nat × Nat) :=
  match op with
  | 0x06 => [(41, 23)]
  | 0x07 => [(41, 1), (44, 20)]
  | 0x08 => [(43, 1), (48, 16)]
  | 0x09 => [(43, 21)]
  | 0x0A => [(42, 22)]
  | 0x0B => [(48, 16)]
  | 0x0C => [(43, 1), (48, 16)]
  | _ => [(40, 24)]

/-- A stage's own rules; `e` is the 64-byte entry. -/
def stageOk (vs : List View) (sts : List Stage) (bench i : Nat) (e : List Byte) (st : Stage) : Bool :=
  let ins := [st.in0, st.in1, st.in2, st.out]
  let v := fun (k : Nat) => (vs[k]?).getD noView
  inRange st.op 1 14 && decide (subNat e 1 1 < 4 ∧ subNat e 2 2 = 0 ∧ subNat e 17 3 = 0) && inRange st.tiles 1 (2 ^ 24) &&
    inRange st.ns 1 (10 ^ 7) && (st.shape.all fun x => decide (1 ≤ x)) && decide (st.benchOff + st.benchLen ≤ bench) &&
    (ins.all fun k => decide (k = 255) || decide (k < vs.length)) &&
    ((viewRoles st.op).zip ins).all (fun x => match x.1 with
      | 0 => decide (x.2 = 255)
      | 1 => decide (x.2 ≠ 255)
      | _ => true) &&
    decide (subNat st.params 1 1 < 4 ∧ subNat st.params 2 2 = 0) && (!stKeep st || decide (st.op = 0x0E)) &&
    ((reservedParams st.op).all fun r => decide (stParam st r.1 r.2 = 0)) &&
    (if readsEfmt st (v st.in0) then isNumFmt (stEfmt st) && decide (stEfmt st ≠ 0) else decide (stEfmt st = 0)) &&
    (v st.out).write && (decide ((v st.out).space ≠ 2) || decide (st.op = 0x0D)) &&
    (ins.all fun k => !usesView k || decide ((v k).fmt ≠ 0x24) || decide (st.op = 0x01 ∧ k = st.in0)) &&
    (decide (st.op = 0x01) || (stKeep st) || gridOk st (v st.in0)) && (!usesView st.in1 || gridOk st (v st.in1)) &&
    (!usesView st.in2 || gridOk st (v st.in2)) && (decide (st.op = 0x08 ∨ st.op = 0x09) || gridOk st (v st.out)) &&
    operatorOk vs sts i st

/-- Chains: same TILES throughout, COND only on the first stage of a chain other than 0, SELECT views of R269. -/
def chainOk (vs : List View) (sts : List Stage) : Bool :=
  let first := (sts[0]?).all fun s => !s.fuse
  let cs := chainsOf sts
  first && (cs.all fun c => (c.drop 1).all fun i => match sts[i]?, c.head?.bind fun h => sts[h]? with
    | some s, some h => decide (s.tiles = h.tiles) && !s.cond
    | _, _ => false) && ((sts[0]?).all fun s => !s.cond) &&
    sts.all fun s => if s.cond then (match vs[s.sel]? with
        | some v => decide (v.space = 0 ∧ v.rank = 1 ∧ v.fmt = 0 ∧ dim v 0 = 1 + s.tiles)
        | none => false)
      else decide (s.sel = 255)

/-- WRITE is set exactly on the views that the last writes: outputs, their companions, SELECT views that a ROUTE stage
targets. -/
def writesOk (vs : List View) (sts : List Stage) : Bool :=
  let outs := (sts.map fun s => s.out) ++
    (sts.filter fun s => decide (s.op = 0x0C)).filterMap fun s => (sts[stParam s 46 1]?).map fun x => x.sel
  let comps := outs.flatMap fun i => match vs[i]? with
    | some v => v.aux :: (match vs[v.aux]? with
      | some m => [m.aux]
      | none => [])
    | none => []
  (List.range vs.length).all fun i => match vs[i]? with
    | some v => if v.write then outs.contains i || comps.contains i else !outs.contains i && !comps.contains i
    | none => true

/-! ### Claims and the whole image (R264, R270, R271) -/

def claimOk (sts : List Stage) (e : List Byte) (c : Claim) : Bool :=
  let cs := chainsOf sts
  (decide (c.res < 0x20) || inRange c.res 0x22 0x31) && (decide (c.svc = 2) || (decide (c.svc = 3) && inRange c.res 0x18 0x1F)) &&
    (cs.any fun x => decide (x.head? = some c.first)) && (cs.any fun x => decide (x.getLast? = some c.last)) &&
    decide (c.first ≤ c.last) && inRange c.rate 1 118000 && decide (subNat e 8 8 = 0)

/-- Do two claims name the same resource and service over an overlapping stage range? -/
def claimsClash (a b : Claim) : Bool := decide (a.res = b.res ∧ a.svc = b.svc ∧ a.first ≤ b.last ∧ b.first ≤ a.last)

/-- Every gallery of the mask has one S2 claim that covers every stage (R271). -/
def galleriesClaimed (b : List Byte) : Bool :=
  (imgGals b).all fun g => (imgClaims b).any fun c =>
    decide (c.res = 0x22 + g ∧ c.svc = 2 ∧ c.first = 0 ∧ hdrStages b ≤ c.last + 1)

/-- The checks of R271 on an image. -/
def imageOk (b : List Byte) : Bool :=
  let sts := imgStages b
  let vs := imgViews b
  let cl := imgClaims b
  let bench := hdrBench b
  let len := 256 + 64 * hdrStages b + 64 * hdrViews b + 16 * hdrClaims b
  let vAt := 256 + 64 * hdrStages b
  let cAt := vAt + 64 * hdrViews b
  decide (subNat b 0 4 = 0x54534C4B ∧ subNat b 4 1 = 1 ∧ subNat b 5 3 = 0 ∧ subNat b 8 4 = len ∧ b.length = len) &&
    inRange (hdrStages b) 1 64 && inRange (hdrViews b) 1 128 && inRange (hdrClaims b) 1 64 && inRange (hdrCpg b) 1 8 &&
    decide (hdrMask b ≠ 0 ∧ subNat b 18 2 = 0 ∧ bench % 4096 = 0) && inRange bench 4096 524288 &&
    decide (subNat b 64 128 = 0 ∧ subNat b 240 16 = 0) &&
    decide (sub b 192 48 = Config.sha384 (b.take 192 ++ List.replicate 48 0 ++ b.drop 240)) &&
    ((List.range vs.length).all fun i => viewOk vs (sub b (vAt + 64 * i) 64) ((vs[i]?).getD noView)) &&
    ((List.range sts.length).all fun i => (sts[i]?).any fun st => stageOk vs sts bench i (sub b (256 + 64 * i) 64) st) &&
    chainOk vs sts && writesOk vs sts &&
    ((List.range cl.length).all fun i => (cl[i]?).any fun c => claimOk sts (sub b (cAt + 16 * i) 16) c &&
      (cl.take i).all fun d => !claimsClash c d) &&
    galleriesClaimed b

end Sys2Proof.Machine
end

