-- ==== Sys2Proof/Machine/QueueOps.lean ====
section
/-! DEFINITION. Work queues: rings and their accesses (R343 to R349), completion records (R353, R354), fault records (R366,
R367), and the translation tables (R355, R357, R361, R365). -/

namespace Sys2Proof.Machine

/-! ### Rings (R343 to R348) -/

def modQueue (s : State) (qid : Nat) (f : Queue → Queue) : State :=
  { s with eng := { s.eng with queues := s.eng.queues.modify qid f } }
def modCtx (s : State) (c : Nat) (f : Ctx → Ctx) : State :=
  { s with eng := { s.eng with ctxs := s.eng.ctxs.modify c f } }
def modLast (s : State) (lid : Nat) (f : Last → Last) : State :=
  { s with eng := { s.eng with lasts := s.eng.lasts.modify lid f } }

/-- Rings: 0 SQ, 1 CQ, 2 FQ. -/
def ringBase (q : Queue) (ring : Nat) : Nat := if ring = 0 then q.sqBase else if ring = 1 then q.cqBase else q.fqBase
def ringLog (q : Queue) (ring : Nat) : Nat := if ring = 0 then q.sqLog else if ring = 1 then q.cqLog else q.fqLog
/-- Range of a ring counter (R346). -/
def ringMod (ring : Nat) : Nat := if ring = 2 then 1024 else 65536

/-- Offset in the ring hall of the slot a counter names (R346). -/
def slotOff (q : Queue) (ring c : Nat) : Nat := 4096 * ringBase q ring + c % 2 ^ ringLog q ring * 64

/-- PHASE of a record at a counter (R354, R366). -/
def phaseOf (q : Queue) (ring c : Nat) : Nat := 1 - c / 2 ^ ringLog q ring % 2

/-- Ring accesses outstanding on one ring. -/
def ringBusy (q : Queue) (ring : Nat) : Nat := (q.acc.filter fun a => a.ring = ring).length

/-- A request of OWNER in RING_HALL for a ring slot: `RD_NA` for the SQ, `WR_FULL` for a record (R347). -/
def issueRing (s : State) (qid ring c : Nat) (data : Option (List Byte)) : State :=
  match s.eng.queues.get? qid with
  | none => s
  | some q =>
    let off := slotOff q ring c
    let r : Req :=
      { kind := if data.isSome then .wrFull else .rdNa
        ep := q.owner, org := .ring qid q.nextAcc, hall := q.ringHall, line := 0, offset := off
        d := { data := bytesLine (data.getD []) } }
    let s := modQueue s qid fun q => { q with
      nextAcc := q.nextAcc + 1
      acc := q.acc ++ [{ idx := q.nextAcc, ring := ring, slot := c, data := data.getD [], sqIdx := c }] }
    if passes s r.kind q.ringHall off q.owner none then enqueue s r else completeCode s r .denied

/-- A notice to a queue's OWNER (R353). -/
def notice (s : State) (q : Queue) (m : Nat → Emit) : State := sendMgt s q.owner m

/-- CQ slots used, and reserved by fetched descriptors and records to write (R349). -/
def cqUsed (q : Queue) : Nat := (q.cqTail + 65536 - q.cqHead) % 65536 + q.descs.length + q.held.length

/-- Write the next completion record, one at a time; in ERROR they are held (R348, R354). -/
def writeNext (s : State) (qid : Nat) : State :=
  match s.eng.queues.get? qid with
  | none => s
  | some q => match q.held with
    | [] => s
    | (b, _) :: _ =>
      if q.failed ∨ ringBusy q 1 ≠ 0 then s
      else
        let flags := (subNat b 2 1) / 2 * 2 + phaseOf q 1 q.cqTail
        issueRing s qid 1 q.cqTail (some (b.take 2 ++ leBytes 1 flags ++ b.drop 3))

/-- A queue being destroyed is free once its lasts are gone and their records written, unless it is in ERROR (R372). -/
def settleDestroy (s : State) (qid : Nat) : State :=
  match s.eng.queues.get? qid with
  | none => s
  | some q =>
    if q.ending && !(s.eng.lasts.any fun e => e.2.qid = qid) && (q.failed || (q.held.isEmpty && decide (ringBusy q 1 = 0))) then
      let s := { s with eng := { s.eng with queues := s.eng.queues.erase qid } }
      match q.destroyBy with
      | some w => finishCmd s w stOk 0 []
      | none => s
    else s

/-- A descriptor completes with a record; a window may wait for it. -/
def completeDesc (s : State) (qid idx : Nat) (body : List Byte) (w : Option Nat) : State :=
  settleDestroy (writeNext (modQueue s qid fun q => { q with
    descs := q.descs.filter fun d => d.idx ≠ idx
    held := q.held ++ [(body, w)] }) qid) qid

/-- The record of a descriptor other than an admitted start (R354). -/
def plainRecord (s : State) (qid : Nat) (q : Queue) (d : Desc) (status digest ended : Nat) : List Byte :=
  let op := subNat d.bytes 0 1
  let tseq := if op = 0x01 then 0 else (s.eng.ctxs.get? q.ctx).elim 0 fun c => c.tseq
  let handle := if op = 0x01 then subNat d.bytes 8 2 else 0
  leBytes 64 (packBits [ (8, op), (8, status), (16, 0), (32, d.dtag), (16, qid), (16, d.idx), (16, handle), (8, 0xFF), (8, 0),
    (32, 0xFFFFFFFF), (32, tseq), (64, digest), (64, s.now), (64, 0), (32, ended) ])

/-- Complete a descriptor with a status. -/
def endDesc (s : State) (qid : Nat) (d : Desc) (status : Nat) (digest : Nat := 0) (ended : Nat := 0) : State :=
  match s.eng.queues.get? qid with
  | some q => completeDesc s qid d.idx (plainRecord s qid q d status digest ended) none
  | none => s

/-- The next descriptor in ring order not yet presented. -/
def nextDesc (q : Queue) : Option Desc := q.descs.find? fun d => !d.running

/-- A descriptor with a reserved opcode or a non-zero reserved field (R10, R350). -/
def descBad (b : List Byte) : Bool :=
  let z := fun (lo hi : Nat) => subNat b lo (hi - lo) = 0
  let common := decide (subNat b 1 1 < 2) && z 2 4
  !common || !(match subNat b 0 1 with
    | 0x01 => decide (subNat b 8 2 < 1024) && z 10 16 && z 56 64
    | 0x10 => decide (subNat b 28 1 < 4) && decide (subNat b 29 1 < 2) && z 30 64
    | 0x11 | 0x12 => z 24 64
    | 0x13 => decide (subNat b 12 1 < 2) && z 13 64
    | _ => false)

/-- A table descriptor: MAP, UNMAP, SYNC. -/
def isTable (b : List Byte) : Bool := [0x10, 0x11, 0x12].contains (subNat b 0 1)

def isFence (b : List Byte) : Bool := (subNat b 1 1).testBit 0

/-- The queue is the control queue of its context. -/
def isCtl (s : State) (qid : Nat) (q : Queue) : Bool := (s.eng.ctxs.get? q.ctx).any fun c => c.ctlQueue = qid

/-- May a descriptor be presented: its read has come, and with FENCE every earlier one has completed (R350)? -/
def presentable (q : Queue) (d : Desc) : Bool :=
  d.ready && (!isFence d.bytes || (decide (q.descs.head?.map (fun x => x.idx) = some d.idx) && q.held.isEmpty))

/-- The queue waits behind its context's drain (R371). -/
def behindDrain (s : State) (q : Queue) (d : Desc) : Bool :=
  isTable d.bytes && (s.eng.ctxs.get? q.ctx).any fun c => c.drain.isSome

/-- Descriptors that no row runs complete when their turn comes: a reserved form, a table descriptor on another queue than
the control queue (R350). -/
def settleDescs (s : State) (qid : Nat) : Nat → State
  | 0 => s
  | fuel + 1 => match s.eng.queues.get? qid with
    | none => s
    | some q => match nextDesc q with
      | none => s
      | some d =>
        if !presentable q d then s
        else if descBad d.bytes then settleDescs (endDesc s qid d stBadArg) qid fuel
        else if isTable d.bytes && !isCtl s qid q then settleDescs (endDesc s qid d stDenied) qid fuel
        else s

def settleQueue (s : State) (qid : Nat) : State :=
  settleDescs s qid (((s.eng.queues.get? qid).map fun q => q.descs.length).getD 0)

/-- The descriptor a row presents: the next one in ring order, or a start that passes table descriptors waiting behind a drain
(R272, R371). -/
def presented (s : State) (qid op : Nat) : Option (Queue × Desc) :=
  match s.eng.queues.get? qid with
  | none => none
  | some q =>
    let d := if op = 0x01 then
        match (q.descs.filter fun d => !d.running).find? (fun d => !(d.ready && !descBad d.bytes && behindDrain s q d)) with
        | some d => if nextDesc q = some d ∨ isFence d.bytes = false then some d else none
        | none => none
      else nextDesc q
    match d with
    | some d => if presentable q d && !descBad d.bytes && decide (subNat d.bytes 0 1 = op) then some (q, d) else none
    | none => none

/-! ### Translation tables (R355, R357) -/

/-- 4 KiB pages a leaf of each size code covers. -/
def leafPages (sz : Nat) : Nat := if sz = 0 then 1 else if sz = 1 then 16 else if sz = 2 then 512 else 262144

/-- The leaf that covers a 4 KiB page of virtual address, with its first page. -/
def leafAt (c : Ctx) (p : Nat) : Option (Nat × Leaf) :=
  [0, 1, 2, 3].findSome? fun sz =>
    let b := p / leafPages sz * leafPages sz
    match c.leaves.get? b with
    | some l => if l.size = sz then some (b, l) else none
    | none => none

/-- The PPA page of a VA page under its leaf. -/
def leafPpa (b : Nat) (l : Leaf) (p : Nat) : Nat := l.ppa / 4096 + (p - b)

/-- 4 KiB table pages in use by a set of leaves (R355): those of levels 2, 1 and 0, and the level-3 table. -/
def tablePages (c : Ctx) : Nat :=
  if c.leaves.isEmpty then 0
  else
    let keys := fun (sz shift : Nat) => (c.leaves.filter fun e => e.2.size ≤ sz).map fun e => e.1 / 2 ^ shift
    ceilDiv (2 ^ (c.vaBits - 39) * 8) 4096 + (keys 3 27).eraseDups.length + (keys 2 18).eraseDups.length +
      (keys 1 9).eraseDups.length

/-- Table pages of all contexts (R355). -/
def allTablePages (s : State) : Nat := sumNat (s.eng.ctxs.map fun e => tablePages e.2)

/-- The fault of a page in a translation phase, if any (R365). -/
def pageFault (s : State) (c : Ctx) (p : Nat) (write : Bool) : Option Nat :=
  if 2 ^ c.vaBits ≤ 4096 * p then some 4
  else match leafAt c p with
    | none => some 1
    | some (b, l) =>
      if write && !l.w then some 2
      else if (hallAt s (4096 * leafPpa b l p)).isNone then some 3
      else none

/-- A gallery caches the leaf of a page it translated, 16,384 entries at most (R361). -/
def cachePage (s : State) (g cid p : Nat) : State :=
  match s.eng.ctxs.get? cid with
  | none => s
  | some c => match leafAt c p with
    | none => s
    | some (b, l) =>
      let x : Gallery := s.eng.gals.getD g {}
      if x.cache.any fun e => decide (e.1 = cid ∧ e.2.1 = b) then s
      else
        let kept := if x.cache.length < 16384 then x.cache else x.cache.drop 1
        { s with eng := { s.eng with gals := s.eng.gals.set g { x with cache := kept ++ [(cid, b, l)] } } }

/-- Every gallery drops its cached entries of a context that overlap a range of pages (R369). -/
def dropCached (s : State) (cid lo hi : Nat) : State :=
  { s with eng := { s.eng with gals := s.eng.gals.map fun e => (e.1,
    { e.2 with
      cache := e.2.cache.filter fun x => ¬(x.1 = cid ∧ x.2.1 < hi ∧ lo < x.2.1 + leafPages x.2.2.size) }) } }

/-- 4 KiB pages of byte ranges, rising. -/
def rangePages (rs : List (Nat × Nat)) : List Nat :=
  sortBy id ((rs.flatMap fun r => if r.2 ≤ r.1 then [] else
    (List.range ((r.2 - 1) / 4096 + 1 - r.1 / 4096)).map fun i => r.1 / 4096 + i).eraseDups)

/-! ### Fault records (R366, R367) -/

/-- A faulted position takes a record: it attaches to an open one of the same last, KIND and VA, posts a new one, or waits for
a slot of the FQ (R366, R367). -/
def postFault (s : State) (lid pos kind page access stage view tile time tmo : Nat) : State :=
  match s.eng.lasts.get? lid with
  | none => s
  | some l => match s.eng.queues.get? l.qid with
    | none => s
    | some q =>
      let same := fun (f : FaultRec) => decide (f.lid = lid ∧ f.kind = kind ∧ f.va = 4096 * page)
      if q.open_.any same then
        modQueue s l.qid fun q => { q with
          open_ := q.open_.map fun f => if same f then { f with positions := f.positions ++ [pos] } else f }
      else
        let c := (q.fqTail + ringBusy q 2) % 1024
        if q.failed ∨ 2 ^ q.fqLog ≤ (c + 1024 - q.fqHead) % 1024 then s
        else
          let fseq := q.fseq + 1
          let body := leBytes 64 (packBits [ (8, kind + 128 * phaseOf q 2 c), (8, access), (8, stage), (8, view), (32, tile),
            (64, 4096 * page), (32, fseq), (16, l.handle), (16, l.sqIdx), (16, l.ctx), (48, 0), (64, time) ])
          let f : FaultRec :=
            { fseq := fseq, kind := kind, va := 4096 * page, lid := lid, time := time, tmo := tmo, positions := [pos] }
          let s := modQueue s l.qid fun q => { q with
            fseq := fseq
            faults := satAdd 32 q.faults 1
            open_ := q.open_ ++ [f] }
          let s := modCtx (modLast s lid fun l => { l with faults := l.faults + 1 }) l.ctx fun c =>
            { c with faults := satAdd 32 c.faults 1 }
          issueRing s l.qid 2 c (some body)

/-- Is a faulted position attached to an open record? -/
def attached (s : State) (l : Last) (lid pos : Nat) : Bool :=
  (s.eng.queues.get? l.qid).any fun q => q.open_.any fun f => f.lid = lid && f.positions.contains pos

end Sys2Proof.Machine
end

