-- ==== Sys2Proof/Machine/LastOps.lean ====
section
/-! DEFINITION. Running lasts: cores and spares (R13, R258, R295), execution sequences (R278, R590), translation phases (R363,
R365), the output of a position (R287 to R292, R330, R331, R338, R591), chains (R267, R284, R285), how a last ends (R293). -/

namespace Sys2Proof.Machine

/-! ### Cores (R13, R258, R259, R588) -/

def coreAt (s : State) (p : Nat) : CoreSt := s.eng.cores.getD p {}
def setCore (s : State) (p : Nat) (c : CoreSt) : State :=
  { s with eng := { s.eng with cores := s.eng.cores.put p c {} } }

/-- The fence entry of an awl core. -/
def coreFence (s : State) (p : Nat) : Option Fenced := s.fence.list.find? fun f => !f.slice && decide (f.unit = p)

/-- The spare of a core's gallery pair (R13); a spare has none. -/
def spareOf (p : Nat) : Option Nat := if p < 128 then some (128 + p / 16) else none

/-- The spare stands in for a fenced core of its pair (R13, R588). -/
def spareInUse (s : State) (sp : Nat) : Bool :=
  s.fence.list.any fun f => !f.slice && decide (f.st = 2) && decide (spareOf f.unit = some sp)

/-- A core that nothing holds and no clear keeps. -/
def coreIdle (s : State) (p : Nat) : Bool :=
  let c := coreAt s p
  c.holder.isNone && c.clearing.isNone && (coreFence s p).isNone

/-- A spare ready to take a core's place or a third run. -/
def spareFree (s : State) (sp : Nat) : Bool := coreIdle s sp && !spareInUse s sp

/-- The physical cores a gallery works with, in slot order (R588). -/
def galleryCores (s : State) (g : Nat) : List Nat :=
  (List.range 8).filterMap fun k =>
    let p := 8 * g + k
    match coreFence s p with
    | none => some p
    | some f => if f.st = 2 then spareOf p else none

def freeCores (s : State) (g : Nat) : List Nat := (galleryCores s g).filter (coreIdle s)

/-- Release a core: its bench is cleared before it is assigned again (R259). -/
def releaseCore (s : State) (p : Nat) : State :=
  setCore s p { coreAt s p with holder := none, clearing := some s.now, kept := [] }

/-! ### Reading a last -/

def lastImage (s : State) (l : Last) : List Byte := ((s.eng.loaded.get? l.handle).map fun x => x.image).getD []

/-- Gallery of a logical core (R277). -/
def coreGallery (img : List Byte) (c : Nat) : Nat := nth (imgGals img) (c / max 1 (hdrCpg img))

/-- Stage numbers of the last's current chain. -/
def chainStages (img : List Byte) (c : Nat) : List Nat := ((chainsOf (imgStages img))[c]?).getD []

def stageOf (img : List Byte) (i : Nat) : Stage := stageAt img i

/-- The first stage of a chain. -/
def headStage (img : List Byte) (c : Nat) : Nat := ((chainStages img c).head?).getD 0

/-- Positions of the read of a SELECT view and of the write of one (R284, R330): the model's numbers for them. -/
def selRead : Nat := 4294967295
def selWrite : Nat := 4294967294
def noTile : Nat := 0xFFFFFFFF

/-- The execution sequence of a chain: each shadowed tile's copy follows it (R278, R590). -/
def sequenceOf (shadow c : Nat) (tiles : List Nat) : List (Nat × Bool) :=
  match shadowD shadow with
  | none => tiles.map fun t => (t, false)
  | some d =>
    (List.range tiles.length).flatMap fun j =>
      let t := nth tiles j
      if j % d = c * (d / 2) % d then [(t, false), (t, true)] else [(t, false)]

/-- Key of a position across chains. -/
def posKey (l : Last) (q : Nat) : Nat := 2 ^ 32 * l.chain + q

/-- A position has not ended, or a transfer it issued has not completed (R370). -/
def posBusy (l : Last) (key : Nat) : Bool :=
  (l.pushes.any fun x => x.1 = key) ||
    (decide (key / 2 ^ 32 = l.chain) &&
      (let q := key % 2 ^ 32
       (l.running.any fun p => p.pos = q) || (l.reqs.any fun r => r.pos = q) ||
         l.held.any fun h => (l.seq[q]?).any fun x => x.1 = h.tile))

def findPos (l : Last) (q : Nat) : Option Pos := l.running.find? fun p => p.pos = q
def modPos (s : State) (lid q : Nat) (f : Pos → Pos) : State :=
  modLast s lid fun l => { l with running := l.running.map fun p => if p.pos = q then f p else p }
def dropPos (s : State) (lid q : Nat) : State :=
  modLast s lid fun l => { l with running := l.running.filter fun p => p.pos ≠ q }

/-- Physical core of a logical core. -/
def physCore (l : Last) (c : Nat) : Nat := nth l.cores c

/-! ### What a position reads (R338, R363) -/

/-- A byte of pool memory as a position sees it: from the lines it has read; a byte outside them is poison (log 31). -/
def poolByte (p : Pos) (a : Nat) : Byte × Bool :=
  match p.trans.find? fun e => e.1 = a / 4096 with
  | none => (0, true)
  | some e =>
    let x := 4096 * e.2 + a % 4096
    match p.reads.get? (x / 64) with
    | none => (0, true)
    | some d => ((d.data >>> (8 * (x % 64))).setWidth 8, d.poison.getLsbD (x % 64 / 16))

def posEnv (img : List Byte) (l : Last) (p : Pos) (bench : List Host.Cell) (poison : List Nat) : Env :=
  { views := imgViews img, args := l.args
    mem := fun sp a =>
      if sp = 0 then poolByte p a else if sp = 1 then (NMap.getD bench a 0, poison.contains (a / 16))
      else (Config.windowByte a, false) }

/-- The SELECT views that the ROUTE stages of a chain write: target stage and view (R330). -/
def routeTargets (img : List Byte) (c : Nat) : List (Nat × Nat) :=
  (chainStages img c).filterMap fun i =>
    let st := stageOf img i
    if st.op = 0x0C then
      let t := stParam st 46 1
      some (t, (stageOf img t).sel)
    else none

/-- Marked tiles of a target, rising. -/
def marksOf (l : Last) (target : Nat) : List Nat := sortBy id ((l.marks.filter fun m => m.1 = target).map fun m => m.2)

/-- The bench a position starts on: what the chain's KEEP stages left there; beyond that every byte reads as zero (R280, R317, R332). -/
def startBench (img : List Byte) (c : CoreSt) : List Host.Cell × List Nat :=
  let sts := c.kept.map (stageOf img)
  let in_ := fun (a : Nat) => sts.any fun st => decide (st.benchOff ≤ a ∧ a < st.benchOff + st.benchLen)
  (c.bench.filter fun e => in_ e.1, c.poison.filter fun g => in_ (16 * g))

/-- Every access of a position in the order of R365: stage, view, write, early, ranges. -/
def posTouches (s : State) (img : List Byte) (l : Last) (p : Pos) : List (Nat × Touch) :=
  if p.pos = selRead then
    let i := headStage img l.chain
    let st := stageOf img i
    let v := viewAt img st.sel
    let b := viewBase l.args v
    [(i, { view := st.sel, write := false, ranges := [(b, b + 4 * dim v 0)] })]
  else if p.pos = selWrite then
    (routeTargets img l.chain).map fun x =>
      let b := viewBase l.args (viewAt img x.2)
      (x.1, { view := x.2, write := true, ranges := [(b, b + 4 * (1 + (marksOf l x.1).length))] })
  else
    let c := coreAt s (physCore l p.core)
    let e := posEnv img l p (startBench img c).1 (startBench img c).2
    (chainStages img l.chain).flatMap fun i => (touches e (stageOf img i) p.tile (c.kept.contains i)).map fun t => (i, t)

/-- Pool lines of VA ranges under a position's translations. -/
def rangeLines (p : Pos) (rs : List (Nat × Nat)) : List Nat :=
  (rs.flatMap fun r => if r.2 ≤ r.1 then [] else
    (List.range ((r.2 - 1) / 64 + 1 - r.1 / 64)).filterMap fun i =>
      let a := (r.1 / 64 + i) * 64
      (p.trans.find? fun e => e.1 = a / 4096).map fun e => (4096 * e.2 + a % 4096) / 64).eraseDups

/-! ### Requests of a position (R260, R287, R293) -/

/-- A position that a `CTX_UNBIND_HALL` drain waits for still reaches the hall under its own translations (R515). -/
def unbinding (s : State) (cid hid lid pos : Nat) : Bool :=
  (s.eng.ctxs.get? cid).any fun c => c.drain.any fun d => d.hall = some hid && ((s.eng.lasts.get? lid).any fun l => d.waits.contains (lid, posKey l pos))

/-- The context's tenant owns the hall. -/
def ctxOwns (s : State) (cid : Nat) (h : Hall) : Bool := (s.eng.ctxs.get? cid).any fun c => c.tenant = h.tenant

/-- Send one request of a position, checked under R46 and R47 with the context and the queue's OWNER; it never makes the core a sharer
or owner (R20), and goes in service S2 (R261). -/
def sendEng (s : State) (lid idx : Nat) : State :=
  match s.eng.lasts.get? lid with
  | none => s
  | some l => match l.reqs.find? fun r => r.idx = idx with
    | none => s
    | some e =>
      let owner := ((s.eng.queues.get? l.qid).map fun q => q.owner).getD 0
      let kind : ReqKind := match e.write with
        | none => .rdNa
        | some (m, _) => if m = BitVec.allOnes 64 then .wrFull else .wrPart
      let r : Req :=
        { kind := kind, ep := owner, org := .engine lid e.pos idx, hall := 0, line := e.ppa, offset := 0, ctx := some l.ctx
          d := (e.write.map fun w => w.2).getD {}, mask := (e.write.map fun w => w.1).getD 0 }
      match hallAt s (e.ppa * 64) with
      | none => completeCode s r .denied
      | some (hid, h) =>
        let off := e.ppa * 64 - 2 ^ 30 * h.base
        let r := { r with hall := hid, offset := off }
        let img := lastImage s l
        let g := coreGallery img (((findPos l e.pos).map fun p => p.core).getD 0)
        let s := xfer s (0x22 + g) (lastSub s l) 2 64 0
        if passes s kind hid off owner (some l.ctx) ||
            (unbinding s l.ctx hid lid e.pos && ctxOwns s l.ctx h && passes s kind hid off owner none) then
          enqueue (if isLanded s hid h off then s else modLast s lid fun l => { l with notLanded := true }) r
        else completeCode s r .denied

/-- Issue a request of a position: a line read, or a line written under a byte mask. -/
def issueEng (s : State) (lid pos stage line : Nat) (wr : Option (BitVec 64 × LineData)) : State :=
  match s.eng.lasts.get? lid with
  | none => s
  | some l =>
    let s := modLast s lid fun l => { l with
      nextReq := l.nextReq + 1, reqs := l.reqs ++ [{ idx := l.nextReq, pos := pos, stage := stage, ppa := line, write := wr }] }
    sendEng s lid l.nextReq

/-! ### The end of a last (R293, R354) -/

/-- The completion record of a last, PHASE apart (R354). -/
def lastRecord (s : State) (l : Last) (dtag : Nat) : List Byte :=
  leBytes 64 (packBits [ (8, 0x01), (8, l.ending.getD stOk), (1, 0), (1, b2n l.lateStart), (1, b2n l.late), (1, b2n l.faulted),
    (1, b2n l.notLanded), (1, b2n l.substituted), (1, b2n l.reserveLost), (1, b2n l.thermal), (8, 0), (32, dtag), (16, l.qid),
    (16, l.sqIdx), (16, l.handle), (8, l.failStage), (8, 0), (32, l.failTile), (32, l.overruns), (64, l.begunAt.getD 0),
    (64, s.now), (64, ceilDiv l.bound 10), (32, l.faults) ])

/-- A last is over: its claims go, its cores are cleared, its completion record is written (R259, R293). -/
def finishLast (s : State) (lid : Nat) : State :=
  match s.eng.lasts.get? lid with
  | none => s
  | some l =>
    let s := s.eng.cores.foldl (fun s e => if e.2.holder = some lid then releaseCore s e.1 else s) s
    let dtag := ((s.eng.queues.get? l.qid).bind fun q => (q.descs.find? fun d => d.idx = l.sqIdx).map fun d => d.dtag).getD 0
    let rec_ := lastRecord s l dtag
    completeDesc { s with eng := { s.eng with lasts := s.eng.lasts.erase lid } } l.qid l.sqIdx rec_ l.stopBy

/-- A last ends with a status: dispatch stops, positions that are not running are abandoned, streams held are not issued, open
fault records go; what is issued completes, and what runs finishes (R293, log 32). -/
def stopLast (s : State) (lid status stage tile : Nat) : State :=
  match s.eng.lasts.get? lid with
  | none => s
  | some l =>
    if l.ending.isSome then s
    else
      let s := modQueue s l.qid fun q => { q with open_ := q.open_.filter fun f => f.lid ≠ lid }
      modLast s lid fun l => { l with
        ending := some status, failStage := stage, failTile := tile
        running := l.running.filter fun p => p.st = .running
        reqs := l.reqs.filter fun r => r.write.isSome
        reruns := [], held := [] }

/-! ### Landing orders (R228, R230, R331) -/

/-- The order enters the tier engine's queue, or is dropped and counted (R228, R230); a RESIDENT hall takes none. -/
def enterOrder (s : State) (lid sub hid off len deadline : Nat) : State :=
  match hallOf s hid with
  | none => s
  | some h =>
    if h.cls = .resident then s
    else if 4096 ≤ s.tier.orders.length ∨ 2 ^ 29 * h.quota < heldBytes s hid h (blocksOf h off len) then
      { s with tier := { s.tier with ordersDropped := satAdd 32 s.tier.ordersDropped 1 } }
    else
      let o : LandOrder := { hall := hid, offset := off, length := len, deadline := deadline, seq := s.tier.seq, lid := lid }
      let port := driveOf (blockFda s hid h (off / blockBytes h) / 4096)
      { s with
        tier := { s.tier with seq := s.tier.seq + 1, orders := s.tier.orders ++ [o] }
        flt := s.flt.modify (0x18 + port) fun q => { q with
          wait := q.wait ++ [{ sub := sub, svc := 3, bytes := len, at_ := s.now, addr := o.seq, order := true }] } }

/-- A byte of pool memory at a virtual address of a context, as the gallery looks a sparse directory up for landing orders; one that is not
landed is poison (DESIGN CHOICE, log 33). -/
def peekByte (s : State) (cid : Nat) (cx : Ctx) (a : Nat) : Byte × Bool :=
  match leafAt cx (a / 4096) with
  | none => (0, true)
  | some x =>
    let ppa := 4096 * leafPpa x.1 x.2 (a / 4096) + a % 4096
    match hallAt s ppa with
    | none => (0, true)
    | some (hid, h) =>
      if !ctxOwns s cid h || !isLanded s hid h (ppa - 2 ^ 30 * h.base) then (0, true)
      else
        let d := (readLine s hid h (ppa - 2 ^ 30 * h.base)).2
        ((d.data >>> (8 * (ppa % 64))).setWidth 8, d.poison.getLsbD (ppa % 64 / 16))

/-- Landing orders for a tile first marked: the byte range of WVIEW it reads in the target chain, one order for each run of
PPAs (R331). Pages without a leaf get none (log 33). -/
def sendOrders (s : State) (lid : Nat) (l : Last) (target tile : Nat) : State :=
  let img := lastImage s l
  let sts := imgStages img
  match sts.find? fun st => st.op = 0x0C ∧ stParam st 46 1 = target with
  | none => s
  | some rt =>
    let w := stParam rt 47 1
    let chain := (chainsOf sts).findIdx? fun c => c.contains target
    match chain, s.eng.ctxs.get? l.ctx with
    | some ch, some cx =>
      if w = 255 ∨ (viewAt img w).space ≠ 0 then s
      else
        let e : Env := { views := imgViews img, args := l.args, mem := fun sp a => if sp = 0 then peekByte s l.ctx cx a else (0, true) }
        let rs := (chainStages img ch).flatMap fun i =>
          let st := stageOf img i
          if st.in0 = w ∨ st.in1 = w ∨ st.in2 = w then
            ((viewTouch e st tile w false false).take 1).flatMap fun t => t.ranges.filter fun r => decide (r.1 < r.2)
          else []
        match minBy id (rs.map fun r => r.1) with
        | none => s
        | some lo =>
          let hi := rs.foldl (fun m r => max m r.2) 0
          let k := max 1 (imgK img)
          let ahead := sumNat ((List.range ch).map fun c =>
            let t := sumNat ((chainStages img c).map fun i => (stageOf img i).ns)
            let n := (stageOf img (headStage img c)).tiles
            2000 + ceilDiv (n + shadowCount l.shadow n) k * t)
          let deadline := l.begunAt.getD l.start + ceilDiv ahead 10
          let pages := (rangePages [(lo, hi)]).filterMap fun p => (leafAt cx p).map fun x =>
            (p, leafPpa x.1 x.2 p)
          -- byte ranges of PPA in order of VA, joined where they follow on in one hall
          let spans := pages.map fun e => (4096 * e.2 + (max lo (4096 * e.1) - 4096 * e.1),
            4096 * e.2 + (min hi (4096 * e.1 + 4096) - 4096 * e.1))
          let runs := spans.foldl (fun (acc : List (Nat × Nat)) x => match acc with
            | (a, b) :: t => if b = x.1 ∧ (hallAt s a).map (fun y => y.1) = (hallAt s x.1).map (fun y => y.1) then (a, x.2) :: t
                else x :: (a, b) :: t
            | [] => [x]) []
          runs.reverse.foldl (fun s r => match hallAt s r.1 with
            | some (hid, h) => enterOrder s lid (lastSub s l) hid (r.1 - 2 ^ 30 * h.base) (r.2 - r.1) deadline
            | none => s) s
    | _, _ => s

/-! ### The output of a position (R287 to R292, R338, R591) -/

/-- Bytes produced: address, value, poison. -/
abbrev Bytes := NMap (Byte × Bool)

/-- A field put into produced bytes; bits no field produced are zero. -/
def putField (m : Bytes) (w : Wr) : Bytes :=
  let v := w.val * 2 ^ (w.at_ % 8)
  let k := (2 ^ w.w - 1) * 2 ^ (w.at_ % 8)
  (List.range ((w.at_ % 8 + w.w + 7) / 8)).foldl (fun m i =>
    let a := w.at_ / 8 + i
    let (b, p) := m.getD a (0, false)
    let mask := BitVec.ofNat 8 (k / 256 ^ i)
    m.set a ((b &&& ~~~mask) ||| (BitVec.ofNat 8 (v / 256 ^ i) &&& mask), p || w.poison)) m

/-- Bytes a stage produces in one space, as addresses within it; SPACE 0 as PPA bytes, SPACE 2 keyed by view. -/
structure Produced where
  bench : Bytes := []
  pool : Bytes := []
  push : NMap Bytes := []

/-- The produced bytes of a stage's fields. -/
def produce (img : List Byte) (p : Pos) (x : Produced) (ws : List Wr) : Produced :=
  ws.foldl (fun x w =>
    match (viewAt img w.view).space with
    | 0 => match p.trans.find? fun e => e.1 = w.at_ / 8 / 4096 with
      | some e => { x with pool := putField x.pool { w with at_ := (4096 * e.2) * 8 + w.at_ % 32768 } }
      | none => x
    | 1 => { x with bench := putField x.bench w }
    | _ => { x with push := x.push.set w.view (putField (x.push.getD w.view []) w) }) x

/-- A bench after a stage wrote bytes: a granule wholly written takes its poison from them, a part keeps it (R338). -/
def benchWrite (bench : List Host.Cell) (poison : List Nat) (m : Bytes) : List Host.Cell × List Nat :=
  let gs := (m.map fun e => e.1 / 16).eraseDups
  let keep := poison.filter fun g => !(gs.contains g && decide (16 ≤ (m.filter fun e => e.1 / 16 = g).length))
  let add := gs.filter fun g => (m.any fun e => decide (e.1 / 16 = g) && e.2.2) && !keep.contains g
  (m.foldl (fun b e => NMap.put b e.1 e.2.1 0) bench, keep ++ add)

/-- Lines of produced bytes: line number, mask, data with poison. -/
def lineOuts (m : Bytes) : List (Nat × BitVec 64 × LineData) :=
  ((m.map fun e => e.1 / 64).eraseDups).map fun n =>
    let mine := m.filter fun e => e.1 / 64 = n
    mine.foldl (fun (a : Nat × BitVec 64 × LineData) e =>
      let i := e.1 % 64
      (n, a.2.1 ||| BitVec.ofNat 64 (2 ^ i),
        { data := a.2.2.data ||| BitVec.ofNat 512 (e.2.1.toNat * 256 ^ i)
          poison := if e.2.2 then a.2.2.poison ||| BitVec.ofNat 4 (2 ^ (i / 16)) else a.2.2.poison })) (n, 0, {})

/-- A position's stages run in order on its core's bench: bench, poison, KEEP stages held, fields produced, tiles marked. -/
structure RunSt where
  bench : List Host.Cell
  poison : List Nat
  kept : List Nat
  out : Produced := {}
  marks : List (Nat × Nat) := []

/-- Bench granules found uncorrectable before a stage hold poison (R338, R440). -/
def spoilBench (ue : BenchErrors) (i : Nat) (r : RunSt) : RunSt :=
  let gs := (ue.bench.filter fun e => e.1 = i).map fun e => e.2
  { r with poison := r.poison ++ (gs.filter fun g => !r.poison.contains g)
           bench := r.bench.filter fun e => !gs.contains (e.1 / 16) }

def runPosition (img : List Byte) (l : Last) (p : Pos) (c : CoreSt) (ue : BenchErrors) : RunSt :=
  spoilBench ue 255 ((chainStages img l.chain).foldl (fun r i =>
    let r := spoilBench ue i r
    let st := stageOf img i
    let keep := decide (st.op = 0x0E) && stKeep st
    if keep && r.kept.contains i then r
    else
      let o := runStage (posEnv img l p r.bench r.poison) st p.tile
      let x := produce img p { r.out with bench := [] } o.wrs
      let (b, q) := benchWrite r.bench r.poison x.bench
      { bench := b, poison := q, kept := if keep then r.kept ++ [i] else r.kept, out := x
        marks := r.marks ++ o.marks.map fun t => (stParam st 46 1, t) }) { bench := (startBench img c).1, poison := (startBench img c).2, kept := c.kept })

/-- The stage that accesses a pool line. -/
def lineStage (p : Pos) (ts : List (Nat × Touch)) (write : Bool) (line : Nat) : Nat :=
  ((ts.find? fun x => x.2.write == write && (rangeLines p x.2.ranges).contains line).map fun x => x.1).getD 255

/-- The output stream of a run (R591). -/
def streamOf (img : List Byte) (p : Pos) (ts : List (Nat × Touch)) (chain : List Nat) (r : RunSt) : List OutOp :=
  ((lineOuts r.out.pool).map fun x => OutOp.write (lineStage p ts true x.1) x.1 x.2.1 x.2.2) ++
    (r.out.push.flatMap fun v =>
      let stage := (chain.find? fun i => (stageOf img i).out = v.1).getD 255
      (lineOuts v.2).map fun x => OutOp.push stage v.1 (64 * x.1) x.2.2) ++
    r.marks.map fun m => OutOp.mark m.1 m.2

/-- The bench regions of KEEP stages, which later positions of the core read (R332, R591). -/
def keptRegions (img : List Byte) (c : Nat) (bench : List Host.Cell) : List Host.Cell :=
  let sts := (chainStages img c).map (stageOf img)
  bench.filter fun e => sts.any fun st =>
    decide (st.op = 0x0E) && stKeep st && decide (st.benchOff ≤ e.1 ∧ e.1 < st.benchOff + st.benchLen)

/-- A push: allowed under R288 and R292, else the last ends (R293); sent on the endpoint's route and kept until acknowledged
(R289, R291). -/
def issuePush (s : State) (lid pos stage tile vi off : Nat) (d : LineData) : State :=
  match s.eng.lasts.get? lid with
  | none => s
  | some l =>
    let v := viewAt (lastImage s l) vi
    let tenant := (s.eng.ctxs.get? l.ctx).map fun c => c.tenant
    let ok := match s.eng.rx.get? v.window with
      | some w => decide (w.ep = v.ep) && decide (some w.tenant = tenant) && decide (off + 64 ≤ w.size)
      | none => false
    if !ok then stopLast s lid stDenied stage tile
    else if isDead s v.ep then stopLast s lid stFault stage tile
    else if epDfp1 s v.ep then stopLast s lid stUnsupported stage tile
    else
      let s := modLast s lid fun l => { l with pushes := l.pushes ++ [(posKey l pos, v.ep)] }
      let port := sendPort s v.ep
      sendPush (xfer s (portRes port) (lastSub s l) 2 112 0) v.ep (.push lid (posKey l pos) v.ep)
        (.push port v.ep v.window off s.homeEpoch d)

/-- A mark: the first of a tile issues its landing orders (R329 to R331). -/
def issueMark (s : State) (lid target tile : Nat) : State :=
  match s.eng.lasts.get? lid with
  | none => s
  | some l =>
    if l.marks.contains (target, tile) then s
    else sendOrders (modLast s lid fun l => { l with marks := l.marks ++ [(target, tile)] }) lid l target tile

/-- Issue a stream. -/
def issueOuts (s : State) (lid pos tile : Nat) (outs : List OutOp) : State :=
  outs.foldl (fun s o => match o with
    | .write stage line m d => issueEng s lid pos stage line (some (m, d))
    | .push stage v off d => issuePush s lid pos stage tile v off d
    | .mark t i => issueMark s lid t i) s

/-- Write the SELECT views of the chain's ROUTE targets: the count and the marked tiles (R330). -/
def selectOuts (img : List Byte) (l : Last) (p : Pos) : List OutOp :=
  let ws := (routeTargets img l.chain).flatMap fun x =>
    let b := viewBase l.args (viewAt img x.2)
    let ms := marksOf l x.1
    ((ms.length :: ms).zipIdx).map fun (y : Nat × Nat) =>
      ({ view := x.2, at_ := 8 * (b + 4 * y.2), w := 32, val := y.1, poison := false } : Wr)
  (lineOuts (produce img p {} ws).pool).map fun x => OutOp.write (headStage img l.chain) x.1 x.2.1 x.2.2

/-! ### Translation phase (R279, R361 to R365) -/

/-- The first faulting page of an access list: stage, view, access, page, KIND (R365). -/
def firstFault (s : State) (c : Ctx) (ts : List (Nat × Touch)) : Option (Nat × Nat × Bool × Nat × Nat) :=
  ts.findSome? fun x => (rangePages x.2.ranges).findSome? fun p =>
    (pageFault s c p x.2.write).map fun k => (x.1, x.2.view, x.2.write, p, k)

/-- A position faults (R365 to R367). -/
def faultPos (s : State) (lid q : Nat) (p : Pos) (f : Nat × Nat × Bool × Nat × Nat) : State :=
  let tmo := ((((s.eng.lasts.get? lid).bind fun l => s.eng.ctxs.get? l.ctx).map fun c => c.faultTmo)).getD 1000
  let s := modLast (modPos s lid q fun p =>
    { p with st := .faulted, reads := [], need := [], trans := [], fault := some f, faultAt := s.now, faultTmo := tmo }) lid fun l =>
    { l with faulted := true }
  postFault s lid q f.2.2.2.2 f.2.2.2.1 (b2n f.2.2.1) f.1 f.2.1 p.tile s.now tmo

/-- Read lines for a position. -/
def readFor (s : State) (lid q : Nat) (p : Pos) (ts : List (Nat × Touch)) (lines : List Nat) : State :=
  lines.foldl (fun s n => issueEng s lid q (lineStage p ts false n) n none) (modPos s lid q fun p => { p with need := lines })

/-- The translation phase of a position: every page translated or the whole position faults; GATHER indices and sparse
directories come first; then its data moves (R363). -/
def translatePos (s : State) (lid q : Nat) : State :=
  match s.eng.lasts.get? lid with
  | none => s
  | some l => match findPos l q, s.eng.ctxs.get? l.ctx with
    | some p, some c =>
      if p.st ≠ .translate ∨ p.need ≠ [] then s
      else
        let img := lastImage s l
        let ts := posTouches s img l p
        match firstFault s c ts with
        | some f => faultPos s lid q p f
        | none =>
          let pages := (ts.flatMap fun x => rangePages x.2.ranges).eraseDups
          let g := coreGallery img p.core
          let s := pages.foldl (fun s a => cachePage s g l.ctx a) s
          let trans := pages.filterMap fun a => (leafAt c a).map fun x => (a, leafPpa x.1 x.2 a)
          let s := modPos s lid q fun p => { p with trans := trans }
          let p := { p with trans := trans }
          let lines := fun (early : Bool) => ((ts.filter fun x => !x.2.write && x.2.early == early).flatMap fun x =>
            rangeLines p x.2.ranges).eraseDups.filter fun n => (p.reads.get? n).isNone
          if lines true ≠ [] then readFor s lid q p ts (lines true)
          else
            let s := modPos s lid q fun p => { p with st := if lines false = [] then .running else .reading }
            let s := modLast s lid fun l => { l with trans := l.trans.set (posKey l q) trans }
            readFor s lid q p ts (lines false)
    | _, _ => s

/-! ### Dispatch (R267, R276 to R278, R284, R285, R295, R299) -/

/-- The next position of a logical core: those to run again first, then the least not yet run (R278, R295). -/
def nextPos (l : Last) (k c : Nat) : Option (Nat × Bool) :=
  match minBy id (l.reruns.filter fun q => q % k = c) with
  | some q => some (q, true)
  | none =>
    ((List.range l.seq.length).find? fun q => decide (q % k = c) && !l.done.contains q).map fun q => (q, false)

/-- Each idle core of the last takes its next position; a gated gallery takes none (R278, R299). -/
def dispatch (s : State) (lid : Nat) : State :=
  match s.eng.lasts.get? lid with
  | none => s
  | some l =>
    let img := lastImage s l
    let k := max 1 (imgK img)
    (List.range k).foldl (fun s c => match s.eng.lasts.get? lid with
      | none => s
      | some l =>
        if (s.eng.gals.getD (coreGallery img c) {}).gated || l.running.any (fun p => p.core = c) then s
        else match nextPos l k c with
          | none => s
          | some (q, again) =>
            let (t, sh) := (l.seq[q]?).getD (0, false)
            modLast s lid fun l => { l with
              running := l.running ++ [{ pos := q, tile := t, shadow := sh, core := c, rerun := again }] }) s

/-- A read or write of a SELECT view enters as a position of its own. -/
def addSelect (s : State) (lid pos : Nat) : State :=
  modLast s lid fun l => { l with
    running := l.running ++ [{ pos := pos, tile := noTile, shadow := false, core := 0 }] }

/-- A chain begins: its benches hold no KEEP copy; a COND chain first reads its SELECT view (R267, R284, R332). -/
def beginChain (s : State) (lid c : Nat) : State :=
  match s.eng.lasts.get? lid with
  | none => s
  | some l =>
    let img := lastImage s l
    let s := l.cores.foldl (fun s p => setCore s p { coreAt s p with kept := [] }) s
    let st := stageOf img (headStage img c)
    let s := modLast s lid fun l => { l with chain := c, done := [], reruns := [], seq := [], started := false }
    if st.cond then addSelect s lid selRead
    else modLast s lid fun l => { l with seq := sequenceOf l.shadow c (List.range st.tiles), started := true }

/-- The list of a SELECT view that has been read: the chain's tiles, or none when it breaks R284 (R340). -/
def selectList (img : List Byte) (l : Last) (p : Pos) : Option (List Nat) :=
  let st := stageOf img (headStage img l.chain)
  let b := viewBase l.args (viewAt img st.sel)
  let word := fun (i : Nat) => rdField (poolByte p) (8 * (b + 4 * i)) 32
  let (m, bad) := word 0
  if bad ∨ st.tiles < m then none
  else
    let xs := (List.range m).map fun i => word (i + 1)
    if xs.any fun x => x.2 || decide (st.tiles ≤ x.1) then none else some (sortBy id ((xs.map fun x => x.1).eraseDups))

/-- Every position of the chain has ended and every stream held has been issued. -/
def chainRun (l : Last) : Bool :=
  l.started && l.running.isEmpty && l.held.isEmpty && l.reruns.isEmpty && (List.range l.seq.length).all fun q => l.done.contains q

/-- A last goes on as far as it can: its end, the next positions, the barrier, the next chain (R267, R285, R287, R293). -/
def settleLast (s : State) (lid : Nat) : Nat → State
  | 0 => s
  | fuel + 1 => match s.eng.lasts.get? lid with
    | none => s
    | some l =>
      if fencedNow s then s
      else if l.pushes.any fun x => isDead s x.2 then
        settleLast (stopLast (modLast s lid fun l => { l with pushes := l.pushes.filter fun x => !isDead s x.2 }) lid stFault 255
          noTile) lid fuel
      else if l.ending.isSome then
        if l.running.isEmpty ∧ l.reqs.isEmpty = true ∧ l.pushes.isEmpty = true then finishLast s lid else s
      else if l.begunAt.isNone then s
      else if chainRun l = false then if l.started then dispatch s lid else s
      else
        let img := lastImage s l
        let last := (chainStages img l.chain).foldl max 0
        let s := modLast s lid fun l => { l with claimsFrom := last + 1 }
        if !l.reqs.isEmpty then s
        else if (routeTargets img l.chain) ≠ [] ∧ l.done.contains selWrite = false then addSelect s lid selWrite
        else if l.chain + 1 < (chainsOf (imgStages img)).length then settleLast (beginChain s lid (l.chain + 1)) lid fuel
        else if l.pushes.isEmpty then finishLast s lid
        else s

/-- Settle one last; translations are forgotten once their position is over. -/
def goLast (s : State) (lid : Nat) : State :=
  modLast (settleLast s lid 200) lid fun l => { l with trans := l.trans.filter fun e => posBusy l e.1 }

/-- Settle every last. -/
def goLasts (s : State) : State := s.eng.lasts.foldl (fun s e => goLast s e.1) s

/-- End a last with a status. -/
def endLast (s : State) (lid status stage tile : Nat) : State := goLast (stopLast s lid status stage tile) lid

/-- `LAST_STOP` and what acts as it (R293, R368, R370, R372). -/
def lastStop (s : State) (lid : Nat) : State := endLast s lid stRevoked 255 noTile

end Sys2Proof.Machine
end

