-- ==== Sys2Proof/Machine/Vault.lean ====
section
/-! DEFINITION. Hall 4095 (R60 to R63): what Felti stores at its offsets on the flash tier and in its fixed DRAM frames, under the
storage key. -/

namespace Sys2Proof.Machine

/-- Bytes as lines, the last one filled up with zeros. -/
def bytesLines (b : List Byte) : List Line := (List.range (ceilDiv b.length 64)).map fun i => bytesLine (sub b (64 * i) 64)

/-- Where the captures and the copies of the recorder begin (R63). -/
def captureBase : Nat := 31 * 2 ^ 30
def copyBase : Nat := 32 * 2 ^ 30

/-- The flash units of `n` lines from an offset of hall 4095 on; its FBASE is 0 (R231). -/
def ownUnits (off n : Nat) : List Nat := (List.range (ceilDiv n 64)).map fun i => off / 4096 + i

/-- What they take. -/
def ownNew (s : State) (off : Nat) (ls : List Line) : NMap (UnitMeta × List Line) :=
  (List.range (ceilDiv ls.length 64)).foldl (fun m i =>
    m.set (off / 4096 + i) (metaOf s 4095 0 false, (List.range 64).map fun j => (ls[64 * i + j]?).getD 0)) []

/-- May Felti store there now: the flash tier takes writes, and the rows are free (R237, R252, R256)? -/
def ownMay (s : State) (off n : Nat) : Bool :=
  !flashHalt s && (ownUnits off n).all fun u => !rowBusy s (rowOf u)

/-- Felti stores lines at an offset, a multiple of 4 KiB: maps first, then the units with their parity (R63, R237 to R239). The store is
whole in one step (DESIGN CHOICE, log 92). -/
def ownStore (s : State) (off svc : Nat) (ls : List Line) : State :=
  let us := ownUnits off ls.length
  let new := ownNew s off ls
  let s := if needsBits s us then (ctlWrite (setBitsFor s us)).1 else setIntent s us
  let s := readRows s (preSlots s us) .own sysSub svc
  putUnits (writeRows s new (writeSlots s us) .write .own sysSub svc) new

/-- The line of hall 4095 at an offset: from its block's frame while it is landed, else from flash. -/
def ownLine (s : State) (off : Nat) : Line :=
  match (blockOf s 4095 (off / 65536)).bind fun _ => locate s 4095 hall4095 off with
  | some (c, ca) =>
    if chanOnline s c then (joinLine ((List.range 4).map fun i => ((granAt s c (ca + 16 * i)).data, false))).data else 0
  | none => if unitRead s [] (off / 4096) = .lost then 0 else ((unitData s (off / 4096))[off / 64 % 64]?).getD 0

/-- `n` bytes of hall 4095 from an offset. -/
def ownBytes (s : State) (off n : Nat) : List Byte :=
  let ls := (List.range (ceilDiv (off % 64 + n) 64)).flatMap fun i => lineBytes (ownLine s (64 * (off / 64 + i)))
  (ls.drop (off % 64)).take n

/-- Channel and channel address in the frames of the line at an offset within a dump's GiB (R61, R415). -/
def framePlace (off : Nat) : Nat × Nat := (off / 65536 % 16, off / 1048576 * 65536 + off % 65536)

/-- The granules of the frames with lines from a dump's start on; a channel that is not ONLINE takes none (R61, R614). -/
def frameMem (s : State) (ls : List Line) : NMap Granule :=
  ls.zipIdx.foldl (fun m e =>
    let (c, ca) := framePlace (64 * e.2)
    if chanOnline s c then (List.range 4).foldl (fun m i =>
      m.put (granKey c (ca + 16 * i)) { data := granOf e.1 i, written := true } zeroGranule) m else m) s.dram.mem

/-- The blocks of a dump's range that the frames hold, DIRTY (R614). -/
def frameBlocks (s : State) (index n : Nat) : NMap Block :=
  (List.range (ceilDiv n 1024)).foldl (fun m b =>
    let (c, ca) := framePlace (65536 * b)
    if chanOnline s c then
      m.set (blkKey 4095 (16384 * index + b)) { st := .dirty, dirtyAt := s.now, maxDirty := sec 5, slots := [(c, ca)] }
    else m) (s.tier.blocks.filter fun b => b.1 / 2 ^ 32 ≠ 4095)

/-- A full dump goes to the frames; landed blocks there are dropped, their flash copies stand (R614). -/
def frameStore (s : State) (index : Nat) (ls : List Line) : State :=
  { s with
    dram := { s.dram with mem := frameMem s ls }
    tier := { s.tier with blocks := frameBlocks s index ls.length } }

/-- Is a dump still in the frames, its blocks not all written back (R614)? -/
def frameHeld (s : State) (index : Nat) : Bool :=
  s.tier.blocks.any fun b => decide (blkKey 4095 (16384 * index) ≤ b.1 ∧ b.1 < blkKey 4095 (16384 * (index + 1))) && b.2.st ≠ .clean

end Sys2Proof.Machine
end

