-- ==== Sys2Proof/Machine/Lasts.lean ====
section
/-! DEFINITION. The galleries' rows (F07, F16 shadow checking): positions, engine requests, overruns, third runs, bench clears;
fencing and substitution (R295, R296, R588); `LAST_LOAD`, `LAST_UNLOAD`, `LAST_STOP`, `LAST_QUERY` (R517). -/

namespace Sys2Proof.Machine

/-! ### Fencing an awl core (R295, R296, R588) -/

/-- A last's fenced core is replaced by the spare, which runs again what the logical core ran in this chain (R295). -/
def substitute (s : State) (lid core sp : Nat) : State :=
  match s.eng.lasts.get? lid with
  | none => s
  | some l => match l.cores.findIdx? fun p => p = core with
    | none => s
    | some c =>
      let k := max 1 l.cores.length
      let s := setCore (setCore s core { coreAt s core with holder := none, kept := [] }) sp { holder := some lid }
      goLast (modLast s lid fun l => { l with
        cores := l.cores.set c sp
        substituted := true
        reruns := l.done.filter fun q => decide (q < l.seq.length ∧ q % k = c)
        running := l.running.filter fun p => p.core ≠ c || p.pos = selRead || p.pos = selWrite
        reqs := l.reqs.filter fun r => r.write.isSome || r.pos = selRead || !(l.running.any fun p => p.pos = r.pos && p.core = c) }) lid

/-- A core enters the fence list, with its event; a last on it goes on with the pair's spare, or ends `ST_FAULT` (R296,
R588). -/
def fenceCore (s : State) (core cause : Nat) : State :=
  if (coreFence s core).isSome then s
  else
    let spare := match spareOf core with
      | some sp => if spareFree s sp then some sp else none
      | none => none
    let st := if spare.isSome then 2 else 0
    let s := { s with fence := { s.fence with
      list := s.fence.list ++ [{ slice := false, unit := core, st := st, time := s.now }] } }
    let s := commitSelf (event s .unitFenced (srcCore core) none none 0 [(0, 1, cause), (1, 1, st), (2, 2, spare.getD 0xFFFF)])
    match (coreAt s core).holder with
    | none => s
    | some lid =>
      if ((s.eng.lasts.get? lid).any fun l => l.cores.contains core) = false then s
      else match spare with
        | some sp => substitute s lid core sp
        | none => endLast s lid stFault 255 noTile

/-! ### Shadow comparison (R591 to R594) -/

def heldOf (l : Last) (tile : Nat) : Held := (l.held.find? fun h => h.tile = tile).getD { tile := tile }
def setHeld (s : State) (lid : Nat) (h : Held) : State :=
  modLast s lid fun l => { l with held := (l.held.filter fun x => x.tile ≠ h.tile) ++ [h] }
def dropHeld (s : State) (lid tile : Nat) : State :=
  modLast s lid fun l => { l with held := l.held.filter fun x => x.tile ≠ tile }

/-- The gallery of a physical core in a last. -/
def runGallery (img : List Byte) (l : Last) (core : Nat) : Nat :=
  coreGallery img ((l.cores.findIdx? fun p => p = core).getD 0)

/-- Where a third run goes: the spare of the primary's pair, that of the shadow's, the first other logical core after the
shadow's (R594). -/
def thirdCore (s : State) (img : List Byte) (l : Last) (prim shad : Nat) : Option Nat :=
  let sp := fun (p : Nat) => 128 + runGallery img l p / 2
  if spareFree s (sp prim) then some (sp prim)
  else if spareFree s (sp shad) then some (sp shad)
  else
    let k := l.cores.length
    let c := (l.cores.findIdx? fun p => p = shad).getD 0
    ((List.range k).map fun i => nth l.cores ((c + 1 + i) % k)).find? fun p => decide (p ≠ prim ∧ p ≠ shad)

/-- Both runs of a shadowed tile are there: equal streams are issued; with differing inputs the shadow's is; else a third run
decides (R591 to R594). -/
def compareRuns (s : State) (lid pos tile : Nat) : State :=
  match s.eng.lasts.get? lid with
  | none => s
  | some l =>
    let h := heldOf l tile
    let img := lastImage s l
    match h.prim, h.shad with
    | some a, some b =>
      if a.outs = b.outs ∧ a.bench = b.bench then goLast (issueOuts (dropHeld s lid tile) lid pos tile a.outs) lid
      else if a.input ≠ b.input then
        let s := event s .inputChanged (srcGallery (runGallery img l a.core)) none none 0
          [(0, 2, a.core), (2, 2, b.core), (8, 4, tile), (12, 1, headStage img l.chain)]
        goLast (issueOuts (dropHeld s lid tile) lid pos tile b.outs) lid
      else match thirdCore s img l a.core b.core with
        | none => endLast s lid stFault (headStage img l.chain) tile
        | some t =>
          let s := if l.cores.contains t then s else setCore s t { coreAt s t with holder := some lid }
          setHeld s lid { h with third := some t }
    | _, _ => s

/-! ### Positions -/

/-- Bytes of a stream that a gallery stages (R592). -/
def streamSize (outs : List OutOp) : Nat := 64 * outs.length

/-- What a gallery stages: the streams of primary runs that wait for their comparison. -/
def stagedBytes (s : State) (g : Nat) : Nat :=
  sumNat (s.eng.lasts.flatMap fun e => e.2.held.map fun h => match h.prim with
    | some a => if runGallery (lastImage s e.2) e.2 a.core = g then streamSize a.outs else 0
    | none => 0)

/-- Does a shadowed tile's primary wait to end: its gallery stages at most 2 MiB (R592)? With nothing staged it need not wait (DESIGN
CHOICE, log 92). -/
def stageWaits (s : State) (img : List Byte) (l : Last) (p : Pos) (outs : List OutOp) : Bool :=
  let n := stagedBytes s (runGallery img l (physCore l p.core))
  l.seq.contains (p.tile, true) && !p.shadow && !p.rerun && l.ending.isNone && decide (n ≠ 0 ∧ 2 ^ 21 < n + streamSize outs)

/-- Errors in the arrays of a gallery: bench data is poison, translations of the context are walked again (R440, R583). The addresses the
events give are free (log 12). -/
def arrayErrors (s : State) (g ctx : Nat) (ue : BenchErrors) : State :=
  let s := ue.bench.foldl (fun s _ => event s .arrayPoison (srcGallery g) none none (Config.freeChoice s.free) [(0, 1, 0)]) s
  let there := (s.eng.gals.getD g {}).cache.filter fun e => decide (e.1 = ctx) && ue.pages.contains e.2.1
  let s := there.foldl (fun s _ => event s .arrayCorrected (srcGallery g) none none (Config.freeChoice s.free)
    [(0, 1, 10), (1, 1, 1)]) s
  { s with eng := { s.eng with gals := s.eng.gals.modify g fun x => { x with cache := x.cache.filter fun e => !there.contains e } } }

/-- POSITION_END: the position's stages have run; its output is issued, or held for the comparison; the core takes its next
position; a SELECT read starts its chain (R267, R284, R287, R330, R592). -/
def positionEnd (s : State) (lid q : Nat) (ue : BenchErrors) : State :=
  match s.eng.lasts.get? lid with
  | none => s
  | some l => match findPos l q with
    | none => s
    | some p =>
      if p.st ≠ .running then s
      else
        let img := lastImage s l
        let core := physCore l p.core
        let ts := posTouches s img l p
        let r := runPosition img l p (coreAt s core) ue
        let outs := streamOf img p ts (chainStages img l.chain) r
        if stageWaits s img l p outs then s
        else
        let s := arrayErrors (dropPos s lid q) (runGallery img l core) l.ctx ue
        if q = selRead then
          match selectList img l p with
          | none => endLast s lid stBadArg (headStage img l.chain) noTile
          | some ts => goLast (modLast s lid fun l => { l with seq := sequenceOf l.shadow l.chain ts, started := true }) lid
        else if q = selWrite then
          goLast (issueOuts (modLast s lid fun l => { l with done := l.done ++ [selWrite] }) lid q noTile (selectOuts img l p)) lid
        else
          let s := setCore s core { coreAt s core with bench := r.bench, poison := r.poison, kept := r.kept }
          if p.rerun then goLast (modLast s lid fun l => { l with reruns := l.reruns.filter fun x => x ≠ q }) lid
          else
            let s := modLast s lid fun l => { l with done := l.done ++ [q] }
            if !l.seq.contains (p.tile, true) then goLast (issueOuts s lid q p.tile outs) lid
            else if l.ending.isSome then goLast s lid
            else
              let run : RunOut := { core := core, outs := outs, input := p.reads, bench := keptRegions img l.chain r.bench }
              let h := heldOf l p.tile
              let s := setHeld s lid (if p.shadow then { h with shad := some run } else { h with prim := some run })
              goLast (compareRuns s lid q p.tile) lid

/-- `ue`: what the bench and the translation cache were found to hold bad as the position ran. -/
def execPositionEnd (lid pos : Nat) (ue : BenchErrors) (s : State) : Host.Outcome State Fault Refusal :=
  .next (if fencedNow s then s else positionEnd s lid pos ue)

/-- TRANSLATION_WALK_DONE: a position's walks are done (R361 to R365). -/
def execTranslationWalkDone (lid pos : Nat) (s : State) : Host.Outcome State Fault Refusal :=
  .next (if fencedNow s then s else translatePos s lid pos)

/-- LAST_START_TIME_REACHED: an admitted last begins (R276). -/
def execLastStartTimeReached (lid : Nat) (s : State) : Host.Outcome State Fault Refusal :=
  .next (match s.eng.lasts.get? lid with
    | some l =>
      if l.begunAt.isNone ∧ l.start ≤ s.now ∧ l.ending.isNone = true ∧ fencedNow s = false then
        goLast (beginChain (modLast s lid fun l => { l with begunAt := some s.now }) lid 0) lid
      else s
    | none => s)

/-- A read's data reaches its position, which runs when all has come (R263, R363). -/
def depositRead (s : State) (lid : Nat) (r : EngReq) : State :=
  modPos s lid r.pos fun p =>
    let need := p.need.filter fun n => n ≠ r.ppa
    { p with
      reads := p.reads.set r.ppa r.got
      need := need
      st := if need = [] ∧ p.st = .reading then .running else p.st }

/-- Status of a failed request: a key slot that counts as retired, any but an ACTIVE one, has its own (R293, R454). -/
def reqStatus (s : State) (r : EngReq) : CmpCode → Nat
  | .denied => match hallAt s (r.ppa * 64) with
    | some (hid, h) => if (curSlot s hid h).st = .active then stDenied else stKeyRetired
    | none => stDenied
  | .timeout => stTimeout
  | _ => match hallAt s (r.ppa * 64) with
    | some (hid, h) => if slotLoaded (curSlot s hid h) then stRevoked else stKeyRetired
    | none => stRevoked

/-- ENGINE_REQUEST_COMPLETE: a line read or written for a position; a timeout is tried once more, another error ends the last
(R287, R293, R338). -/
def engineRequest (s : State) (lid idx : Nat) : State :=
  match s.eng.lasts.get? lid with
  | none => s
  | some l => match l.reqs.find? fun r => r.idx = idx with
    | none => s
    | some r => match r.code with
      | none => s
      | some code =>
        let gone := fun (s : State) => modLast s lid fun l => { l with reqs := l.reqs.filter fun x => x.idx ≠ idx }
        let tile := ((l.seq[r.pos]?).map fun x => x.1).getD noTile
        match code with
        | .ok | .poison => goLast (if r.write.isSome then gone s else depositRead (gone s) lid r) lid
        | .timeout =>
          if r.again then endLast (gone s) lid stTimeout r.stage tile
          else sendEng (modLast s lid fun l => { l with reqs := l.reqs.map fun x =>
            if x.idx = idx then { x with again := true, code := none } else x }) lid idx
        | c => endLast (gone s) lid (reqStatus s r c) r.stage tile

def execEngineRequestComplete (lid idx : Nat) (s : State) : Host.Outcome State Fault Refusal := .next (engineRequest s lid idx)

/-- TILE_OVERRUN: 1.5 × TILE_NS cycles of ECLK, 1.5 GHz, are TILE_NS nanoseconds; counted once for a tile (R283). -/
def tileOverrun (s : State) (lid q ns : Nat) : State :=
  match s.eng.lasts.get? lid with
  | none => s
  | some l => match findPos l q with
    | none => s
    | some p =>
      let img := lastImage s l
      let t := sumNat ((chainStages img l.chain).map fun i => (stageOf img i).ns)
      if p.overrun ∨ ns ≤ t ∨ selWrite ≤ q ∨ (p.st ≠ .running ∧ p.st ≠ .reading) then s
      else
        let s := modLast (modPos s lid q fun p => { p with overrun := true }) lid fun l =>
          { l with overruns := satAdd 32 l.overruns 1, late := true }
        event s .tileOverrun (srcCore (physCore l p.core)) none none 0
          [(0, 2, l.qid), (2, 2, l.sqIdx), (4, 1, headStage img l.chain), (8, 4, p.tile), (12, 4, ns)]

def execTileOverrun (lid pos ns : Nat) (s : State) : Host.Outcome State Fault Refusal :=
  .next (if fencedNow s then s else tileOverrun s lid pos ns)

/-! ### The third run (R301, R594 to R596) -/

/-- Bytes of a stream, for its digest. -/
def streamBytes (outs : List OutOp) : List Byte :=
  outs.flatMap fun o => match o with
    | .write _ n m d => 0 :: leBytes 8 n ++ leBytes 8 m.toNat ++ lineBytes d.data ++ leBytes 1 d.poison.toNat
    | .push _ v x d => 1 :: leBytes 1 v ++ leBytes 5 x ++ lineBytes d.data ++ leBytes 1 d.poison.toNat
    | .mark t i => 2 :: leBytes 1 t ++ leBytes 4 i

/-- A capture of what the third run read enters the sentinel set at the lowest free entry, or in place of the oldest; above
16 MiB it is TRUNCATED and does not; without Felti or a flash tier that takes it there is none (R62, R595, R596). -/
def capture (s : State) (r : RunOut) : State :=
  if 2 ^ 20 * 16 < 64 * r.input.length ∨ s.pwr.feltiOn = false ∨ ownMay s captureBase (64 * 2 ^ 18) = false then s
  else
    let at_ := match s.fence.sentinels.freeKey 0 64 with
      | some i => i
      | none => ((minBy (fun (e : Nat × Sentinel) => e.2.time) s.fence.sentinels).map fun e => e.1).getD 0
    let s := ownStore s (captureBase + at_ * 2 ^ 24) 5 ((List.range r.input.length).map (Config.captureLine r.input))
    { s with fence := { s.fence with
      sentinels := s.fence.sentinels.set at_ { time := s.now, data := r.input, digest := leNat (Config.sha384 (streamBytes r.outs)) } } }

/-- The stream of a third run that matches neither: its data is not known (log 12). -/
def freeStream (s : State) (outs : List OutOp) : List OutOp :=
  outs.zipIdx.map fun (o, i) => match o with
    | .write t n m _ => .write t n m { data := BitVec.ofNat 512 (Config.freeChoice (s.free + i)) }
    | .push t v x _ => .push t v x { data := BitVec.ofNat 512 (Config.freeChoice (s.free + i)) }
    | m => m

/-- THIRD_RUN_END: 0 the third run matches the primary, 1 the shadow, else neither; the odd core is fenced by Felti, and while
Felti is stopped nothing is fenced and the last goes on (R301, R594, R595). -/
def thirdRunEnd (s : State) (lid q stream : Nat) : State :=
  match s.eng.lasts.get? lid with
  | none => s
  | some l =>
    let tile := ((l.seq[q]?).map fun x => x.1).getD noTile
    match l.held.find? fun h => h.tile = tile with
    | none => s
    | some h => match h.prim, h.shad, h.third with
      | some a, some b, some t =>
        let img := lastImage s l
        let which := if stream < 2 then stream else 2
        let s := if l.cores.contains t then s else releaseCore s t
        let s := dropHeld s lid tile
        let s := event s .shadowMismatch (srcGallery (runGallery img l a.core)) none none 0
          [(0, 2, a.core), (2, 2, b.core), (4, 2, t), (6, 1, which), (7, 1, b2n (!s.pwr.feltiOn)), (8, 4, tile),
            (12, 1, headStage img l.chain)]
        if which = 2 then
          if s.pwr.feltiOn then endLast s lid stFault (headStage img l.chain) tile
          else goLast (issueOuts s.tickFree lid q tile (freeStream s a.outs)) lid
        else
          let win := if which = 0 then a else b
          let odd := if which = 0 then b.core else a.core
          let s := goLast (issueOuts (capture s win) lid q tile win.outs) lid
          if s.pwr.feltiOn then fenceCore s odd 1 else s
      | _, _, _ => s

def execThirdRunEnd (lid pos stream : Nat) (s : State) : Host.Outcome State Fault Refusal :=
  .next (if fencedNow s then s else thirdRunEnd s lid pos stream)

/-- BENCH_CLEAR_DONE: a released core's bench is zero and the core can be assigned (R259). -/
def execBenchClearDone (core : Nat) (s : State) : Host.Outcome State Fault Refusal :=
  .next (if (coreAt s core).clearing.isSome then
    setCore s core { coreAt s core with bench := [], poison := [], clearing := none, kept := [] } else s)

/-! ### LAST_LOAD, LAST_UNLOAD, LAST_STOP, LAST_QUERY (R262, R263, R517) -/

/-- An endpoint number no endpoint has, for requests the SH940 makes of its own. -/
def noEp : Nat := 2 ^ 18

/-- The pool lines of a virtual range under a context, in order of VA; none when a page faults. -/
def vaLines (s : State) (c : Ctx) (va len : Nat) : Option (List Nat) :=
  let pages := rangePages [(va, va + len)]
  if pages.any fun p => (pageFault s c p false).isSome then none
  else some ((List.range ((va + len - 1) / 64 + 1 - va / 64)).filterMap fun i =>
    let a := (va / 64 + i) * 64
    (leafAt c (a / 4096)).map fun x => (4096 * leafPpa x.1 x.2 (a / 4096) + a % 4096) / 64)

/-- Read the lines of an image: non-allocating reads of halls bound to the context (R46, R260, log 34). -/
def readImage (s : State) (w cid : Nat) (lines : List Nat) : State :=
  lines.zipIdx.foldl (fun s (e : Nat × Nat) =>
    let r : Req := { kind := .rdNa, ep := noEp, org := .load w e.2, hall := 0, line := e.1, offset := 0, ctx := some cid }
    match hallAt s (e.1 * 64) with
    | some (hid, h) =>
      let off := e.1 * 64 - 2 ^ 30 * h.base
      if hallTakes s hid off && ctxFits s hid (some cid) then enqueue s { r with hall := hid, offset := off }
      else completeCode s { r with hall := hid } .denied
    | none => completeCode s r .denied) s

def lastLoadBody (s : State) (x : Win) : Answer :=
  let cid := x.arg 0 2
  let len := x.arg 4 4
  let va := x.arg 8 8
  guardArg s (badArg [ (!((s.eng.ctxs.get? cid).any fun c => c.st = .active), 0), (decide (x.arg 2 2 ≠ 0), 2),
    (!inRange len 256 13568, 4) ]) fun _ =>
    match s.eng.ctxs.get? cid, cmdWin s x with
    | some c, some w => match vaLines s c va len with
      | none => fail s stBadArg 8
      | some lines => goesOn (readImage { s with eng := { s.eng with
          loads := s.eng.loads.set w { ctx := cid, va := va, len := len, lines := lines } } } w cid lines)
    | _, _ => fail s stBadArg 0

/-- The status of a load whose reads have all ended; none while some are outstanding. -/
def loadDone (l : Load) : Option Nat :=
  match l.bad with
  | some .denied => some stDenied
  | some .timeout => some stTimeout
  | some _ => some stRevoked
  | none =>
    if l.got.length < l.lines.length then none
    else if l.got.any fun e => e.2.poison ≠ 0 then some stPoison else some stOk

/-- The image bytes of a load. -/
def loadBytes (l : Load) : List Byte :=
  (((l.got.flatMap fun e => lineBytes e.2.data).drop (l.va % 64)).take l.len)

/-- The image is there: checked and stored under the lowest free handle (R262). -/
def finishLoad (s : State) (w : Nat) (l : Load) (st : Nat) : State :=
  let s := { s with eng := { s.eng with loads := s.eng.loads.erase w } }
  if st ≠ stOk then finishCmd s w st 0 []
  else
    let b := loadBytes l
    match s.eng.ctxs.get? l.ctx with
    | none => finishCmd s w stBadArg 0 []
    | some c =>
      if !imageOk b then finishCmd s w stBadArg 8 []
      else match s.eng.loaded.freeKey 0 1024 with
        | none => finishCmd s w stNoSpace 0 []
        | some hd => finishCmd { s with eng := { s.eng with loaded := s.eng.loaded.set hd { image := b, tenant := c.tenant } } }
            w stOk 0 (leBytes 2 hd)

/-- LAST_LOAD: it begins to read the image, and, run again once every line has come, ends (R262, R271, log 34). -/
def execLastLoad (w : Nat) (s : State) : Host.Outcome State Fault Refusal :=
  .next (match s.eng.loads.get? w with
    | some l => match loadDone l with
      | some st => if s.pwr.feltiOn then finishLoad s w l st else s
      | none => s
    | none => runCmd s w 0x0600 lastLoadBody)

/-- Lasts of a handle that are admitted or running. -/
def handleLasts (s : State) (hd : Nat) : Nat := (s.eng.lasts.filter fun e => e.2.handle = hd).length

/-- LAST_UNLOAD (R263). -/
def lastUnloadBody (s : State) (x : Win) : Answer :=
  let hd := x.arg 0 2
  match s.eng.loaded.get? hd with
  | none => fail s stBadArg 0
  | some _ =>
    if handleLasts s hd ≠ 0 then fail s stBusy 0
    else good { s with eng := { s.eng with loaded := s.eng.loaded.erase hd } }

def execLastUnload (w : Nat) (s : State) : Host.Outcome State Fault Refusal := .next (runCmd s w 0x0601 lastUnloadBody)

/-- LAST_STOP: the last ends `ST_REVOKED`; the command completes when its completion record is written (R293, R517). -/
def lastStopBody (s : State) (x : Win) : Answer :=
  match s.eng.lasts.find? fun e => e.2.qid = x.arg 0 2 ∧ e.2.sqIdx = x.arg 2 2 with
  | none => fail s stBadArg 0
  | some (lid, _) => match cmdWin s x with
    | none => fail s stBadArg 0
    | some w => goesOn (lastStop (markBegun (modLast s lid fun l => { l with stopBy := some w }) w) lid)

def execLastStop (w : Nat) (s : State) : Host.Outcome State Fault Refusal := .next (runCmd s w 0x0602 lastStopBody)

/-- LAST_QUERY: the header of the stored image and the lasts admitted. -/
def lastQueryBody (s : State) (x : Win) : Answer :=
  match s.eng.loaded.get? (x.arg 0 2) with
  | none => fail s stBadArg 0
  | some l => good s (sub l.image 0 256 ++ leBytes 2 (handleLasts s (x.arg 0 2)))

def execLastQuery (w : Nat) (s : State) : Host.Outcome State Fault Refusal := .next (runCmd s w 0x0603 lastQueryBody)

end Sys2Proof.Machine
end

