-- ==== Sys2Proof/Machine/Trust.lean ====
section
/-! DEFINITION. Identity, trust and time (R444 to R448, R508): the attestation report and the commands of the first table of
the catalogue. -/

namespace Sys2Proof.Machine

/-- The slot whose image runs, and the other (R523, R550). -/
def runningSlot (s : State) : FwSlot := if s.fw.runningB then s.fw.b else s.fw.a
def otherSlot (s : State) : FwSlot := if s.fw.runningB then s.fw.a else s.fw.b

/-- FELTI_SVN of the running image. -/
def feltiSvn (s : State) : Nat := (runningSlot s).svn

/-- What the alias key of the running image is derived from, beside the UDS; a RETURNED part derives none (R443, R445). -/
def aliasKey (s : State) : Option (List Nat) :=
  let run := runningSlot s
  if s.hw.lifecycle = 2 then none
  else some [Config.romDigest, Config.guardDigest run.ver, Config.feltiDigest run.ver, run.svn]

/-- The 96 bytes of a signature by the alias key (R446, R449). -/
def aliasSig (s : State) (body : List Byte) : List Byte := sub (Config.aliasSign (aliasKey s) body) 0 96

/-- The certificate chain of slot 0 (R444). -/
def certChain (s : State) : List Byte := Config.certChain (aliasKey s) s.hw.gradeD1

/-- May the guard die unwrap manifests, take released keys and unseal (R445)? -/
def mayUnseal (s : State) : Bool := s.hw.lifecycle = 1 && !s.hw.dbgFlags.getLsbD 0

/-- Code of a tenant's origin (R453). -/
def originCode : Origin → Nat
  | .localKey => 0
  | .bound => 1
  | .released => 2

/-- The access-list entries of a hall, by endpoint, rising. -/
def aclList (s : State) (h : Nat) : List (Nat × AclEntry) :=
  (s.acl.filter fun e => e.1 / 262144 = h).map fun e => (e.1 % 262144, e.2)

/-- Bytes of a 48-byte digest held as a number. -/
def digestBytes (n : Nat) : List Byte := leBytes 48 n

/-- The hall entry of the report (R447). -/
def hallEntry (s : State) (id : Nat) (h : Hall) : List Byte :=
  let t := s.ten.recs.getD h.tenant {}
  let acl := aclList s id
  leBytes 20 (packBits [ (16, id), (16, h.tenant), (2, classCode h.cls), (1, b2n h.mirrored), (1, b2n h.light),
    (2, h.tierBlock), (2, h.grain), (2, stateCode h.state), (1, b2n h.levelDfp1), (1, b2n h.orphanRevert),
    (2, originCode t.origin), (1, b2n t.sealKeys), (1, 0), (16, h.chMask), (32, h.base), (16, h.size), (16, h.quota),
    (32, acl.length) ]) ++
  (Config.sha384 (acl.flatMap fun e => leBytes 4 (e.1 + 262144 * rightsBits e.2.rights))).take 12

/-- Bit p of UNKEYED: port p is up with KEYED = 0 (R446). -/
def unkeyedPorts (s : State) : Nat :=
  sumNat (s.ports.map fun e => if (e.2.st = .up ∨ e.2.st = .swapping) ∧ e.2.key.keyed = false then 2 ^ e.1 else 0)

/-- Bytes 296 to 311 of the report, measurement 5 (R446, R450). -/
def reportStatus (s : State) : List Byte :=
  leBytes 16 (packBits [ (32, s.hw.fusedMinSvn), (8, 3), (8, 2), (16, s.hw.fuses.toNat), (16, s.hw.dbgFlags.toNat),
    (16, unkeyedPorts s), (1, b2n (s.pair.role ≠ .unpaired)), (1, s.pair.cfg.side), (1, b2n (s.pair.role = .active)), (5, 0),
    (24, 0) ])

/-- The attestation report over a scope: all halls, or those of one tenant (R446 to R448). -/
def attestReport (s : State) (nonce : List Byte) (scope : Option Nat) : List Byte :=
  let halls := s.halls.filter fun e => match scope with
    | none => true
    | some t => decide (e.2.tenant = t)
  let run := runningSlot s
  let alt := otherSlot s
  let body :=
    leBytes 4 0x5450524B ++ leBytes 1 1 ++ leBytes 1 (b2n s.hw.gradeD1) ++ leBytes 1 0xB1 ++ leBytes 1 s.hw.lifecycle ++
    sub nonce 0 32 ++ leBytes 8 s.now ++ digestBytes Config.deviceId ++ digestBytes Config.romDigest ++
    digestBytes (Config.guardDigest run.ver) ++ digestBytes (Config.feltiDigest run.ver) ++
    digestBytes (if alt.st = 1 then Config.feltiDigest alt.ver else 0) ++ leBytes 4 run.ver ++ leBytes 4 run.svn ++
    reportStatus s ++ leBytes 4 s.pair.cfg.number ++
    digestBytes (if s.pair.role = .unpaired then 0 else s.pair.cfg.partnerId) ++
    digestBytes (Config.configDigest (retainedOf s)) ++
    leBytes 2 (match scope with
      | none => 0x8000
      | some t => t) ++
    leBytes 2 halls.length ++ leBytes 96 0 ++ halls.flatMap fun e => hallEntry s e.1 e.2
  body ++ aliasSig s body

/-- `IDENTITY_GET` (R444, R508). -/
def identityGetBody (s : State) (_x : Win) : Answer :=
  let run := runningSlot s
  let chain := certChain s
  let bind := Config.bindCert
  good s (leBytes 1 (b2n s.hw.gradeD1) ++ leBytes 1 0xB1 ++ leBytes 1 3 ++ leBytes 1 2 ++ leBytes 4 run.ver ++
    leBytes 4 run.svn ++ leBytes 4 chain.length ++ leBytes 4 bind.length ++ leBytes 4 0 ++ chain ++
    leBytes (align8 chain.length - chain.length) 0 ++ bind)

def execIdentityGet (w : Nat) (s : State) : Host.Outcome State Fault Refusal := .next (runCmd s w 0x0100 identityGetBody)

/-- `ATTEST_GET` (R446, R448): a TENANT session sees its own tenant, the others every hall. -/
def attestGetBody (s : State) (x : Win) : Answer :=
  good s (attestReport s (x.bytes 0 32) (if x.cls = .tenant then some x.owner else none))

def execAttestGet (w : Nat) (s : State) : Host.Outcome State Fault Refusal := .next (runCmd s w 0x0101 attestGetBody)

/-- The checks of `TRUST_SET`: the BMC class only while no operator anchor exists; the arguments; the last operator anchor
stays (R451, R508). -/
def trustCheck (s : State) (x : Win) : Option (Nat × Nat) :=
  let kind := x.arg 0 1
  let idx := x.arg 1 1
  firstFail [ (x.cls = .bmc && !s.trust.op.isEmpty, stDenied, 0),
    (decide (2 ≤ kind), stBadArg, 0), (decide (8 ≤ idx), stBadArg, 1), (decide (2 ≤ x.arg 2 1), stBadArg, 2),
    (decide (x.arg 3 1 ≠ 0), stBadArg, 3), (decide (x.arg 2 1 = 0 ∧ x.arg 4 4 = 0), stBadArg, 4),
    (decide (kind = 0 ∧ x.arg 2 1 = 1 ∧ s.trust.op.length = 1 ∧ (s.trust.op.get? idx).isSome), stDenied, 0) ]

/-- `TRUST_SET` installs, replaces or removes an anchor (R508). -/
def trustSetBody (s : State) (x : Win) : Answer :=
  guardArg s (trustCheck s x) fun _ =>
    let idx := x.arg 1 1
    let cert := x.bytes 8 (x.arg 4 4)
    let upd := fun (m : NMap (List Byte)) => if x.arg 2 1 = 1 then m.erase idx else m.set idx cert
    let new := if x.arg 0 1 = 0 then { s with trust := { s.trust with op := upd s.trust.op } }
      else { s with trust := { s.trust with link := upd s.trust.link } }
    retain s new fun u => good u

def execTrustSet (w : Nat) (s : State) : Host.Outcome State Fault Refusal := .next (runRetained s w 0x0102 trustSetBody)

/-- The key `BMC_KEY_SET` carries: wrapped as in R462 from a session, in the clear on window 0 (R508). -/
def bmcKeyArg (x : Win) : Option (Nat × Nat) :=
  match x.session with
  | some sid => Config.unwrapKey sid (x.bytes 0 68)
  | none => some (leNat (x.bytes 12 32), leNat (x.bytes 44 8))

/-- `BMC_KEY_SET` (R486, R508): the BMC class only on window 0 while no key exists. -/
def bmcKeySetBody (w : Nat) (s : State) (x : Win) : Answer :=
  guardArg s (firstFail [ (x.cls = .bmc && (decide (w ≠ 0) || s.trust.bmcKey.isSome), stDenied, 0),
      (decide (x.arg 68 36 ≠ 0), stBadArg, 68) ]) fun _ =>
    match bmcKeyArg x with
    | none => fail s stDenied
    | some (k, kcv) =>
      if kcv ≠ Config.kcv k then fail s stBadArg 12
      else retain s { s with trust := { s.trust with bmcKey := some k } } fun u => good u

def execBmcKeySet (w : Nat) (s : State) : Host.Outcome State Fault Refusal :=
  .next (runRetained s w 0x0103 (bmcKeySetBody w))

/-- `TIME_GET` (R508). -/
def timeGetBody (s : State) (_x : Win) : Answer := good s (leBytes 8 s.now ++ leBytes 1 (b2n s.pair.aligned))

def execTimeGet (w : Nat) (s : State) : Host.Outcome State Fault Refusal := .next (runCmd s w 0x0104 timeGetBody)

end Sys2Proof.Machine
end

