-- ==== Sys2Proof/Machine/Spdm.lean ====
section
/-! DEFINITION. SPDM as responder (R449 to R451) and the keying of links (R474 to R478). Message codes are those of DMTF SPDM
1.3 (log 15). -/

namespace Sys2Proof.Machine

/-! ### Requests of a connection -/

/-- An SPDM response leaves on a connection: version byte, code, two parameter bytes, then its contents (R449; the header is DMTF
SPDM's, log 15). -/
def spdmSay (s : State) (c code : Nat) (data : List Byte) : State :=
  sendSpdm s c false ([0x13, BitVec.ofNat 8 code, 0, 0] ++ data) (.keying (c - linkConn 0))

/-- ERROR with a code: 0x01 invalid request, 0x04 unexpected request, 0x07 unsupported request. -/
def spdmError (s : State) (c code : Nat) : State := spdmSay s c 0x7F (leBytes 1 code)

/-- A response over the 4,096 bytes of a reassembled message goes by CHUNK_GET (R449). -/
def spdmAnswer (s : State) (c code : Nat) (data : List Byte) : State :=
  if data.length ≤ 4096 then spdmSay s c code data
  else spdmError (setConn s c { connOf s c with large := data }) c 0x0F

/-- The connection has agreed its algorithms. -/
def connReady (s : State) (c : Nat) : Bool := decide (3 ≤ (connOf s c).step)

/-- GET_VERSION starts a connection afresh (R449). -/
def execGetVersion (conn : Nat) (s : State) : Host.Outcome State Fault Refusal :=
  .next (spdmSay (setConn s conn { step := 1, msgSeq := (connOf s conn).msgSeq }) conn 0x04 (leBytes 2 0x1300))

/-- GET_CAPABILITIES after GET_VERSION (R449). -/
def execGetCapabilities (conn : Nat) (s : State) : Host.Outcome State Fault Refusal :=
  .next (if (connOf s conn).step = 1 then spdmSay (setConn s conn { connOf s conn with step := 2 }) conn 0x61 []
    else spdmError s conn 0x04)

/-- NEGOTIATE_ALGORITHMS: the set of R449, or an error when the requester lacks it. -/
def execNegotiateAlgorithms (conn : Nat) (supported : Bool) (s : State) : Host.Outcome State Fault Refusal :=
  .next (if (connOf s conn).step = 2 then
      if supported then spdmSay (setConn s conn { connOf s conn with step := 3 }) conn 0x63 [] else spdmError s conn 0x01
    else spdmError s conn 0x04)

/-- GET_DIGESTS: the digest of the chain in slot 0, the only slot (R444). -/
def execGetDigests (conn : Nat) (s : State) : Host.Outcome State Fault Refusal :=
  .next (if connReady s conn then spdmSay s conn 0x01 (sub (Config.sha384 (certChain s)) 0 48) else spdmError s conn 0x04)

/-- GET_CERTIFICATE: a portion of the slot 0 chain; no other slot exists (R444). -/
def execGetCertificate (conn slot off len : Nat) (s : State) : Host.Outcome State Fault Refusal :=
  .next (if connReady s conn = false then spdmError s conn 0x04
    else if slot ≠ 0 ∨ (certChain s).length ≤ off then spdmError s conn 0x01
    else spdmAnswer s conn 0x02 (((certChain s).drop off).take len))

/-- CHALLENGE: answered with a signature of the alias key (R443, R449). -/
def execChallenge (conn slot : Nat) (nonce : List Byte) (s : State) : Host.Outcome State Fault Refusal :=
  .next (if connReady s conn = false then spdmError s conn 0x04
    else if slot ≠ 0 then spdmError s conn 0x01
    else
      let body := sub (Config.sha384 (certChain s)) 0 48 ++ sub nonce 0 32
      spdmSay s conn 0x03 (body ++ aliasSig s body))

/-- The tenant whose halls a connection's report covers: that of its TENANT session (R448). -/
def connScope (s : State) (c : Nat) : Option Nat :=
  (s.spdm.sessions.find? fun e => e.2.conn = c ∧ e.2.cls = .tenant).map fun e => e.2.tenant

/-- The measurement at an index (R450). -/
def measurement (s : State) (c index : Nat) (nonce : List Byte) : Option (List Byte) :=
  let run := runningSlot s
  let alt := otherSlot s
  match index with
  | 1 => some (digestBytes Config.romDigest)
  | 2 => some (digestBytes (Config.guardDigest run.ver))
  | 3 => some (digestBytes (Config.feltiDigest run.ver))
  | 4 => some (digestBytes (if alt.st = 1 then Config.feltiDigest alt.ver else 0))
  | 5 => some (reportStatus s)
  | 6 => some (digestBytes (Config.configDigest (retainedOf s)))
  | 0x10 => some (attestReport s nonce (connScope s c))
  | _ => none

/-- GET_MEASUREMENTS: a signed one is signed by the alias key (R450). -/
def execGetMeasurements (conn index : Nat) (signed : Bool) (nonce : List Byte) (s : State) :
    Host.Outcome State Fault Refusal :=
  .next (if connReady s conn = false then spdmError s conn 0x04
    else match measurement s conn index nonce with
      | none => spdmError s conn 0x01
      | some m => spdmAnswer s conn 0x60 (if signed then m ++ aliasSig s (m ++ nonce) else m))

/-- KEY_EXCHANGE: mutual authentication is required; 64 sessions at most (R449). -/
def execKeyExchange (conn : Nat) (mutAuth : Bool) (s : State) : Host.Outcome State Fault Refusal :=
  .next (if connReady s conn = false then spdmError s conn 0x04
    else if mutAuth = false ∨ 64 ≤ s.spdm.sessions.length then spdmError s conn 0x01
    else spdmSay (setConn s conn { connOf s conn with hs := some true }) conn 0x64 [])

/-- The class a requester's chain gives (R451). -/
def chainClass (s : State) : ChainEnd → Option (WinClass × Nat)
  | .operator i => if (s.trust.op.get? i).isSome then some (.operator, 0) else none
  | .tenant t => if (s.ten.recs.get? t).isSome then some (.tenant, t) else none
  | .kyholt _ | .link _ | .other => none

/-- On a peer port the PEER session opens window 66 and carries again the key copies not acknowledged (R455, R474, R479). -/
def peerSession (s : State) : State :=
  let s := match s.win.get? 66 with
    | some _ => s
    | none => { s with win := s.win.set 66 { cls := .peer } }
  s.ten.recs.foldl (fun s e => [0, 1].foldl (fun s g =>
    let k := tenantSlot e.2 g
    if k.copyPending then (sendMirror s (.keySlot e.1 g k.key)).1 else s) s) s

/-- Is the SH940 the requester a of R474 on a port: on a fabric port, and as side 0 on a peer port? -/
def isRequester (s : State) (p : Nat) : Bool := decide (p < 8) || decide (s.pair.cfg.side = 0)

/-- Link keys are installed: the secrets S0 of the two directions come from the session's export master secret, a the requester, and
the control counters start at 0 (R474, R476); the port comes up once the SH940 is READY (R542). -/
def installKeys (s : State) (p : Nat) : State :=
  let m := Config.exportMaster s.free
  let a2b := Config.hkdfExpand m "dfp2 link a2b" 48
  let b2a := Config.hkdfExpand m "dfp2 link b2a" 48
  let req := isRequester s p
  let s := modPort s.tickFree p fun q => { q with
    key := { keyed := true, since := s.now, secTx := if req then a2b else b2a, secRx := if req then b2a else a2b } }
  let s := if 8 ≤ p then peerSession s else s
  match s.ports.get? p with
  | some q => if mayComeUp s p q then portComesUp s p else s
  | none => s

/-- FINISH: the session takes its class from the requester's chain and opens a window of 2 to 65 (R451, R479); on a peer port
the Kyholt chain of the partner of the pair record opens the PEER session. A chain that meets no anchor is refused. -/
def finishSession (s : State) (conn : Nat) (chain : ChainEnd) (sigOk : Bool) : State :=
  if (connOf s conn).hs ≠ some true then spdmError s conn 0x04
  else
    let s := setConn s conn { connOf s conn with hs := none }
    if sigOk = false then spdmError s conn 0x06
    else match chain with
      | .kyholt d =>
        if (conn = linkConn 8 ∨ conn = linkConn 9) ∧ d = s.pair.cfg.partnerId then
          spdmSay (installKeys s (conn - linkConn 0)) conn 0x65 []
        else spdmError s conn 0x06
      | chain => match chainClass s chain, s.spdm.sessions.freeKey 0 65, s.win.freeKey 2 64 with
        | some (cls, t), some sid, some w =>
          let x : Session := { conn := conn, cls := cls, tenant := t, window := some w, lastBeat := s.now }
          spdmSay { s with
            spdm := { s.spdm with sessions := s.spdm.sessions.set sid x }
            win := s.win.set w { cls := cls, owner := t, session := some sid } } conn 0x65 []
        | _, _, _ => spdmError s conn 0x06

def execFinish (conn : Nat) (chain : ChainEnd) (sigOk : Bool) (s : State) : Host.Outcome State Fault Refusal :=
  .next (finishSession s conn chain sigOk)

/-- End a session: its window closes (R479). -/
def dropSession (s : State) (sid : Nat) : State :=
  match s.spdm.sessions.get? sid with
  | none => s
  | some x =>
    let s := { s with spdm := { s.spdm with sessions := s.spdm.sessions.erase sid } }
    match x.window with
    | some w => closeWin s w
    | none => s

/-- KEY_UPDATE: the session's keys step on (R449). -/
def execKeyUpdate (sid : Nat) (s : State) : Host.Outcome State Fault Refusal :=
  match s.spdm.sessions.get? sid with
  | none => .next s
  | some x => .next (spdmSay { s with spdm := { s.spdm with
      sessions := s.spdm.sessions.set sid { x with keyGen := x.keyGen + 1 } } } x.conn 0x69 [])

/-- HEARTBEAT: the session lives on (R449). -/
def execHeartbeat (sid : Nat) (s : State) : Host.Outcome State Fault Refusal :=
  match s.spdm.sessions.get? sid with
  | none => .next s
  | some x => .next (spdmSay { s with spdm := { s.spdm with
      sessions := s.spdm.sessions.set sid { x with lastBeat := s.now } } } x.conn 0x68 [])

/-- END_SESSION: the session ends and its window closes (R479). -/
def execEndSession (sid : Nat) (s : State) : Host.Outcome State Fault Refusal :=
  match s.spdm.sessions.get? sid with
  | none => .next s
  | some x => .next (spdmSay (dropSession s sid) x.conn 0x6C [])

/-- SPDM_SESSION_EXPIRY: three heartbeat periods of 30 s missed (R449). -/
def execSpdmSessionExpiry (sid : Nat) (s : State) : Host.Outcome State Fault Refusal :=
  match s.spdm.sessions.get? sid with
  | none => .next s
  | some x => .next (if sec 90 + x.lastBeat ≤ s.now then dropSession s sid else s)

/-- CHUNK_SEND: a chunk of a large request, in order from 0 (R449). -/
def execChunkSend (conn handle seq : Nat) (last : Bool) (data : List Byte) (s : State) : Host.Outcome State Fault Refusal :=
  let c := connOf s conn
  let start := decide (seq = 0)
  let fits := start || c.chunkIn = some (handle, seq)
  .next (if connReady s conn = false then spdmError s conn 0x04
    else if fits = false then spdmError (setConn s conn { c with chunkIn := none, recv := [] }) conn 0x01
    else
      let got := (if start then [] else c.recv) ++ data
      spdmSay (setConn s conn { c with recv := got, chunkIn := if last then none else some (handle, seq + 1) }) conn 0x05
        (leBytes 1 handle ++ leBytes 2 seq))

/-- CHUNK_GET: the next chunk of a large response, 4,096 bytes each (R449). -/
def execChunkGet (conn handle seq : Nat) (s : State) : Host.Outcome State Fault Refusal :=
  let big := (connOf s conn).large
  .next (if big.length ≤ 4096 * seq then spdmError s conn 0x04
    else spdmSay s conn 0x06 (leBytes 1 handle ++ leBytes 2 seq ++ (big.drop (4096 * seq)).take 4096))

/-- Is an SPDM_FRAG a reserved form: reserved flags or bytes, a length outside 1 to 44, or an EP that no endpoint has (R115,
R498)? -/
def fragBad (b : List Byte) : Bool :=
  let n := subNat b 5 1
  mgtBad b 0x60 [(1, 7), (11, 44)] || decide (2 ^ 18 ≤ subNat b 1 3 ∨ 8 ≤ subNat b 4 1 ∨ n = 0 ∨ 44 < n)

/-- The connection an SPDM_FRAG belongs to: its endpoint's, or with EP zero and the port in KEYING or on a peer port the link
partner's (R474, R498; DEDUCED, log 93). -/
def fragConn (s : State) (p ep : Nat) : Nat :=
  if 8 ≤ p ∨ (s.ports.get? p).any (fun q => q.st = .keying) = true then linkConn p else ep

/-- SPDM_FRAG: fragments of one MSGSEQ, FIRST to LAST, are reassembled up to 4,096 bytes (R498). The message they make is a command
of its own (log 9). -/
def execSpdmFrag (m : MgtMsg) (s : State) : Host.Outcome State Fault Refusal :=
  let b := m.bytes
  let ep := subNat b 1 3
  if heard s m.port true = false then .next s
  else if fragBad b then .next (countBad s m.port)
  else if isDead s ep = true ∧ fragConn s m.port ep = ep then .next s
  else
    let conn := fragConn s m.port ep
    let s := if conn = ep then learn s ep m.port else s
    let c := connOf s conn
    let flags := subNat b 4 1
    let old := if flags.testBit 0 then some [] else match c.frag with
      | some (q, d) => if q = subNat b 6 2 then some d else none
      | none => none
    .next (match old with
      | none => setConn s conn { c with frag := none }
      | some d =>
        let d := d ++ sub b 11 (subNat b 5 1)
        if 4096 < d.length then setConn s conn { c with frag := none }
        else if flags.testBit 1 then setConn s conn { c with frag := none, recv := if flags.testBit 2 then c.recv else d }
        else setConn s conn { c with frag := some (subNat b 6 2, d) })

/-! ### Link keying (R474 to R478) -/

/-- A failed keying stays in KEYING, is recorded and retried after 10 s (R478). -/
def keyingFailed (s : State) (p code kind : Nat) : State :=
  event (modPort s p fun q => { q with key := { q.key with step := 0, retryAt := sec 10 + s.now } }) .keyingFail (srcPort p)
    none none 0 [(0, 1, code), (1, 1, kind)]

/-- Does the link partner's chain end where R474 asks: at a link anchor on a fabric port, at the Kyholt root with the partner's leaf on a peer
port (R451)? -/
def linkChainOk (s : State) (p : Nat) : ChainEnd → Bool
  | .link i => decide (p < 8) && (s.trust.link.get? i).isSome
  | .kyholt d => decide (8 ≤ p) && decide (d = s.pair.cfg.partnerId)
  | .operator _ | .tenant _ | .other => false

/-- LINK_KEYING_RESPONSE (R474, R478). -/
def execLinkKeyingResponse (port : Nat) (k : KeyingStep) (s : State) : Host.Outcome State Fault Refusal :=
  match s.ports.get? port with
  | none => .next s
  | some q =>
    .next (if q.st ≠ .keying ∨ q.key.keyed = true ∨ (q.cfg.keyOff = true ∧ port < 8) then s
      else match k with
        | .advance => modPort s port fun q => { q with key := { q.key with step := q.key.step + 1 } }
        | .finish chain => if linkChainOk s port chain then installKeys s port else keyingFailed s port 0 0
        | .refused => keyingFailed s port 0 0
        | .failed code => keyingFailed s port code 1)

/-- KEYING_RETRY: authentication starts again every 10 s (R478). -/
def execKeyingRetry (port : Nat) (s : State) : Host.Outcome State Fault Refusal :=
  match s.ports.get? port with
  | none => .next s
  | some q =>
    .next (if q.st = .keying ∧ q.key.keyed = false ∧ q.key.retryAt ≤ s.now ∧ ¬(q.cfg.keyOff = true ∧ port < 8) then
      askVersion (modPort s port fun q => { q with key := { q.key with step := 1, retryAt := sec 10 + s.now } }) port
    else s)

/-- Where the current transmit key began: the latest switch points, or the link-up. -/
def keyBase (q : Port) : Nat × Nat × Nat := (q.key.swTx.getLast?).getD (0, 0, 0)

/-- Has a direction's key served 2^34 of some counter, or 3,600 s, the rekey before it being over (R477)? -/
def rekeyDue (s : State) (q : Port) : Bool :=
  let b := keyBase q
  q.key.keyed && q.key.swTxAcked && (decide (sec 3600 + q.key.since ≤ s.now) || decide (2 ^ 34 + b.1 ≤ q.sn.txNext) ||
    decide (2 ^ 34 + b.2.1 ≤ q.sp.txNext) || decide (2 ^ 34 + b.2.2 ≤ q.key.cctrTx))

/-- LINK_REKEY_DUE: the sender announces its switch points, each counter's next value plus 4,096 (R477). -/
def execLinkRekeyDue (port : Nat) (s : State) : Host.Outcome State Fault Refusal :=
  match s.ports.get? port with
  | none => .next s
  | some q =>
    .next (if rekeyDue s q then
      let sw := (q.sn.txNext + 4096, q.sp.txNext + 4096, q.key.cctrTx + 4096)
      let s := { s with ports := s.ports.set port { q with key := { q.key with
        since := s.now, swTx := q.key.swTx ++ [sw], swTxAcked := false } } }
      sendHere s port (.rekey port) (.linkRekey port sw.1 sw.2.1 sw.2.2)
    else s)

/-- LINK_REKEY: the link partner's switch points (R477). -/
def execLinkRekey (m : MgtMsg) (s : State) : Host.Outcome State Fault Refusal :=
  match s.ports.get? m.port with
  | none => .next s
  | some q =>
    .next (if heard s m.port true = false then s
      else if mgtBad m.bytes 0x5F [(8, 24)] || !q.key.keyed then countBad s m.port
      else { s with ports := s.ports.set m.port { q with key := { q.key with
        swRx := q.key.swRx ++ [(subNat m.bytes 8 8, subNat m.bytes 16 8, subNat m.bytes 24 8)] } } })

end Sys2Proof.Machine
end

