-- ==== Sys2Proof/Machine/Mailbox.lean ====
section
/-! DEFINITION. Windows, rings and mailbox messages (R479 to R507): ring acceptance and its general checks, dispatch and
bounds, register writes, alerts, SMBus. -/

namespace Sys2Proof.Machine

/-! ### Writes to a window's address space (R482, R483, R490, R491) -/

/-- Change one window. -/
def modWin (s : State) (n : Nat) (f : Win → Win) : State := { s with win := s.win.modify n f }

/-- The RW fields of windows 0 and 1 are retained (R482). -/
def retainWin (s : State) (n : Nat) : State := if n < 2 then (commit s).1 else s

/-- W1C bits of ALERT_STATUS; on window 0 SMBALERT_N follows (R482, R506). -/
def clearAlerts (s : State) (n : Nat) (bits : BitVec 8) : State :=
  smbUpdate (modWin s n fun w => { w with alertStatus := w.alertStatus &&& ~~~bits })

/-- A byte written to the register block (R482, R483, R490). -/
def regWrite (s : State) (n off : Nat) (v : Byte) : State :=
  match off with
  | 6 => retainWin (modWin s n fun w => { w with
      notify := v.getLsbD 1, alertEn := v.getLsbD 2, overrun := w.overrun && !v.getLsbD 3 }) n
  | 24 => clearAlerts s n v
  | 25 => smbUpdate (retainWin (modWin s n fun w => { w with
      alertMask := if w.cls = .host then (w.alertMask &&& 0xCF) ||| (v &&& 0x30) else v }) n)
  | 32 => if v.getLsbD 0 then modWin s n fun w => { w with ring := true } else s
  | _ => s

/-- A byte written anywhere in a window: header and data buffer take it while BUSY is clear (R481, R491). -/
def winWrite (s : State) (n off : Nat) (v : Byte) : State :=
  if off < 0x40 then regWrite s n off v
  else if off < 0x80 ∨ (0x1000 ≤ off ∧ off < 0x41000) then
    modWin s n fun w => if w.busy then w else { w with mem := NMap.put w.mem off v 0 }
  else s

/-- Bytes written from an offset on, in rising order. -/
def winWrites (s : State) (n : Nat) : Nat → List Byte → State
  | _, [] => s
  | off, b :: t => winWrites (winWrite s n off b) n (off + 1) t

/-- Bytes read from a window (R481, R500). -/
def winBytes (s : State) (n : Nat) (w : Win) (off len : Nat) : List Byte :=
  (List.range len).map fun i => winByte s n w (off + i)

/-! ### Rings (R488 to R490, R495) -/

/-- RING_WRITE: a 1 written to RING presents the command; while RING reads 1 it changes nothing (R490). -/
def execRingWrite (w : Nat) (s : State) : Host.Outcome State Fault Refusal :=
  .next (modWin s w fun x => { x with ring := true })

/-- A field of the command header (R484). -/
def hdr (x : Win) (off n : Nat) : Nat := rdNat x.mem (0x40 + off) n

/-- The message of the MAC: header bytes 0 to 47 with the SH940's fields zero, then the arguments (R486). -/
def macMessage (x : Win) : List Byte :=
  let h := rdBytes x.mem 0x40 48
  ((List.range 48).map fun i => if i = 3 ∨ (12 ≤ i ∧ i < 36) then 0 else (h[i]?).getD 0) ++ x.bytes 0 (hdr x 8 4)

/-- MAC failure on windows 0 and 1 (R486): without a BMC key the MAC must be zero and window 1 takes only queries. -/
def macBad (s : State) (n : Nat) (x : Win) (query : Bool) : Bool :=
  if n < 2 then
    match s.trust.bmcKey with
    | some k => decide (rdBytes x.mem 0x70 16 ≠ sub (Config.hmacBmc k (macMessage x)) 0 16)
    | none => decide (hdr x 48 16 ≠ 0) || (decide (n = 1) && !query)
  else false

/-- Does the pair's feature level, the lower of its two running images', lack a command (R495, R553)? An image has every command of its own
level. -/
def featureLacks (s : State) (op : Nat) : Bool :=
  s.pair.cfg.enable && decide (s.pair.partnerFeature < (runningSlot s).feature) && decide (s.pair.partnerFeature < Config.opFeature op)

/-- The general rules of R495 on an accepted command, in the order of its table, with R486, R496 and R542; the status and
DETAIL of the first that fails. -/
def generalCheck (s : State) (n : Nat) (x : Win) : Option (Nat × Nat) :=
  let op := hdr x 0 2
  match (if hdr x 2 1 ≠ 3 then none else cmdInfo op) with
  | none => some (if hdr x 2 1 ≠ 3 then stVersion else stUnsupported, 0)
  | some i =>
    firstFail [ (s.hw.gradeD1 && d1Refuses x op, stUnsupported, 0),
      (!i.cls.contains x.cls, stDenied, 0),
      (macBad s n x i.query, stDenied, 0),
      (names4095 x op, stDenied, 0),
      (!inScope s x op, stDenied, 0),
      (decide (2 ≤ n ∧ hdr x 48 16 ≠ 0) || decide (hdr x 36 12 ≠ 0), stBadArg, detailHeader),
      (decide (262144 < hdr x 8 4), stBadArg, detailHeader),
      ((argLen x op).any fun l => hdr x 8 4 ≠ l, stBadArg, detailHeader),
      (s.pair.role = .standby && !standbyTakes i, stNotActive, 0),
      (featureLacks s op, stVersion, 0),
      (decide (n < 2) && !s.pwr.ready && !startTakes i, stBusy, 0),
      ((tenantGate s x i).isSome, (tenantGate s x i).getD 0, 0) ]

/-- Commands executing now; Felti executes at most 64 at once (R492). -/
def executing (s : State) : Nat := (s.win.filter fun e => e.2.cmd.any fun c => c.executing).length

/-- Does an accepted command wait to execute (R492)? -/
def commandWaits (s : State) : Bool := s.win.any fun e => e.2.cmd.any fun c => !c.executing

/-- Accept a ring (R489): BUSY, LAST_CSEQ and ACCEPT_TIME, then the general rules; a command that passes executes at once or
waits (R492). -/
def acceptRing (s : State) (n : Nat) (x : Win) : State :=
  let op := hdr x 0 2
  let query := (cmdInfo op).any fun i => i.query
  let c : Cmd := { op := op, order := s.cmdSeq, accept := s.now, executing := decide (executing s < 64) && !commandWaits s
                   objs := if query then [] else cmdObjs x op }
  let x' := { x with
    ring := false, busy := true, lastCseq := hdr x 4 4, cmd := some c, mem := wrBytes x.mem 0x50 (leBytes 8 s.now) }
  let t := retainWin { s with cmdSeq := s.cmdSeq + 1, win := s.win.set n x' } n
  match generalCheck s n x with
  | some (st, d) => finishCmd t n st d []
  | none => t

/-- RING_TAKE: Felti takes the ring and accepts or ignores it (R488 to R490). -/
def ringTake (s : State) (n : Nat) : State :=
  match s.win.get? n with
  | none => s
  | some x =>
    if x.ring = false ∨ s.pwr.feltiOn = false then s
    else
      let cseq := hdr x 4 4
      if cseq = x.lastCseq then modWin s n fun y => { y with ring := false }
      else if x.busy = true ∨ cseq ≠ (x.lastCseq + 1) % 2 ^ 32 then modWin s n fun y => { y with ring := false, overrun := true }
      else acceptRing s n x

def execRingTake (w : Nat) (s : State) : Host.Outcome State Fault Refusal := .next (ringTake s w)

/-- COMMAND_DISPATCH: the accepted command that has waited longest begins to execute (R492). -/
def commandDispatch (s : State) (n : Nat) : State :=
  match (s.win.get? n).bind fun x => x.cmd with
  | none => s
  | some c =>
    let older := s.win.any fun e => e.2.cmd.any fun d => !d.executing && decide (d.order < c.order)
    if c.executing = true ∨ 64 ≤ executing s ∨ older = true ∨ s.pwr.feltiOn = false then s
    else modWin s n fun x => { x with cmd := some { c with executing := true } }

def execCommandDispatch (w : Nat) (s : State) : Host.Outcome State Fault Refusal := .next (commandDispatch s w)

/-- What a command that ends at its bound leaves: nothing completes it any more, a swap or an adoption is given up, the rest
goes on in the background (R249, R492, R510, R577). -/
def dropWindow (s : State) (n : Nat) : State :=
  { s with
    pair := { s.pair with
      swap := match s.pair.swap with
        | some (a, w, t) => if w = n then none else some (a, w, t)
        | none => none
      waits := s.pair.waits.map fun m => if m.win = some n then { m with win := none } else m }
    ten := { s.ten with
      removal := s.ten.removal.map fun e => (e.1, if e.2.w = some n then { e.2 with w := none } else e.2)
      rotation := s.ten.rotation.map fun e => (e.1, if e.2.w = some n then { e.2 with w := none } else e.2) }
    eng := { s.eng with
      ctxs := s.eng.ctxs.map fun e => (e.1,
        { e.2 with
          drain := e.2.drain.map fun d => if d.win = some n then { d with win := none } else d })
      queues := s.eng.queues.map fun e => (e.1, { e.2 with
        destroyBy := if e.2.destroyBy = some n then none else e.2.destroyBy
        held := e.2.held.map fun x => if x.2 = some n then (x.1, none) else x })
      loads := s.eng.loads.erase n
      lasts := s.eng.lasts.map fun e => (e.1, if e.2.stopBy = some n then { e.2 with stopBy := none } else e.2) }
    tier := { s.tier with
      hints := s.tier.hints.map fun h => if h.w = some n then { h with w := none } else h
      shrink := s.tier.shrink.map fun e => if e.2 = some n then (e.1, none) else e }
    flash := { s.flash with adopt := s.flash.adopt.filter fun e => e.2 ≠ n } }

/-- Revoking commands end by their drain's bound (R55, R56). -/
def drainBound (op : Nat) : Bool := [0x0201, 0x0202, 0x0205, 0x0206].contains op

/-- COMMAND_BOUND_EXPIRY: at its bound a command not begun ends `ST_BUSY`, one begun ends `ST_TIMEOUT` (R492). -/
def commandBound (s : State) (n : Nat) : State :=
  match (s.win.get? n).bind fun x => x.cmd with
  | none => s
  | some c =>
    let bound := if c.op = 0x0B02 then sec 600 else ((cmdInfo c.op).map fun i => i.bound).getD (ms 10)
    if s.now < c.accept + bound ∨ s.pwr.feltiOn = false then s
    else if c.begun = false then finishCmd s n stBusy 0 []
    else if drainBound c.op then s
    else finishCmd (dropWindow s n) n stTimeout 0 []

def execCommandBoundExpiry (w : Nat) (s : State) : Host.Outcome State Fault Refusal := .next (commandBound s w)

/-! ### Registers, alerts, FELTI_TICK -/

/-- ALERT_STATUS_CLEAR (R482, R506). -/
def execAlertStatusClear (w : Nat) (bits : BitVec 8) (s : State) : Host.Outcome State Fault Refusal :=
  .next (clearAlerts s w bits)

/-- WINDOW_REGISTER_WRITE: a byte of the register block (R482, R483). -/
def execWindowRegisterWrite (w off : Nat) (v : Byte) (s : State) : Host.Outcome State Fault Refusal :=
  .next (if off < 0x40 then regWrite s w off v else s)

/-- FELTI_TICK: once per millisecond while Felti runs (R497). -/
def execFeltiTick (s : State) : Host.Outcome State Fault Refusal :=
  .next (if s.pwr.feltiOn then { s with clk := { s.clk with feltiTick := (s.clk.feltiTick + 1) % 2 ^ 32 } } else s)

/-- ALERT_HOLDOFF_EXPIRY: a millisecond after an ALERT, what was coalesced is sent (R505). -/
def alertHoldoff (s : State) (n cls : Nat) : State :=
  match s.win.get? n with
  | none => s
  | some w => match w.gaps.find? fun g => g.cls = cls with
    | none => s
    | some g =>
      if s.now < ms 1 + g.since then s
      else
        let rest := w.gaps.filter fun x => x.cls ≠ cls
        if g.count = 0 ∨ w.alertEn = false then { s with win := s.win.set n { w with gaps := rest } }
        else if winPathUp s n w then
          winSay { s with win := s.win.set n { w with gaps := rest ++ [{ cls := cls, since := s.now }] } } n w
            (.alert n (winOwner w) cls g.time g.count g.event g.cursor)
        else { s with win := s.win.set n { w with gaps := rest, alertsDropped := satAdd 16 w.alertsDropped 1 } }

def execAlertHoldoffExpiry (w cls : Nat) (s : State) : Host.Outcome State Fault Refusal := .next (alertHoldoff s w cls)

/-! ### MGT messages (R480, R498 to R503) -/

/-- The port a mailbox message came in on: its own, a peer port, or the port of the SPDM_FRAG messages of a session's endpoint. -/
def pathPort (s : State) : Path → Option Nat
  | .port p => some p
  | .peer p => some p
  | .ethernet => none
  | .session sid => (s.spdm.sessions.get? sid).bind fun x => if x.conn < 2 ^ 18 then some (learnedPort s x.conn) else none

/-- The endpoint a mailbox message comes from: SRC, or the endpoint of its session (R154). -/
def pathEp (s : State) (path : Path) (src : Nat) : Option Nat := match path with
  | .port _ => some src
  | .session sid => (s.spdm.sessions.get? sid).bind fun x => if x.conn < 2 ^ 18 then some x.conn else none
  | _ => none

/-- A message on a fabric port teaches the endpoint's port (R142). -/
def learnPath (s : State) (path : Path) (src : Nat) : State := match path with
  | .port p => learn s src p
  | _ => s

/-- An MBX message is taken up unless its port carries no MGT messages, it is a reserved form, or a dead endpoint sent it (R103,
R115, R154, R498). -/
def mbxTake (s : State) (path : Path) (src : Nat) (bad : Bool) (k : State → State) : State :=
  if (pathPort s path).any (fun p => !heard s p true) then s
  else if bad then (pathPort s path).elim s (countBad s)
  else if (pathEp s path src).any (isDead s) then s
  else k (learnPath s path src)

/-- MBX_OPEN: an endpoint in some access list gets its one HOST window, again if it holds it (R479, R480). -/
def mbxOpen (s : State) (src : Nat) : State :=
  let say := fun (s : State) (w st : Nat) => sendMgt s src fun p => .mbxOpened p src w st
  match s.win.find? fun e => e.2.cls = .host ∧ e.2.owner = src with
  | some e => say s e.1 stOk
  | none =>
    if listedIn s none src = false then say s 0 stDenied
    else match s.win.freeKey 67 957 with
      | none => say s 0 stNoSpace
      | some n => say { s with win := s.win.set n { cls := .host, owner := src } } n stOk

def execMbxOpen (m : MgtMsg) (s : State) : Host.Outcome State Fault Refusal :=
  .next (mbxTake s (.port m.port) (mbxSrc m.bytes) (mbxOpenBad m.bytes) fun s => mbxOpen s (mbxSrc m.bytes))

/-- Does a message come by the window's own path and from its OWNER (R479, R499)? -/
def pathOk (s : State) (path : Path) (n src : Nat) : Bool :=
  match s.win.get? n with
  | none => false
  | some w => decide (winOwner w = src) && match path with
    | .port _ => w.cls = .host
    | .session sid => w.cls ≠ .closed && decide (w.session = some sid)
    | .ethernet => decide (n = 1)
    | .peer _ => decide (n = 66) && w.cls ≠ .closed

/-- MBX_WRITE: 1 to 40 bytes, served by the window hardware (R498 to R500). -/
def execMbxWrite (path : Path) (bytes : List Byte) (s : State) : Host.Outcome State Fault Refusal :=
  .next (mbxTake s path (mbxSrc bytes) (mbxWriteBad bytes) fun s =>
    if pathOk s path (mbxWin bytes) (mbxSrc bytes) then
      winWrites s (mbxWin bytes) (subNat bytes 6 4) (sub bytes 15 (subNat bytes 10 1))
    else s)

/-- The MBX_DATA pieces of a read, 40 bytes each, rising (R500). -/
def readPieces (s : State) (n : Nat) (w : Win) (off len rtag : Nat) : State :=
  (List.range (ceilDiv len 40)).foldl (fun s i =>
    winSay s n w (.mbxData n (winOwner w) (off + 40 * i) (winBytes s n w (off + 40 * i) (min 40 (len - 40 * i))) stOk rtag)) s

/-- MBX_READ: 1 to 1,024 bytes (R498 to R500). The hardware answers at once, so that no window ever holds a fifth outstanding read
(DESIGN CHOICE, log 89). -/
def execMbxRead (path : Path) (bytes : List Byte) (s : State) : Host.Outcome State Fault Refusal :=
  .next (mbxTake s path (mbxSrc bytes) (mbxReadBad bytes) fun s =>
    match s.win.get? (mbxWin bytes) with
    | some x =>
      if pathOk s path (mbxWin bytes) (mbxSrc bytes) then
        readPieces s (mbxWin bytes) x (subNat bytes 6 4) (subNat bytes 10 2) (subNat bytes 12 2)
      else s
    | none => s)

/-- MBX_CLOSE: the endpoint closes its HOST window (R480). -/
def execMbxClose (path : Path) (bytes : List Byte) (s : State) : Host.Outcome State Fault Refusal :=
  .next (mbxTake s path (mbxSrc bytes) (mbxCloseBad bytes) fun s =>
    if pathOk s path (mbxWin bytes) (mbxSrc bytes) && (match path with
      | .port _ => true
      | _ => false) then closeWin s (mbxWin bytes) else s)

/-- A decreased budget comes into force (R110). -/
def budgetInForce (s : State) (ep hall : Nat) : State :=
  { s with acl := s.acl.modify (aclKey hall ep) fun a => { a with inForce := a.budget, notice := none } }

/-- Is a BUDGET_ACK a reserved form (R115, R498)? -/
def budgetAckBad (b : List Byte) : Bool :=
  mgtBad b 0x5D [(1, 5), (8, 2)] || decide (2 ^ 18 ≤ subNat b 1 3 ∨ 4096 ≤ subNat b 4 2)

/-- BUDGET_ACK: takes effect only when NSEQ matches the latest notice (R110, R503). -/
def execBudgetAck (m : MgtMsg) (s : State) : Host.Outcome State Fault Refusal :=
  let src := subNat m.bytes 1 3
  let hall := subNat m.bytes 4 2
  .next (mbxTake s (.port m.port) src (budgetAckBad m.bytes) fun s =>
    match aclOf s hall src with
    | some a => if a.notice.isSome ∧ a.nseq = subNat m.bytes 8 2 then budgetInForce s src hall else s
    | none => s)

/-- BUDGET_DECREASE_TIMEOUT: 1 ms after the notice (R110). -/
def execBudgetDecreaseTimeout (ep hall : Nat) (s : State) : Host.Outcome State Fault Refusal :=
  .next (match aclOf s hall ep with
    | some a => match a.notice with
      | some t => if ms 1 + t ≤ s.now then budgetInForce s ep hall else s
      | none => s
    | none => s)

/-- CONSOLE_UNLOCK_EXPIRY (R523). -/
def execConsoleUnlockExpiry (s : State) : Host.Outcome State Fault Refusal :=
  .next (match s.pwr.consoleUntil with
    | some t => if t ≤ s.now then { s with pwr := { s.pwr with consoleUntil := none } } else s
    | none => s)

/-! ### SMBus (R506, R507, R601, R603) -/

/-- SMBUS_BLOCK_WRITE: up to 28 bytes into window 0; a PEC error discards it (R507). -/
def execSmbusBlockWrite (off : Nat) (data : List Byte) (pecOk : Bool) (s : State) : Host.Outcome State Fault Refusal :=
  .next (if pecOk && decide (data.length ≤ 28) then winWrites s 0 off data else s)

/-- SMBUS_SET_READ_POINTER (R507). -/
def execSmbusSetReadPointer (ptr : Nat) (pecOk : Bool) (s : State) : Host.Outcome State Fault Refusal :=
  .next (if pecOk then { s with pwr := { s.pwr with smbPtr := ptr } } else s)

/-- SMBUS_BLOCK_READ: up to 32 bytes from the read pointer, which advances (R507). -/
def execSmbusBlockRead (len : Nat) (s : State) : Host.Outcome State Fault Refusal :=
  match s.win.get? 0 with
  | none => .next s
  | some w =>
    let n := min len 32
    .next { s with
      pwr := { s.pwr with smbPtr := (s.pwr.smbPtr + n) % 2 ^ 32 }
      out := s.out ++ [.smbus (winBytes s 0 w s.pwr.smbPtr n)] }

/-- SMBUS_ALERT_RESPONSE: the SH940 answers with its own address, 0x4C (R506, R507). -/
def execSmbusAlertResponse (s : State) : Host.Outcome State Fault Refusal := .next { s with out := s.out ++ [.smbus [0x4C]] }

/-- SMBUS_CLOCK_TIMEOUT: the interface is reset and the transaction under way discarded (R601); transactions are commands of
their own, so none is held. -/
def execSmbusClockTimeout (s : State) : Host.Outcome State Fault Refusal := .next s

/-- SMBALERT_STUCK_CHECK: low for 1 s while not driven, or high for 10 ms while driven; one event an hour (R603). -/
def execSmbalertStuckCheck (lineLow : Bool) (s : State) : Host.Outcome State Fault Refusal :=
  let since := s.pwr.smbLineSince
  let bad := (lineLow && !s.pwr.smbAlertLow && decide (sec 1 + since ≤ s.now)) ||
    (!lineLow && s.pwr.smbAlertLow && decide (ms 10 + since ≤ s.now))
  let recent := match s.pwr.smbStuckAt with
    | some t => decide (s.now < sec 3600 + t)
    | none => false
  .next (if bad && !recent then
    event { s with pwr := { s.pwr with smbStuckAt := some s.now } } .smbalertStuck (srcInput 3) none none 0
      [(0, 1, b2n s.pwr.smbAlertLow)] else s)

/-- SMBALERT_HOLDOFF_EXPIRY: 10 ms after its release the line may be driven again (R603). -/
def execSmbalertHoldoffExpiry (s : State) : Host.Outcome State Fault Refusal :=
  .next (match s.pwr.smbReleasedAt with
    | some t => if ms 10 + t ≤ s.now then smbUpdate { s with pwr := { s.pwr with smbReleasedAt := none } } else s
    | none => s)

end Sys2Proof.Machine
end

