-- ==== Sys2Proof/Machine/Queues.lean ====
section
/-! DEFINITION. The work queue engine (F09): doorbells, fetches, ring accesses; admission (R272 to R276); table descriptors and
their drains (R357 to R360, R369 to R371); RESUME (R368); the commands on contexts, queues and receive windows (R514 to
R516). -/

namespace Sys2Proof.Machine

/-! ### Doorbells (R351, R352) -/

/-- Faulted positions of a queue that wait for a slot of its FQ take their records (R367). -/
def retryFaults (s : State) (qid : Nat) : State :=
  s.eng.lasts.foldl (fun s e =>
    if e.2.qid ≠ qid then s
    else e.2.running.foldl (fun s p => match p.fault with
      | some f =>
        if p.st = .faulted ∧ attached s e.2 e.1 p.pos = false then
          postFault s e.1 p.pos f.2.2.2.2 f.2.2.2.1 (b2n f.2.2.1) f.1 f.2.1 p.tile p.faultAt p.faultTmo
        else s
      | none => s) s) s

/-- May this doorbell be accepted (R352)? -/
def qdbOk (q : Queue) (src sqTail cqHead fqHead : Nat) : Bool :=
  let up := fun (m new old : Nat) => (new + m - old) % m
  decide (src = q.owner) && (q.st = .active || q.st = .error) &&
    decide (up 65536 sqTail q.sqTail ≤ 2 ^ q.sqLog ∧ up 65536 cqHead q.cqHead ≤ 2 ^ q.cqLog ∧ up 1024 fqHead q.fqHead ≤ 2 ^ q.fqLog) &&
    decide (up 65536 sqTail q.sqHead ≤ 2 ^ q.sqLog) && decide (up 65536 cqHead q.cqHead ≤ up 65536 q.cqTail q.cqHead) &&
    decide (up 1024 fqHead q.fqHead ≤ up 1024 q.fqTail q.fqHead)

/-- Reserved forms of QDB (R351). -/
def qdbBad (b : List Byte) : Bool :=
  mgtBad b 0x50 [(1, 11)] || decide (2 ^ 13 ≤ subNat b 1 2 ∨ 2 ^ 18 ≤ subNat b 3 3 ∨ 2 ^ 10 ≤ subNat b 10 2)

/-- A doorbell (R352). -/
def qdb (s : State) (qid src sqTail cqHead fqHead : Nat) : State :=
  match s.eng.queues.get? qid with
  | none => s
  | some q =>
    if qdbOk q src sqTail cqHead fqHead then
      retryFaults (modQueue s qid fun q => { q with sqTail := sqTail, cqHead := cqHead, fqHead := fqHead, armed := true }) qid
    else modQueue s qid fun q => { q with dbBad := satAdd 32 q.dbBad 1 }

/-- QDB: a reserved form is discarded and counted, a dead endpoint's message discarded (R115, R154, R351). -/
def execQdb (m : MgtMsg) (s : State) : Host.Outcome State Fault Refusal :=
  let b := m.bytes
  .next (mbxTake s (.port m.port) (subNat b 3 3) (qdbBad b) fun s =>
    qdb s (subNat b 1 2) (subNat b 3 3) (subNat b 6 2) (subNat b 8 2) (subNat b 10 2))

/-! ### Fetches and ring accesses (R347 to R349, R353) -/

/-- DESCRIPTOR_FETCH (R349). -/
def execDescriptorFetch (qid : Nat) (s : State) : Host.Outcome State Fault Refusal :=
  .next (match s.eng.queues.get? qid with
    | some q =>
      if q.st = .active ∧ q.sqHead ≠ q.sqTail ∧ cqUsed q < 2 ^ q.cqLog then
        issueRing (modQueue s qid fun q => { q with
          sqHead := (q.sqHead + 1) % 65536
          descs := q.descs ++ [{ idx := q.sqHead, bytes := [], dtag := 0 }] }) qid 0 q.sqHead none
      else s
    | none => s)

/-- A ring access that failed puts the queue in ERROR, with its event and notice, once; a record it carried is held (R348). The
counter a QERR carries is not stated (log 12). -/
def ringFailed (s : State) (qid : Nat) (q : Queue) (a : RingAcc) (code : CmpCode) : State :=
  let ppa := ((s.halls.get? q.ringHall).map fun h => ppaOf h (slotOff q a.ring a.slot)).getD 0
  let first := !q.failed
  let s := if first then
      event s .queueError srcQueues none (some q.ringHall) ppa [(0, 2, qid), (2, 1, cmpNat code), (3, 1, a.ring)]
    else s
  let s := modQueue s qid fun q => { q with
    failed := true
    st := if q.st = .active then .error else q.st
    descs := if a.ring = 0 then q.descs.filter fun d => d.idx ≠ a.sqIdx else q.descs }
  let t := Config.freeChoice s.free % 65536
  settleDestroy (if first then notice s.tickFree q fun p => .qerr p q.owner qid t else s) qid

/-- A descriptor has come: its fields are taken (R350). -/
def descArrived (s : State) (qid : Nat) (a : RingAcc) : State :=
  let b := lineBytes a.got.data
  settleQueue (modQueue s qid fun q => { q with descs := q.descs.map fun d =>
    if d.idx = a.sqIdx ∧ d.ready = false then { d with bytes := b, dtag := subNat b 4 4, ready := true } else d }) qid

/-- A completion record is written: its waiting window completes, OWNER gets a QCQ when due, the next record follows (R353). -/
def recordWritten (s : State) (qid : Nat) (q : Queue) : State :=
  let tail := (q.cqTail + 1) % 65536
  let w := (q.held.head?).bind fun x => x.2
  let tell := q.cqNotify && q.armed
  let s := modQueue s qid fun q => { q with cqTail := tail, held := q.held.drop 1, armed := q.armed && !tell }
  let s := if tell then notice s q fun p => .qcq p q.owner qid tail else s
  let s := match w with
    | some n => finishCmd s n stOk 0 []
    | none => s
  settleQueue (settleDestroy (writeNext s qid) qid) qid

/-- RING_ACCESS_DONE (R348, R353). -/
def ringDone (s : State) (qid idx : Nat) : State :=
  match s.eng.queues.get? qid with
  | none => s
  | some q => match q.acc.find? fun a => a.idx = idx with
    | none => s
    | some a => match a.code with
      | none => s
      | some code =>
        let s := modQueue s qid fun q => { q with acc := q.acc.filter fun x => x.idx ≠ idx }
        if code ≠ .ok then ringFailed s qid q a code
        else if a.ring = 0 then descArrived s qid a
        else if a.ring = 1 then recordWritten s qid q
        else
          let tail := (q.fqTail + 1) % 1024
          notice (modQueue s qid fun q => { q with fqTail := tail }) q fun p => .qflt p q.owner qid tail

def execRingAccessDone (qid idx : Nat) (s : State) : Host.Outcome State Fault Refusal := .next (ringDone s qid idx)

/-! ### Admission (R272 to R276) -/

/-- Two windows overlap. -/
def overlaps (a b : Nat × Nat) : Bool := decide (a.1 < b.2 ∧ b.1 < a.2)

/-- A claim against the flights of its resource over a window, beside the last's other claims `own` on it and what the subscriber's other
lasts claim there: those whose windows overlap and those that hold a claim past theirs (R275). -/
def claimFits (s : State) (sub : Nat) (win : Nat × Nat) (own : List Claim) (c : Claim) : Bool :=
  match s.flt.get? c.res with
  | none => false
  | some q =>
    let others := sumNat (s.eng.lasts.flatMap fun e =>
      if lastSub s e.2 = sub ∧ (overlaps win (lastWindow e.2) || decide ((lastWindow e.2).2 ≤ s.now)) = true then
        ((liveClaims s e.2).filter fun d => d.res = c.res ∧ d.svc = c.svc).map fun d => d.rate
      else [])
    let mine := sumNat ((own.filter fun d => d.res = c.res ∧ d.svc = c.svc).map fun d => d.rate)
    let ok := fun (f : Flight) (ts : List Tread) => ts.all fun t => decide (mine + others ≤ (pairCir f t sub c.svc).getD 0)
    ok q.active (treadsIn q.active q.t0 win.1 win.2) && (match q.pending with
      | some f => ok f (treadsIn f f.takeover (max win.1 f.takeover) win.2)
      | none => true)

/-- The arguments form canonical 57-bit addresses (R273). -/
def argsFit (img : List Byte) (args : List Nat) : Bool :=
  (imgViews img).all fun v => !(decide (v.space = 0) && inRange v.bind 1 4) || decide (viewBase args v < 2 ^ 57)

/-- Why a start is refused, if it is (R273, R274). -/
def startRefusal (s : State) (qid : Nat) (q : Queue) (d : Desc) : Option Nat :=
  let _ := qid
  let hd := subNat d.bytes 8 2
  let start := subNat d.bytes 16 8
  let args := (List.range 4).map fun i => subNat d.bytes (24 + 8 * i) 8
  match s.eng.ctxs.get? q.ctx with
  | none => some stNotActive
  | some c =>
    if q.st ≠ .active ∨ c.st ≠ .active then some stNotActive
    else match s.eng.loaded.get? hd with
      | none => some stBadArg
      | some x =>
        let img := x.image
        if s.hw.gradeD1 then some stUnsupported
        else if sec 1 + s.now < start ∨ x.tenant ≠ c.tenant ∨ argsFit img args = false then some stBadArg
        else if c.shadow ≠ 0 ∧ imgK img < 2 then some stBadArg
        else if (imgGals img).any fun g => (s.eng.gals.getD g {}).gated || decide ((freeCores s g).length < hdrCpg img) then
          some stBusy
        else
          let at_ := max start s.now
          let win := (at_, at_ + ceilDiv (boundNs img c.shadow) 10)
          if (imgClaims img).all (claimFits s q.sub win (imgClaims img)) then none else some stNoSpace

/-- LAST_START: Felti admits or refuses the last; at admission it begins when its START has come, LATE_START set (R273 to R276,
log 35). -/
def presentStart (s : State) (qid : Nat) : State :=
  if s.pwr.feltiOn = false then s
  else match presented s qid 0x01 with
    | none => s
    | some (q, d) => match startRefusal s qid q d with
      | some st => settleQueue (endDesc s qid d st) qid
      | none =>
        let hd := subNat d.bytes 8 2
        let start := subNat d.bytes 16 8
        let img := ((s.eng.loaded.get? hd).map fun x => x.image).getD []
        let shadow := ((s.eng.ctxs.get? q.ctx).map fun c => c.shadow).getD 0
        let cores := (imgGals img).flatMap fun g => (freeCores s g).take (hdrCpg img)
        let lid := s.eng.nextLid
        let now := decide (start ≤ s.now)
        let l : Last :=
          { qid := qid, sqIdx := d.idx, handle := hd, ctx := q.ctx, args := (List.range 4).map fun i => subNat d.bytes (24 + 8 * i) 8
            start := max start s.now, cores := cores, shadow := shadow, bound := boundNs img shadow
            begunAt := if now then some s.now else none, lateStart := now }
        let s := cores.foldl (fun s p => setCore s p { coreAt s p with holder := some lid }) s
        let s := { s with eng := { s.eng with nextLid := lid + 1, lasts := s.eng.lasts.set lid l } }
        let s := modQueue s qid fun q => { q with
          starts := satAdd 32 q.starts 1
          descs := q.descs.map fun x => if x.idx = d.idx then { x with running := true, lid := some lid } else x }
        let s := if now then goLast (beginChain s lid 0) lid else s
        settleQueue s qid

def execLastStart (qid : Nat) (s : State) : Host.Outcome State Fault Refusal := .next (presentStart s qid)

/-! ### Table descriptors (R357 to R360, R369 to R371) -/

/-- Positions a step waits for: their translation phase has ended and used a page in the range, or in the hall (R370, R515). -/
def drainWaits (s : State) (cid : Nat) (hit : Nat × Nat → Bool) : List (Nat × Nat) :=
  s.eng.lasts.flatMap fun e =>
    if e.2.ctx ≠ cid then [] else (e.2.trans.filter fun t => t.2.any hit).map fun t => (e.1, t.1)

/-- A table descriptor completes, TSEQ one higher (R360). -/
def tableDone (s : State) (qid : Nat) (d : Desc) (ctx digest : Nat) : State :=
  settleQueue (endDesc (modCtx s ctx fun c => { c with tseq := (c.tseq + 1) % 2 ^ 32 }) qid d stOk digest) qid

/-- An epoch step over pages [lo, hi): galleries drop their entries, and the descriptor waits for its drain (R369, R370). -/
def epochStep (s : State) (qid : Nat) (d : Desc) (ctx lo hi : Nat) : State :=
  let waits := drainWaits s ctx fun p => decide (lo ≤ p.1 ∧ p.1 < hi)
  let s := dropCached (modCtx s ctx fun c => { c with tepoch := (c.tepoch + 1) % 65536 }) ctx lo hi
  if waits = [] then tableDone s qid d ctx 0
  else
    let s := modCtx s ctx fun c => { c with drain := some { lo := lo, hi := hi, at_ := s.now, desc := some (qid, d.idx), waits := waits } }
    modQueue s qid fun q => { q with descs := q.descs.map fun x => if x.idx = d.idx then { x with running := true } else x }

/-- Run a table descriptor when it is presented and no drain of its context runs (R371). -/
def runTable (s : State) (qid op : Nat) (body : State → Queue → Desc → Ctx → State) : State :=
  match presented s qid op with
  | none => s
  | some (q, d) =>
    if behindDrain s q d ∨ isCtl s qid q = false then s
    else match s.eng.ctxs.get? q.ctx with
      | none => settleQueue (endDesc s qid d stNotActive) qid
      | some c => if c.st = .active then body s q d c else settleQueue (endDesc s qid d stNotActive) qid

/-- The leaves that overlap pages [lo, hi). -/
def leavesIn (c : Ctx) (lo hi : Nat) : NMap Leaf := c.leaves.filter fun e => decide (e.1 < hi ∧ lo < e.1 + leafPages e.2.size)
def leavesOut (c : Ctx) (lo hi : Nat) : NMap Leaf := c.leaves.filter fun e => ¬(e.1 < hi ∧ lo < e.1 + leafPages e.2.size)
def wholly (lo hi : Nat) (e : Nat × Leaf) : Bool := decide (lo ≤ e.1 ∧ e.1 + leafPages e.2.size ≤ hi)

/-- MAP (R357). -/
def mapBody (s : State) (qid : Nat) (d : Desc) (q : Queue) (c : Ctx) : State :=
  let va := subNat d.bytes 8 8
  let ppa := subNat d.bytes 16 8
  let n := subNat d.bytes 24 4
  let sz := subNat d.bytes 28 1
  let w := (subNat d.bytes 29 1).testBit 0
  let k := leafPages sz
  let lo := va / 4096
  let hi := lo + n * k
  let len := 4096 * (n * k)
  let inHall := match hallAt s ppa with
    | some (hid, h) => c.halls.contains hid && decide (ppa + len ≤ 2 ^ 30 * (h.base + h.size))
    | none => false
  let old := leavesIn c lo hi
  if !inRange n 1 262144 || decide (va % (4096 * k) ≠ 0 ∨ ppa % (4096 * k) ≠ 0 ∨ 2 ^ c.vaBits < va + len) || !inHall ||
      old.any (fun e => decide (e.2.size ≠ sz) && !wholly lo hi e) then settleQueue (endDesc s qid d stBadArg) qid
  else
    let leaves := (List.range n).foldl (fun (m : NMap Leaf) i => m.set (lo + i * k) { size := sz, ppa := ppa + 4096 * (i * k), w := w })
      (leavesOut c lo hi)
    let c' := { c with leaves := leaves }
    if 524288 < allTablePages s - tablePages c + tablePages c' then settleQueue (endDesc s qid d stNoSpace) qid
    else
      let s := modCtx s q.ctx fun c => { c with leaves := leaves }
      if old = [] then tableDone s qid d q.ctx 0 else epochStep s qid d q.ctx lo hi

def execMap (qid : Nat) (s : State) : Host.Outcome State Fault Refusal :=
  .next (runTable s qid 0x10 fun s q d c => mapBody s qid d q c)

/-- UNMAP (R358). -/
def unmapBody (s : State) (qid : Nat) (d : Desc) (q : Queue) (c : Ctx) : State :=
  let va := subNat d.bytes 8 8
  let len := subNat d.bytes 16 8
  let lo := va / 4096
  let hi := lo + len / 4096
  if va % 4096 ≠ 0 ∨ len % 4096 ≠ 0 ∨ 2 ^ 40 < len ∨ (leavesIn c lo hi).any (fun e => !wholly lo hi e) = true then
    settleQueue (endDesc s qid d stBadArg) qid
  else epochStep (modCtx s q.ctx fun c => { c with leaves := leavesOut c lo hi }) qid d q.ctx lo hi

def execUnmap (qid : Nat) (s : State) : Host.Outcome State Fault Refusal :=
  .next (runTable s qid 0x11 fun s q d c => unmapBody s qid d q c)

/-- A canonical entry of SYNC (R359). -/
def syncEntry (c : Ctx) (p : Nat) : Nat := match leafAt c p with
  | some (b, l) => 1 + 4 * b2n l.w + 16 * l.size + 4096 * leafPpa b l p
  | none => 0

/-- SYNC: the digest over the canonical entries of a range (R359). -/
def syncBody (s : State) (qid : Nat) (d : Desc) (q : Queue) (c : Ctx) : State :=
  let va := subNat d.bytes 8 8
  let len := subNat d.bytes 16 8
  if va % 4096 ≠ 0 ∨ len % 4096 ≠ 0 ∨ 2 ^ 30 < len then settleQueue (endDesc s qid d stBadArg) qid
  else
    let bs := (List.range (len / 4096)).flatMap fun i => leBytes 8 (syncEntry c (va / 4096 + i))
    tableDone s qid d q.ctx (leNat ((Config.sha384 bs).take 8))

def execSync (qid : Nat) (s : State) : Host.Outcome State Fault Refusal :=
  .next (runTable s qid 0x12 fun s q d c => syncBody s qid d q c)

/-- Are all the positions of a drain over (R370)? -/
def drainOver (s : State) (d : TDrain) : Bool :=
  d.waits.all fun w => match s.eng.lasts.get? w.1 with
    | some l => (l.trans.get? w.2).isNone
    | none => true

/-- EPOCH_DRAIN_DONE: the descriptor or the unbinding that caused the step completes (R370, R515). -/
def epochDrainDone (s : State) (cid : Nat) : State :=
  match s.eng.ctxs.get? cid with
  | none => s
  | some c => match c.drain with
    | none => s
    | some d =>
      if drainOver s d = false then s
      else
        let s := modCtx s cid fun c => { c with drain := none }
        let s := match d.desc with
          | some (qid, idx) => match (s.eng.queues.get? qid).bind fun q => q.descs.find? fun x => x.idx = idx with
            | some x =>
              let s := modCtx s cid fun c => { c with tseq := (c.tseq + 1) % 2 ^ 32 }
              settleQueue (endDesc s qid x stOk 0 d.ended) qid
            | none => s
          | none => s
        match d.win with
        | some w => finishCmd s w stOk 0 []
        | none => s

def execEpochDrainDone (ctx : Nat) (s : State) : Host.Outcome State Fault Refusal := .next (epochDrainDone s ctx)

/-- EPOCH_DRAIN_TIMEOUT: 50 ms after the step the lasts of the remaining positions are stopped (R370). -/
def epochDrainTimeout (s : State) (cid : Nat) : State :=
  match (s.eng.ctxs.get? cid).bind fun c => c.drain with
  | none => s
  | some d =>
    if s.now < ms 50 + d.at_ then s
    else
      let ls := (d.waits.filter fun w => (s.eng.lasts.get? w.1).any fun l => (l.trans.get? w.2).isSome && l.ending.isNone).map
        fun w => w.1
      let ls := ls.eraseDups
      let s := ls.foldl lastStop s
      modCtx s cid fun c => { c with drain := c.drain.map fun d => { d with ended := d.ended + ls.length } }

def execEpochDrainTimeout (ctx : Nat) (s : State) : Host.Outcome State Fault Refusal := .next (epochDrainTimeout s ctx)

/-! ### RESUME (R368) -/

/-- Every position attached to a record starts its translation phase again (R368). -/
def replayRecord (s : State) (qid : Nat) (f : FaultRec) : State :=
  let s := modQueue s qid fun q => { q with open_ := q.open_.filter fun x => x.fseq ≠ f.fseq }
  f.positions.foldl (fun s p => modPos s f.lid p fun p => { p with st := .translate, reads := [], need := [], fault := none }) s

/-- RESUME: RETRY or STOP for an open record of this queue. -/
def execResume (qid : Nat) (s : State) : Host.Outcome State Fault Refusal :=
  .next (match presented s qid 0x13 with
    | none => s
    | some (q, d) => match q.open_.find? fun f => f.fseq = subNat d.bytes 8 4 with
      | none => settleQueue (endDesc s qid d stBadArg) qid
      | some f =>
        let s := if subNat d.bytes 12 1 = 0 then replayRecord s qid f else lastStop s f.lid
        settleQueue (endDesc s qid d stOk) qid)

/-- FAULT_TMO_EXPIRY: a record without RESUME within FAULT_TMO is handled as STOP (R342, R368). -/
def execFaultTmoExpiry (qid fseq : Nat) (s : State) : Host.Outcome State Fault Refusal :=
  .next (match s.eng.queues.get? qid with
    | some q => match q.open_.find? fun f => f.fseq = fseq with
      | some f => if ms f.tmo + f.time ≤ s.now then lastStop s f.lid else s
      | none => s
    | none => s)

/-! ### Context commands (R514, R515) -/

/-- The context record (R341); an ID without a context reads FREE. -/
def ctxRecord (s : State) (cid : Nat) : List Byte :=
  match s.eng.ctxs.get? cid with
  | none => leBytes 32 (packBits [(16, cid)])
  | some c => leBytes 32 (packBits [ (16, cid), (12, c.tenant), (2, if c.st = .active then 1 else 2), (2, 0), (6, c.vaBits), (2, 0),
      (3, c.shadow), (5, 0), (13, c.ctlQueue), (3, 0), (16, c.tepoch), (16, c.faultTmo), (32, c.tseq), (20, tablePages c), (12, 0),
      (9, c.halls.length), (23, 0), (32, c.faults), (32, 0) ])

/-- A queue ID that a context holds for its first queue (R514). -/
def qidHeld (s : State) (qid : Nat) : Option Nat :=
  (s.eng.ctxs.find? fun e => !e.2.opened && decide (e.2.ctlQueue = qid)).map fun e => e.1

def ctxCreateBody (s : State) (x : Win) : Answer :=
  let t := x.arg 0 2
  let ctl := x.arg 2 2
  let va := x.arg 4 1
  let sh := x.arg 5 1
  let tmo := x.arg 6 2
  guardArg s (badArg [ (!((s.ten.recs.get? t).any fun r => r.st = .active), 0),
    (decide (8192 ≤ ctl) || (s.eng.queues.get? ctl).isSome || (qidHeld s ctl).isSome, 2), (!inRange va 39 57, 4),
    (decide (5 < sh), 5), (decide (10000 < tmo), 6) ]) fun _ =>
    match s.eng.ctxs.freeKey 0 65536 with
    | none => fail s stNoSpace
    | some cid =>
      let c : Ctx := { tenant := t, vaBits := va, shadow := sh, ctlQueue := ctl, faultTmo := if tmo = 0 then 1000 else tmo }
      let s := { s with eng := { s.eng with ctxs := s.eng.ctxs.set cid c } }
      good s (ctxRecord s cid)

def execCtxCreate (w : Nat) (s : State) : Host.Outcome State Fault Refusal := .next (runCmd s w 0x0500 ctxCreateBody)

/-- A FREE context named by a command other than CTX_QUERY. -/
def noCtx (s : State) (cid : Nat) : Bool := (s.eng.ctxs.get? cid).isNone

/-- CTX_DESTROY (R372). -/
def ctxDestroyBody (s : State) (x : Win) : Answer :=
  let cid := x.arg 0 2
  guardArg s (firstFail [ (noCtx s cid, stBadArg, 0), (s.eng.queues.any fun e => e.2.ctx = cid, stBusy, 0) ]) fun _ =>
    good { s with eng := { s.eng with
      ctxs := s.eng.ctxs.erase cid
      gals := s.eng.gals.map fun e => (e.1, { e.2 with cache := e.2.cache.filter fun x => x.1 ≠ cid }) } }

def execCtxDestroy (w : Nat) (s : State) : Host.Outcome State Fault Refusal := .next (runCmd s w 0x0501 ctxDestroyBody)

def execCtxQuery (w : Nat) (s : State) : Host.Outcome State Fault Refusal :=
  .next (runCmd s w 0x0502 fun s x => good s (ctxRecord s (x.arg 0 2)))

/-- CTX_SET (R342). -/
def ctxSetBody (s : State) (x : Win) : Answer :=
  let cid := x.arg 0 2
  let sh := x.arg 2 1
  let tmo := x.arg 4 2
  guardArg s (badArg [ (noCtx s cid, 0), (decide (5 < sh), 2), (decide (x.arg 3 1 ≠ 0), 3), (!inRange tmo 1 10000, 4) ]) fun _ =>
    let s := modCtx s cid fun c => { c with shadow := sh, faultTmo := tmo }
    good s (ctxRecord s cid)

def execCtxSet (w : Nat) (s : State) : Host.Outcome State Fault Refusal := .next (runCmd s w 0x0503 ctxSetBody)

/-- CTX_BIND_HALL (R341, R635). -/
def ctxBindBody (s : State) (x : Win) : Answer :=
  let cid := x.arg 0 2
  let hid := x.arg 2 2
  match s.eng.ctxs.get? cid, s.halls.get? hid with
  | none, _ => fail s stBadArg 0
  | _, none => fail s stBadArg 2
  | some c, some h =>
    if h.state = .destroying then fail s stDraining
    else if h.tenant ≠ c.tenant then fail s stDenied
    else if c.halls.contains hid then good s
    else if 256 ≤ c.halls.length then fail s stNoSpace
    else good (modCtx s cid fun c => { c with halls := c.halls ++ [hid] })

def execCtxBindHall (w : Nat) (s : State) : Host.Outcome State Fault Refusal := .next (runCmd s w 0x0504 ctxBindBody)

/-- CTX_UNBIND_HALL: the binding goes at once; the positions that used the hall drain (R515). -/
def ctxUnbindBody (s : State) (x : Win) : Answer :=
  let cid := x.arg 0 2
  let hid := x.arg 2 2
  match s.eng.ctxs.get? cid with
  | none => fail s stBadArg 0
  | some c =>
    if !c.halls.contains hid then fail s stBadArg 2
    else
      let inHall := fun (p : Nat × Nat) => (s.halls.get? hid).any fun h =>
        decide (2 ^ 18 * h.base ≤ p.2 ∧ p.2 < 2 ^ 18 * (h.base + h.size))
      let waits := drainWaits s cid inHall
      let s' := modCtx s cid fun c => { c with halls := c.halls.filter fun n => n ≠ hid }
      if waits = [] then good s'
      else goesOn (modCtx s' cid fun c => { c with
        drain := some { lo := 0, hi := 0, at_ := s.now, win := cmdWin s x, hall := some hid, waits := waits } })

/-- It waits while another drain of its context runs (R371). -/
def execCtxUnbindHall (w : Nat) (s : State) : Host.Outcome State Fault Refusal :=
  .next (match dueCmd s w 0x0505 with
    | some x =>
      if (s.eng.ctxs.get? (x.arg 0 2)).any fun c => c.drain.isSome then s else runCmd s w 0x0505 ctxUnbindBody
    | none => s)

/-! ### Queue commands (R343 to R345, R372) -/

def queueStateCode : QSt → Nat
  | .active => 1
  | .stopping => 2
  | .error => 3

/-- Lasts of a queue admitted or running. -/
def queueLasts (s : State) (qid : Nat) : NMap Last := s.eng.lasts.filter fun e => e.2.qid = qid

/-- The queue record (R345); an ID without a queue reads FREE. -/
def queueRecord (s : State) (qid : Nat) : List Byte :=
  match s.eng.queues.get? qid with
  | none => leBytes 64 (packBits [(13, qid)])
  | some q => leBytes 64 (packBits [ (13, qid), (3, queueStateCode q.st), (18, q.owner), (2, 0), (12, q.ringHall), (16, q.ctx),
      (11, q.sub), (5, 0), (5, q.sqLog), (5, q.cqLog), (4, q.fqLog), (1, b2n q.cqNotify), (1, 0), (32, q.sqBase), (32, q.cqBase),
      (32, q.fqBase), (16, q.sqHead), (16, q.sqTail), (16, q.cqTail), (16, q.cqHead), (10, q.fqTail), (6, 0), (10, q.fqHead), (6, 0),
      (16, (queueLasts s qid).length), (16, 0), (32, q.starts), (32, q.faults), (32, q.dbBad), (96, 0) ])

/-- Byte ranges of a queue's rings in its ring hall. -/
def ringRanges (q : Queue) : List (Nat × Nat) :=
  [0, 1, 2].map fun r => (4096 * ringBase q r, 4096 * ringBase q r + 64 * 2 ^ ringLog q r)

/-- QUEUE_CREATE (R344, R376, R635). -/
def queueCreateBody (s : State) (x : Win) : Answer :=
  let qid := x.arg 0 2
  let cid := x.arg 2 2
  let owner := x.arg 4 4
  let hid := x.arg 8 2
  let sub := x.arg 10 2
  let q : Queue :=
    { owner := owner, ringHall := hid, ctx := cid, sub := sub, sqLog := x.arg 12 1, cqLog := x.arg 13 1, fqLog := x.arg 14 1
      cqNotify := decide (x.arg 15 1 = 1), sqBase := x.arg 16 4, cqBase := x.arg 20 4, fqBase := x.arg 24 4 }
  match s.eng.ctxs.get? cid, s.halls.get? hid with
  | none, _ => fail s stBadArg (if 8192 ≤ qid ∨ (s.eng.queues.get? qid).isSome = true then 0 else 2)
  | some c, h =>
    let rs := ringRanges q
    let taken := (s.eng.queues.filter fun e => e.2.ringHall = hid).flatMap fun e => ringRanges e.2
    let clash := fun (i : Nat) => match rs[i]? with
      | some r => (taken ++ rs.take i).any (overlaps r) || h.all fun y => decide (2 ^ 30 * y.size < r.2)
      | none => false
    if h.any (fun y => y.state = .destroying) = true then fail s stDraining
    else guardArg s (badArg [
      (decide (8192 ≤ qid) || (s.eng.queues.get? qid).isSome || (qidHeld s qid).any (fun n => n ≠ cid) ||
        (!c.opened && decide (c.ctlQueue ≠ qid)), 0),
      (decide (c.st ≠ .active), 2),
      (decide (2 ^ 18 ≤ owner) || !((rightsOf s hid owner).any fun a => a.read && a.write), 4),
      (!(h.any fun y => y.cls = .resident && decide (y.tenant = c.tenant)), 8),
      (decide (sysSub ≤ sub), 10), (!inRange q.sqLog 6 15, 12), (!inRange q.cqLog 6 15, 13), (!inRange q.fqLog 4 9, 14),
      (decide (1 < x.arg 15 1), 15), (clash 0, 16), (clash 1, 20), (clash 2, 24) ]) fun _ =>
      let s := { s with eng := { s.eng with queues := s.eng.queues.set qid q } }
      let s := modCtx s cid fun c => { c with opened := true }
      good s (queueRecord s qid)

def execQueueCreate (w : Nat) (s : State) : Host.Outcome State Fault Refusal := .next (runCmd s w 0x0506 queueCreateBody)

/-- A queue is withdrawn: STOPPING, its lasts stopped, its open fault records gone, what was not presented dropped (R372). -/
def stopQueue (s : State) (qid : Nat) (w : Option Nat) : State :=
  let s := modQueue s qid fun q => { q with
    st := .stopping, ending := true, destroyBy := w, failed := q.failed || decide (q.st = .error)
    open_ := [], descs := q.descs.filter fun d => d.lid.isSome }
  settleDestroy ((queueLasts s qid).foldl (fun s e => lastStop s e.1) s) qid

/-- QUEUE_DESTROY (R372). -/
def queueDestroyBody (s : State) (x : Win) : Answer :=
  let qid := x.arg 0 2
  match s.eng.queues.get? qid, cmdWin s x with
  | some _, some w => goesOn (stopQueue (markBegun s w) qid (some w))
  | _, _ => fail s stBadArg 0

def execQueueDestroy (w : Nat) (s : State) : Host.Outcome State Fault Refusal := .next (runCmd s w 0x0507 queueDestroyBody)

def execQueueQuery (w : Nat) (s : State) : Host.Outcome State Fault Refusal :=
  .next (runCmd s w 0x0508 fun s x =>
    if 8192 ≤ x.arg 0 2 then fail s stBadArg 0 else good s (queueRecord s (x.arg 0 2)))

/-- QUEUE_SET (R345). -/
def queueSetBody (s : State) (x : Win) : Answer :=
  let qid := x.arg 0 2
  guardArg s (badArg [((s.eng.queues.get? qid).isNone, 0), (decide (1 < x.arg 2 1), 2)]) fun _ =>
    let s := modQueue s qid fun q => { q with cqNotify := decide (x.arg 2 1 = 1) }
    good s (queueRecord s qid)

def execQueueSet (w : Nat) (s : State) : Host.Outcome State Fault Refusal := .next (runCmd s w 0x0509 queueSetBody)

/-- RXWIN_SET (R288, R516). -/
def rxwinSetBody (s : State) (x : Win) : Answer :=
  let n := x.arg 0 2
  let t := x.arg 2 2
  let ep := x.arg 4 4
  let size := x.arg 8 8
  guardArg s (firstFail [ (!((s.ten.recs.get? t).isSome), stBadArg, 2), (decide (2 ^ 18 ≤ ep), stBadArg, 4),
    (decide (2 ^ 40 < size), stBadArg, 8), (x.cls = .host && decide (ep ≠ x.owner), stDenied, 0),
    ((s.eng.rx.get? n).any fun r => r.ep ≠ ep, stBusy, 0) ]) fun _ =>
    let r : RxWin := { tenant := t, ep := ep, size := size }
    good { s with eng := { s.eng with rx := if size = 0 then s.eng.rx.erase n else s.eng.rx.set n r } }

def execRxwinSet (w : Nat) (s : State) : Host.Outcome State Fault Refusal := .next (runCmd s w 0x050A rxwinSetBody)

end Sys2Proof.Machine
end

