-- ==== Sys2Proof/Machine/Tenants.lean ====
section
/-! DEFINITION. Tenants and their keys (F12): creation and loading (R452, R459 to R463, R473), rotation and sweep (R463 to
R466), retirement and removal (R467, R468, R470), the end of revocation drains (R55, R56). -/

namespace Sys2Proof.Machine

/-! ### Keys (R452 to R455, R471) -/

def tenantAt (s : State) (t : Nat) : Tenant := s.ten.recs.getD t {}
def modTenant (s : State) (t : Nat) (f : Tenant → Tenant) : State :=
  { s with ten := { s.ten with recs := s.ten.recs.modify t f } }

/-- Halls of a tenant. -/
def tenantHalls (s : State) (t : Nat) : NMap Hall := s.halls.filter fun e => e.2.tenant = t

/-- A key slot filled with a key: ACTIVE at once when no partner is READY, else once the partner has its copy, which goes out with the
next PEER session where there is none (R455); a SEALED tenant's is kept sealed (R471). -/
def fillSlot (s : State) (t gen key : Nat) (manifest : List Byte) : State :=
  let r := tenantAt s t
  let wait := s.pair.partnerReady
  let k : KeySlot :=
    { st := if wait then .awaiting else .active, key := key, copyPending := wait
      sealedKey := if r.sealKeys then some key else none, kcv := Config.kcv key, manifest := manifest }
  let s := modTenant s t fun r => { setSlot r gen k with sealSvn := if r.sealKeys then feltiSvn s else r.sealSvn }
  if wait && s.pair.peerPath then (sendMirror s (.keySlot t gen (some key))).1 else s

/-- A fresh key of a LOCAL tenant: the guard die's random source (log 14). -/
def drawKey (s : State) : State × Nat := (s.tickFree, Config.randomKey s.free)

/-- Does a binding manifest keep its fixed bytes: MAGIC, FORMAT, NDEV, the reserved bits, the entries beyond NDEV (R10, R459)? -/
def manifestForm (m : List Byte) : Bool :=
  let n := subNat m 5 1
  decide (subNat m 0 4 = 0x4E414D4B ∧ subNat m 4 1 = 1 ∧ subNat m 6 1 < 2 ∧ subNat m 7 1 = 0 ∧ subNat m 12 4 = 0) && inRange n 1 16 &&
    (sub m (176 + 128 * n) (128 * (16 - n))).all fun b => b = 0

/-- A binding manifest as the guard die judges it (R445, R459 to R461): the key it yields. -/
def manifestKey (s : State) (r : Tenant) (gen : Nat) (m : List Byte) : Option Nat :=
  let entries := (List.range (subNat m 5 1)).map fun i => sub m (176 + 128 * i) 48
  let ok := decide (subNat m 6 1 = gen ∧ r.manifestSeq < subNat m 16 8 ∧ subNat m 8 4 ≤ feltiSvn s) && mayUnseal s &&
    (entries.any fun e => decide (leNat e = Config.deviceId)) &&
    (s.pair.role = .unpaired || entries.any fun e => decide (leNat e = s.pair.cfg.partnerId))
  if ok then match Config.unwrapManifest r.anchor m with
    | some k => if Config.kcv k = subNat m 72 8 then some k else none
    | none => none
  else none

/-- The tenant record (R453); an ID without a tenant reads FREE. -/
def tenantRecord (s : State) (t : Nat) : List Byte :=
  match s.ten.recs.get? t with
  | none => leBytes 64 (packBits [(12, t)])
  | some r =>
    let st := match r.st with
      | .free => 0
      | .active => 1
      | .removing => 2
      | .retired => 3
    let ks := fun (k : KeySlot) => match k.st with
      | .empty => 0
      | .active => 1
      | .draining => 2
      | .awaiting => 3
      | .retired => 4
    leBytes 64 (packBits [ (12, t), (2, originCode r.origin), (1, b2n r.sealKeys), (1, r.cur), (2, st), (3, ks r.slot0), (3, ks r.slot1),
      (1, b2n (r.retiring && decide (r.st = .removing))), (7, 0), (32, r.sealSvn), (64, r.manifestSeq), (64, r.slot0.kcv),
      (64, r.slot1.kcv), (32, r.sweep.getD 0), (12, (tenantHalls s t).length), (20, 0), (32, r.rotations), (160, 0) ])

/-! ### TENANT_CREATE, TENANT_QUERY, TENANT_KEY_LOAD (R452, R461, R462, R473, R513) -/

def tenantCreateBody (s : State) (x : Win) : Answer :=
  let t := x.arg 0 2
  let org := x.arg 2 1
  let sld := x.arg 3 1
  let cl := x.arg 4 2
  let ml := x.arg 6 2
  let man := x.bytes (align8 (8 + cl)) ml
  guardArg s (badArg [ (decide (4095 < t) || (s.ten.recs.get? t).isSome, 0), (decide (2 < org), 2),
    (decide (1 < sld ∨ (sld = 1 ∧ org ≠ 0)), 3), (decide (cl = 0), 4),
    (decide (ml ≠ 0 ∧ (org ≠ 1 ∨ ml ≠ 2320)), 6),
    ((x.bytes (8 + cl) (align8 (8 + cl) - (8 + cl))).any (fun b => b ≠ 0), 8 + cl),
    (decide (ml ≠ 0) && !manifestForm man, align8 (8 + cl)) ]) fun _ =>
    let r : Tenant :=
      { origin := if org = 0 then .localKey else if org = 1 then .bound else .released
        sealKeys := decide (sld = 1), anchor := x.bytes 8 cl }
    let put := fun (s : State) (r : Tenant) => { s with ten := { s.ten with recs := s.ten.recs.set t r } }
    let made : Option State := match r.origin with
      | .localKey =>
        let (u, k) := drawKey (put s r)
        some (fillSlot u t 0 k [])
      | .bound =>
        if ml = 0 then some (put s { r with slot0 := { st := .awaiting } })
        else (manifestKey s r 0 man).map fun k => fillSlot (put s { r with manifestSeq := subNat man 16 8 }) t 0 k man
      | .released => some (put s { r with slot0 := { st := .awaiting } })
    match made with
    | none => fail s stDenied
    | some u => retain s u fun u => good u (tenantRecord u t)

def execTenantCreate (w : Nat) (s : State) : Host.Outcome State Fault Refusal := .next (runRetained s w 0x0400 tenantCreateBody)

def execTenantQuery (w : Nat) (s : State) : Host.Outcome State Fault Refusal :=
  .next (runCmd s w 0x0401 fun s x =>
    if 4095 < x.arg 0 2 then fail s stBadArg 0 else good s (tenantRecord s (x.arg 0 2)))

/-- A FREE tenant named by a command of this table (R513). -/
def noTenant (s : State) (t : Nat) : Bool := (s.ten.recs.get? t).isNone

/-- TENANT_KEY_LOAD: a wrapped RELEASED key for a slot that awaits one (R445, R462, R472, R473). -/
def tenantKeyLoadBody (s : State) (x : Win) : Answer :=
  let t := x.arg 0 2
  let gen := x.arg 2 1
  let r := tenantAt s t
  let k := tenantSlot r gen
  guardArg s (badArg [ (noTenant s t || decide (r.origin ≠ .released), 0), (decide (1 < gen) || decide (k.st ≠ .awaiting) ||
      k.copyPending, 2), (decide (x.arg 3 1 ≠ 0), 3), (decide (x.arg 4 4 ≠ 0), 4),
    (decide (x.arg 108 4 ≠ 0), 108) ]) fun _ =>
    if !mayUnseal s then fail s stDenied
    else match x.session with
      | none => fail s stDenied
      | some sid => match Config.unwrapKey sid (x.bytes 8 104) with
        | none => fail s stDenied
        | some (key, kcv) =>
          if kcv ≠ Config.kcv key ∨ (k.kcv ≠ 0 ∧ k.kcv ≠ kcv) then fail s stBadArg 8
          else
            let s := commitSelf (fillSlot s t gen key [])
            good s (tenantRecord s t)

def execTenantKeyLoad (w : Nat) (s : State) : Host.Outcome State Fault Refusal := .next (runCmd s w 0x0403 tenantKeyLoadBody)

/-! ### Rotation (R463 to R466) -/

/-- The slot of ¬CUR is ACTIVE: CUR flips and the sweep starts (R463). -/
def flipCur (s : State) (t : Nat) : State := modTenant s t fun r => { r with cur := 1 - r.cur, sweep := some 0 }

/-- The key a rotation brings, by ORIGIN (R461 to R463); a RELEASED key that does not match its own KCV is none (R473). -/
def rotationKey (s : State) (x : Win) (r : Tenant) : Option (State × Option Nat × List Byte) :=
  let n := x.arg 2 2
  match r.origin with
  | .localKey => let (u, k) := drawKey s
    some (u, some k, [])
  | .bound => (manifestKey s r (1 - r.cur) (x.bytes 8 n)).map fun k => (s, some k, x.bytes 8 n)
  | .released =>
    if !mayUnseal s then none
    else (x.session.bind fun sid => Config.unwrapKey sid (x.bytes 8 n)).map fun (k, kcv) =>
      (s, if kcv = Config.kcv k then some k else none, [])

def tenantRotateBody (s : State) (x : Win) : Answer :=
  let t := x.arg 0 2
  let r := tenantAt s t
  let want := match r.origin with
    | .localKey => 0
    | .bound => 2320
    | .released => 104
  guardArg s (firstFail [ (noTenant s t, stBadArg, 0), (decide (x.arg 2 2 ≠ want), stBadArg, 2), (decide (x.arg 4 4 ≠ 0), stBadArg, 4),
    (decide (r.origin = .bound) && !manifestForm (x.bytes 8 2320), stBadArg, 8),
    (decide (r.origin = .released ∧ x.arg 108 4 ≠ 0), stBadArg, 108),
    (r.sweep.isSome || decide ((tenantSlot r (1 - r.cur)).st ≠ .empty), stBusy, 0) ]) fun _ =>
    match rotationKey s x r with
    | none => fail s stDenied
    | some (_, none, _) => fail s stBadArg 8
    | some (u, some key, man) =>
      let u := modTenant u t fun r => { r with manifestSeq := if man = [] then r.manifestSeq else subNat man 16 8 }
      let u := fillSlot u t (1 - r.cur) key man
      if (tenantSlot (tenantAt u t) (1 - r.cur)).st = .active then
        retain s (flipCur u t) fun u => good u (tenantRecord u t)
      else retain s u fun u =>
        goesOn { u with ten := { u.ten with rotation := u.ten.rotation.set t { w := cmdWin s x, step := 0, gen := 1 - r.cur } } }

def execTenantKeyRotate (w : Nat) (s : State) : Host.Outcome State Fault Refusal := .next (runRetained s w 0x0402 tenantRotateBody)

/-- KEY_COPY_ACK: the partner holds the copy of slot tenant × 2 + GEN; a rotation that waited for it flips CUR (R455, R463). -/
def keyCopyAck (s : State) (slot : Nat) : State :=
  let t := slot / 2
  let gen := slot % 2
  match s.ten.recs.get? t with
  | none => s
  | some r =>
    let k := tenantSlot r gen
    if !k.copyPending then s
    else
      let s := modTenant s t fun r => setSlot r gen { k with st := .active, copyPending := false }
      match s.ten.rotation.get? t with
      | some o =>
        if o.gen ≠ gen then s
        else
          let s := commitSelf (flipCur { s with ten := { s.ten with rotation := s.ten.rotation.erase t } } t)
          match o.w with
          | some w => finishCmd s w stOk 0 (tenantRecord s t)
          | none => s
      | none => s

/-- No partner is READY any more: the slots whose copy is outstanding become ACTIVE (R455). -/
def releaseCopies (s : State) : State :=
  s.ten.recs.foldl (fun s e => [0, 1].foldl (fun s g => keyCopyAck s (2 * e.1 + g)) s) s

def execKeyCopyAck (slot : Nat) (s : State) : Host.Outcome State Fault Refusal := .next (keyCopyAck s slot)

/-- DRAM ranges a hall occupies: channel, first address, end (R415). -/
def hallRanges (s : State) (hid : Nat) (h : Hall) : List (Nat × Nat × Nat) :=
  match h.cls with
  | .resident => h.extents.map fun e => (e.1, 2 ^ 30 * e.2, 2 ^ 30 * (e.2 + 1))
  | _ => (hallBlocks s hid).flatMap fun e => e.2.slots.map fun x => (x.1, x.2, x.2 + slotBytes h)

/-- The first written granule of the tenant's halls that carries the other GEN, with its hall (R464). -/
def oldGranule (s : State) (t cur : Nat) : Option (Nat × Hall × Nat × Nat) :=
  (tenantHalls s t).findSome? fun e =>
    let rs := hallRanges s e.1 e.2
    (s.dram.mem.find? fun g => g.2.written && decide (g.2.gen ≠ cur) && rs.any fun r =>
      decide (granKey r.1 r.2.1 ≤ g.1 ∧ g.1 < granKey r.1 r.2.2)).map fun g => (e.1, e.2, g.1 / 2 ^ 34, g.1 % 2 ^ 34 * 16)

/-- The flash units of a hall and of its journal (R231). -/
def hallUnits (s : State) (hid : Nat) (h : Hall) : List Nat :=
  let r := tierRec s hid
  let gib := fun (f n : Nat) => (List.range (262144 * n)).map fun i => 262144 * f + i
  match h.cls with
  | .resident => []
  | .tiered => gib r.fbase h.size
  | .persistent => gib r.fbase h.size ++ gib r.jbase 1

/-- The first STORED flash unit of the tenant that carries the other GEN (R464). -/
def oldUnit (s : State) (t cur : Nat) : Option (Nat × UnitMeta) :=
  match s.flash.units.find? fun u => decide (u.2.gen ≠ cur) && (s.halls.get? u.2.hall).any fun h => h.tenant = t with
  | some x => some x
  | none =>
    if s.flash.foreign.isNone then none
    else (tenantHalls s t).findSome? fun e => (hallUnits s e.1 e.2).findSome? fun u =>
      (unitAt s u).bind fun m => if m.gen ≠ cur then some (u, m) else none

/-- A flash unit is read and written again under CUR, once the bits its write needs are durable; what cannot be read is written as
poison (R239, R464). -/
def sweepUnit (s : State) (r : Tenant) (u : Nat) (m : UnitMeta) : State :=
  if flashHalt s || rowBusy s (rowOf u) || !s.flash.ctlOps.isEmpty then s
  else if needsBits s [u] then ctlSettle (ctlWrite (setBitsFor s [u])).1
  else
    let lost := decide (unitRead s [] u = .lost)
    let new : NMap (UnitMeta × List Line) :=
      [(u, ({ m with gen := r.cur, key := (tenantSlot r r.cur).key, poison := if lost then 0xFF else m.poison }, unitData s u))]
    let s := readRows s ((readSlots s [] u ++ preSlots s [u]).eraseDups) (.row (rowOf u)) sysSub 5
    putUnits (writeRows (setIntent s [u]) new (writeSlots s [u]) .s5write (.row (rowOf u)) sysSub 5) new

/-- A hall whose journal holds a record of the other GEN, and that record (R465). -/
def oldRecord (s : State) (t cur : Nat) : Option (Nat × Hall × JRec) :=
  (tenantHalls s t).findSome? fun e => (s.jrn.get? e.1).bind fun j =>
    ((j.recs.filter fun r => r.gen ≠ cur).getLast?).map fun r => (e.1, e.2, r)

/-- Re-encrypt one granule under CUR; what cannot be decoded or carries POISON is rewritten as poison (R425, R464). -/
def sweepGranule (s : State) (hid : Nat) (h : Hall) (c ca : Nat) : State :=
  let g := granAt s c ca
  let dec := if h.light then decodeLight s g.err
    else decodePair s ((List.range 8).map fun i => (granAt s c (ca / 128 * 128 + 16 * i)).err)
  let lost := decide (dec = .uncorrectable) || g.poison
  let old := genSlot s hid h g.gen
  let new : Granule := if lost then poisonGranule s hid h
    else { g with gen := curGen s hid h, key := (curSlot s hid h).key, err := 0
                  data := if g.key = old.key then g.data else Config.beyondData (s.free + g.key) }
  xfer (putGran s.tickFree c ca new) (8 + c) sysSub 5 (if h.light then 64 else 128) ca

/-- SWEEP_STEP: the next granule, unit or journal of a sweep is brought under CUR (R464, R465). The progress SWEEP_POS shows is
not stated beyond rising (log 12). -/
def sweepStep (s : State) (t : Nat) : State :=
  match s.ten.recs.get? t with
  | none => s
  | some r => match r.sweep with
    | none => s
    | some p =>
      if r.st ≠ .active then s
      else
        let on := fun (u : State) =>
          let q := max p (Config.freeChoice u.free % 2 ^ 32)
          let u := commitSelf (modTenant u.tickFree t fun r => { r with sweep := some q })
          if mirrorLive u then mirrorNote u (.sweepPos t q) else u
        match oldGranule s t r.cur with
        | some (hid, h, c, ca) => on (sweepGranule s hid h c ca)
        | none => match oldUnit s t r.cur with
          | some (u, m) => on (sweepUnit s r u m)
          | none => match oldRecord s t r.cur with
            | some (hid, h, x) => match (recBlocks h x).head? with
              | some b =>
                if (s.jrn.get? hid).any fun j => j.goals.any fun g => decide (x.jseq ≤ g.1) then s
                else settleTier (writeBack s hid h b false)
              | none => s
            | none => s

def execSweepStep (tenant : Nat) (s : State) : Host.Outcome State Fault Refusal := .next (sweepStep s tenant)

/-- SWEEP_END: nothing carries the old GEN; its slot is zeroised on both partners and EMPTY (R465). -/
def sweepEnd (s : State) (t : Nat) : State :=
  match s.ten.recs.get? t with
  | none => s
  | some r =>
    if r.sweep.isNone ∨ r.st ≠ .active ∨ (oldGranule s t r.cur).isSome = true ∨ (oldUnit s t r.cur).isSome = true ∨
        (oldRecord s t r.cur).isSome = true then s
    else
      let s := if mirrorLive s then (sendMirror s (.keySlot t (1 - r.cur) none)).1 else s
      commitSelf (modTenant s t fun r => { setSlot r (1 - r.cur) {} with sweep := none, rotations := satAdd 32 r.rotations 1 })

def execSweepEnd (tenant : Nat) (s : State) : Host.Outcome State Fault Refusal := .next (sweepEnd s tenant)

/-! ### Retirement and removal (R467, R468, R470) -/

def removalOf (s : State) (t : Nat) : Option TenOp := s.ten.removal.get? t
def setRemoval (s : State) (t : Nat) (o : TenOp) : State := { s with ten := { s.ten with removal := s.ten.removal.set t o } }
def endRemoval (s : State) (t : Nat) : State := { s with ten := { s.ten with removal := s.ten.removal.erase t } }

/-- Steps 1 and 2: every last of the tenant's contexts is stopped, the contexts become DRAINING (R467). -/
def stopTenant (s : State) (t : Nat) : State :=
  let mine := fun (c : Nat) => (s.eng.ctxs.get? c).any fun x => x.tenant = t
  let ls := (s.eng.lasts.filter fun e => mine e.2.ctx).map fun e => e.1
  let s := { s with eng := { s.eng with ctxs := s.eng.ctxs.map fun e =>
    (e.1, if e.2.tenant = t then { e.2 with st := .draining } else e.2) } }
  ls.foldl lastStop s

/-- Step 4: both slots become DRAINING (R467). -/
def drainSlots (s : State) (t : Nat) (o : TenOp) : State :=
  let go := fun (k : KeySlot) => { k with st := .draining, copyPending := false }
  setRemoval (modTenant s t fun r => { r with slot0 := go r.slot0, slot1 := go r.slot1 }) t { o with step := 4, drainAt := s.now }

/-- Traffic under a tenant's slots: requests that passed their check, landings, writebacks, commits, engine and ring accesses, mirror
records (R467). -/
def slotTraffic (s : State) (t : Nat) : Bool :=
  let mine := fun (hid : Nat) => (s.halls.get? hid).any fun h => h.tenant = t
  (s.home.lines.any fun e => (e.2.fifo.any fun r => mine r.hall) || e.2.active.any fun a => mine a.req.hall) ||
    (s.tier.blocks.any fun b => mine (b.1 / 2 ^ 32) && (b.2.st = .landing || b.2.st = .flushing || b.2.st = .evicting true)) ||
    (s.welt.slots.any fun w => mine w.2.hall && (w.2.st = .committing || w.2.st = .aborting)) ||
    (s.eng.lasts.any fun l => (s.eng.ctxs.get? l.2.ctx).any (fun c => c.tenant = t) && !l.2.reqs.isEmpty) ||
    (s.eng.queues.any fun q => mine q.2.ringHall && !q.2.acc.isEmpty) ||
    (s.home.wbHeld.any fun w => (hallAt s (64 * w.line)).any fun x => mine x.1) || (s.home.resends.any fun x => mine x.req.hall) ||
    (s.flash.jobs.any fun j => decide (j.st ≠ .waiting) && (match j.kind with
      | .block hid _ | .record hid _ | .super hid => mine hid
      | .free _ _ => false)) ||
    s.pair.waits.any fun w => (w.welt.any fun i => (s.welt.slots.get? i).any fun x => mine x.hall) ||
      w.send.any fun (c : Nat × Cargo × Emit) => match c.2.1 with
        | .rsp ep tag => (s.home.trackers.get? (ep * 65536 + tag)).any fun k => mine k.hall
        | _ => false

/-- The tenant is FREE once RETIRED with no hall left (R468, R470). -/
def freeTenant (s : State) (t : Nat) : State :=
  if (s.ten.recs.get? t).any (fun r => r.st = .retired) && (tenantHalls s t).isEmpty then
    commitSelf { s with ten := { s.ten with recs := s.ten.recs.erase t } }
  else s

/-- Blocks not yet written back are dropped, writebacks that have not started given up; the flash copies stand (R469, R470). -/
def dropDirty (s : State) (t : Nat) : State :=
  let mine := fun (hid : Nat) => (s.halls.get? hid).any fun h => h.tenant = t
  let gone := s.tier.blocks.filter fun b => mine (b.1 / 2 ^ 32) && !(b.2.st = .clean || b.2.st = .landing || b.2.st = .evicting false)
  let s := gone.foldl (fun s b => dropBlock s (b.1 / 2 ^ 32) (b.1 % 2 ^ 32)) s
  dropJobs s fun k => match k with
    | .block hid _ => mine hid
    | _ => false

/-- Step 5: both slots are zeroised on both partners, sealed copies erased, the tenant RETIRED, the command complete (R468,
R470). -/
def zeroise (s : State) (t : Nat) (o : TenOp) : State :=
  let s := dropDirty s t
  let gone := fun (k : KeySlot) => { k with st := KState.retired, key := 0, sealedKey := none, copyPending := false }
  let s := modTenant s t fun r => { r with st := .retired, retiring := false, slot0 := gone r.slot0, slot1 := gone r.slot1, sweep := none }
  let s := if mirrorLive s then (sendMirror (sendMirror s (.keySlot t 0 none)).1 (.keySlot t 1 none)).1 else s
  let s := commitErase (endRemoval s t)
  let rec_ := if o.gen = 1 then tenantRecord s t else []
  let s := freeTenant s t
  let s := match o.w with
    | some w => finishCmd s w (if o.late then stTimeout else stOk) 0 rec_
    | none => s
  settleTier s

/-- Step 3: every hall that is not yet being destroyed and drains nothing is destroyed; once each destroy has completed or is
late, step 4 follows (R467, R470). -/
def settleRemoval (s : State) (t : Nat) : State :=
  match removalOf s t with
  | none => s
  | some o =>
    if o.step ≠ 3 then s
    else
      let s := (tenantHalls s t).foldl (fun s e =>
        if (s.drains.get? e.1).isSome ∨ e.2.state = .destroying then s else startDestroy s e.1 none) s
      let left := tenantHalls s t
      let late := left.any fun e => (s.drains.get? e.1).any fun d => decide (d.kind = .destroy) && d.late
      let wait := left.any fun e => !((s.drains.get? e.1).any fun d => decide (d.kind = .destroy) && d.late)
      if wait then s
      else
        let o := { o with late := o.late || late }
        if (s.ten.recs.get? t).any fun r => r.st = .retired then
          let s := freeTenant (endRemoval s t) t
          match o.w with
          | some w => finishCmd s w (if o.late then stTimeout else stOk) 0 []
          | none => s
        else drainSlots s t o

/-- TENANT_REMOVE (R467, R468, R470). -/
def tenantRemoveBody (s : State) (x : Win) : Answer :=
  let t := x.arg 0 2
  match s.ten.recs.get? t with
  | none => fail s stBadArg 0
  | some r =>
    let o : TenOp := { w := cmdWin s x, step := 3 }
    if r.st = .retired then goesOn (settleRemoval (setRemoval (markWin s x) t o) t)
    else retain s (modTenant s t fun r => { r with st := .removing, retiring := false }) fun u =>
      goesOn (settleRemoval (setRemoval (stopTenant (markWin u x) t) t o) t)
where
  markWin (s : State) (x : Win) : State := match cmdWin s x with
    | some w => markBegun s w
    | none => s

def execTenantRemove (w : Nat) (s : State) : Host.Outcome State Fault Refusal := .next (runRetained s w 0x0405 tenantRemoveBody)

/-- TENANT_KEY_RETIRE: steps 1, 2, 4 and 5, the halls stay (R470). -/
def tenantRetireBody (s : State) (x : Win) : Answer :=
  let t := x.arg 0 2
  match s.ten.recs.get? t with
  | none => fail s stBadArg 0
  | some _ =>
    retain s (modTenant s t fun r => { r with st := .removing, retiring := true }) fun u =>
      goesOn (drainSlots (stopTenant u t) t { w := cmdWin s x, step := 4, gen := 1 })

def execTenantKeyRetire (w : Nat) (s : State) : Host.Outcome State Fault Refusal := .next (runRetained s w 0x0404 tenantRetireBody)

/-- KEY_TRAFFIC_DRAINED: no traffic remains under the slots (R467). -/
def execKeyTrafficDrained (tenant : Nat) (s : State) : Host.Outcome State Fault Refusal :=
  .next (match removalOf s tenant with
    | some o => if o.step = 4 ∧ slotTraffic s tenant = false then zeroise s tenant o else s
    | none => s)

/-- TENANT_DRAIN_TIMEOUT: 20 ms after the slots became DRAINING they are zeroised whatever remains (R467, R468). -/
def execTenantDrainTimeout (tenant : Nat) (s : State) : Host.Outcome State Fault Refusal :=
  .next (match removalOf s tenant with
    | some o => if o.step = 4 ∧ ms 20 + o.drainAt ≤ s.now then zeroise s tenant { o with late := true } else s
    | none => s)

/-! ### The end of revocation drains (R55, R56) -/

/-- What a hall's drain means to its tenant: a removal goes on, a RETIRED tenant without halls is FREE (R467, R470). -/
def afterDrain (s : State) (t : Nat) : State := freeTenant (settleRemoval s t) t

/-- REVOCATION_DRAIN_DONE (R55, R59). -/
def execRevocationDrainDone (hall : Nat) (s : State) : Host.Outcome State Fault Refusal :=
  .next (match s.drains.get? hall, s.halls.get? hall with
    | some d, some h => if drained s hall h d then afterDrain (endDrain s hall h d) h.tenant else s
    | _, _ => s)

/-- REVOCATION_DRAIN_TIMEOUT: the bound passes; the withdrawal stands and the drain goes on (R56). -/
def execRevocationDrainTimeout (hall : Nat) (s : State) : Host.Outcome State Fault Refusal :=
  .next (match s.drains.get? hall, s.halls.get? hall with
    | some d, some h =>
      if d.late = true ∨ s.now < d.stepAt + drainBoundOf h then s
      else
        let s := { s with drains := s.drains.set hall { d with late := true, window := none } }
        let s := match d.window with
          | some w => finishCmd s w stTimeout 0 []
          | none => s
        afterDrain s h.tenant
    | _, _ => s)

end Sys2Proof.Machine
end

