-- ==== Sys2Proof/Machine/Dram.lean ====
section
/-! DEFINITION. The DRAM commands and events (F11, R520): channel records, diagnostic access, refresh, retraining, patrol scrub,
row repair, and the grants of the flight sequencers with the tier's ordered landings (R229, R394). -/

namespace Sys2Proof.Machine

/-! ### Channels (R441, R442) -/

/-- `DRAM_QUERY` (R441, R520). -/
def dramQueryBody (s : State) (x : Win) : Answer :=
  guardArg s (badArg [(decide (16 ≤ x.arg 0 1), 0)]) fun _ => good s (chanRecord s (x.arg 0 1))

def execDramQuery (w : Nat) (s : State) : Host.Outcome State Fault Refusal := .next (runCmd s w 0x0900 dramQueryBody)

/-- The rates of R402. -/
def rateBins : List Nat := [4400, 4800, 5200, 5600, 6000, 6400, 6800, 7200, 7600, 8000]

/-- A channel whose record is written: a new RETRAIN_MS counts from each rank's next pause (R442). -/
def setChan (y : Chan) (cfg : ChanCfg) : Chan :=
  { y with cfg := cfg, pauseGap := [(0, y.pauseGap.getD 0 y.cfg.retrainMs), (1, y.pauseGap.getD 1 y.cfg.retrainMs)] }

/-- `DRAM_SET` writes the RW fields, RATE_CAP for the whole module (R441, R442). The record stands at offset 8; its reserved bits are refused
under R10, its other RO fields ignored (DEDUCED, log 94). -/
def dramSetBody (s : State) (x : Win) : Answer :=
  let c := x.arg 0 1
  let v := x.arg 8 32
  let cfg : ChanCfg := { scrubEn := v.testBit 7, scrubHours := bits v 64 8, retrainMs := bits v 72 13 }
  guardArg s (badArg [ (decide (16 ≤ c), 0), (decide (x.arg 1 7 ≠ 0), 1), (decide (bits v 10 6 ≠ 0), 9), (decide (bits v 57 7 ≠ 0), 15),
      (decide (bits v 85 11 ≠ 0), 18), (!rateBins.contains (bits v 32 16), 12),
      (!inRange cfg.scrubHours 1 168, 16), (!inRange cfg.retrainMs 64 4096, 17) ]) fun _ =>
    let t := modChan s c fun y => setChan y cfg
    retain s { t with dram := { t.dram with rateCap := bits v 32 16 } } fun u => good u (chanRecord u c)

def execDramSet (w : Nat) (s : State) : Host.Outcome State Fault Refusal := .next (runRetained s w 0x0901 dramSetBody)

/-! ### Diagnostic access (R430 to R433, R633) -/

/-- The side bits of a granule beside its check bits (R412). -/
def sideFields (light : Bool) (g : Granule) : Nat :=
  let p := b2n g.poison
  let w := b2n g.written
  if light then 2 ^ 9 * p + 2 ^ 10 * w + 2 ^ 11 * (g.gen % 2) + 2 ^ 12 * (g.tag % 4096)
  else 2 ^ 28 * p + 2 ^ 29 * w + 2 ^ 30 * (g.gen % 2)

/-- A granule at a PPA as stored, beside its check bits: data encrypted unless it is unwritten or poison (R421, R425, R469). -/
def storedParts (light : Bool) (ppa : Nat) (g : Granule) : BitVec 128 × Nat :=
  (if g.written ∧ g.poison = false then Config.cipherGranule g.key (ppa / 16) g.data else g.data, sideFields light g)

/-- The 160 stored bits of granule `i` of a LIGHT line or a STRONG pair (R411 to R413, R633): the check bits are a function of what the
codeword holds, zero where that is all zero. -/
def storedBits (light : Bool) (gs : List (Nat × Granule)) (i : Nat) : BitVec 160 :=
  let parts := gs.map fun e => storedParts light e.1 e.2
  let (data, side) := (parts[i]?).getD (0, 0)
  let zero : BitVec 128 × Nat → Bool := fun x => decide (x = (0, 0))
  let chk := if light then (if zero (data, side) then 0 else Config.checkLight data side % 2 ^ 9)
    else if parts.all zero then 0 else Config.checkStrong parts i % 2 ^ 28
  (data.setWidth 160 ||| (BitVec.ofNat 160 (chk + side) <<< 128)) ^^^ (((gs[i]?).map fun e => e.2.err).getD 0)

/-- The hall offsets of the lines a diagnostic command reaches: both of the pair under STRONG, one under LIGHT (R430). -/
def diagLines (h : Hall) (x : Nat) : List Nat := if h.light then [x / 64 * 64] else [x / 128 * 128, x / 128 * 128 + 64]

/-- The checks of R433: DETAIL is the channel when that is ABSENT or FAILED. -/
def diagCheck (s : State) (x : Win) : Option (Nat × Nat) :=
  match s.halls.get? (x.arg 0 2) with
  | none => some (stBadArg, 0)
  | some h =>
    firstFail [ (decide (h.state ≠ .active), stBadArg, 0), (decide (x.arg 2 6 ≠ 0), stBadArg, 2),
      (decide (2 ^ 30 * h.size ≤ x.arg 8 8), stBadArg, 8), (!chanOnline s (chanOf h (x.arg 8 8)), stFault, chanOf h (x.arg 8 8)) ]

/-- `DRAM_DIAG_WRITE`: a transaction on each line of the target (R430, R431). It sets DEBUG[2] (R520). -/
def dramDiagWriteBody (s : State) (x : Win) : Answer :=
  guardArg s (diagCheck s x) fun _ =>
    match s.halls.get? (x.arg 0 2) with
    | none => fail s stBadArg
    | some h =>
      if h.light ∧ x.arg 96 80 ≠ 0 then fail s stBadArg 96
      else
        let order := (x.cmd.map fun c => c.order).getD 0
        let s := { s with hw := { s.hw with dbgFlags := s.hw.dbgFlags ||| 4 } }
        let ls := diagLines h (x.arg 8 8)
        goesOn ((List.range ls.length).foldl (fun s i =>
          enqueue s { kind := .diag, ep := 2 ^ 18, org := .diag order i, hall := x.arg 0 2, line := 0, offset := (ls[i]?).getD 0
                      dmask := BitVec.ofNat 640 (x.arg (16 + 80 * i) 80) }) s)

def execDramDiagWrite (w : Nat) (s : State) : Host.Outcome State Fault Refusal := .next (runCmd s w 0x0902 dramDiagWriteBody)

/-- OUTCOME and WHERE of a decode (R520): 0 clean, 1 corrected with its place, 2 uncorrectable. -/
def decodeOut : Decode → Nat × Nat
  | .clean | .wrong none => (0, 0)
  | .corrected p | .wrong (some p) => (1, p)
  | .uncorrectable => (2, 0)

/-- The decode of four LIGHT granules as one outcome: uncorrectable if any is, else the first correction. -/
def lightOut (ds : List Decode) : Nat × Nat :=
  let os := ds.map decodeOut
  if os.any fun o => o.1 = 2 then (2, 0)
  else match os.findIdx? fun o => o.1 = 1 with
    | some i => (1, i * 160 + ((os[i]?).getD (0, 0)).2)
    | none => (0, 0)

/-- `DRAM_DIAG_READ`: the stored granules undecoded, and the decode's outcome; nothing changes (R432, R520). -/
def dramDiagReadBody (s : State) (x : Win) : Answer :=
  guardArg s (diagCheck s x) fun _ =>
    let hid := x.arg 0 2
    match s.halls.get? hid with
    | none => fail s stBadArg
    | some h =>
      let gs := (diagLines h (x.arg 8 8)).flatMap fun o => match locate s hid h o with
        | some (c, ca) => (List.range 4).map fun i => (ppaOf h o + 16 * i, granAt s c (ca + 16 * i))
        | none => []
      let out := if h.light then lightOut (gs.map fun g => decodeLight s g.2.err) else decodeOut (decodePair s (gs.map fun g => g.2.err))
      let body := (List.range gs.length).flatMap fun i => leBytes 20 (storedBits h.light gs i).toNat
      good s.tickFree (sub body 0 160 ++ leBytes 1 out.1 ++ leBytes 1 0 ++ leBytes 2 out.2)

/-- `DRAM_DIAG_READ` of a block that is not landed waits for its landing. -/
def execDramDiagRead (w : Nat) (s : State) : Host.Outcome State Fault Refusal :=
  .next (match dueCmd s w 0x0903 with
    | none => s
    | some x => match s.halls.get? (x.arg 0 2) with
      | none => runCmd s w 0x0903 dramDiagReadBody
      | some h =>
        if (diagCheck s x).isSome || isLanded s (x.arg 0 2) h (x.arg 8 8) then runCmd s w 0x0903 dramDiagReadBody
        else settleTier (land s (x.arg 0 2) h (x.arg 8 8 / blockBytes h) .demand sysSub))

/-! ### Grants and ordered landings (R229, R230, R394) -/

/-- Start one ordered landing: its blocks are held until DEADLINE plus 1 ms (R229); past its DEADLINE it is dropped (R230). -/
def startOrder (s : State) (o : LandOrder) (sub : Nat) : State :=
  let s := { s with tier := { s.tier with orders := s.tier.orders.filter fun x => x.seq ≠ o.seq } }
  if o.deadline < s.now then { s with tier := { s.tier with ordersDropped := satAdd 32 s.tier.ordersDropped 1 } }
  else match hallOf s o.hall with
    | none => s
    | some h =>
      (blocksOf h o.offset o.length).foldl (fun s b => land s o.hall h b (.order (ms 1 + o.deadline)) sub) s

/-- A granted landing order starts the queue's order of the earliest DEADLINE, ties in order of arrival (R229). -/
def grantOrder (s : State) (sub : Nat) : State :=
  match minBy (fun o => 2 ^ 64 * o.deadline + o.seq) s.tier.orders with
  | none => s
  | some o => settleTier (startOrder s o (match s.eng.lasts.get? o.lid with
    | some l => lastSub s l
    | none => sub))

/-- ARBITRATION_GRANT: the sequencer colours what waits and grants the next transfer (R394); a granted landing order starts
(R229). -/
def execArbitrationGrant (res : Nat) (s : State) : Host.Outcome State Fault Refusal :=
  let picked := ((s.flt.get? res).map (markRed s res)).bind fun q => (pickXfer s res q).bind fun i => q.wait[i]?
  let t := arbitrate s res
  .next (match picked with
    | some x => if x.order then grantOrder t x.sub else t
    | none => t)

/-! ### Refresh and retraining (R397, R407 to R409) -/

/-- Does an access of urgency 3 wait whose bank passes `f`, banks numbered over rank, group and bank? -/
def urgentOn (s : State) (c : Nat) (f : Nat → Bool) : Bool :=
  match s.flt.get? (8 + c) with
  | none => false
  | some q => q.wait.any fun x => decide (urgency s (8 + c) q x = 3) && f (bankRow s (8 + c) x).1

/-- REFRESH_DUE: a same-bank refresh once per interval of 3.9 µs, 1.95 µs above 85 °C, not on a bank on which an urgency 3
access waits (R397, R409). -/
def execRefreshDue (ch bank : Nat) (s : State) : Host.Outcome State Fault Refusal :=
  .next (match s.dram.chans.get? ch with
    | none => s
    | some x =>
      let gap := if 340 < x.temp then 195 else 390
      if x.st ≠ .online ∨ s.now < x.refreshed.getD bank 0 + gap ∨ urgentOn s ch (fun b => b = bank) = true then s
      else
        let s := modChan s ch fun y => { y with refreshed := y.refreshed.set bank s.now }
        { s with out := s.out ++ [.ddr ch 0 bank] })

/-- A retraining pause of a rank (R407). -/
def pauseRank (s : State) (c rank : Nat) : State :=
  let s := modChan s c fun y => { y with
    pauseAt := y.pauseAt.set rank s.now, pauseTemp := y.pauseTemp.set rank y.temp, pauseGap := y.pauseGap.erase rank, deferSince := y.deferSince.erase rank
    retrains := y.retrains + 1 }
  { s with out := s.out ++ [.ddr c 1 rank] }

/-- Is a pause of a rank due: RETRAIN_MS passed, or its temperature moved by 5 °C (R407)? -/
def pauseDue (s : State) (x : Chan) (rank : Nat) : Bool :=
  x.st = .online && decide (rank < x.ranks) && (decide (ms (x.pauseGap.getD rank x.cfg.retrainMs) + x.pauseAt.getD rank 0 ≤ s.now) ||
    decide (20 ≤ (x.temp - x.pauseTemp.getD rank x.temp).natAbs))

/-- RETRAIN_PAUSE: due, and deferred while an urgency 3 access waits for the rank (R407, R408). -/
def execRetrainPause (ch rank : Nat) (s : State) : Host.Outcome State Fault Refusal :=
  .next (match s.dram.chans.get? ch with
    | none => s
    | some x =>
      if pauseDue s x rank = false then s
      else if urgentOn s ch (fun b => b / 32 = rank) then
        modChan s ch fun y => if (y.deferSince.get? rank).isSome then y else { y with deferSince := y.deferSince.set rank s.now }
      else pauseRank s ch rank)

/-- RETRAIN_DEFER_EXPIRY: a deferred pause runs once nothing urgent waits, and 1 ms past its due time in any case (R408). -/
def execRetrainDeferExpiry (ch rank : Nat) (s : State) : Host.Outcome State Fault Refusal :=
  .next (match s.dram.chans.get? ch with
    | none => s
    | some x => match x.deferSince.get? rank with
      | none => s
      | some t => if urgentOn s ch (fun b => b / 32 = rank) && decide (s.now < ms 1 + t) then s else pauseRank s ch rank)

/-! ### Patrol scrub (R427, R429) -/

/-- The hall whose frame holds a channel address (the frame owner table of F11). -/
def frameOwner (s : State) (c ca : Nat) : Option (Nat × Hall) :=
  match s.halls.find? fun e => e.2.extents.contains (c, ca / 2 ^ 30) with
  | some e => some e
  | none =>
    (s.tier.blocks.find? fun e => match hallOf s (e.1 / 2 ^ 32) with
      | some h => e.2.slots.any fun k => decide (k.1 = c ∧ k.2 ≤ ca ∧ ca < k.2 + slotBytes h)
      | none => false).bind fun e => (hallOf s (e.1 / 2 ^ 32)).map fun h => (e.1 / 2 ^ 32, h)

/-- The granules that hold an error, one bit each. -/
def errMask (gs : List Granule) : Nat :=
  sumNat ((List.range gs.length).map fun i => if ((gs[i]?).getD {}).err = 0 then 0 else 2 ^ i)

/-- Scrub decodes one pair, or one LIGHT line, and queues what it finds (R427 to R429). -/
def scrubAt (s : State) (c ca : Nat) : State :=
  let own := frameOwner s c ca
  let hall := own.map fun e => e.1
  let ten := own.map fun e => e.2.tenant
  if own.any fun e => e.2.light then
    ((List.range 4).foldl (fun s i =>
      let a := ca + 16 * i
      match decodeLight s (granAt s c a).err with
      | .corrected b | .wrong (some b) => noteError s c a true (2 ^ i) b false hall ten
      | .uncorrectable => noteError s c a true (2 ^ i) 0xFF true hall ten
      | _ => s) s).tickFree
  else
    let gs := (List.range 8).map fun i => granAt s c (ca + 16 * i)
    (match decodePair s (gs.map fun (g : Granule) => g.err) with
      | .corrected g | .wrong (some g) => noteError s c ca false (errMask gs) g false hall ten
      | .uncorrectable => noteError s c ca false 255 0xFF true hall ten
      | _ => s).tickFree

/-- SCRUB_STEP: the next pair or LIGHT line of the channel (R427). -/
def execScrubStep (ch : Nat) (s : State) : Host.Outcome State Fault Refusal :=
  .next (match s.dram.chans.get? ch with
    | none => s
    | some x =>
      if x.st ≠ .online ∨ x.cfg.scrubEn = false ∨ chanBytes x = 0 then s
      else
        let light := (frameOwner s ch x.scrubAt).any fun e => e.2.light
        let at_ := if light then x.scrubAt else x.scrubAt / 128 * 128
        let s := scrubAt s ch at_
        modChan s ch fun y => { y with scrubAt := (at_ + if light then 64 else 128) % chanBytes x })

/-! ### Row repair (R434 to R436) -/

/-- Is a row due for repair: 8 corrections on it attributed to the device within 24 hours, or an uncorrectable error (R434)? -/
def repairDue (s : State) (x : Chan) (row device : Nat) : Bool :=
  x.rowUe.contains row ||
    decide (8 ≤ (x.rowCe.filter fun e => e.1 = row ∧ e.2.1 = device ∧ s.now < sec 86400 + e.2.2).length)

/-- The channel address of a row's first column (R414). -/
def rowAddr (x4 : Bool) (ranks rank bg bank row : Nat) : Nat :=
  let lo := if x4 then 14 else 13
  row * 2 ^ (lo + 5 + if ranks = 2 then 1 else 0) + (if ranks = 2 then rank * 2 ^ (lo + 5) else 0) +
    bg.xor (bits row 2 3) * 2 ^ (lo + 2) + bank.xor (row % 4) * 2 ^ lo

/-- SPPR_REPAIR: once per row and start, within the DIMM's resources; a full map records the fault instead (R434, R436). The
row keeps its content (R435). -/
def execSpprRepair (ch rank bg bank row device : Nat) (s : State) : Host.Outcome State Fault Refusal :=
  .next (match s.dram.chans.get? ch with
    | none => s
    | some x =>
      let key := row * 64 + rank * 32 + bg * 4 + bank
      let dimm := s.hw.dimms.getD ch { serial := 0 }
      let used := (s.dram.repairs.filter fun r => r.serial = dimm.serial ∧ r.device = device ∧ r.st ≠ 2).length
      if x.st ≠ .online ∨ x.repaired.contains key = true ∨ repairDue s x key device = false then s
      else if 1024 ≤ s.dram.repairs.length then
        event (modChan s ch fun y => { y with repaired := y.repaired ++ [key] }) .repairMapFull (srcChan ch) none none
          (rowAddr x.x4 x.ranks rank bg bank row)
          [(0, 1, rank), (1, 1, bg), (2, 1, bank), (3, 1, 0), (4, 4, row), (8, 2, 0), (10, 1, 0xFF)]
      else if dimm.sppr ≤ used then s
      else
        let s := modChan s ch fun y => { y with repaired := y.repaired ++ [key], repairs := satAdd 16 y.repairs 1 }
        commitSelf { s with
          dram := { s.dram with repairs := s.dram.repairs ++
            [{ serial := dimm.serial, rank := rank, bg := bg, bank := bank, row := row, device := device, st := 0 }] }
          out := s.out ++ [.ddr ch 2 row] })

end Sys2Proof.Machine
end

