-- ==== Sys2Proof/Machine/Drives.lean ====
section
/-! DEFINITION. The drives on N0 to N7: NVMe timeouts, errors and resets (R243 to R247), set-up and adoption (R243, R249), rebuild (R250),
the intent map (R239, R240). -/

namespace Sys2Proof.Machine

def driveAt (s : State) (p : Nat) : Drive := s.flash.drives.getD p {}
def modDrive (s : State) (p : Nat) (f : Drive → Drive) : State :=
  { s with flash := { s.flash with drives := s.flash.drives.modify p f } }

/-- A drive in use fails, by the row of R246 that applies. -/
def failDrive (s : State) (p cause : Nat) : State := if driveTakes s p then settleTier (driveTo s p .failed cause) else s

def say (s : State) (l : List Emit) : State := { s with out := s.out ++ l }

/-! ### I/O (R244 to R246) -/

/-- A write that timed out or failed is reissued once; a second time the drive is FAILED (R246). Deallocations and reservation commands
are taken as writes are (DEDUCED, log 94). -/
def retryWrite (s : State) (p : Nat) (c : NvCmd) (cause : Nat) : State :=
  if c.again then failDrive s p cause
  else
    let s := modDrive s p fun d => { d with cmds := d.cmds.map fun x =>
      if x.id = c.id then { x with again := true, issued := s.now } else x }
    say s [c.cmd]

/-- The slots of an outstanding read. -/
def cmdSlots (p : Nat) (c : NvCmd) : List (Nat × Nat) := (List.range c.n).map fun i => (p, c.row + i)

/-- A read that timed out is given up; its units are read from the rest of their rows (R246). -/
def readLate (s : State) (p : Nat) (c : NvCmd) : State :=
  let s := modDrive s p fun d => { d with cmds := d.cmds.filter fun x => x.id ≠ c.id }
  let lost := cmdSlots p c
  match c.for_ with
  | .land hid b => match hallOf s hid with
    | some h => landReads (modBlock s hid b fun x => { x with late := x.late ++ lost }) hid h b
    | none => s
  | f =>
    let rest := lost.flatMap fun k => ((List.range 8).filter fun q => decide (q ≠ p) && slotGood s [] q k.2).map fun q => (q, k.2)
    readRows s rest f sysSub 4

/-- NVME_IO_TIMEOUT: past IO_TMO, 4 ms, a command is aborted; the eighth timeout within a second fails the drive (R243, R245, R246).
With all NVMe I/O stopped nothing is reissued (R256). -/
def ioTimeout (s : State) (p cmd : Nat) : State :=
  let d := driveAt s p
  match d.cmds.find? fun c => c.id = cmd with
  | none => s
  | some c =>
    if s.now < ms 4 + c.issued ∨ queuesDown d = true then s
    else
      let times := (d.timeouts.filter fun t => s.now < sec 1 + t) ++ [s.now]
      let s := say (modDrive s p fun d => { d with timeouts := times }) [.nvmeAdmin p 0x08 cmd]
      if 8 ≤ times.length then failDrive s p 2
      else if s.flash.stopped ∧ c.for_ ≠ .resv then modDrive s p fun d => { d with cmds := d.cmds.filter fun x => x.id ≠ cmd }
      else match c.op with
        | .read => readLate s p c
        | _ => retryWrite s p c 2

def execNvmeIoTimeout (port cmd : Nat) (s : State) : Host.Outcome State Fault Refusal := .next (ioTimeout s port cmd)

/-- NVME_WRITE_ERROR: reissued once; a rewrite of a reconstructed unit is not (R246). -/
def execNvmeWriteError (port cmd : Nat) (s : State) : Host.Outcome State Fault Refusal :=
  .next (match (driveAt s port).cmds.find? fun c => c.id = cmd with
    | some c => match c.op with
      | .s5write => failDrive s port 1
      | .write | .control => if s.flash.stopped then s else retryWrite s port c 3
      | _ => s
    | none => s)

/-- The key this SH940 registers on the drives (R254). -/
def resvKey (s : State) : Nat := 2 ^ 32 * s.pair.cfg.number + 2 ^ 31 * s.pair.cfg.side + s.pair.cfg.takeovers % 2 ^ 31

/-- Register the key on a drive, ignoring any existing one; take the Write Exclusive reservation (R244, R254, R257). -/
def resvRegister (s : State) (p : Nat) : State :=
  nvIssue s p .resvRegister 0 0 .resv (.nvmeResv p 0x0D (driveAt s p).key (resvKey s))
def resvAcquire (s : State) (p : Nat) : State := nvIssue s p .resvAcquire 0 0 .resv (.nvmeResv p 0x11 0 (resvKey s))

/-- A control-area write has reached a drive (R237, R238). -/
def ctlAck (s : State) (p : Nat) (c : NvCmd) : State :=
  let s := match c.cmd with
    | .nvmeCtl _ a => { s with hw := { s.hw with media := s.hw.media.modify p fun m => { m with area := some a } } }
    | _ => s
  match c.for_ with
  | .ctl n =>
    let ops := s.flash.ctlOps.map fun o =>
      if o.id = n ∧ o.acked.contains p = false then { o with acked := o.acked ++ [p] } else o
    ctlSettle { s with flash := { s.flash with ctlOps := ops } }
  | _ => s

/-- NVME_IO_COMPLETE: a reservation, deallocation, control-area or rewrite command completes (R238, R241, R244, R254). -/
def ioComplete (s : State) (p cmd : Nat) : State :=
  match (driveAt s p).cmds.find? fun c => c.id = cmd with
  | none => s
  | some c =>
    let s := modDrive s p fun d => { d with cmds := d.cmds.filter fun x => x.id ≠ cmd }
    match c.op with
    | .resvRegister => modDrive s p fun d => { d with key := resvKey s }
    | .resvAcquire => modDrive s p fun d => { d with holder := some (resvKey s) }
    | .control => settleTier (ctlAck s p c)
    | _ => match c.for_ with
      | .job id => match jobAt s id with
        | some j => match j.kind with
          | .free _ _ => settleTier (replaySkipped (freeOver s j))
          | _ => s
        | none => s
      | _ => s

def execNvmeIoComplete (port cmd : Nat) (s : State) : Host.Outcome State Fault Refusal := .next (ioComplete s port cmd)

/-! ### Set-up and adoption (R243, R245, R249, R254) -/

/-- The admin commands that set a drive's controller up, opcode and argument: Identify, Format NVM where asked, the features, and 16 pairs
of queues (R243). -/
def setUp (identify format : Bool) : List (Nat × Nat) :=
  (if identify then [(0x06, 0x01), (0x06, 0x00), (0x06, 0x02)] else []) ++ (if format then [(0x80, 0)] else []) ++
    [(0x09, 0x06), (0x0A, 0x06), (0x09, 0x07), (0x09, 0x0B), (0x09, 0x81)] ++
    (List.range 16).flatMap fun i => [(0x05, i + 1), (0x01, i + 1)]

/-- An admin command as it goes out; Set Features 0x81 carries the host identifier (R254). -/
def adminOut (p : Nat) (c : Nat × Nat) : Emit := .nvmeAdmin p c.1 (if c = (0x09, 0x81) then c.2 + 256 * Config.hostId else c.2)

/-- Begin a set-up. -/
def beginSetUp (s : State) (p : Nat) (l : List (Nat × Nat)) : State :=
  say (modDrive s p fun d => { d with todo := l, admin := some s.now, aen := false }) ((l.head?.toList).map (adminOut p))

/-- A set-up is over: an Asynchronous Event Request is left outstanding, and the commands that waited for the queues go out (R243). -/
def endSetUp (s : State) (p : Nat) : State :=
  let s := modDrive s p fun d => { d with todo := [], admin := none, aen := true, cmds := d.cmds.map fun c => { c with issued := s.now } }
  say s (.nvmeAdmin p 0x0C 0 :: (driveAt s p).cmds.map fun c => c.cmd)

/-- The adopted drive is set up: label and control area written, registered and on the active SH940 reserved, rebuild starts, the command
completes (R249, R250, R254). -/
def adoptEnd (s : State) (p w : Nat) : State :=
  let s := { s with
    flash := { s.flash with adopt := s.flash.adopt.erase p }
    hw := { s.hw with media := s.hw.media.modify p fun m => { m with formatted := true, area := some (controlNow s p) } } }
  let s := say (driveTo s p .rebuilding 0xFF) [.nvmeCtl p (controlNow s p)]
  let s := resvAcquire (resvRegister s p) p
  finishCmd (settleTier s) w stOk 0 []

/-- The next admin command of a set-up. -/
def adminNext (s : State) (p : Nat) : State :=
  match (driveAt s p).todo.drop 1 with
  | [] =>
    let s := endSetUp s p
    match s.flash.adopt.get? p with
    | some w => adoptEnd s p w
    | none => s
  | c :: t => say (modDrive s p fun d => { d with todo := c :: t, admin := some s.now }) [adminOut p c]

/-- NVME_ADMIN_COMPLETE: the commands of a set-up follow each other; then an adoption ends (R243, R249). -/
def adminComplete (s : State) (p : Nat) : State := if (driveAt s p).admin.isNone then s else adminNext s p

def execNvmeAdminComplete (port : Nat) (s : State) : Host.Outcome State Fault Refusal := .next (adminComplete s port)

/-- NVME_ADMIN_TIMEOUT: past 1 s the admin command is given up with Abort; the set-up goes on with the next (R243, R245; DESIGN CHOICE,
log 90). -/
def execNvmeAdminTimeout (port : Nat) (s : State) : Host.Outcome State Fault Refusal :=
  .next (match (driveAt s port).admin with
    | some t => if sec 1 + t ≤ s.now then adminNext (say s [.nvmeAdmin port 0x08 0]) port else s
    | none => s)

/-- `TIER_DRIVE_ADOPT` (R249); a position without a drive that meets R242 ends `ST_FAULT` (DESIGN CHOICE, log 23), and a second adoption of
a position in progress `ST_BUSY` (DESIGN CHOICE, log 90). -/
def driveAdoptBody (s : State) (x : Win) : Answer :=
  let p := x.arg 0 1
  let w := cmdWin s x
  if 8 ≤ p ∨ driveTakes s p = true then fail s stBadArg 0
  else match s.hw.media.get? p, w with
    | some m, some w =>
      if m.meets = false then fail s stFault
      else if m.lbas < s.flash.cmin then fail s stNoSpace
      else if (s.flash.adopt.get? p).isSome then fail s stBusy
      else goesOn (beginSetUp { s with flash := { s.flash with adopt := s.flash.adopt.set p w } } p (setUp true !m.formatted))
    | _, _ => fail s stFault

def execTierDriveAdopt (w : Nat) (s : State) : Host.Outcome State Fault Refusal := .next (runCmd s w 0x0804 driveAdoptBody)

/-- The log pages read: Error Information, SMART / Health Information, Reservation Notification (R243). -/
def logPages (p : Nat) : List Emit := [.nvmeAdmin p 0x02 0x01, .nvmeAdmin p 0x02 0x02, .nvmeAdmin p 0x02 0x80]

/-- What a SMART critical warning or a healthy log says (R243, R246). -/
def driveLog (s : State) (p : Nat) (e : DriveEvent) : State :=
  let s := modDrive s p fun d => { d with lastPoll := s.now }
  match e with
  | .smartCritical => failDrive s p 5
  | _ => s

/-- NVME_ASYNC_EVENT: the outstanding request completes, the log pages are read, a new request is left outstanding (R243). -/
def execNvmeAsyncEvent (port : Nat) (e : DriveEvent) (s : State) : Host.Outcome State Fault Refusal :=
  .next (if (driveAt s port).aen then driveLog (say s (logPages port ++ [.nvmeAdmin port 0x0C 0])) port e else s)

/-- NVME_LOG_POLL: every 10 s (R243). -/
def execNvmeLogPoll (port : Nat) (e : DriveEvent) (s : State) : Host.Outcome State Fault Refusal :=
  .next (if s.now < sec 10 + (driveAt s port).lastPoll ∨ driveTakes s port = false then s
    else driveLog (say s (logPages port)) port e)

/-! ### Controllers (R246) -/

/-- The queues are deleted before a controller reset (R243). -/
def deleteQueues (p : Nat) : List Emit :=
  ((List.range 16).map fun i => .nvmeAdmin p 0x00 (i + 1)) ++ (List.range 16).map fun i => .nvmeAdmin p 0x04 (i + 1)

/-- NVME_CONTROLLER_FATAL: one controller reset; a second such event within 60 s fails the drive (R243, R246). -/
def execNvmeControllerFatal (port : Nat) (s : State) : Host.Outcome State Fault Refusal :=
  let d := driveAt s port
  .next (if driveTakes s port = false then s
    else if d.lastFatal.any fun t => s.now < sec 60 + t then failDrive s port 4
    else say (modDrive s port fun d => { d with resetting := some s.now, lastFatal := some s.now, aen := false }) (deleteQueues port))

/-- NVME_READY_TIMEOUT: not ready within 10 s of its reset (R246). -/
def execNvmeReadyTimeout (port : Nat) (s : State) : Host.Outcome State Fault Refusal :=
  .next (match (driveAt s port).resetting with
    | some t => if sec 10 + t ≤ s.now then failDrive s port 4 else s
    | none => s)

/-- NVME_CONTROLLER_READY: the controller is ready after its reset; its set-up begins, after which its commands go out again (R243,
R246). -/
def execNvmeControllerReady (port : Nat) (s : State) : Host.Outcome State Fault Refusal :=
  .next (if (driveAt s port).resetting.isSome then
    beginSetUp (modDrive s port fun d => { d with resetting := none }) port (setUp false false) else s)

/-- DRIVE_REMOVED: the position is FAILED, whatever drive was in it (R246). -/
def execDriveRemoved (port : Nat) (s : State) : Host.Outcome State Fault Refusal :=
  let s := { s with hw := { s.hw with media := s.hw.media.erase port } }
  .next (if driveSt s port = .absent then s else settleTier (driveTo s port .failed 6))

/-! ### Intent map and rebuild (R239, R240, R250) -/

/-- Does a write that is not over touch a region in part? -/
def regionBusy (s : State) (g : Nat) : Bool :=
  s.flash.jobs.any fun j => j.st ≠ .waiting && (partRegions j.units).contains g

/-- INTENT_BIT_CLEAR: 1 s without a partial-row write in the region; the control area follows (R238, R239). A region whose parity is to be
recomputed keeps its bit until then (R240). -/
def execIntentBitClear (region : Nat) (s : State) : Host.Outcome State Fault Refusal :=
  .next (match s.flash.intent.get? region with
    | some t => if sec 1 + t ≤ s.now ∧ regionBusy s region = false ∧ s.flash.resync.contains region = false then
        settleTier (ctlSettle (ctlWrite { s with flash := { s.flash with intent := s.flash.intent.erase region } }).1) else s
    | none => s)

/-- Background work on the drives runs: NVMe I/O not stopped, the tier not offline (R252, R256). -/
def backMay (s : State) : Bool := !flashHalt s

/-- The parity of a row is recomputed from its seven data units, under S5 (R240). -/
def fixParity (s : State) (r : Nat) : State :=
  let data := ((List.range 8).filter fun d => decide (d ≠ parityDrive r) && slotGood s [] d r).map fun d => (d, r)
  let s := readRows s data (.row r) sysSub 5
  let s := if parityKept s [] r then writeRows s [] [(parityDrive r, r)] .s5write (.row r) sysSub 5 else s
  settleRow [] s r

/-- INTENT_RESYNC_STEP: the next row of the first marked region; past its last row the region's bit is cleared (R240). -/
def intentResync (s : State) : State :=
  match s.flash.resync with
  | [] => s
  | g :: rest =>
    let r := 4096 * g + s.flash.resyncRow
    if backMay s = false ∨ rowBusy s r = true then s
    else if 4096 ≤ s.flash.resyncRow + 1 ∨ s.flash.cmin - 262144 ≤ r + 1 then
      let s := if r < s.flash.cmin - 262144 then fixParity s r else s
      let s := { s with flash := { s.flash with resync := rest, resyncRow := 0, intent := s.flash.intent.erase g } }
      settleTier (ctlSettle (ctlWrite s).1)
    else fixParity { s with flash := { s.flash with resyncRow := s.flash.resyncRow + 1 } } r

def execIntentResyncStep (s : State) : Host.Outcome State Fault Refusal := .next (intentResync s)

/-- REBUILD_ROW: the slot of the row at the cursor is reconstructed onto the new drive, or deallocated where the row's MiBs were never
stored; a slot written since adoption stays where the rest of its row cannot be read. Past the last row the drive is ONLINE (R250,
R251). -/
def rebuildRow (s : State) : State :=
  match s.flash.rebuild.head? with
  | none => s
  | some (d, r) =>
    if s.flash.stopped ∨ rowBusy s r = true then s
    else if s.flash.cmin - 262144 ≤ r then settleTier (driveTo s d .online 0xFF)
    else
      let stored := (List.range 7).any fun p => storedBit s (4096 * (7 * r + p))
      let whole := (List.range 8).all fun q => decide (q = d) || slotGood s [] q r
      let fresh := s.flash.fresh.contains (d, r)
      let s := if !stored then nvIssue s d .dsm r 1 (.row r) (.nvme d 0x09 (rowLba r) 1 [])
        else if whole then
          let s := readRows s (((List.range 8).filter fun q => q ≠ d).map fun q => (q, r)) (.row r) sysSub 5
          writeRows s [] [(d, r)] .s5write (.row r) sysSub 5
        else s
      { s with flash := { s.flash with
        rebuild := s.flash.rebuild.set d (r + 1)
        fresh := dropSlot s.flash.fresh (d, r)
        missing := if !stored || whole || fresh then dropSlot s.flash.missing (d, r) else addSlot s.flash.missing (d, r) } }

def execRebuildRow (s : State) : Host.Outcome State Fault Refusal := .next (rebuildRow s)

end Sys2Proof.Machine
end

