-- ==== Sys2Proof/Machine/PairOps.lean ====
section
/-! DEFINITION. The pair (F15) as operations: roles, lease messages, self-fencing (R565), the home epoch and its recovery window
(R504, R536, R572), reservations (R254 to R257), takeover (R572, R576), mirror records on the standby (R569, R570). -/

namespace Sys2Proof.Machine

/-! ### Codes (R556, R562, R564) -/

def roleCode : Role → Nat
  | .unpaired => 0
  | .active => 1
  | .standby => 2
  | .takingOver => 3
  | .fenced => 4

def syncCode : SyncSt → Nat
  | .synced => 0
  | .resyncing => 1
  | .notSynced => 2

def wireCode : WireSt → Nat
  | .up => 0
  | .down => 1
  | .chatter => 2

/-- Change the pair record's state. -/
def modPair (s : State) (f : Pair → Pair) : State := { s with pair := f s.pair }

/-- ROLE takes a new value: a PAIR event (R554, R637). -/
def setRole (s : State) (r : Role) : State :=
  if s.pair.role = r then s
  else event (modPair s fun p => { p with role := r }) .roleChange srcGuard none none 0
    [(0, 1, roleCode s.pair.role), (1, 1, roleCode r), (2, 1, s.pair.homeEpoch)]

/-! ### Lease messages (R558, R561, R562, R565) -/

/-- CRC-8 with polynomial 0x07 over the frame's bytes from bit 8 on, each byte from its most significant bit (R562; the bit order
is PRESUMED, log 48). -/
def crcByte (c b : BitVec 8) : BitVec 8 :=
  (List.range 8).foldl (fun (c : BitVec 8) _ => if c.getLsbD 7 then (c <<< 1) ^^^ 0x07 else c <<< 1) (c ^^^ b)

def wireCrc (f : BitVec 72) : BitVec 8 :=
  (List.range 7).foldl (fun c i => crcByte c (f.extractLsb' (8 * (i + 1)) 8)) 0

/-- A frame of the heartbeat wire (R562). -/
def wireBits (side kind lc expiry : Nat) : BitVec 72 :=
  let f := BitVec.ofNat 72 (packBits [(8, 0xD5), (4, kind), (1, side), (3, 0), (16, lc), (32, expiry % 2 ^ 32)])
  f ||| (wireCrc f).setWidth 72 <<< 64

/-- Send an HBT message on a peer port, or its partner (R95, R561). -/
def hbtSay (s : State) (p kind lc expiry tEcho mseq : Nat) : State :=
  match pickPort s p false with
  | some q => sendFlit s q .hbt (.lease q kind lc s.homeEpoch expiry s.now tEcho mseq)
  | none => s

/-- Send RENEW (0), ACK (1) or RELEASE (2) on a path: the wire carries the low half of the expiry and neither epoch nor MSEQ. -/
def leaseSay (s : State) (path : LeasePath) (kind lc expiry mseq : Nat) : State :=
  match path with
  | .wire => { s with out := s.out ++ [.wireFrame (wireBits s.pair.cfg.side kind lc expiry)] }
  | .peer p => hbtSay s p kind lc expiry 0 mseq

/-- Send on both paths. -/
def leaseBoth (s : State) (kind lc expiry mseq : Nat) : State :=
  leaseSay (leaseSay s (.peer 8) kind lc expiry mseq) .wire kind lc expiry mseq

/-! ### Self-fencing (R565) -/

/-- Fence: normal-space messages not yet sent are dropped, the NVMe root ports halt, ROLE is FENCED and RELEASE goes out. Causes
as LAST_FENCE of R564. The home slices, the ports' normal space and the galleries stop with the role. -/
def selfFence (s : State) (cause : Nat) (atE : Bool := false) : State :=
  if s.pair.role = .fenced then s
  else
    let led := decide (s.pair.role = .active)
    let s := { s with
      ports := s.ports.map fun e => (e.1, { e.2 with
        sn := { e.2.sn with wait := [] }, held := e.2.held.filter fun m => m.1.priv })
      flash := { s.flash with stopped := true }
      eng := { s.eng with pushWait := [] }
      pair := { s.pair with
        lastFence := cause
        atExpiry := atE
        expiries := if led then satAdd 32 s.pair.expiries 1 else s.pair.expiries
        waits := s.pair.waits.map fun w => { w with send := [] } } }
    let s := setRole s .fenced
    if s.pair.cfg.enable then leaseBoth s 2 s.pair.lc s.now s.pair.mseq else s

/-! ### Home epoch and recovery window (R504, R536, R572 to R574) -/

/-- The home epoch rises, the recovery window of 100 ms opens, EPOCH goes to every listed endpoint. -/
def raiseEpoch (s : State) : State :=
  let e := (s.homeEpoch + 1) % 256
  let s := { s with
    pair := { s.pair with homeEpoch := e }
    home := { s.home with recoveryEnd := ms 100 + s.now } }
  let s := if mirrorLive s then mirrorNote s (.homeEpoch e) else s
  sendEpochs s (listedEps s)

/-- Is a request the SH940's own? -/
def ownReq (r : Req) : Bool := match r.org with
  | .ep _ _ => false
  | _ => true

/-- Everything endpoints had outstanding at the old epoch has ended (R203, R573): their requests, trackers, snoops, copies and
welts go, but for a commit past its last answer; the SH940's own requests and data collected or accepted stay. -/
def endOldEpoch (s : State) : State :=
  let keep := fun (c : LineCtl) =>
    ((c.active.map fun a => [a.req]).getD [] ++ c.fifo).filter ownReq
  { s with
    home := { s.home with
      dir := [], snoops := [], trackers := [], resends := []
      wbHeld := s.home.wbHeld.map fun w => { w with mute := true }
      lines := s.home.lines.filterMap fun e => match keep e.2 with
        | [] => none
        | l => some (e.1, { fifo := l }) }
    welt := { s.welt with
      waiting := []
      slots := s.welt.slots.map fun e => (e.1, if e.2.st = .free then e.2
        else if e.2.st = .committing ∧ e.2.phase ≠ .collect then { e.2 with silent := true }
        else
        { inc := e.2.inc, owner := e.2.owner, hall := e.2.hall, used := true, freedAt := s.welt.freeSeq }) }
    jrn := s.jrn.map fun e => (e.1, { e.2 with queue := e.2.queue.filter fun w => (s.welt.slots.getD w {}).phase = .durable })
    pair := { s.pair with waits := s.pair.waits.map fun w => { w with send := [] } }
    drains := s.drains.map fun e => (e.1, { e.2 with todo := [], reqs := [] })
    eps := s.eps.map fun e => (e.1, { e.2 with walking := false, upAgain := false, dead := e.2.dead && !(e.2.walking && e.2.upAgain) }) }

/-! ### Reservations (R254, R255, R257) -/

/-- The drives a reservation command can reach. -/
def resvDrives (s : State) : List Nat := (List.range 8).filter (driveTakes s)

/-- Register the key on every drive, ignoring any existing one (R254, R257). -/
def registerAll (s : State) : State := (resvDrives s).foldl resvRegister s

/-- Take the Write Exclusive reservation on every drive (R254). -/
def acquireAll (s : State) : State := (resvDrives s).foldl resvAcquire s

/-- The key of the old holder: the pair's number, the other side, the partner's takeover count, which this SH940 does not hold (R254, R255;
a free value, log 12). -/
def partnerKey (s : State) : Nat :=
  2 ^ 32 * s.pair.cfg.number + 2 ^ 31 * (1 - s.pair.cfg.side) + Config.freeChoice s.free % 2 ^ 31

/-- Preempt and Abort on every drive; one that does not answer is FAILED (R255). An answer beyond the list is one. -/
def preemptAll (s : State) (answers : List Bool) : State :=
  (resvDrives s).foldl (fun s p =>
    let s := say s [.nvmeResv p 0x11 (partnerKey s) (resvKey s)]
    if (answers[p]?).getD true then modDrive s p fun d => { d with key := resvKey s, holder := some (resvKey s) }
    else driveTo s p .failed 2) s

/-- A journal as the partner left it on the drives (R255, R632). -/
def foreignJrn (t hid : Nat) : Journal :=
  let sb := fun (b : Bool) => match Config.foreignSuper t hid b with
    | some (q, j, p) => { sbseq := q, ckptJ := j, ckptPos := p : Super }
    | none => { sbseq := 0, ckptJ := 0, ckptPos := 2, valid := false }
  { sb0 := sb false, sb1 := sb true, recs := (Config.foreignJournal t hid).map fun r => { r with durable := true } }

/-- Step 3 of R255: the control area is read, and from here on the drives hold what the partner left there. -/
def readDrives (s : State) : State :=
  let t := s.free
  let s : State := { s.tickFree with
    tier := { s.tier with stored := (Config.foreignStored t).foldl (fun l m => if l.contains m then l else insertBy id m l) [] }
    flash := { s.flash with
      foreign := some t, units := [], lines := [], wiped := [], missing := [], fresh := [], jobs := [], ctlOps := []
      intent := (Config.foreignIntent t).foldl (fun m g => m.set g s.now) [] }
    jrn := s.jrn.map fun e => (e.1, foreignJrn t e.1) }
  { s with hw := { s.hw with media := s.hw.media.map fun e =>
    (e.1, if driveTakes s e.1 then { e.2 with area := some (controlNow s e.1) } else e.2) } }

/-- Lines of MIRRORED blocks that the partner is known to have written back are what flash holds there (R570, R576, log 85). -/
def overlayKnown (s : State) : State :=
  s.pair.known.foldl (fun s (e : Nat × LineData) => match hallAt s (e.1 * 64) with
    | none => s
    | some (hid, h) =>
      let off := e.1 * 64 - 2 ^ 30 * h.base
      let u := (2 ^ 30 * (tierRec s hid).fbase + off) / 4096
      let m := (unitAt s u).getD (metaOf s hid 0 false)
      let ls := (unitData s u).set (off / 64 % 64) e.2.data
      { s with
        tier := { s.tier with stored := if s.tier.stored.contains (u / 256) then s.tier.stored else insertBy id (u / 256) s.tier.stored }
        flash := { s.flash with
          units := s.flash.units.set u
            { m with poison := if e.2.poison = 0 then m.poison else m.poison ||| BitVec.ofNat 8 (2 ^ (off / 512 % 8)) }
          lines := (List.range 64).foldl (fun t i => t.put (64 * u + i) ((ls[i]?).getD 0) 0) s.flash.lines } }) s

/-! ### Contents (R193, R575, R576) -/

/-- Mark a hall POISONED: the clear starts anew (R575). -/
def poisonHall (h : Hall) : Hall := { h with poisoned := true, clearPos := 0, written := [] }

/-- Poison every RESIDENT hall but those kept. -/
def poisonResident (s : State) (keep : Hall → Bool) : State :=
  { s with halls := s.halls.map fun e => (e.1, if e.2.cls = .resident && !keep e.2 then poisonHall e.2 else e.2) }

/-- Journals replay before their halls take requests; with the flash tier offline replay is skipped (R193), and so it is until the hall's
key is there (log 94). -/
def replayAll (s : State) : State :=
  s.jrn.foldl (fun s e =>
    if flashOff s || !replayMay s e.1 then
      let ten := (s.halls.get? e.1).map fun h => h.tenant
      event { s with jrn := s.jrn.modify e.1 fun j => { j with skipped := true } } .journalReplaySkipped srcTier ten (some e.1) 0
        [(8, 8, (checkpoint e.2).ckptJ)]
    else replayJournal s e.1) s

/-- Parity of every region whose intent bit is set is to be recomputed (R240). -/
def markResync (s : State) : State :=
  { s with flash := { s.flash with resync := s.flash.intent.map fun e => e.1 } }

/-- AGE resumes at the larger of AGE_LIMIT and one above the last mirrored value; that plus 2^36 is committed (R167). -/
def resumeAge (s : State) : State :=
  let a := max s.welt.ageLimit s.welt.age
  match commit { s with welt := { s.welt with age := a, ageLimit := 2 ^ 36 + a, limitFailed := false } } with
  | (t, true) => t
  | (_, false) => { s with welt := { s.welt with age := a, ageLimit := a, limitFailed := true, retryAt := ms 10 + s.now } }

/-- Lines kept of MIRRORED blocks overlay the flash contents: each goes into its block as it lands (R570, R576). -/
def landKept (s : State) : State :=
  let ls := s.pair.kept
  let s := { s with pair := { s.pair with kept := [] } }
  ls.foldl (fun s e => match hallAt s (e.1 * 64) with
    | some (hid, h) => land { s with home := { s.home with merge := s.home.merge.set e.1 e.2 } } hid h
        ((e.1 * 64 - 2 ^ 30 * h.base) / blockBytes h) .demand sysSub
    | none => s) s

/-! ### Takeover (R566, R568, R572, R578) -/

/-- Take the pool: the epoch, the takeover count, the drives and their control area, the contents (R255, R572 steps 1 to 4, R576). -/
def takePool (s : State) (answers : List Bool) : State :=
  let synced := decide (s.pair.sync = .synced)
  let whole := synced && s.pair.whole
  let s := raiseEpoch s
  let s := modPair s fun p => { p with cfg := { p.cfg with takeovers := (p.cfg.takeovers + 1) % 2 ^ 31 } }
  let s := resumeAge { s with flash := { s.flash with stopped := false } }
  let s := readDrives (preemptAll s answers)
  let s := poisonResident s fun h => whole || (synced && h.mirrored)
  let s := modPair s fun p => { p with
    kept := if synced then p.kept else [], known := if synced then p.known else [], sync := .notSynced, whole := false }
  landKept (markResync (replayAll (modPair (overlayKnown s) fun p => { p with known := [] })))

/-- The renewals start afresh on the new active: no lease is held until its first RENEW is acknowledged (DEDUCED, log 40). -/
def becomeActive (s : State) : State :=
  setRole (modPair s fun p => { p with
    eA := 0, lcAcked := true, expired := false, abandoned := false, toldFinal := none, roleDueAt := none
    lastHeard := s.now }) .active

/-- A standby takes over (R572). -/
def takeover (s : State) (answers : List Bool) : State :=
  settleTier (becomeActive (takePool (setRole s .takingOver) answers))

/-- May the standby take over: lease expired, ENABLE, READY, ALIGNED, before E_s + 100 ms, and in a planned swap with every
record applied (R566, R568, R572, R577)? -/
def mayTakeOver (s : State) : Bool :=
  let p := s.pair
  p.role = .standby && p.expired && p.cfg.enable && s.pwr.ready && p.aligned &&
    (decide (p.eS = 0) || decide (s.now < ms 100 + p.eS)) &&
    (p.toldFinal.all (fun m => decide (m ≤ p.applied)) || !p.whole || p.sync ≠ .synced)

def tryTakeover (s : State) (answers : List Bool) : State := if mayTakeOver s then takeover s answers else s

/-- The standby's lease has expired or was released (R559, R566). -/
def leaseGone (s : State) : State :=
  modPair s fun p => { p with expired := true, expiries := satAdd 32 p.expiries 1 }

/-! ### SYNC (R571) -/

/-- SYNC becomes NOT_SYNCED. -/
def loseSync (s : State) : State :=
  modPair s fun p => { p with sync := .notSynced, whole := false, resyncLeft := [], resyncPos := 0, resyncTotal := 0, known := [] }

/-! ### The standby rejoins (R257, R536, R554) -/

/-- Become STANDBY: registered again under a raised takeover count, no reservation, no landed block, NVMe I/O stopped. What the drives
hold is from here on the partner's to write. -/
def becomeStandby (s : State) : State :=
  let s := loseSync (modPair s fun p => { p with
    cfg := { p.cfg with takeovers := (p.cfg.takeovers + 1) % 2 ^ 31 }
    eS := 0, expired := false, abandoned := false, toldFinal := none, kept := [], lastHeard := s.now, roleDueAt := none })
  let s := (commit { s with
    tier := { s.tier with blocks := [], waitVictim := [], evicted := [], orders := [], stored := [] }
    jrn := s.jrn.map fun e => (e.1, emptyJournal)
    flash := { s.flash with
      stopped := true, foreign := none, units := [], lines := [], wiped := [], missing := [], fresh := [], intent := [], resync := []
      jobs := [], ctlOps := []
      drives := s.flash.drives.map fun e => (e.1, { e.2 with holder := none }) } }).1
  setRole (registerAll s) .standby

/-- Serve as ACTIVE or UNPAIRED from READY or a role decision: the reservation is taken (R254). -/
def serveFrom (s : State) : State :=
  let s := { s with flash := { s.flash with stopped := false } }
  let s := acquireAll (registerAll s)
  settleTier (if s.pair.cfg.enable then becomeActive s else setRole (modPair s fun p => { p with roleDueAt := none }) .unpaired)

/-! ### The records of R556 and R564 -/

/-- The pair record; PAIR_NUMBER, SIDE and PARTNER_ID read as last written (R556). -/
def pairRecord (s : State) : List Byte :=
  let p := s.pair
  let (n, sd, id) := p.next.getD (p.cfg.number, p.cfg.side, p.cfg.partnerId)
  leBytes 64 (packBits [ (32, n), (1, sd), (1, b2n p.cfg.enable), (3, roleCode p.role), (2, syncCode p.sync),
    (1, b2n p.partnerReady), (8, p.homeEpoch), (31, p.cfg.takeovers), (1, 0), (16, p.resyncPos), (32, p.discarded), (384, id) ])

/-- Renewal intervals since the last valid RENEW or ACK (R564). -/
def renewMiss (s : State) : Nat := if s.pair.role = .unpaired then 0 else min 65535 ((s.now - s.pair.lastHeard) / ms 10)

/-- The lease record (R564). -/
def leaseRecord (s : State) : List Byte :=
  let p := s.pair
  let expiry := if p.cfg.enable = false then 0 else if p.role = .standby then p.eS else p.eA
  leBytes 64 (packBits [ (64, expiry), (16, p.lc), (2, wireCode p.wire), (1, b2n p.peerPath), (1, b2n p.aligned), (2, p.lastFence),
    (10, 0), (32, (BitVec.ofInt 32 p.offset).toNat), (16, renewMiss s), (16, 0), (32, p.wireErr), (32, p.renews), (32, p.expiries),
    (256, 0) ])

/-! ### Mirror records on the standby (R455, R569, R570) -/

/-- A tenant's slot as the store names it, with the key this SH940 holds (R455, R546). -/
def adoptSlot (old new : KeySlot) : KeySlot :=
  if slotLoaded old && slotLoaded new then { new with key := old.key }
  else if slotLoaded new then { new with st := .awaiting }
  else new

def adoptTenant (s : State) (t : Nat) (r : Tenant) : Tenant :=
  match s.ten.recs.get? t with
  | none => { r with slot0 := adoptSlot {} r.slot0, slot1 := adoptSlot {} r.slot1 }
  | some o => { r with slot0 := adoptSlot o.slot0 r.slot0, slot1 := adoptSlot o.slot1 r.slot1 }

/-- A resource follows the partner's flights and explicit shapers. -/
def adoptSeqr (s : State) (r : Retained) (code : Nat) (q : Seqr) : Seqr :=
  let f := r.flights.getD code q.active
  let mine := (r.shapers.filter fun e => e.1 / 16384 = code).map fun e => (e.1 % 16384, e.2)
  let kept := q.shapers.filter fun e => !e.2.explicit_
  { q with
    active := f
    t0 := if f = q.active then q.t0 else s.now
    pending := r.pendFlights.get? code
    shapers := mine.foldl (fun (m : NMap Shaper) e =>
      m.set e.1 { (q.shapers.getD e.1 { cfg := e.2 }) with cfg := e.2, explicit_ := true }) kept }

/-- Lines held for blocks that a new hall table no longer has go. -/
def keepLines (s : State) : State :=
  let there := fun (e : Nat × LineData) => (hallAt s (e.1 * 64)).isSome
  modPair s fun p => { p with kept := p.kept.filter there, known := p.known.filter there }

/-- The shared sections of a partner's commit (R494, R546, R569): not the pair's identity, nor what belongs to this module:
training results, repairs and fences, windows and dumps. -/
def adoptStore (s : State) (r : Retained) : State :=
  let sealed := fun (x : Tenant) => x.slot0.sealedKey.isSome || x.slot1.sealedKey.isSome
  let erase := s.ten.recs.any fun e => sealed e.2 && !(r.tenants.get? e.1).any sealed
  let s := { s with
    trust := { op := r.opAnchors, link := r.linkAnchors, bmcKey := r.bmcKey }
    halls := r.halls
    acl := r.acl
    ten := { s.ten with recs := r.tenants.map fun e => (e.1, adoptTenant s e.1 e.2) }
    tier := { s.tier with halls := r.tier }
    jrn := (r.halls.filter fun e => e.2.cls = .persistent).map fun e => (e.1, s.jrn.getD e.1 emptyJournal)
    ports := s.ports.map fun e => (e.1, { e.2 with cfg := r.ports.getD e.1 e.2.cfg })
    route := r.route
    leaf := r.leaf
    dist := r.dist
    flt := s.flt.map fun e => (e.1, adoptSeqr s r e.1 e.2)
    dram := { s.dram with
      chans := s.dram.chans.map fun e => (e.1, { e.2 with cfg := r.chans.getD e.1 e.2.cfg })
      rateCap := r.rateCap }
    evr := { s.evr with triggers := r.triggers }
    welt := { s.welt with ageLimit := r.pair.ageLimit } }
  (commitWith (recomputeLevels (keepLines s)) erase).1

/-- Apply one record (R569, R570). -/
def applyBody (s : State) : MirrorBody → State
  | .store r => adoptStore s r
  | .keySlot t gen key =>
    let k := tenantSlot (tenantAt s t) gen
    let k' : KeySlot := match key with
      | none => {}
      | some v => { k with st := .active, key := v }
    { s with ten := { s.ten with recs := s.ten.recs.set t (setSlot (tenantAt s t) gen k') } }
  | .age a => { s with welt := { s.welt with age := max s.welt.age (a + 1) } }
  | .sweepPos t pos => modTenant s t fun r => { r with sweep := some pos }
  | .homeEpoch e => modPair s fun p => { p with homeEpoch := e }
  | .lines hid ls => match s.halls.get? hid with
    | none => s
    | some h => match h.cls with
      | .resident => ls.foldl (fun s e => (writeLine s hid h (64 * e.1) e.2 (BitVec.allOnes 64)).1) s
      | _ => modPair s fun p => { p with kept := ls.foldl (fun m e => m.set (lineOf h (64 * e.1)) e.2) p.kept }
  | .clean hid b => match s.halls.get? hid with
    | none => s
    | some h =>
      let lo := lineOf h (b * blockBytes h)
      let hi := lineOf h ((b + 1) * blockBytes h)
      modPair s fun p => { p with
        kept := p.kept.clear lo hi
        known := (p.kept.filter fun e => decide (lo ≤ e.1 ∧ e.1 < hi)).foldl (fun m e => m.set e.1 e.2) p.known }
  | .sync st whole => modPair s fun p => { p with
      sync := if st = 0 then .synced else if st = 1 then .resyncing else .notSynced
      whole := whole
      kept := if st = 1 ∧ p.sync = .notSynced then [] else p.kept
      known := if st = 1 ∧ p.sync = .notSynced then [] else p.known }

/-- Does a record start a resynchronisation? It is taken whatever its MSEQ (DEDUCED, log 36). -/
def startsSync : MirrorBody → Bool
  | .sync 1 _ => true
  | _ => false

/-- Take the next record: in MSEQ order; a repeat is passed over, a gap makes SYNC NOT_SYNCED (R569, R571). -/
def takeRec (s : State) (r : MirrorRec) : State :=
  if r.mseq = s.pair.applied + 1 ∨ (startsSync r.body = true ∧ s.pair.sync = .notSynced) then
    modPair (applyBody s r.body) fun p => { p with applied := r.mseq }
  else if r.mseq ≤ s.pair.applied then s
  else loseSync s

end Sys2Proof.Machine
end

