-- ==== Sys2Proof/Machine/Start.lean ====
section
/-! DEFINITION. Resets and starts (F14): what a start of each kind clears, restores and keeps (R34, R35, R472, R533 to R549), the
image started (R550, R552), READY and the roles taken there (R388, R536, R554). -/

namespace Sys2Proof.Machine

/-! ### Fences and the slice map (R16, R541, R587, R589) -/

/-- Physical home slices in the fence list. -/
def fencedSlices (l : List Fenced) : List Nat := (l.filter fun f => f.slice).map fun f => f.unit

/-- A slice map with the slices in `bad` replaced by spares, in order; a slice for which none is left stays. -/
def takeSpares (bad : List Nat) : List Nat → List Nat → List Nat
  | [], _ => []
  | x :: t, sp =>
    if bad.contains x then match sp with
      | [] => x :: takeSpares bad t []
      | y :: sp => y :: takeSpares bad t sp
    else x :: takeSpares bad t sp

/-- The slice map that a fence list and the fuses give (R16): the fuse map's slice of each logical slice; in logical order, one in the
fence list takes the lowest spare that is not (which spare is the model's choice, log 90). -/
def sliceMap (s : State) (l : List Fenced) : List Nat :=
  let bad := fencedSlices l
  takeSpares bad s.hw.fusedSlices ((List.range 68).filter fun x => !s.hw.fusedSlices.contains x && !bad.contains x)

/-- The fence list at a core-die reset: cleared entries leave it, a slice fenced until the reset is fenced (R587, R589). -/
def resetFences (l : List Fenced) : List Fenced :=
  (l.filter fun f => !f.cleared).map fun f => if f.st = 1 then { f with st := 0 } else f

/-- A home slice that failed a scan enters the fence list (R541). -/
def fenceSlice (s : State) (u st cause : Nat) : State :=
  if s.fence.list.any fun f => f.slice && decide (f.unit = u) then s
  else
    let l := s.fence.list ++ [{ slice := true, unit := u, st := st, time := s.now }]
    let spare := ((s.hw.fusedSlices.findIdx? fun x => x = u).bind fun i => (sliceMap s l)[i]?).getD 0xFFFF
    event { s with fence := { s.fence with list := l } } .unitFenced (srcOf 0x06 u) none none 0
      [(0, 1, cause), (1, 1, st), (2, 2, if st = 1 ∨ spare = u then 0xFFFF else spare)]

/-- The start-up scan fences every unit that fails it (R541). -/
def startScan (s : State) : State :=
  let s := s.hw.scanBad.foldl (fun s u => if u.1 then fenceSlice s u.2 0 0 else fenceCore s u.2 0) s
  { s with home := { s.home with slices := sliceMap s s.fence.list } }

/-! ### What every start clears (R27, R480, R546) -/

/-- A port after reset: its settings stay, its link trains (R87). -/
def resetPort (unpowered : Bool) (q : Port) : Port :=
  let dead := q.outOfUse && !unpowered
  { cfg := q.cfg, st := if dead then .down else .training, outOfUse := dead }

/-- Windows 0 and 1 with their retained fields; every other window closes (R480, R482, R546). -/
def resetWin (c : WinCfg) : Win :=
  { cls := .bmc, notify := c.notify, alertEn := c.alertEn, alertMask := c.alertMask, lastCseq := c.lastCseq }

/-- A channel's counters and schedules restart; its training stands (R441). -/
def resetChan (x : Chan) : Chan :=
  { st := x.st, x4 := x.x4, ranks := x.ranks, rate := x.rate, capGib := x.capGib, temp := x.temp, cfg := x.cfg }

/-- The records that a journal's replay accepts: durable ones, up to the first that is not (R193). -/
def durableRecs : List JRec → List JRec
  | [] => []
  | r :: t => if r.durable then r :: durableRecs t else []

/-- A journal after a reset: what was in flight is lost, numbering continues after the last record that stands (R193, R632). -/
def resetJournal (j : Journal) : Journal :=
  let rs := durableRecs j.recs
  let c := checkpoint j
  let last := rs.getLast?
  { sb0 := j.sb0, sb1 := j.sb1, recs := rs, skipped := j.skipped
    nextJ := (last.elim c.ckptJ fun r => r.jseq) + 1
    pos := last.elim c.ckptPos fun r => ringAfter r.pos r.blocks }

/-- The recorder after a reset: the ring restarts; cursors go on after the highest that is found (R605, R610). -/
def resetRecorder (s : State) (unpowered : Bool) : Recorder :=
  let e := s.evr
  let recs := e.recs.filter fun r => decide (r.pos < e.segs * segUnits)
  let fatal := if unpowered then [] else e.fatal
  let top := ((recs ++ fatal).map fun r => r.cursor + 1) ++ s.dump.entries.map fun d => d.2.top + 1
  { next := top.foldl max 0, recs := recs, units := e.segs * segUnits, base := e.segs * segUnits, segs := e.segs
    fatal := fatal, fatalTaken := e.fatalTaken, coalesced := e.coalesced, snapDropped := e.snapDropped, lost := e.lost
    triggers := e.triggers }

/-- A drive's queues are set up anew (R243). -/
def resetDrive (d : Drive) : Drive := { st := d.st, key := d.key, holder := d.holder }

/-- Blocks of a dump in hall 4095's frames are there, DIRTY, after the reset (R614). -/
def dumpBlocks (s : State) : NMap Block :=
  (s.tier.blocks.filter fun b => decide (b.1 / 2 ^ 32 = 4095) && !(b.2.st = .clean || b.2.st = .landing)).map fun b =>
    (b.1, { b.2 with st := .dirty, redirty := false, staging := [] })

/-- The state of the core and fabric dies is lost (R546): contexts, queues, lasts, windows, sessions, links, directory, welts,
orders, hints, heat and counters. `keepBlocks`: landed blocks survive a warm start only. -/
def clearDies (s : State) (unpowered keepBlocks : Bool) : State :=
  let hot := s.hw.temps.filter fun e => decide (e.1 < 16 ∧ 400 ≤ e.2) && !s.hw.gradeD1
  let eng : Engine := { nextLid := s.eng.nextLid, gals := hot.map fun e => (e.1, { gated := true }) }
  { s with
    win := []
    ports := s.ports.map fun e => (e.1, resetPort unpowered e.2)
    eps := []
    home := {}
    welt := { s.welt with slots := [], waiting := [], limitFailed := false }
    spdm := {}
    eng := eng
    clk := { master := s.clk.master, core := s.clk.master, fab0 := s.clk.master, fab1 := s.clk.master, hold := s.clk.hold }
    jrn := s.jrn.map fun e => (e.1, { resetJournal e.2 with skipped := keepBlocks && e.2.skipped })
    ten := { s.ten with removal := [], rotation := [] }
    tier := { s.tier with
      blocks := if keepBlocks then s.tier.blocks.map fun e =>
        (e.1, { e.2 with heat := 0, keepUntil := none, holdUntil := none }) else dumpBlocks s
      waitVictim := [], evicted := [], orders := [], ordersDropped := 0, hints := [], shrink := [], seq := 0
      lastPolicy := s.now, lastAdapt := s.now }
    flash := { s.flash with
      drives := s.flash.drives.map fun e => (e.1, resetDrive e.2)
      jobs := [], ctlOps := [], resync := [], resyncRow := 0, stopped := false, mediaErr := 0, adopt := [] }
    dram := { s.dram with chans := s.dram.chans.map fun e => (e.1, resetChan e.2) }
    fence := { list := resetFences s.fence.list, rotation := s.fence.rotation, lastScan := s.now, sentinels := s.fence.sentinels, hits := s.fence.hits }
    evr := resetRecorder s unpowered
    pair := { s.pair with
      waits := [], resyncLeft := [], swap := none, kept := [], discarded := 0
      sync := .notSynced, whole := false, resyncPos := 0, resyncTotal := 0 } }

/-! ### The image started (R550, R552) -/

/-- Why an image cannot be started: 0 its signature, 1 its SVN (R550). -/
def imageBad (s : State) (x : FwSlot) : Option Nat :=
  if x.st ≠ 1 then some 0 else if x.svn < s.hw.fusedMinSvn then some 1 else none

/-- The guard die starts slot NEXT, or the other one with a FIRMWARE event (R550); with neither, Felti does not run. -/
def chooseImage (s : State) : State :=
  let slot := fun (b : Bool) => if b then s.fw.b else s.fw.a
  match imageBad s (slot s.fw.nextB) with
  | none => { s with fw := { s.fw with runningB := s.fw.nextB }, pwr := { s.pwr with feltiOn := true } }
  | some why =>
    let other := !s.fw.nextB
    let ok := (imageBad s (slot other)).isNone
    let s := { s with fw := { s.fw with runningB := other }, pwr := { s.pwr with feltiOn := ok } }
    if ok then event s .firmwareFallback srcGuard none none 0 [(0, 1, b2n other), (1, 1, why)] else s

/-- The store format written: the highest that the running image, a valid image in the other slot and, in a pair, the partner's read
(R552, log 41). -/
def storeFormat (s : State) : Nat :=
  let run := (runningSlot s).storeMax
  let alt := if (otherSlot s).st = 1 then (otherSlot s).storeMax else 3
  min run (min alt (if s.pair.cfg.enable then s.pair.partnerStore else 3))

/-- Before format 2 is written, the fields it has no place for go to their defaults (R552). -/
def refreshFormat (s : State) : State :=
  let f := storeFormat s
  if f = s.store.fmtWrite then s
  else if 3 ≤ f then { s with store := { s.store with fmtWrite := f } }
  else
    let lat := s.flt.any fun q => q.2.shapers.any fun x => x.2.cfg.latTgt ≠ 0
    let off := s.ports.any fun p => p.2.cfg.keyOff
    let s := { s with
      store := { s.store with fmtWrite := f }
      flt := s.flt.map fun q => (q.1, { q.2 with
        shapers := q.2.shapers.map fun x => (x.1, { x.2 with cfg := { x.2.cfg with latTgt := 0 } }) })
      ports := s.ports.map fun p => (p.1, { p.2 with cfg := { p.2.cfg with keyOff := false } }) }
    event s .storeFormatDown srcFelti none none 0 [(0, 1, f), (1, 1, b2n lat + 2 * b2n off)]

/-! ### The store (R544, R546, R549) -/

/-- A resource's flights and explicit shapers as stored (R388, R546). -/
def restoreSeqr (r : Retained) (code : Nat) : Seqr :=
  { active := r.flights.getD code bareFlight
    pending := r.pendFlights.get? code
    shapers := (r.shapers.filter fun e => e.1 / 16384 = code).foldl (fun (m : NMap Shaper) e =>
      m.set (e.1 % 16384) { cfg := e.2, explicit_ := true }) [] }

/-- Every section is set as stored (R546). A hall's POISONED mark and its clear are DRAM state, and stay with it (R575). -/
def restore (s : State) (r : Retained) : State :=
  let mark := fun (hid : Nat) (h : Hall) => match s.halls.get? hid with
    | some o => { h with poisoned := o.poisoned, clearPos := o.clearPos, written := o.written }
    | none => h
  { s with
    pair := { s.pair with cfg := { s.pair.cfg with
      enable := r.pair.enable, takeovers := r.pair.takeovers, poolTimeSaved := r.pair.poolTimeSaved, ageLimit := r.pair.ageLimit } }
    trust := { op := r.opAnchors, link := r.linkAnchors, bmcKey := r.bmcKey }
    halls := r.halls.map fun e => (e.1, mark e.1 e.2)
    acl := r.acl
    ten := { s.ten with recs := r.tenants.map fun e => (e.1, adoptTenant s e.1 e.2) }
    tier := { s.tier with halls := r.tier.map fun e =>
      (e.1, { e.2 with
        landings := 0, refaults := 0, lastLandings := 0, lastRefaults := 0, lastDecay := s.now, hand := 0
        decayIn := e.2.decayPeriod, hintIn := e.2.hintHeat }) }
    jrn := (r.halls.filter fun e => e.2.cls = .persistent).map fun e => (e.1, s.jrn.getD e.1 emptyJournal)
    ports := s.ports.map fun e => (e.1, { e.2 with cfg := r.ports.getD e.1 {} })
    route := r.route
    leaf := r.leaf
    dist := r.dist
    flt := (resourceCodes.filter (resKnown s)).map fun c => (c, restoreSeqr r c)
    dram := { s.dram with
      chans := s.dram.chans.map fun e => (e.1, { e.2 with cfg := r.chans.getD e.1 {} })
      rateCap := r.rateCap, trained := r.trained, repairs := r.repairs, arraySpares := r.arraySpares, sparesIn := r.arraySpares }
    fence := { s.fence with list := resetFences r.fences }
    evr := { s.evr with triggers := r.triggers }
    win := [(0, resetWin r.win0), (1, resetWin r.win1)]
    welt := { s.welt with ageLimit := r.pair.ageLimit } }

/-- A cold start puts new pair settings into force (R556). -/
def newPairCfg (s : State) (r : Retained) : State :=
  modPair s fun p => { p with
    next := none
    cfg := { p.cfg with number := r.pair.number, side := r.pair.side, partnerId := r.pair.partnerId } }

/-- Restore from the chosen copy; a BARE record or no valid copy gives the bare state with its event (R544, R549). -/
def restoreStore (s : State) (cold : Bool) : State :=
  let got := chooseCopy s
  let bare := got.all fun c => c.bareRec
  let r : Retained := (got.map fun c => c.content).getD {}
  let s := if bare then { s with welt := { s.welt with age := 1, ageLimit := 2 ^ 36 } } else s
  let s := restore { s with pwr := { s.pwr with bare := bare }, store := { s.store with barePending := false, dropped := 0 } }
    (if bare then { r with pair := { ageLimit := 2 ^ 36 } } else r)
  let s := if cold || bare then newPairCfg s r else s
  let s := { s with store := match got with
    | some c => { s.store with a := c, b := c }
    | none => s.store }
  if bare then event s .storeBareStart srcStore none none 0 [(0, 1, b2n got.isNone)] else s

/-! ### Drives (R242, R247, R549) -/

/-- How a drive comes up: by its label and what was known of it. A drive without a label joins only in the bare state, before this pool has
any (DEDUCED, log 42). -/
def driveStart (s : State) (p : Nat) : DrvSt :=
  match s.hw.media.get? p with
  | none => .absent
  | some m =>
    if m.meets = false then .absent
    else match m.area with
      | none => if s.pwr.bare then .online else .foreign
      | some a =>
        if s.pwr.bare = true ∨ a.pool ≠ s.hw.pool ∨ a.pos ≠ p then .foreign
        else if driveSt s p = .failed ∨ driveSt s p = .rebuilding then driveSt s p
        else .online

/-- A drive is found in a state at a start: a change is an event (R247). -/
def driveUp (s : State) (p : Nat) (st : DrvSt) : State :=
  let d := driveAt s p
  if d.st = st then s
  else event (modDrive s p fun d => { d with st := st }) .driveState (srcDrive p) none none 0
    [(0, 1, drvCode d.st), (1, 1, drvCode st), (2, 1, 0xFF)]

/-- The labels that the ONLINE drives carry. -/
def onlineAreas (s : State) : List Control :=
  (List.range 8).filterMap fun p => if driveSt s p = .online then (s.hw.media.get? p).bind fun m => m.area else none

/-- Cmin: as the labels name it; in the bare state, and where none names it yet, the LBA count of the smallest drive in use (R232, R237). -/
def startCmin (s : State) : Nat :=
  let sizes := (List.range 8).filterMap fun p => if driveSt s p = .online then (s.hw.media.get? p).map fun m => m.lbas else none
  match onlineAreas s with
  | a :: _ => a.cmin
  | [] => if s.flash.cmin = 0 ∨ s.pwr.bare = true then (minBy id sizes).getD 0 else s.flash.cmin

/-- The drives are brought up: each is checked and set up, its label read, Cmin settled, the labels written where there are none (R232,
R237, R242, R243, R247). A pair's NVMe I/O waits for the role (R254). -/
def driveBringUp (s : State) : State :=
  let ups := (List.range 8).map fun p => (p, driveStart s p)
  let before := flashState s
  let s := ups.foldl (fun s e => driveUp s e.1 e.2) s
  let now := flashState s
  let s := if now = before then s else event s .flashState srcTier none none 0 [(0, 1, now), (1, 1, drivesOut s)]
  let s := { s with flash := { s.flash with cmin := startCmin s, stopped := s.pair.cfg.enable } }
  let s := (ups.filter fun e => e.2 ≠ .absent).foldl (fun s e => beginSetUp s e.1 (setUp true false)) s
  if s.pwr.bare ∧ (onlineAreas s).isEmpty = true then (ctlWrite s).1 else s

/-- The maps are read from the control areas: a bit set in one ONLINE drive's copy is set (R210, R237, R239; DEDUCED, log 94). -/
def readControl (s : State) : State :=
  let l := onlineAreas s
  { s with
    tier := { s.tier with stored := l.foldl (fun m a => a.stored.foldl (fun m x => if m.contains x then m else insertBy id x m) m) [] }
    flash := { s.flash with intent := l.foldl (fun m a => a.intent.foldl (fun m g => m.set g s.now) m) [] } }

/-! ### DRAM (R400 to R405, R437) -/

/-- Is a DIMM used (R400)? -/
def dimmUsed (d : Dimm) : Bool :=
  d.usable && decide (4400 ≤ d.topMts) && inRange d.gib 16 256 && inRange d.ranks 1 2

/-- The one data rate of a cold start (R402). -/
def startRate (s : State) : Nat :=
  (rateBins.filter fun r => decide (r ≤ s.dram.rateCap) && s.hw.dimms.all fun e => !dimmUsed e.2 || decide (r ≤ e.2.topMts)).foldl
    max 4400

/-- Initial training of a channel (R403, R404). -/
def trainChan (s : State) (rate c : Nat) : State :=
  let x := s.dram.chans.getD c {}
  let temp := (s.hw.temps.get? (20 + c)).getD 0
  let (y, cause) : Chan × Nat := match s.hw.dimms.get? c with
    | none => ({ cfg := x.cfg }, 0)
    | some d =>
      if dimmUsed d = false then ({ cfg := x.cfg }, 1)
      else ({ st := if d.trains then .online else .failed, x4 := d.x4, ranks := d.ranks, rate := rate, capGib := d.gib
              temp := temp, cfg := x.cfg }, 2)
  let s := { s with dram := { s.dram with
    chans := s.dram.chans.set c y
    trained := if y.st = .online then s.dram.trained.set c ((s.hw.dimms.get? c).elim 0 fun d => d.serial) else s.dram.trained } }
  if y.st = .online then s
  else event s .channelState (srcChan c) none none 0 [(0, 1, chanStCode y.st), (1, 1, cause)]

/-- SOFT repairs become HARD while the DIMM has resources; entries of DIMMs that are gone are dropped (R437). -/
def hardRepairs (s : State) : State :=
  let present := s.dram.repairs.filter fun r => s.hw.dimms.any fun e => e.2.serial = r.serial
  let out := present.foldl (fun (a : List Repair × NMap Dimm) r =>
    match a.2.find? fun e => e.2.serial = r.serial with
    | some (c, d) =>
      if r.st = 0 ∧ 0 < d.sppr then (a.1 ++ [{ r with st := 1 }], a.2.set c { d with sppr := d.sppr - 1 }) else (a.1 ++ [r], a.2)
    | none => a) ([], s.hw.dimms)
  let s := (present.filter fun r => r.st = 0).foldl (fun s r => match s.hw.dimms.find? fun e => e.2.serial = r.serial with
    | some (c, d) => { s with out := s.out ++ [.ddr c (if 0 < d.sppr then 3 else 2) r.row] }
    | none => s) s
  { s with dram := { s.dram with repairs := out.1 }, hw := { s.hw with dimms := out.2 } }

def trainAll (s : State) (unpowered : Bool) : State :=
  let rate := startRate s
  let s := if unpowered then hardRepairs s else s
  (List.range 16).foldl (fun s c => trainChan s rate c) s

/-! ### Halls and tenants at restore (R34, R35, R472, R547, R634) -/

/-- A restored hall whose extents or flash range the hardware now present does not have (R547; R404 has a missing channel). -/
def hallLost (s : State) (hid : Nat) (h : Hall) : Bool :=
  let t := tierRec s hid
  match h.cls with
  | .resident => h.extents.any fun e => chanOnline s e.1 && decide (chanGib s e.1 ≤ e.2)
  | .tiered => decide (0 < s.flash.cmin) && decide (flashGib s < t.fbase + h.size)
  | .persistent => decide (0 < s.flash.cmin) && decide (flashGib s < t.fbase + h.size ∨ flashGib s ≤ t.jbase)

/-- Such objects are dropped, counted and named (R547). -/
def dropLost (s : State) : State :=
  (s.halls.filter fun e => hallLost s e.1 e.2).foldl (fun s e =>
    let s := { s with
      halls := s.halls.erase e.1
      acl := s.acl.filter fun a => a.1 / 262144 ≠ e.1
      jrn := s.jrn.erase e.1
      tier := { s.tier with halls := s.tier.halls.erase e.1 }
      store := { s.store with dropped := satAdd 8 s.store.dropped 1 } }
    event s .restoreDropped srcStore none none 0 [(0, 2, 3), (4, 4, e.1)]) s

/-- The flash contents of a hall are deallocated, its journal emptied (R35, R472). -/
def clearHallFlash (s : State) (hid : Nat) (h : Hall) : State :=
  let t := tierRec s hid
  match h.cls with
  | .resident => s
  | .tiered => freeFlash s t.fbase (t.fbase + h.size)
  | .persistent =>
    newJournal (freeFlash (freeFlash s t.fbase (t.fbase + h.size)) t.jbase (t.jbase + 1)) hid

/-- A cold start: every RESIDENT hall reads as zero, TIERED halls' flash is deallocated (R35). -/
def coldHalls (s : State) : State :=
  let s : State := { s with
    dram := { s.dram with mem := [] }
    tier := { s.tier with blocks := [] }
    dump := { s.dump with entries := s.dump.entries.map fun e =>
      (e.1, if e.2.st = 4 ∧ frameHeld s e.1 = true then { e.2 with st := 1, fullLen := 0 } else e.2) }
    halls := s.halls.map fun e => (e.1, { e.2 with poisoned := false, clearPos := 0, written := [] }) }
  (s.halls.filter fun e => e.2.cls = .tiered).foldl (fun s e => clearHallFlash s e.1 e.2) s

/-- A slot that a cold start leaves without its key (R472). -/
def awaitSlot (k : KeySlot) : KeySlot := { k with st := .awaiting, key := 0, copyPending := false }

/-- A sealed slot: unsealed where R445 and the SVN allow (R472). -/
def unsealSlot (s : State) (r : Tenant) (k : KeySlot) : KeySlot :=
  if k.st = .empty ∨ k.st = .retired then k
  else match k.sealedKey with
    | some v => if mayUnseal s && decide (r.sealSvn ≤ feltiSvn s) then { k with st := .active, key := v, copyPending := false } else awaitSlot k
    | none => awaitSlot k

/-- A BOUND slot: unwrapped from its retained manifest (R461, R472). -/
def rebindSlot (s : State) (r : Tenant) (gen : Nat) (k : KeySlot) : KeySlot :=
  if k.st = .empty ∨ k.st = .retired then k
  else match (if k.manifest = [] then none else manifestKey s { r with manifestSeq := 0 } gen k.manifest) with
    | some v => { k with st := .active, key := v, copyPending := false }
    | none => awaitSlot k

/-- A RELEASED slot awaits each generation that its KCV records, and GEN 0 before any key came (R472). -/
def releasedSlot (gen : Nat) (r : Tenant) (k : KeySlot) : KeySlot :=
  if k.kcv ≠ 0 ∨ (gen = 0 ∧ r.slot0.kcv = 0 ∧ r.slot1.kcv = 0) then awaitSlot k else { k with st := .empty, key := 0 }

/-- A tenant's slots at a cold start (R472). -/
def coldTenant (s : State) (t : Nat) (r : Tenant) : State :=
  if r.st ≠ .active then s
  else match r.origin, r.sealKeys with
    | .localKey, true => modTenant s t fun r => { r with slot0 := unsealSlot s r r.slot0, slot1 := unsealSlot s r r.slot1 }
    | .localKey, false =>
      let s := (tenantHalls s t).foldl (fun s e => if e.2.cls = .persistent then clearHallFlash s e.1 e.2 else s) s
      let (s, k) := drawKey (modTenant s t fun r => { r with slot0 := {}, slot1 := {}, cur := 0, sweep := none })
      fillSlot s t 0 k []
    | .bound, _ => modTenant s t fun r => { r with slot0 := rebindSlot s r 0 r.slot0, slot1 := rebindSlot s r 1 r.slot1 }
    | .released, _ => modTenant s t fun r => { r with slot0 := releasedSlot 0 r r.slot0, slot1 := releasedSlot 1 r r.slot1 }

/-- Halls that were TRIMMING or DESTROYING complete that step (R34). `ds`: the drains that ran. -/
def finishDrains (s : State) (ds : NMap Drain) : State :=
  let old := fun (hid : Nat) (h : Hall) => (ds.get? hid).elim h.size fun d => max d.oldSize h.size
  { (s.halls.foldl (fun s e => match e.2.state with
      | .trimming => releaseTrim s e.1 e.2 { kind := .trim, lo := 2 ^ 30 * e.2.size, oldSize := old e.1 e.2, stepAt := s.now }
      | .destroying => releaseDestroy s e.1 e.2 { kind := .destroy, oldSize := old e.1 e.2, stepAt := s.now }
      | _ => s) s) with drains := [] }

/-- REMOVING tenants come to the end of the command that set it (R634). -/
def finishRemovals (s : State) : State :=
  let old := s.ten.recs.filter fun e => e.2.st = .removing
  let s := old.foldl (fun s e =>
    let s := if e.2.retiring then s
      else (tenantHalls s e.1).foldl (fun s h =>
        releaseDestroy s h.1 h.2 { kind := .destroy, oldSize := h.2.size, stepAt := s.now }) s
    let gone := fun (k : KeySlot) => { k with st := KState.retired, key := 0, sealedKey := none, copyPending := false }
    freeTenant (modTenant s e.1 fun r =>
      { r with st := .retired, retiring := false, slot0 := gone r.slot0, slot1 := gone r.slot1, sweep := none }) e.1) s
  if old.isEmpty then s else (commitWith s true).1

/-! ### Starts (R533 to R540) -/

/-- A power loss or rail failure of the last run is reported (R527, R531). -/
def reportLogs (s : State) : State :=
  let s := s.pwr.lossLog.foldl (fun s e => event s .powerLoss srcModule none none 0 [(0, 1, e.1), (2, 2, e.2)]) s
  let s := s.pwr.powerLog.foldl (fun s e => event s .railFail srcModule none none 0 [(0, 1, e.1), (1, 1, e.2)]) s
  { s with pwr := { s.pwr with lossLog := [], powerLog := [] } }

/-- AGE at a start (R167): in the bare state it starts at 1 with AGE_LIMIT 2^36, committed as it stands. -/
def startAge (s : State) : State :=
  if s.pwr.bare then match commit s with
    | (t, true) => t
    | (_, false) => { s with welt := { s.welt with ageLimit := 0, limitFailed := true, retryAt := ms 10 + s.now } }
  else resumeAge s

/-- The start begins: the dies leave reset with nothing of what they held (R539, R540). -/
def startPower (s : State) (kind : StartKind) : State :=
  uartSay { s with pwr := { s.pwr with
    stage := 5, startKind := kind, startTime := if kind = .powerUp then 0 else s.now, readyTime := 0, starting := true, ready := false, resetDue := none
    quiesceSince := none, swapQuiesce := false, diesHeld := false, fatalHold := false, fatalAt := none, fatalDumpDone := false
    consoleUntil := none, resetHits := false, missed := false } } 0 5 srcGuard

/-- At power-up the guard die starts afresh too: its lease and pair state, HOME_EPOCH 0 (R22, R556, R564). -/
def powerUpGuard (s : State) : State :=
  { s with pair := { cfg := s.pair.cfg, mseq := s.pair.mseq }, clk := {} }

/-- A cold start, or a power-up (R35, R537, R539, R541, R546). -/
def coldStart (s : State) (kind : StartKind) (unpowered : Bool) : State :=
  let ds := s.drains
  let s := clearDies (startPower { s with hw := { s.hw with dbgFlags := 0 } } kind) unpowered false
  let s := { s with ten := { s.ten with recs := [] } }
  let s := restoreStore (chooseImage s) true
  let s := trainAll (readControl (driveBringUp (startScan s))) unpowered
  let s := coldHalls (dropLost s)
  let s := s.ten.recs.foldl (fun s e => coldTenant s e.1 e.2) s
  let s := { finishRemovals (finishDrains s ds) with clears := [] }
  let s := refreshFormat (startAge (markResync (replayAll s)))
  checkPeerPath (smbUpdate (reportLogs (recomputeLevels s))) 8

/-- Does the store give the bare state (R544, R549)? A reset then starts cold (DEDUCED, log 44). -/
def bareNext (s : State) : Bool := (chooseCopy s).all fun c => c.bareRec

/-- A warm start: contents, blocks and keys stay (R406, R534, R537, R540). -/
def warmStart (s : State) : State :=
  if bareNext s then coldStart s .cold false
  else
  let ds := s.drains
  let s := driveBringUp (restoreStore (chooseImage (clearDies (startPower s .warm) false true)) false)
  let s := finishRemovals (finishDrains { s with home := { s.home with slices := sliceMap s s.fence.list } } ds)
  checkPeerPath (smbUpdate (reportLogs (recomputeLevels (refreshFormat (startAge s))))) 8

/-- A recovery start: as at a takeover, RESIDENT halls poisoned, the others back to flash with journals replayed (R534, R540,
R576). -/
def recoveryStart (s : State) : State :=
  if bareNext s then coldStart s .cold false
  else
  let ds := s.drains
  let s := readControl (driveBringUp (restoreStore (chooseImage (clearDies (startPower s .recovery) false false)) false))
  let s := poisonResident { s with home := { s.home with slices := sliceMap s s.fence.list } } fun _ => false
  let s := finishRemovals (finishDrains s ds)
  let s := refreshFormat (startAge (markResync (replayAll s)))
  checkPeerPath (smbUpdate (reportLogs (recomputeLevels s))) 8

/-! ### Quiesce (R535) -/

/-- Have requests, landings, writebacks and journal writes completed (R535 step 2)? -/
def quiesced (s : State) : Bool :=
  s.home.lines.all (fun e => e.2.active.isNone && e.2.fifo.isEmpty) && s.home.wbHeld.isEmpty && s.home.merge.isEmpty &&
    s.home.resends.isEmpty &&
    (s.tier.blocks.all fun b => decide (b.2.st = .clean ∨ b.2.st = .dirty ∨ b.2.st = .evicting false)) &&
    (s.jrn.all fun j => j.2.sbWrite.isEmpty && j.2.queue.isEmpty && j.2.recs.all fun r => r.durable) &&
    s.flash.jobs.isEmpty && s.flash.ctlOps.isEmpty &&
    s.flash.drives.all fun d => d.2.cmds.all fun c => decide (c.op ≠ .read ∧ c.op ≠ .write)

/-- RESET_DELAY_EXPIRY: a scheduled reset comes due (R524). A warm one first quiesces; the row comes again when the quiesce is
complete, and QUIESCE_TIMEOUT when it is not (R535). -/
def resetDelay (s : State) : State :=
  match s.pwr.resetDue with
  | none => s
  | some (cold, at_) =>
    if s.now < at_ ∨ s.pwr.starting = true ∨ s.pwr.diesHeld = true then s
    else if cold then coldStart s .cold false
    else
      let s := if s.pwr.quiesceSince.isSome then s else { s with pwr := { s.pwr with quiesceSince := some s.now } }
      if quiesced s then warmStart s else s

def execResetDelayExpiry (s : State) : Host.Outcome State Fault Refusal := .next (resetDelay s)

/-- QUIESCE_TIMEOUT: 25 ms without completion turn a reset into a recovery start (R535). -/
def execQuiesceTimeout (s : State) : Host.Outcome State Fault Refusal :=
  .next (match s.pwr.quiesceSince with
    | some t => if ms 25 + t ≤ s.now ∧ s.pwr.swapQuiesce = false then recoveryStart s else s
    | none => s)

/-! ### READY (R388, R404, R534, R536, R538, R542, R550, R554) -/

/-- The bound within which a start reaches READY (R534). -/
def startBound : StartKind → Nat
  | .powerUp | .cold => sec 30
  | .warm => sec 5
  | .recovery => sec 8

/-- A restored flight in force: the bare flight where it breaks R381 (R388). `which`: 0 active, 1 pending. -/
def fitFlight (s : State) (r which : Nat) (f : Flight) : State × Flight :=
  if flightOk r (resLimit s r) f then (s, f)
  else (event s .flightReplaced (srcFlight r) none none 0 [(0, 1, which), (4, 4, resLimit s r)], bareFlight)

/-- A resource's flights at READY (R388, R538). -/
def readyFlight (s : State) (r : Nat) : State :=
  match s.flt.get? r with
  | none => s
  | some q =>
    let drop := s.pwr.startKind = .powerUp && decide (s.now < s.pair.cfg.poolTimeSaved)
    let (s, pend) : State × Option Flight := match q.pending with
      | none => (s, none)
      | some f => if drop then (event s .pendingDropped (srcFlight r) none none 0 [(8, 8, f.takeover)], none) else (s, some f)
    match pend with
    | some f =>
      let (s, g) := fitFlight s r 1 f
      if f.takeover ≤ s.now then { s with flt := s.flt.set r { q with active := g, pending := none, t0 := s.now } }
      else
        let (s, a) := fitFlight s r 0 q.active
        { s with flt := s.flt.set r { q with
          active := a, t0 := s.now, pending := some (if g = f then f else { bareFlight with takeover := f.takeover }) } }
    | none =>
      let (s, a) := fitFlight s r 0 q.active
      { s with flt := s.flt.set r { q with active := a, t0 := s.now, pending := none } }

/-- Halls whose mask names a missing channel (R404). -/
def missingChannels (s : State) : State :=
  s.halls.foldl (fun s e => ((hallChans e.2).filter fun c => !chanOnline s c).foldl (fun s c =>
    event s .hallChannelMissing (srcChan c) (some e.2.tenant) (some e.1) 0
      [(0, 1, chanStCode (s.dram.chans.getD c {}).st)]) s) s

/-- The role at READY after a cold start (R554). Side 1 waits out the second in which side 0 would win; it serves nothing
meanwhile, as a standby (DEDUCED, log 43). -/
def coldRole (s : State) : State :=
  if s.pair.cfg.enable = false then serveFrom s
  else if s.pair.partnerReady then
    if s.pair.cfg.side = 0 ∧ s.now ≤ sec 1 + s.pair.partnerAt then serveFrom s else becomeStandby s
  else if s.pair.cfg.side = 0 then serveFrom s
  else modPair (setRole s .standby) fun p => { p with roleDueAt := some (sec 1 + s.now) }

/-- The role at READY after a warm or recovery start: a standby, or one whose partner took over, is STANDBY (R257, R536). -/
def warmRole (s : State) : State :=
  if s.pair.cfg.enable && (s.pair.role = .standby || s.pair.partnerReady && s.pair.role = .fenced) then becomeStandby s
  else raiseEpoch (serveFrom s)

/-- EPOCH to every listed endpoint at READY; a raised epoch has been announced already (R504). -/
def announce (s : State) (cold : Bool) : State :=
  if cold && (s.pair.role = .active || s.pair.role = .unpaired) then sendEpochs s (listedEps s) else s

/-- Ports that waited in KEYING for READY come up (R103, R542). -/
def portsUp (s : State) : State :=
  s.ports.foldl (fun s e => match s.ports.get? e.1 with
    | some q => if q.st = .keying ∧ mayComeUp s e.1 q = true then portComesUp s e.1 else s
    | none => s) s

/-- No dump is being taken any longer. -/
def settleDumps (s : State) : State := { s with dump := { s.dump with current := none } }

/-- READY_REACHED: not before the age commit, nor with more than 4 home slices fenced (R167, R541, R589). -/
def readyReached (s : State) : State :=
  if s.pwr.starting = false ∨ s.pwr.diesHeld = true ∨ s.pwr.feltiOn = false ∨ s.welt.limitFailed = true ∨
      4 < (fencedSlices s.fence.list).length then s
  else
    let cold := decide (s.pwr.startKind = .powerUp ∨ s.pwr.startKind = .cold)
    let s := resourceCodes.foldl readyFlight s
    let s := { s with pwr := { s.pwr with
      stage := 6, readyTime := s.now, starting := false, ready := true, failedStarts := 0 } }
    let s := settleDumps (missingChannels s)
    let s := if cold then coldRole s else warmRole s
    portsUp (announce s cold)

def execReadyReached (s : State) : Host.Outcome State Fault Refusal := .next (readyReached s)

/-- START_BOUND_FAIL: an image that misses its bound on two starts in a row loses NEXT (R550). -/
def execStartBoundFail (s : State) : Host.Outcome State Fault Refusal :=
  .next (if s.pwr.starting = false ∨ s.pwr.diesHeld = true ∨ s.pwr.missed = true ∨ s.now < s.pwr.startTime + startBound s.pwr.startKind then s
    else
      let n := s.pwr.failedStarts + 1
      let s := { s with pwr := { s.pwr with failedStarts := if n < 2 then n else 0, missed := true } }
      if n < 2 then s
      else
        let nb := !s.fw.runningB
        event { s with fw := { s.fw with nextB := nb } } .firmwareFallback srcGuard none none 0 [(0, 1, b2n nb), (1, 1, 2)])

/-! ### Roles decided later (R554) -/

/-- PARTNER_READY_REPORT (R455, R554): a READY partner ends the wait of side 1; the report names what its image reads and offers (R552,
R553, log 41). -/
def execPartnerReadyReport (ready : Bool) (feature storeMax : Nat) (s : State) : Host.Outcome State Fault Refusal :=
  let s := modPair s fun p => { p with
    partnerFeature := feature, partnerStore := storeMax, partnerReady := ready, partnerAt := if ready && !p.partnerReady then s.now else p.partnerAt }
  let s := refreshFormat (if ready then s else releaseCopies s)
  .next (if ready && s.pair.roleDueAt.isSome then becomeStandby s else s)

/-- ROLE_DECISION_TIMEOUT: a second without a READY partner (R554). -/
def execRoleDecisionTimeout (s : State) : Host.Outcome State Fault Refusal :=
  .next (match s.pair.roleDueAt with
    | some t => if t ≤ s.now then sendEpochs (serveFrom s) (listedEps s) else s
    | none => s)

end Sys2Proof.Machine
end

