-- ==== Sys2Proof/Machine/Topology.lean ====
section
/-! DEFINITION. Topology and port commands (R89, R111, R112, R140 to R142, R478, R512). -/

namespace Sys2Proof.Machine

/-! ### TOPO_SET and ROUTE_SET -/

/-- The leaf map with an endpoint's leaf; leaf 0x3FF is the default and stands for no entry (R142). -/
def setLeaf (m : NMap Nat) (ep leaf : Nat) : NMap Nat := m.put ep leaf 0x3FF

/-- The distance of a pair; pairs involving leaf 0x3FF are ignored, 15 is the default (R141, R142). -/
def setDist (m : NMap Nat) (pair d : Nat) : NMap Nat :=
  if pair / 1024 = 0x3FF ∨ pair % 1024 = 0x3FF then m else m.put pair d 15

/-- A nibble of the entries of a distance table, low nibble first. -/
def nibble (x : Win) (i : Nat) : Nat := bits (x.arg (16 + i / 2) 1) (4 * (i % 2)) 4

def topoCheck (x : Win) : Option (Nat × Nat) :=
  let leaf := decide (x.arg 0 1 = 0)
  let first := x.arg 4 4
  let n := x.arg 8 4
  match badArg [ (decide (1 < x.arg 0 1), 0), (decide (x.arg 1 3 ≠ 0), 1),
      (decide (first + n > if leaf then 2 ^ 18 else 2 ^ 20), 4),
      (decide (131072 < if leaf then 2 * n else ceilDiv n 2), 8), (decide (x.arg 12 4 ≠ 0), 12) ] with
  | some e => some e
  | none => if leaf then (List.range n).findSome? fun i => badArg [(decide (1024 ≤ x.arg (16 + 2 * i) 2), 16 + 2 * i)] else none

/-- `TOPO_SET` (R512). -/
def topoSetBody (s : State) (x : Win) : Answer :=
  guardArg s (topoCheck x) fun _ =>
    let first := x.arg 4 4
    let idx := List.range (x.arg 8 4)
    let t := if x.arg 0 1 = 0 then { s with leaf := idx.foldl (fun m i => setLeaf m (first + i) (x.arg (16 + 2 * i) 2)) s.leaf }
      else { s with dist := idx.foldl (fun m i => setDist m (first + i) (nibble x i)) s.dist }
    retain s t fun t => good t

def execTopoSet (w : Nat) (s : State) : Host.Outcome State Fault Refusal := .next (runRetained s w 0x0300 topoSetBody)

/-- `ROUTE_SET` (R89, R142, R512); a changed route port recomputes the levels (R49). -/
def routeSetBody (s : State) (x : Win) : Answer :=
  let first := x.arg 0 4
  let n := x.arg 4 4
  let v := fun i => x.arg (8 + i) 1
  guardArg s (match badArg [(decide (2 ^ 18 < first + n), 0)] with
    | some e => some e
    | none => (List.range n).findSome? fun i => badArg [(decide (8 ≤ v i ∧ v i ≠ 0xFF), 8 + i)]) fun _ =>
    let t := { s with route := (List.range n).foldl (fun m i => NMap.put m (first + i) (v i) 0xFF) s.route }
    retain s t fun t => good (recomputeLevels t)

def execRouteSet (w : Nat) (s : State) : Host.Outcome State Fault Refusal := .next (runRetained s w 0x0301 routeSetBody)

/-! ### PORT_QUERY and PORT_SET -/

def recordOf (s : State) (p : Nat) : List Byte := portRecord p (s.ports.getD p {})

def portQueryBody (s : State) (x : Win) : Answer :=
  guardArg s (badArg [(decide (9 < x.arg 0 1), 0)]) fun _ => good s (recordOf s (x.arg 0 1))

def execPortQuery (w : Nat) (s : State) : Host.Outcome State Fault Refusal := .next (runCmd s w 0x0302 portQueryBody)

/-- `PORT_SET` (R111, R112, R478, R512): the RW fields and KEY_MODE are retained, ACTION declares the link down. A port waiting
in KEYING comes up unkeyed when KEY_MODE turns OFF. The RO fields of the record, its reserved bits among them, are ignored (R512). -/
def portSetBody (s : State) (x : Win) : Answer :=
  let p := x.arg 0 1
  guardArg s (badArg [ (decide (9 < p), 0), (decide (1 < x.arg 1 1 ∨ (x.arg 1 1 = 1 ∧ 8 ≤ p)), 1), (decide (1 < x.arg 2 1), 2),
      (decide (x.arg 3 5 ≠ 0), 3), (!inRange (x.arg 12 2) 16 1024, 12), (!inRange (x.arg 14 2) 20 160, 14),
      (decide (x.arg 16 2 < 16), 16) ]) fun _ =>
    let cfg : PortCfg := { downTmo := x.arg 12 2, replayTmo := x.arg 14 2, laneThr := x.arg 16 2, keyOff := decide (x.arg 1 1 = 1) }
    retain s (modPort s p fun q => { q with cfg := cfg }) fun t =>
      let t := match t.ports.get? p with
        | some q => if q.st = .keying ∧ mayComeUp t p q = true then portComesUp t p else t
        | none => t
      let t := if x.arg 2 1 = 1 then linkDown t p 5 else t
      good t (recordOf t p)

def execPortSet (w : Nat) (s : State) : Host.Outcome State Fault Refusal := .next (runRetained s w 0x0303 portSetBody)

end Sys2Proof.Machine
end

