-- ==== Sys2Proof/Machine/Recorder.lean ====
section
/-! DEFINITION. The recorder's commands and rows and the dumps (F16 R604 to R617, R521). -/

namespace Sys2Proof.Machine

/-! ### Records as bytes (R604) -/

/-- DETAIL: each field (byte, width in bytes, value), the rest zero. -/
def detailBytes (l : List (Nat × Nat × Nat)) : List Byte := rdBytes (l.foldl (fun m f => wrBytes m f.1 (leBytes f.2.1 f.2.2)) []) 0 16

def idField (o : Option Nat) : Nat := match o with
  | some x => x % 4096 + 2 ^ 15
  | none => 0

def recordBytes (r : Record) : List Byte :=
  leBytes 8 r.cursor ++ leBytes 8 r.time ++ leBytes 2 r.event ++ leBytes 1 r.cls ++ leBytes 1 r.flags ++ leBytes 2 r.source ++
    leBytes 2 (idField r.tenant) ++ leBytes 2 (idField r.hall) ++ leBytes 2 r.len ++ leBytes 4 r.count ++ leBytes 8 r.firstTime ++
    leBytes 8 r.addr ++ detailBytes r.detail ++ sub r.snap 0 (64 * (r.len - 1))

/-! ### Triggers (R606) -/

/-- The trigger of a 56-byte entry. -/
def triggerOf (b : List Byte) : Trigger :=
  let ctl := subNat b 0 1
  { enable := ctl.testBit 0, snapshot := ctl.testBit 1, alert := ctl.testBit 2, once := ctl.testBit 3, classMask := subNat b 1 1
    event := subNat b 2 2, eventMask := subNat b 4 2, source := subNat b 6 2, sourceMask := subNat b 8 2
    hall := subNat b 10 2 % 4096, hallAny := (subNat b 10 2).testBit 15, tenant := subNat b 12 2 % 4096
    tenantAny := (subNat b 12 2).testBit 15, addrLo := subNat b 16 8, addrHi := subNat b 24 8, threshold := subNat b 32 4
    window := subNat b 36 4, snapSet := subNat b 40 4 }

/-- `REC_TRIGGER_SET` (R521, R606); reserved bits set and a THRESHOLD of 0 are refused. -/
def recTriggerSetBody (s : State) (x : Win) : Answer :=
  let i := x.arg 0 1
  let b := x.bytes 8 56
  guardArg s (badArg [ (decide (x.arg 1 7 ≠ 0), 1), (decide (16 ≤ subNat b 0 1), 8), (decide (bits (subNat b 10 2) 12 3 ≠ 0), 18),
      (decide (bits (subNat b 12 2) 12 3 ≠ 0), 20), (decide (subNat b 14 2 ≠ 0), 22), (decide (subNat b 32 4 = 0), 40),
      (decide (32 ≤ subNat b 40 4), 48), (decide (subNat b 44 12 ≠ 0), 52) ]) fun _ =>
    retain s { s with evr := { s.evr with triggers := s.evr.triggers.set i (triggerOf b), matches_ := s.evr.matches_.erase i } }
      fun u => good u

def execRecTriggerSet (w : Nat) (s : State) : Host.Outcome State Fault Refusal := .next (runRetained s w 0x0A00 recTriggerSetBody)

/-! ### Reading (R611, R612) -/

/-- The readable records, in cursor order. -/
def readable (s : State) : List Record := sortBy (fun r => r.cursor) (s.evr.recs ++ s.evr.fatal)

/-- OLDEST: the lowest readable cursor, NEXT when there is none. -/
def recOldest (s : State) : Nat := ((readable s).head?).elim s.evr.next fun r => r.cursor

/-- RING_OLDEST: the lowest cursor the ring of this start still holds, NEXT when none. -/
def ringOldest (s : State) : Nat :=
  let lo := max s.evr.base (s.evr.units - ringUnits)
  ((s.evr.recs.find? fun r => decide (lo ≤ r.pos)).map fun r => r.cursor).getD s.evr.next

def drops (s : State) (cls : Nat) : Nat := s.evr.drops.getD cls 0

/-- The recorder record (R612). -/
def recorderRecord (s : State) : List Byte :=
  leBytes 64 (packBits [ (64, s.evr.next), (64, recOldest s), (64, ringOldest s), (32, 64 * sumNat (s.evr.fatal.map fun r => r.len)),
    (1, b2n s.evr.copyStalled), (31, 0), (32, drops s 0), (32, drops s 1), (32, drops s 2), (32, drops s 4), (32, drops s 5),
    (32, drops s 6), (32, s.evr.coalesced), (16, s.evr.snapDropped), (16, s.evr.lost) ])

def execRecQuery (w : Nat) (s : State) : Host.Outcome State Fault Refusal :=
  .next (runCmd s w 0x0A01 fun s _ => good s (recorderRecord s))

/-- Records taken in cursor order up to `room` bytes: NEXT and the bytes (R611). -/
def readFrom (sees : Record → Bool) : List Record → Nat → Nat → List Byte → Nat × List Byte
  | [], next, _, out => (next, out)
  | r :: t, next, room, out =>
    if sees r = false then readFrom sees t (r.cursor + 1) room out
    else if room < 64 * r.len then (next, out)
    else readFrom sees t (r.cursor + 1) (room - 64 * r.len) (out ++ recordBytes r)

/-- Records of the ring that are found bad are delivered with CORRUPT set from then on (R583, R604). -/
def spoilRecs (s : State) (bad : List Nat) : State :=
  let mark := fun (r : Record) => if bad.contains r.cursor && decide (s.evr.segs * segUnits ≤ r.pos) then { r with flags := r.flags ||| 4 } else r
  { s with evr := { s.evr with recs := s.evr.recs.map mark } }

/-- `REC_READ` (R521, R611). -/
def recReadBody (bad : List Nat) (s : State) (x : Win) : Answer :=
  let s := spoilRecs s bad
  let from_ := x.arg 0 8
  let most := x.arg 8 4
  guardArg s (badArg [(!inRange most 64 131072, 8)]) fun _ =>
    let sees := fun (r : Record) => decide (x.cls ≠ .tenant) || decide (r.tenant = some x.owner)
    let rs := (readable s).filter fun r => decide (from_ ≤ r.cursor)
    match rs.find? sees with
    | some r =>
      if most < 64 * r.len then fail s stBadArg (64 * r.len)
      else
        let (next, out) := readFrom sees rs from_ most []
        good s (leBytes 8 next ++ leBytes 4 out.length ++ leBytes 4 0 ++ out)
    | none =>
      let (next, out) := readFrom sees rs from_ most []
      good s (leBytes 8 next ++ leBytes 4 out.length ++ leBytes 4 0 ++ out)

/-- `bad`: cursors of ring records found uncorrectable as they are read. -/
def execRecRead (w : Nat) (bad : List Nat) (s : State) : Host.Outcome State Fault Refusal :=
  .next (runCmd s w 0x0A02 (recReadBody bad))

/-! ### The recorder's own rows (R608, R610) -/

/-- RUN_CLOSE: 1 ms without a repeat, or 1 s after it opened, a run's COALESCED record is written (R608). Runs of events that
concern no hall match any hall number. -/
def execRunClose (event source hall : Nat) (s : State) : Host.Outcome State Fault Refusal :=
  let due := fun (r : Run) => decide (ms 1 + r.lastAt ≤ s.now ∨ sec 1 + r.openedAt ≤ s.now)
  .next (match s.evr.runs.find? fun r =>
      decide (r.event = event ∧ r.source = source) && (decide (r.hall = some hall) || r.hall.isNone) && due r with
    | some r => closeRun s r
    | none => s)

/-- Segments that hall 4095's upper 32 GiB holds (R610). -/
def copySegs : Nat := 32768

/-- The bytes of a segment: its records stand one after the other, those that cross its ends in part (R604, R610). -/
def segBytes (e : Recorder) (k : Nat) : List Byte :=
  let lo := k * segUnits
  let rs := e.recs.filter fun r => decide (r.pos < lo + segUnits ∧ lo < r.pos + r.len)
  let first := (rs.head?.map fun r => r.pos).getD lo
  sub ((List.replicate (64 * (first - lo)) 0 ++ rs.flatMap recordBytes).drop (64 * (lo - first))) 0 (64 * segUnits)

/-- SEGMENT_COPY: Felti copies the oldest completed segment to hall 4095's upper 32 GiB, itself a ring, under S7; while the flash tier
takes no writes it waits (R63, R610). -/
def segmentCopy (s : State) : State :=
  let e := s.evr
  let off := copyBase + e.segs % copySegs * 2 ^ 20
  if s.pwr.feltiOn = false ∨ e.units / segUnits ≤ e.segs ∨ ownMay s off segUnits = false then s
  else
    let n := e.segs + 1
    let s := ownStore s off 7 (bytesLines (segBytes e e.segs))
    { s with evr := { e with
      segs := n
      copyStalled := e.copyStalled && decide (n < e.units / segUnits)
      recs := e.recs.filter fun r => decide ((n - copySegs) * segUnits ≤ r.pos) } }

def execSegmentCopy (s : State) : Host.Outcome State Fault Refusal := .next (segmentCopy s)

/-! ### Dumps (R613 to R616) -/

/-- A section of a dump (R615). -/
def dumpSection (n : Nat) (b : List Byte) : List Byte :=
  leBytes 2 n ++ leBytes 2 0 ++ leBytes 4 b.length ++ b ++ leBytes (align8 b.length - b.length) 0

/-- Bytes whose length and content the spec leaves open (log 45). -/
def openBytes (s : State) (k : Nat) : List Byte :=
  leBytes (Config.freeChoice (s.free + k) % 2 ^ 28) (Config.freeChoice (s.free + k + 1))

/-- The records of section 0x03, in the order R615 names them (log 45). -/
def unitRecords (s : State) : List Byte :=
  (s.ports.flatMap fun e => portRecord e.1 e.2) ++ ((List.range 16).flatMap fun c => chanRecord s c) ++
    ((List.range 8).map fun p => BitVec.ofNat 8 (drvCode (driveSt s p))) ++ (s.flt.flatMap fun e => flightRecord s e.1 e.2) ++
    (s.eng.queues.flatMap fun e => queueRecord s e.1) ++
    s.fence.list.flatMap fun f => lay [(1, b2n f.slice), (1, f.st), (2, f.unit), (4, 0), (8, f.time)]

/-- Sections of the summary, and those that the full dump adds (R615). -/
def summarySections (s : State) : List (List Byte) :=
  [ dumpSection 1 (s.evr.fatal.flatMap recordBytes), dumpSection 2 (openBytes s 0 ++ pairRecord s ++ leaseRecord s),
    dumpSection 3 (unitRecords s) ]

def fullSections (s : State) : List (List Byte) :=
  [ dumpSection 4 ((s.evr.recs.filter fun r => decide (s.evr.segs * segUnits ≤ r.pos)).flatMap recordBytes),
    dumpSection 5 (openBytes s 2), dumpSection 6 (openBytes s 4) ]

/-- Does a range of the dump lie on channels that hold data (R61, R404, R614)? -/
def framesThere (s : State) (lo hi : Nat) : Bool :=
  (List.range (min 16 (ceilDiv hi 65536 - lo / 65536))).all fun i => chanOnline s ((lo / 65536 + i) % 16)

/-- Lay the sections, cutting those that fall on a missing channel; the flag says whether one was cut (R614). -/
def layDump (s : State) (l : List (List Byte)) : List Byte × Bool :=
  l.foldl (fun (a : List Byte × Bool) b =>
    let at_ := 64 + a.1.length
    if framesThere s at_ (at_ + b.length) then (a.1 ++ b, a.2) else (a.1, true)) ([], false)

/-- The 64-byte header (R615). -/
def dumpHeader (s : State) (power : Bool) (flags cause source cursor len : Nat) : List Byte :=
  leBytes 4 0x504D5544 ++ leBytes 1 1 ++ leBytes 1 (b2n power) ++ leBytes 1 flags ++ leBytes 1 0 ++ leBytes 8 s.now ++
    leBytes 2 cause ++ leBytes 2 source ++ leBytes 4 (runningSlot s).ver ++ leBytes 8 (max s.store.a.rseq s.store.b.rseq) ++
    leBytes 8 cursor ++ leBytes 8 len ++ leBytes 16 0

/-- Where a new dump goes: the lowest free INDEX, else in place of the oldest but the earliest (R613). -/
def dumpIndex (s : State) : Nat × Bool :=
  match s.dump.entries.freeKey 0 31 with
  | some i => (i, false)
  | none =>
    let byTime := sortBy (fun (e : Nat × Dump) => e.2.time) s.dump.entries
    (((byTime[1]?).map fun e => e.1).getD 0, true)

/-- Write a dump: the guard die's summary alone, or with Felti's full dump in hall 4095's frames, whose landed blocks are
dropped (R584, R585, R613 to R615). The fatal region has then been taken (R609). -/
def writeDump (s : State) (power full : Bool) (cause source cursor : Nat) : State :=
  let (i, lostOne) := dumpIndex s
  let sums := (summarySections s).flatMap id
  let (body, cut) := if full then layDump s (summarySections s ++ fullSections s) else ([], false)
  let flags := if cut then 2 else 0
  let d : Dump :=
    { power := power, cause := cause, source := source, time := s.now, cursor := cursor, st := if full then 4 else 1, flags := flags
      top := s.evr.next - 1
      summary := dumpHeader s power flags cause source cursor (64 + sums.length) ++ sums
      fullLen := if full then 64 + body.length else 0 }
  let s := if full then frameStore s i (bytesLines (dumpHeader s power flags cause source cursor (64 + body.length) ++ body)) else s
  let s := s.tickFree
  { s with
    dump := { s.dump with
      entries := s.dump.entries.set i d
      lost := satAdd 16 s.dump.lost (b2n lostOne)
      current := if power then s.dump.current else some i }
    evr := { s.evr with fatalTaken := !power || s.evr.fatalTaken } }

/-- A second FATAL fault leaves the dump PARTIAL (R585). -/
def cutDump (s : State) : State :=
  match s.dump.current with
  | some i => { s with dump := { s.dump with
      current := none, entries := s.dump.entries.modify i fun d => { d with st := 3, flags := d.flags ||| 1 } } }
  | none => s

/-- STATE of a dump: FULL once its frames are written back (R614, R617). -/
def dumpState (s : State) (i : Nat) (d : Dump) : Nat := if d.st = 4 ∧ frameHeld s i = false then 2 else d.st

/-- `DUMP_QUERY` (R617). -/
def dumpEntry (s : State) (e : Nat × Dump) : List Byte :=
  leBytes 1 e.1 ++ leBytes 1 (b2n e.2.power) ++ leBytes 1 (dumpState s e.1 e.2) ++ leBytes 1 e.2.flags ++ leBytes 2 e.2.cause ++
    leBytes 2 e.2.source ++ leBytes 8 e.2.time ++ leBytes 8 e.2.cursor ++ leBytes 4 e.2.summary.length ++ leBytes 4 e.2.fullLen

def execDumpQuery (w : Nat) (s : State) : Host.Outcome State Fault Refusal :=
  .next (runCmd s w 0x0A03 fun s _ =>
    good s (lay [(2, s.dump.entries.length), (2, s.dump.lost), (4, 0)] ++ s.dump.entries.flatMap (dumpEntry s)))

/-- `DUMP_READ` (R521, R617). -/
def dumpReadBody (s : State) (x : Win) : Answer :=
  let off := x.arg 8 8
  let len := x.arg 16 4
  match s.dump.entries.get? (x.arg 0 1) with
  | none => fail s stBadArg 0
  | some d =>
    let size := if d.fullLen = 0 then d.summary.length else d.fullLen
    guardArg s (firstFail [ (decide (x.arg 1 7 ≠ 0), stBadArg, 1), (decide (dumpState s (x.arg 0 1) d = 4), stBusy, 0),
        (decide (size < off), stBadArg, 8), (decide (131072 < len), stBadArg, 16) ]) fun _ =>
      good s (if d.fullLen = 0 then (d.summary.drop off).take len else ownBytes s (2 ^ 30 * x.arg 0 1 + off) (min len (size - off)))

def execDumpRead (w : Nat) (s : State) : Host.Outcome State Fault Refusal := .next (runCmd s w 0x0A04 dumpReadBody)

/-- `DUMP_CLEAR` frees both copies (R521, R617). -/
def dumpClearBody (s : State) (x : Win) : Answer :=
  guardArg s (badArg [((s.dump.entries.get? (x.arg 0 1)).isNone, 0)]) fun _ =>
    retain s { s with dump := { s.dump with
      entries := s.dump.entries.erase (x.arg 0 1)
      current := if s.dump.current = some (x.arg 0 1) then none else s.dump.current } } fun u => good u

def execDumpClear (w : Nat) (s : State) : Host.Outcome State Fault Refusal := .next (runRetained s w 0x0A05 dumpClearBody)

end Sys2Proof.Machine
end

