-- ==== Sys2Proof/Machine/Faults.lean ====
section
/-! DEFINITION. Faults (F16): the fence list (R587 to R589), scans and sentinel replays (R596 to R600), FATAL faults (R582 to R586),
and the events of the guard die's own watch (R23, R24, R27, R256, R445). -/

namespace Sys2Proof.Machine

/-! ### The fence list (R520, R587) -/

/-- `FENCE_QUERY` (R520). -/
def fenceEntry (f : Fenced) : List Byte := lay [(1, b2n f.slice), (1, f.st), (2, f.unit), (4, 0), (8, f.time)]

def execFenceQuery (w : Nat) (s : State) : Host.Outcome State Fault Refusal :=
  .next (runCmd s w 0x0904 fun s _ => good s (lay [(2, s.fence.list.length)] ++ s.fence.list.flatMap fenceEntry))

/-- `FENCE_CLEAR` (R520, R587): the entry goes at the next core-die reset. -/
def fenceClearBody (s : State) (x : Win) : Answer :=
  let slice := decide (x.arg 0 1 = 1)
  let unit := x.arg 2 2
  let isIt := fun (f : Fenced) => f.slice == slice && f.unit == unit
  guardArg s (badArg [(decide (1 < x.arg 0 1), 0), (decide (x.arg 1 1 ≠ 0), 1), (!s.fence.list.any isIt, 2)]) fun _ =>
    retain s { s with fence := { s.fence with
      list := s.fence.list.map fun f => if isIt f then { f with cleared := true } else f } } fun u => good u

def execFenceClear (w : Nat) (s : State) : Host.Outcome State Fault Refusal := .next (runRetained s w 0x0905 fenceClearBody)

/-! ### Scans (R439, R598 to R600) -/

/-- Units of the rotation: physical awl cores 0 to 135, then the spare home slices (R598). Grade D1 has no awl cores, and its rotation
runs through the slices only (R2). -/
def rotationUnit (i : Nat) : Bool × Nat := if i < 136 then (false, i) else (true, i - 136 + 64)

/-- Is a unit busy: a core that a last holds, an active home slice (R598, R600)? -/
def scanBusy (s : State) (slice : Bool) (unit : Nat) : Bool :=
  if slice then s.home.slices.contains unit else (coreAt s unit).holder.isSome || (coreAt s unit).clearing.isSome

/-- Scan one unit: the state and RESULT, 0 pass, 1 fail, 2 not run (R599, R600). Bad patterns skip the scan. -/
def scanUnit (s : State) (slice : Bool) (unit : Nat) (r : ScanResult) : State × Nat :=
  if scanBusy s slice unit then (s, 2)
  else match r with
    | .badPatterns => (event s .scanPatternBad srcFelti none none 0 [], 2)
    | .pass => (s, 0)
    | .logicFail => (if slice then commitSelf (fenceSlice s unit 0 0) else fenceCore s unit 0, 1)
    | .benchRow hasSpare =>
      if slice then (commitSelf (fenceSlice s unit 0 0), 1)
      else if hasSpare then
        let s := { s with dram := { s.dram with arraySpares := s.dram.arraySpares ++ [(srcCore unit, Config.freeChoice s.free)] } }
        (event (commitSelf s) .arrayCorrected (srcCore unit) none none 0 [(0, 1, 8), (1, 1, 0)], 1)
      else (fenceCore s unit 0, 1)

/-- The next unit of the rotation takes its turn (R598). -/
def scanNext (s : State) (r : ScanResult) : State × Nat :=
  let at_ := if s.hw.gradeD1 then max 136 s.fence.rotation else s.fence.rotation
  let u := rotationUnit at_
  scanUnit { s with fence := { s.fence with rotation := (at_ + 1) % 140 } } u.1 u.2 r

/-- `SCAN_RUN` (R520, R600); grade D1 has no awl core to name (R2). -/
def scanRunBody (r : ScanResult) (s : State) (x : Win) : Answer :=
  let target := x.arg 0 1
  let unit := x.arg 2 2
  guardArg s (badArg [(decide (2 < target), 0), (decide (x.arg 1 1 ≠ 0), 1),
      (decide (target = 1 ∧ (136 ≤ unit ∨ s.hw.gradeD1 = true) ∨ target = 2 ∧ 68 ≤ unit), 2)]) fun _ =>
    let (s, res) := if target = 0 then scanNext s r else scanUnit s (decide (target = 2)) unit r
    good s (leBytes 1 res)

def execScanRun (w : Nat) (r : ScanResult) (s : State) : Host.Outcome State Fault Refusal := .next (runCmd s w 0x0906 (scanRunBody r))

/-- A correction in an SRAM or HBM array: counted and recorded; the fourth within 24 hours at one row or column enters the repair map, the
fourth in a home slice's control arrays its slice in the fence list (R438, R439, R581, R589). -/
def arrayHit (s : State) (h : ArrayHit) : State :=
  let s := event s .arrayCorrected h.src none none h.addr [(0, 1, h.arr), (1, 1, 0)]
  let hits := (s.fence.hits.filter fun e => decide (s.now < sec 86400 + e.2.2.2)) ++ [(h.src, h.arr, h.addr, s.now)]
  let s := { s with fence := { s.fence with hits := hits } }
  let row := (hits.filter fun e => decide (e.1 = h.src ∧ e.2.1 = h.arr ∧ e.2.2.1 = h.addr)).length
  let unit := (hits.filter fun e => decide (e.1 = h.src ∧ e.2.1 = 6)).length
  let s := if 4 ≤ row ∧ s.dram.arraySpares.contains (h.src, h.addr) = false then
      commitSelf { s with dram := { s.dram with arraySpares := s.dram.arraySpares ++ [(h.src, h.addr)] } }
    else s
  if h.arr = 6 ∧ h.src / 1024 = 0x06 ∧ h.src % 1024 < 68 ∧ 4 ≤ unit then commitSelf (fenceSlice s (h.src % 1024) 1 4) else s

/-- INFIELD_SCAN: every 10 minutes the next unit's turn (R598). With it Felti takes the corrections that the arrays have reported since the
turn before (DESIGN CHOICE, log 92). -/
def execInfieldScan (r : ScanResult) (hits : List ArrayHit) (s : State) : Host.Outcome State Fault Refusal :=
  .next (if s.pwr.feltiOn = false ∨ s.pwr.ready = false ∨ s.now < sec 600 + s.fence.lastScan then s
    else (scanNext (hits.foldl arrayHit { s with fence := { s.fence with lastScan := s.now } }) r).1)

/-- SENTINEL_REPLAY: a capture replayed on a core that no last holds; a core whose stream differs is fenced (R588, R597). -/
def execSentinelReplay (core entry : Nat) (differs : Bool) (s : State) : Host.Outcome State Fault Refusal :=
  .next (if s.pwr.feltiOn = false ∨ s.hw.gradeD1 = true ∨ 136 ≤ core ∨ (s.fence.sentinels.get? entry).isNone = true ∨ scanBusy s false core = true ∨
      (coreFence s core).isSome = true ∨ differs = false then s
    else fenceCore (event s .sentinelFail (srcCore core) none none 0 [(0, 1, entry)]) core 2)

/-! ### FATAL faults (R582 to R586) -/

/-- The core and fabric dies are held in reset: what they hold is lost, their links are down, Felti does not run (R14, R533,
R586). `keep`: a warm start was under way, and keeps its landed blocks. -/
def holdDies (s : State) (keep : Bool := false) : State :=
  let s := clearDies s false keep
  checkPeerPath { s with
    ports := s.ports.map fun e => (e.1, { e.2 with st := .down })
    pwr := { s.pwr with
      diesHeld := true, feltiOn := false, ready := false, resetDue := none, quiesceSince := none, swapQuiesce := false
      fatalAt := none, fatalDumpDone := false } } 8

/-- FATAL faults within the last 10 minutes, this one among them (R586). -/
def fatalRecent (s : State) : List Nat := (s.pwr.fatalTimes.filter fun t => decide (s.now < sec 600 + t)) ++ [s.now]

/-- The guard die fences, and after three FATAL faults within 10 minutes holds the dies until a cold start (R584, R586). The
flag says whether it holds them. -/
def fatalGuard (s : State) : State × Bool :=
  let times := fatalRecent s
  let s := selfFence { s with pwr := { s.pwr with fatalTimes := times } } 2
  if 3 ≤ times.length then
    let s := event s .fatalHold srcGuard none none 0 [(0, 1, times.length)]
    let s := holdDies s
    ({ s with pwr := { s.pwr with fatalHold := true, starting := false } }, true)
  else (s, false)

/-- The fault record of a FATAL fault in the power log of boot flash (R584). -/
def logFault (s : State) (e : Ev) (src : Nat) : State :=
  { s with pwr := { s.pwr with faultLog := s.pwr.faultLog ++ [(s.now, evCode e, src)] } }

/-- ARRAY of METADATA_UE (R637). -/
def arrayCode : FatalArray → Nat
  | .directory => 0
  | .tierMap => 1
  | .lookupHash => 2
  | .storedMap => 3
  | .frameOwner => 4
  | .translation => 5
  | .sramControl => 6
  | .dieToDie => 7

/-- A FATAL fault: recorded; a home slice whose internal state failed is fenced at the next reset (R589); then fence, and the
dump. A second fault during the dump resets at once (R584, R585). -/
def fatalFault (s : State) (arr : FatalArray) (src addr : Nat) : State :=
  if s.pwr.diesHeld then s
  else
    let cursor := s.evr.next
    let again := s.pwr.fatalAt.isSome
    let s := logFault (event s .metadataUe src none none addr [(0, 1, arrayCode arr)]) .metadataUe src
    let s := if arr = .sramControl ∧ src / 1024 = 0x06 ∧ src % 1024 < 68 then commitSelf (fenceSlice s (src % 1024) 1 3) else s
    let (s, held) := fatalGuard s
    if held then s
    else if again then recoveryStart (cutDump s)
    else
      let s := writeDump s false s.pwr.feltiOn (evCode .metadataUe) src cursor
      { s with pwr := { s.pwr with fatalAt := some s.now, fatalDumpDone := s.pwr.feltiOn } }

def execFatalFault (arr : FatalArray) (src addr : Nat) (s : State) : Host.Outcome State Fault Refusal :=
  .next (fatalFault s arr src addr)

/-- FATAL_RESET: the dump is done or 200 ms have passed (R584). -/
def execFatalReset (s : State) : Host.Outcome State Fault Refusal :=
  .next (match s.pwr.fatalAt with
    | none => s
    | some t =>
      if s.pwr.diesHeld = false ∧ (s.pwr.fatalDumpDone = true ∨ ms 200 + t ≤ s.now) then recoveryStart s else s)

/-- ROOT_PLL_UNLOCK: the management cores cannot run; only the guard die's summary is written, and the reset follows at once
(R24, R585). -/
def rootPllUnlock (s : State) : State :=
  if s.pwr.diesHeld then s
  else
    let cursor := s.evr.next
    let s := logFault (event s .rootPllLoss srcGuard none none 0 []) .rootPllLoss srcGuard
    let (s, held) := fatalGuard s
    if held then s
    else
      let s := if s.pwr.fatalAt.isSome then cutDump s else writeDump s false false (evCode .rootPllLoss) srcGuard cursor
      recoveryStart s

def execRootPllUnlock (s : State) : Host.Outcome State Fault Refusal := .next (rootPllUnlock s)

/-! ### Further watches -/

/-- MANAGEMENT_CORES_STOP: Felti stops; the data path goes on (R27). -/
def execManagementCoresStop (s : State) : Host.Outcome State Fault Refusal :=
  .next { s with pwr := { s.pwr with feltiOn := false } }

/-- A copy that differs from the master is rewritten, with an event: copy less master, signed (R23, R637). -/
def fixCopy (s : State) (which copy : Nat) : State :=
  if copy = s.clk.master then s
  else event s .poolTimeFix srcGuard none none 0 [(0, 1, which), (8, 8, (2 ^ 64 + copy - s.clk.master) % 2 ^ 64)]

/-- POOL_TIME_CHECK: the guard die compares the copies with the master (R23). -/
def execPoolTimeCheck (s : State) : Host.Outcome State Fault Refusal :=
  .next (if s.pwr.diesHeld then s
    else
      let s := fixCopy (fixCopy (fixCopy s 0 s.clk.core) 1 s.clk.fab0) 2 s.clk.fab1
      { s with clk := { s.clk with core := s.clk.master, fab0 := s.clk.master, fab1 := s.clk.master } })

/-- RESERVATION_CONFLICT: an active SH940 stops all NVMe I/O and fences itself (R256); the drive that answered so is no longer held under
this SH940's key (R257). Which cause LAST_FENCE then names is not
stated: it is free (log 12). -/
def execReservationConflict (port : Nat) (s : State) : Host.Outcome State Fault Refusal :=
  .next (if s.pair.role ≠ .active ∨ driveTakes s port = false then s
    else
      let cause := Config.freeChoice s.free % 4
      let t := modDrive s.tickFree port fun d => { d with holder := none }
      selfFence { t with flash := { t.flash with stopped := true } } cause)

/-- TEST_PORT_USE: DEBUG[0] is set until the next cold start; a part with FUSES[0] ignores the port (R445, R446, R620). -/
def execTestPortUse (s : State) : Host.Outcome State Fault Refusal :=
  .next (if s.hw.fuses.getLsbD 0 then s else { s with hw := { s.hw with dbgFlags := s.hw.dbgFlags ||| 1 } })

end Sys2Proof.Machine
end

