-- ==== Sys2Proof/Machine/Power.lean ====
section
/-! DEFINITION. Input power, rails, power loss (R525 to R532), RESET_N and PRSNT_N (R533, R601, R602), temperatures (R299, R628 to
R630). -/

namespace Sys2Proof.Machine

/-- Change the power state. -/
def modPwr (s : State) (f : Power → Power) : State := { s with pwr := f s.pwr }

/-- PWROK changes its level (R529). -/
def setPwrok (s : State) (level : Bool) : State :=
  if s.pwr.pwrok = level then s else { modPwr s (fun p => { p with pwrok := level }) with out := s.out ++ [.pin 0 level] }

/-! ### Rails (R527 to R529) -/

/-- Is PRSNT_N taken as asserted? While it chatters, only once it has been low for 1 s (R601). -/
def seated (s : State) : Bool :=
  s.pwr.prsnt && (!s.pwr.prsntChatter || decide (sec 1 + (s.pwr.prsntChanges.foldl max 0) ≤ s.now))

/-- The guard die enables a rail (R527). -/
def railOn (s : State) (step : Nat) : State :=
  { modPwr s (fun p => { p with railAt := some s.now }) with out := s.out ++ [.rail step true] }

/-- Every main rail goes off in reverse order, the clocks of the drives with the 12 V bus (R527, R528, R619). -/
def railsOff (s : State) : State :=
  let top := if s.pwr.railAt.isSome then s.pwr.rails + 1 else s.pwr.rails
  let off : List Emit := (List.range (top - 2)).map fun i => .rail (top - i) false
  { modPwr s (fun p => { p with rails := 2, railAt := none, railsOut := [] }) with
    out := s.out ++ off ++ if 3 ≤ s.pwr.rails then [.pin 2 false] else [] }

/-- Main rails are enabled from the standby rails on, unless PFAIL_N is asserted or PRSNT_N released (R527, R601). -/
def tryEnable (s : State) : State :=
  let p := s.pwr
  if p.precharged = true ∧ p.rails = 2 ∧ p.railAt.isNone = true ∧ p.railRetryAt.isNone = true ∧ p.railTries < 2 ∧
      p.loss.isNone = true ∧ p.ovp = false ∧ p.tripped = false ∧ p.pfailN = true ∧ seated s = true then
    railOn (modPwr s fun p => { p with railsOut := [], starting := true, stage := 0 }) 3
  else s

/-- The input voltage in units of 0.1 V. -/
def setInput (s : State) (dv : Nat) : State := { s with hw := { s.hw with inputDv := dv } }

/-- The input has reached the start threshold, 375 V; where the voltage is not otherwise known it is free up to the overvoltage limit
(R525, log 12). -/
def inputStarts (s : State) : State :=
  if 3750 ≤ s.hw.inputDv ∧ s.hw.inputDv ≤ 4300 then s else setInput s.tickFree (3750 + Config.freeChoice s.free % 551)

/-- PRECHARGE_END: a power-up; the standby rails and the guard die come up, the count from zero (R22, R525, R527, R539). -/
def execPrechargeEnd (s : State) : Host.Outcome State Fault Refusal :=
  .next (if s.pwr.precharged = true ∧ s.pwr.lossRailsDown = false then s
    else
      let s := powerUpGuard (inputStarts s)
      tryEnable (modPwr s fun p => { p with
        precharged := true, rails := 2, railTries := 0, railAt := none, railRetryAt := none, loss := none, lossRailsDown := false
        ovp := false, tripped := false, coolSince := none, startKind := .powerUp, stage := 0, starting := true, ready := false
        lastLow := none, lowest := 0, resetSince := 0, resetAsserts := [], resetChatter := false, prsntChanges := [], prsntChatter := false
        fatalTimes := [], fatalAt := none, fatalHold := false, smbReleasedAt := none, smbStuckAt := none, smbLineSince := 0
        consoleUntil := none, diesHeld := true, feltiOn := false }))

/-- Every rail is up: PWROK, and the dies leave reset for the start, unless RESET_N holds them (R529, R539, R601). -/
def releaseDies (s : State) : State :=
  if s.pwr.resetN then coldStart (setPwrok s true) s.pwr.startKind true
  else modPwr s fun p => { p with resetStuck := true }

/-- RAIL_IN_REGULATION: the next rail is enabled, with the 12 V bus the drives' clocks run (R527, R619); a rail that had left regulation is back (R529). -/
def railInRegulation (s : State) (step : Nat) : State :=
  if s.pwr.rails = 10 then
    if s.pwr.railsOut.contains step then
      let s := modPwr s fun p => { p with railsOut := p.railsOut.filter fun x => x ≠ step }
      if s.pwr.railsOut = [] ∧ s.pwr.loss.isNone = true ∧ s.pwr.diesHeld = false then setPwrok s true else s
    else s
  else if s.pwr.railAt.isNone = true ∨ step ≠ s.pwr.rails + 1 then s
  else if step < 10 then
    let s := modPwr s fun p => { p with rails := step }
    railOn (if step = 3 then say s [.pin 2 true] else s) (step + 1)
  else releaseDies (modPwr s fun p => { p with rails := 10, railAt := none, railTries := 0 })

def execRailInRegulation (step : Nat) (s : State) : Host.Outcome State Fault Refusal := .next (railInRegulation s step)

/-- RAIL_TIMEOUT: not in regulation within 10 ms; every rail goes off, once more after 1 s, then no more (R527). -/
def execRailTimeout (s : State) : Host.Outcome State Fault Refusal :=
  .next (match s.pwr.railAt with
    | none => s
    | some t =>
      if s.now < ms 10 + t then s
      else modPwr (railsOff s) fun p =>
        { p with
          railTries := p.railTries + 1
          railRetryAt := if p.railTries = 0 then some (sec 1 + s.now) else none
          powerLog := if p.railTries = 0 then p.powerLog else p.powerLog ++ [(s.pwr.rails + 1, p.railTries + 1)] })

/-- RAIL_RETRY: the second attempt (R527). -/
def execRailRetry (s : State) : Host.Outcome State Fault Refusal :=
  .next (match s.pwr.railRetryAt with
    | none => s
    | some t => if s.now < t then s else tryEnable (modPwr s fun p => { p with railRetryAt := none }))

/-- RAIL_OUT_OF_REGULATION: PWROK falls (R529); the 12 V bus, step 3, is a power loss of its own (R530). -/
def execRailOutOfRegulation (step : Nat) (s : State) : Host.Outcome State Fault Refusal :=
  .next (if s.pwr.rails = 10 ∧ 1 ≤ step ∧ step ≤ 10 ∧ step ≠ 3 ∧ s.pwr.railsOut.contains step = false then
    setPwrok (modPwr s fun p => { p with railsOut := p.railsOut ++ [step] }) false
  else s)

/-! ### Power loss (R525, R526, R530 to R532) -/

/-- Declare a power loss: PWROK falls, the SH940 fences and sends RELEASE, Felti writes the power-loss record (R530, R531).
Causes as POWER_LOSS of R637. -/
def declareLoss (s : State) (cause : Nat) : State :=
  if s.pwr.rails ≤ 2 ∧ s.pwr.railAt.isNone = true ∨ s.pwr.loss.isSome = true then s
  else
    let s := setPwrok (modPwr s fun p => { p with
      loss := some (cause, s.now), lossRailsDown := false, resetDue := none, quiesceSince := none, swapQuiesce := false }) false
    let s := selfFence s 2
    if s.pwr.feltiOn then
      writeDump (modPwr s fun p => { p with lossLog := p.lossLog ++ [(cause, s.hw.inputDv)] }) true false (evCode .powerLoss) srcModule
        s.evr.next
    else s

/-- PFAIL_N_ASSERT (R530). -/
def execPfailNAssert (s : State) : Host.Outcome State Fault Refusal :=
  .next (declareLoss (modPwr s fun p => { p with pfailN := false }) 0)

/-- PFAIL_N_RELEASE: the sequence goes on (R532); at power-up the main rails may now come up (R601). -/
def execPfailNRelease (s : State) : Host.Outcome State Fault Refusal :=
  .next (tryEnable (modPwr s fun p => { p with pfailN := true }))

/-- INPUT_UNDERVOLTAGE: below 360 V for 50 µs (R525). -/
def execInputUndervoltage (dv : Nat) (s : State) : Host.Outcome State Fault Refusal :=
  .next (if 3600 ≤ dv then s else declareLoss (setInput s dv) 1)

/-- INPUT_OVERVOLTAGE: above 430 V for 1 ms; the power stage stops (R525, R526). -/
def execInputOvervoltage (dv : Nat) (s : State) : Host.Outcome State Fault Refusal :=
  .next (if dv ≤ 4300 then s else declareLoss (modPwr (setInput s dv) fun p => { p with ovp := true }) 2)

/-- BUS_12V_FAULT (R530). -/
def execBus12vFault (s : State) : Host.Outcome State Fault Refusal := .next (declareLoss s 3)

/-- POWER_LOSS_RAILS_DOWN: at 12 ms the main rails go down (R528, R531). -/
def execPowerLossRailsDown (s : State) : Host.Outcome State Fault Refusal :=
  .next (match s.pwr.loss with
    | none => s
    | some (_, t) =>
      if s.pwr.lossRailsDown = true ∨ s.now < ms 12 + t then s
      else modPwr (railsOff (holdDies s)) fun p => { p with
        railTries := 0, railRetryAt := none, lossRailsDown := true, starting := false, stage := 0
        resetStuck := false, resetHits := false })

/-- The input is back within 380 to 420 V; where the voltage is not otherwise known it is free in that range (log 12). -/
def inputBack (s : State) : State :=
  if 3800 ≤ s.hw.inputDv ∧ s.hw.inputDv ≤ 4200 then s else setInput s.tickFree (3800 + Config.freeChoice s.free % 401)

/-- The rails come up again for a cold start (R532). -/
def restartCold (s : State) : State :=
  tryEnable (modPwr s fun p => { p with loss := none, lossRailsDown := false, startKind := .cold, railTries := 0 })

/-- Has the loss sequence ended at least a second ago with PFAIL_N released (R532)? -/
def lossOver (s : State) : Bool :=
  s.pwr.lossRailsDown && s.pwr.pfailN && match s.pwr.loss with
    | some (_, t) => decide (sec 1 + (ms 12 + t) ≤ s.now)
    | none => true

/-- POWER_LOSS_RESTART (R532). After an overvoltage OVERVOLTAGE_RESTART comes first. -/
def execPowerLossRestart (s : State) : Host.Outcome State Fault Refusal :=
  .next (if lossOver s = true ∧ s.pwr.ovp = false then restartCold (inputBack s) else s)

/-- OVERVOLTAGE_RESTART: 1 s within 380 to 420 V restarts the power stage (R526, R532). -/
def execOvervoltageRestart (s : State) : Host.Outcome State Fault Refusal :=
  .next (if s.pwr.ovp = false ∨ (s.pwr.loss.isSome = true ∧ s.pwr.lossRailsDown = false) then s
    else
      let s := modPwr (inputBack s) fun p => { p with ovp := false }
      if lossOver s then restartCold s else if s.pwr.loss.isNone then tryEnable s else s)

/-- INPUT_LOW: between 360 V and 380 V an event a minute, with the lowest voltage since the one before (R526, R637). -/
def execInputLow (dv : Nat) (s : State) : Host.Outcome State Fault Refusal :=
  .next (if dv < 3600 ∨ 3800 ≤ dv ∨ s.pwr.rails ≠ 10 then s
    else
      let low := if s.pwr.lastLow.isNone ∨ s.pwr.lowest = 0 then dv else min dv s.pwr.lowest
      let s := modPwr (setInput s dv) fun p => { p with lowest := low }
      if s.pwr.lastLow.any fun t => decide (s.now < sec 60 + t) then s
      else event (modPwr s fun p => { p with lastLow := some s.now, lowest := 0 }) .inputLow srcModule none none 0 [(0, 2, low)])

/-! ### RESET_N (R533, R601) -/

/-- Is RESET_N heeded now: main rails up and no power-loss sequence (R532)? -/
def resetHeeded (s : State) : Bool := s.pwr.rails = 10 && s.pwr.loss.isNone

/-- RESET_N_ASSERT: the dies are held in reset, the guard die runs on (R533); more than 4 assertions in 10 s are CHATTER, and then
an assertion acts only when it has lasted 1 s (R601). -/
def resetNAssert (s : State) : State :=
  if s.pwr.resetN = false then s
  else
    let quiet := s.pwr.resetChatter && decide (sec 10 + s.pwr.resetSince ≤ s.now)
    let old := if quiet then [] else s.pwr.resetAsserts.filter fun t => decide (s.now < sec 10 + t)
    let was := s.pwr.resetChatter && !quiet
    let chatter := was || decide (4 < old.length + 1)
    let s := modPwr s fun p => { p with
      resetN := false, resetSince := s.now, resetAsserts := old ++ [s.now], resetChatter := chatter }
    let s := if chatter && !was then event s .inputChatter (srcInput 0) none none 0 [(0, 4, old.length + 1)] else s
    if chatter || !resetHeeded s then s
    else
      let during := s.pwr.starting && !s.pwr.diesHeld
      modPwr (holdDies s (during && decide (s.pwr.startKind = .warm))) fun p => { p with resetHits := p.resetHits || during }

def execResetNAssert (s : State) : Host.Outcome State Fault Refusal := .next (resetNAssert s)

/-- The start that an assertion cut short begins anew (R533). -/
def restartStart (s : State) : State :=
  match s.pwr.startKind with
  | .powerUp => coldStart s .powerUp true
  | .cold => coldStart s .cold false
  | .warm => warmStart s
  | .recovery => recoveryStart s

/-- RESET_N_RELEASE: a recovery start, a cold start after 1 s or more, or the start it cut short (R533); at power-up, the start
that RESET_N kept waiting, with its event (R601). Dies held after FATAL faults leave reset at a cold start only (R586). -/
def resetNRelease (s : State) : State :=
  if s.pwr.resetN then s
  else
    let took := s.now - s.pwr.resetSince
    let s := modPwr s fun p => { p with resetN := true, resetSince := s.now }
    if resetHeeded s = false then s
    else if s.pwr.resetStuck then
      let s := modPwr s fun p => { p with resetStuck := false }
      event (releaseDies s) .inputStuck (srcInput 0) none none 0 [(0, 1, 0), (8, 8, took)]
    else if s.pwr.resetChatter = true ∧ took < sec 1 then s
    else if s.pwr.resetHits then restartStart s
    else if sec 1 ≤ took then coldStart s .cold false
    else if s.pwr.fatalHold then s
    else recoveryStart s

def execResetNRelease (s : State) : Host.Outcome State Fault Refusal := .next (resetNRelease s)

/-! ### PRSNT_N (R601, R602) -/

/-- PRSNT_N_CHANGE: the level, CHATTER after more than 8 changes in 10 s, an event for a release while the rails are up. -/
def prsntNChange (s : State) (asserted : Bool) : State :=
  if asserted = s.pwr.prsnt then
    if asserted && seated s then tryEnable (modPwr s fun p => { p with prsntChatter := false }) else s
  else
    let calm := s.pwr.prsntChatter && seated s
    let old := if calm then [] else s.pwr.prsntChanges.filter fun t => decide (s.now < sec 10 + t)
    let was := s.pwr.prsntChatter && !calm
    let chatter := was || decide (8 < old.length + 1)
    let s := modPwr s fun p => { p with prsnt := asserted, prsntChanges := old ++ [s.now], prsntChatter := chatter }
    let s := if chatter && !was then event s .inputChatter (srcInput 2) none none 0 [(0, 4, old.length + 1)] else s
    if asserted then tryEnable s
    else if s.pwr.rails = 10 ∧ was = false then event s .prsntReleased (srcInput 2) none none 0 []
    else s

def execPrsntNChange (asserted : Bool) (s : State) : Host.Outcome State Fault Refusal := .next (prsntNChange s asserted)

/-! ### Temperatures (R299, R628 to R630) -/

/-- Event and trip thresholds of a sensor of R636, in units of 0.25 °C (R628). -/
def thermalEvent (i : Nat) : Int :=
  if i < 16 then 95 * 4 else if i < 19 then 100 * 4 else if i = 19 then 90 * 4 else if i < 36 then 85 * 4 else 100 * 4

def thermalTrip (i : Nat) : Option Int :=
  if i < 16 then none else if i < 19 then some (110 * 4) else if i < 36 then some (105 * 4) else some (115 * 4)

/-- A temperature as a 16-bit field. -/
def tempBits (t : Int) : Nat := (t % 65536).toNat

/-- DETAIL of THERMAL_EVENT and THERMAL_TRIP (R637). -/
def thermalDetail (temp thr : Int) (falling : Bool) : List (Nat × Nat × Nat) :=
  [(0, 2, tempBits temp), (2, 2, tempBits thr), (4, 1, b2n falling)]

/-- Lasts that hold cores of a gallery. -/
def galleryLasts (s : State) (g : Nat) : List Nat :=
  (s.eng.lasts.filter fun e => (imgGals (lastImage s e.2)).contains g).map fun e => e.1

/-- A gallery is gated at 100 °C, and counts how long it has been below 95 °C (R299, R628). -/
def galleryTemp (s : State) (g : Nat) (temp : Int) : State :=
  let x := s.eng.gals.getD g {}
  let put := fun (s : State) (x : Gallery) => { s with eng := { s.eng with gals := s.eng.gals.set g x } }
  if s.hw.gradeD1 = true ∨ s.pwr.diesHeld = true then s
  else if x.gated then
    put s { x with coolSince := if temp < 380 then (if x.coolSince.isSome then x.coolSince else some s.now) else none }
  else if temp < 400 then s
  else
    let s := event s .thermalGate (srcSensor g) none none 0 [(0, 1, 1), (2, 2, tempBits temp)]
    (galleryLasts s g).foldl (fun s lid => modLast s lid fun l => { l with thermal := true })
      (put s { x with gated := true, coolSince := none })

/-- Every sensor below 85 °C, and since when (R629). -/
def coolClock (s : State) : State :=
  if s.pwr.tripped = false then s
  else
    let cool := s.hw.temps.all fun e => decide (e.2 < 340)
    modPwr s fun p => { p with coolSince := if cool then (if p.coolSince.isSome then p.coolSince else some s.now) else none }

/-- A trip: fence, records, main rails off, the standby rails stay (R629). -/
def tripNow (s : State) (sensor : Nat) (temp thr : Int) : State :=
  let s := event s .thermalTrip (srcSensor sensor) none none 0 (thermalDetail temp thr false)
  let s := (fatalGuard (logFault s .thermalTrip (srcSensor sensor))).1
  let s := setPwrok s false
  modPwr (railsOff (holdDies s)) fun p => { p with
    railTries := 0, railRetryAt := none, tripped := true, coolSince := none
    starting := false, stage := 0, fatalHold := false, resetStuck := false, resetHits := false }

/-- THERMAL_THRESHOLD: a sensor reads a new temperature (R409, R628). -/
def thermalThreshold (s : State) (sensor : Nat) (temp : Int) : State :=
  if 37 ≤ sensor then s
  else
    let old := (s.hw.temps.get? sensor).getD 0
    let s := { s with hw := { s.hw with temps := s.hw.temps.set sensor temp } }
    let s := if 20 ≤ sensor ∧ sensor < 36 then modChan s (sensor - 20) fun c => { c with temp := temp } else s
    let thr := thermalEvent sensor
    let on := !(decide (sensor < 16) && s.hw.gradeD1)
    let s := if on ∧ (decide (old < thr) ≠ decide (temp < thr)) then
        event s .thermalEvent (srcSensor sensor) none none 0 (thermalDetail temp thr (decide (temp < thr)))
      else s
    let s := if sensor < 16 then galleryTemp s sensor temp else s
    coolClock (match thermalTrip sensor with
      | some t => if t ≤ temp ∧ s.pwr.rails = 10 ∧ s.pwr.loss.isNone = true then tripNow s sensor temp t else s
      | none => s)

def execThermalThreshold (sensor : Nat) (temp : Int) (s : State) : Host.Outcome State Fault Refusal :=
  .next (thermalThreshold s sensor temp)

/-- GATE_RESUME: 10 ms below 95 °C, and dispatch goes on where it stopped (R299, R628). -/
def gateResume (s : State) (g : Nat) : State :=
  let x := s.eng.gals.getD g {}
  match x.coolSince with
  | none => s
  | some t =>
    if x.gated = false ∨ s.now < ms 10 + t then s
    else
      let s := event s .thermalGate (srcSensor g) none none 0 [(0, 1, 0), (2, 2, tempBits ((s.hw.temps.get? g).getD 0))]
      let s := { s with eng := { s.eng with gals := s.eng.gals.set g { x with gated := false, coolSince := none } } }
      if fencedNow s then s else (galleryLasts s g).foldl dispatch s

def execGateResume (gallery : Nat) (s : State) : Host.Outcome State Fault Refusal := .next (gateResume s gallery)

/-- TRIP_COOLDOWN_RESTART: 60 s with every sensor below 85 °C (R629). -/
def execTripCooldownRestart (s : State) : Host.Outcome State Fault Refusal :=
  .next (match s.pwr.coolSince with
    | none => s
    | some t =>
      if s.pwr.tripped = false ∨ s.now < sec 60 + t then s
      else tryEnable (modPwr s fun p => { p with tripped := false, coolSince := none, startKind := .cold, railTries := 0 }))

end Sys2Proof.Machine
end

