-- ==== Sys2Proof/Machine/Firmware.lean ====
section
/-! DEFINITION. Firmware, the retained store and reset by command (R523, R524, R548 to R552). -/

namespace Sys2Proof.Machine

/-! ### Images (R550 to R552) -/

/-- `FW_QUERY` (R523). -/
def execFwQuery (w : Nat) (s : State) : Host.Outcome State Fault Refusal :=
  .next (runCmd s w 0x0C00 fun s _ =>
    good s (lay [(4, s.fw.a.ver), (4, s.fw.a.svn), (4, s.fw.b.ver), (4, s.fw.b.svn), (1, b2n s.fw.runningB), (1, b2n s.fw.nextB),
      (1, s.fw.a.st), (1, s.fw.b.st), (4, s.hw.fusedMinSvn)]))

/-- The other slot takes a new value; the store format follows (R552). -/
def setOther (s : State) (x : FwSlot) : State :=
  refreshFormat { s with fw := if s.fw.runningB then { s.fw with a := x } else { s.fw with b := x } }

/-- A slot whose bytes are `d`: its fields as the image header gives them. -/
def slotOf (st : Nat) (d : List Byte) : FwSlot :=
  { st := st, ver := subNat d 8 4, svn := subNat d 12 4, storeMin := subNat d 6 1, storeMax := subNat d 7 1, feature := subNat d 20 1
    data := d }

/-- Bytes of a slot (R543). -/
def slotSize : Nat := 2 ^ 28

/-- `FW_WRITE` (R523): the slot not running; OFFSET 0 erases it. -/
def fwWriteBody (s : State) (x : Win) : Answer :=
  let off := x.arg 0 4
  let len := x.arg 4 4
  let o := otherSlot s
  guardArg s (badArg [ (decide (off ≠ 0) && decide (o.st ≠ 2 ∨ off ≠ o.data.length), 0),
      (decide (131072 < len ∨ slotSize < off + len), 4) ]) fun _ =>
    good (setOther s (slotOf 2 ((if off = 0 then [] else o.data) ++ x.bytes 8 len)))

def execFwWrite (w : Nat) (s : State) : Host.Outcome State Fault Refusal := .next (runCmd s w 0x0C01 fwWriteBody)

/-- Is this the active member of a pair whose partner is READY (R524)? -/
def resetRefused (s : State) : Bool := s.pair.role = .active && s.pair.partnerReady

/-- A reset comes due (R524): cold or warm, 10 ms from now or at AT if that is later. -/
def resetAt (s : State) (cold : Bool) (at_ : Nat) : State :=
  modPwr s fun p => { p with resetDue := some (cold, max (ms 10 + s.now) at_), quiesceSince := none }

/-- Does the image in the other slot verify over TOTAL_LEN bytes (R523)? A slot already VALID has verified. -/
def imageGood (x : FwSlot) (total : Nat) : Bool :=
  decide (x.st = 1) || (decide (x.st = 2) && decide (total ≤ x.data.length) && Config.imageSigOk (x.data.take total))

/-- `FW_ACTIVATE` (R523, R524, R551). -/
def fwActivateBody (s : State) (x : Win) : Answer :=
  let total := x.arg 0 4
  let mode := x.arg 4 1
  let o := otherSlot s
  if 1 < mode then fail s stBadArg 4
  else if imageGood o total = false then fail (if o.st = 2 then setOther s { o with st := 3 } else s) stBadArg 0
  else if o.svn < s.hw.fusedMinSvn then fail s stDenied
  else if s.store.fmtWrite < o.storeMin ∨ o.storeMax < s.store.fmtWrite then fail s stVersion
  else if mode = 1 ∧ resetRefused s = true then fail s stBusy
  else
    let s := setOther s { o with st := 1 }
    let s := { s with fw := { s.fw with nextB := !s.fw.runningB }, pwr := { s.pwr with failedStarts := 0 } }
    good (if mode = 1 then resetAt s false 0 else s)

def execFwActivate (w : Nat) (s : State) : Host.Outcome State Fault Refusal := .next (runCmd s w 0x0C02 fwActivateBody)

/-- `FW_SVN_COMMIT` raises FUSED_MIN_SVN for good (R523). -/
def fwSvnCommitBody (s : State) (x : Win) : Answer :=
  let svn := x.arg 0 4
  if s.fw.a.st ≠ 1 ∨ s.fw.b.st ≠ 1 ∨ s.fw.a.svn < svn ∨ s.fw.b.svn < svn then fail s stDenied
  else good { s with hw := { s.hw with fusedMinSvn := max s.hw.fusedMinSvn svn } }

def execFwSvnCommit (w : Nat) (s : State) : Host.Outcome State Fault Refusal := .next (runCmd s w 0x0C03 fwSvnCommitBody)

/-! ### The store (R523, R545, R548, R549) -/

/-- START_KIND (R548). -/
def startCode (s : State) : Nat :=
  if s.pwr.bare then 4
  else match s.pwr.startKind with
    | .powerUp => 0
    | .cold => 1
    | .warm => 2
    | .recovery => 3

/-- The store record (R548). -/
def storeRecord (s : State) : List Byte :=
  leBytes 32 (packBits [ (2, s.store.a.st), (2, s.store.b.st), (4, startCode s), (3, s.pwr.stage), (1, b2n s.store.barePending), (4, 0),
    (8, s.store.fmtWrite), (8, 0), (24, ((chooseCopy s).map usedPages).getD 0), (8, s.store.dropped),
    (64, max s.store.a.rseq s.store.b.rseq), (64, s.pwr.startTime), (64, s.pwr.readyTime) ])

def execStoreQuery (w : Nat) (s : State) : Host.Outcome State Fault Refusal :=
  .next (runCmd s w 0x0D00 fun s _ => good s (storeRecord s))

/-- `STORE_BARE` (R523, R549): the record that keeps three sections; earlier pages are erased (R545). -/
def storeBareBody (s : State) (x : Win) : Answer :=
  guardArg s (badArg [(decide (x.arg 0 4 ≠ 0x45524142), 0)]) fun _ =>
    retain s { s with store := { s.store with barePending := true } } fun u => good u

def execStoreBare (w : Nat) (s : State) : Host.Outcome State Fault Refusal := .next (runRetained s w 0x0D01 storeBareBody)

/-! ### RESET, CONSOLE_UNLOCK (R523, R524) -/

/-- `RESET`. -/
def resetBody (s : State) (x : Win) : Answer :=
  let force := x.arg 1 1
  guardArg s (firstFail [ (decide (1 < x.arg 0 1), stBadArg, 0), (decide (1 < force), stBadArg, 1), (decide (x.arg 2 6 ≠ 0), stBadArg, 2),
      (resetRefused s && decide (force = 0), stBusy, 0) ]) fun _ => good (resetAt s (decide (x.arg 0 1 = 1)) (x.arg 8 8))

def execResetCmd (w : Nat) (s : State) : Host.Outcome State Fault Refusal := .next (runCmd s w 0x0D02 resetBody)

/-- `CONSOLE_UNLOCK` opens the UART console and sets DEBUG[1]. -/
def consoleUnlockBody (s : State) (x : Win) : Answer :=
  let m := x.arg 0 4
  guardArg s (badArg [(!inRange m 1 60, 0)]) fun _ =>
    good { s with
      pwr := { s.pwr with consoleUntil := some (sec (60 * m) + s.now) }
      hw := { s.hw with dbgFlags := s.hw.dbgFlags ||| 2 } }

def execConsoleUnlock (w : Nat) (s : State) : Host.Outcome State Fault Refusal := .next (runCmd s w 0x0D03 consoleUnlockBody)

end Sys2Proof.Machine
end

