-- ==== Sys2Proof/Machine/LinkRows.lean ====
section
/-! DEFINITION. The link rows whose acknowledgements free pushes of lasts (R79, R291): a last that waited for them ends. -/

namespace Sys2Proof.Machine

/-- SEQ_FLIT_RECEIVE (R77 to R79, R84, R87, R103). -/
def execSeqFlitReceive (port : Nat) (flit : List Byte) (s : State) : Host.Outcome State Fault Refusal :=
  .next (goLasts (seqFlit s port flit))

/-- IDLE_FLIT_RECEIVE (R79). -/
def execIdleFlitReceive (port : Nat) (flit : List Byte) (s : State) : Host.Outcome State Fault Refusal :=
  .next (goLasts (controlFlit s port 1 flit id))

/-- NAK_RECEIVE (R80). -/
def execNakReceive (port : Nat) (flit : List Byte) (s : State) : Host.Outcome State Fault Refusal :=
  .next (goLasts (controlFlit s port 2 flit (nakTake flit port)))

end Sys2Proof.Machine
end

