-- ==== Sys2Proof/Machine/Pair.lean ====
section
/-! DEFINITION. The pair's commands and rows (F15): PAIR_SET to LEASE_QUERY, the lease (R558, R559, R566 to R568), time (R560), the
heartbeat wire (R562, R563), mirroring and resynchronisation (R569 to R571), recovery (R574, R575), the planned swap (R577). -/

namespace Sys2Proof.Machine

/-! ### Commands (R522, R556, R564, R577) -/

def execPairQuery (w : Nat) (s : State) : Host.Outcome State Fault Refusal :=
  .next (runCmd s w 0x0B01 fun s _ => good s (pairRecord s))

def execLeaseQuery (w : Nat) (s : State) : Host.Outcome State Fault Refusal :=
  .next (runCmd s w 0x0B03 fun s _ => good s (leaseRecord s))

/-- Every last's idle cores go on. -/
def dispatchAll (s : State) : State := (s.eng.lasts.map fun e => e.1).foldl dispatch s

/-- ENABLE is set: the SH940 serves as ACTIVE, its standby not in step. ENABLE is cleared: the one that remains serves alone; a
standby first takes the pool; one fenced for lost power or a FATAL fault stays so (R554, R567, log 47). -/
def enableChange (s : State) (old new : Bool) : State :=
  if old = new ∨ s.pwr.ready = false then s
  else if new then
    if s.pair.role = .unpaired then becomeActive (loseSync s) else s
  else match s.pair.role with
    | .active => setRole (loseSync s) .unpaired
    | .standby => settleTier (setRole (takePool s []) .unpaired)
    | .fenced =>
      if s.pwr.loss.isSome || s.pwr.fatalAt.isSome then s
      else
        let s := endOldEpoch { s with flash := { s.flash with stopped := false } }
        dispatchAll (settleTier (raiseEpoch (setRole (loseSync s) .unpaired)))
    | _ => s

/-- `PAIR_SET`: ENABLE at once, the pair's identity from the next cold start (R556). -/
def pairSetBody (s : State) (x : Win) : Answer :=
  let n := x.arg 0 4
  let sd := x.arg 4 1
  let en := x.arg 5 1
  let id := x.arg 8 48
  guardArg s (badArg [(decide (1 < sd), 4), (decide (1 < en), 5), (decide (x.arg 6 2 ≠ 0), 6)]) fun _ =>
    let old := s.pair.cfg.enable
    let same := decide (n = s.pair.cfg.number ∧ sd = s.pair.cfg.side ∧ id = s.pair.cfg.partnerId)
    let t := modPair s fun p => { p with
      cfg := { p.cfg with enable := decide (en = 1) }, next := if same then none else some (n, sd, id) }
    retain s t fun u =>
      let u := enableChange u old (decide (en = 1))
      good u (pairRecord u)

def execPairSet (w : Nat) (s : State) : Host.Outcome State Fault Refusal := .next (runRetained s w 0x0B00 pairSetBody)

/-! ### Resynchronisation (R571, R577) -/

/-- Offset of the line at a channel address of a RESIDENT hall (the inverse of R43, R415). -/
def residentOffset (h : Hall) (c ca : Nat) : Option Nat :=
  let es := h.extents.filter fun e => e.1 = c
  match es.findIdx? fun e => e.2 = ca / 2 ^ 30, (hallChans h).findIdx? fun x => x = c with
  | some j, some i =>
    let l := 2 ^ 30 * j + ca % 2 ^ 30
    let g := grainBytes h
    some (l / g * (g * (hallChans h).length) + i * g + l % g)
  | _, _ => none

/-- Pool lines of a hall to copy: written ones of a RESIDENT hall; of other halls, written ones of blocks that are not CLEAN. -/
def linesToCopy (s : State) (hid : Nat) (h : Hall) : List Nat :=
  match h.cls with
  | .resident =>
    ((s.dram.mem.filterMap fun e =>
      if e.2.written then (residentOffset h (e.1 / 2 ^ 34) (e.1 % 2 ^ 34 * 16)).map fun x => lineOf h x else none).eraseDups)
  | _ => (hallBlocks s hid).flatMap fun b =>
    if b.2.st = .landing ∨ b.2.st = .clean ∨ b.2.st = .evicting false then []
    else ((List.range (blockBytes h / 64)).map fun i => b.1 * blockBytes h + 64 * i).filterMap fun x =>
      if lineWritten s hid h x then some (lineOf h x) else none

/-- The active resynchronises: SYNC is RESYNCING, the configuration, keys and AGE go again, then the data (R569, R571, log 36). -/
def startResync (s : State) : State :=
  let whole := s.pair.swap.isSome
  let s := modPair s fun p => { p with sync := .resyncing, whole := whole }
  let s := mirrorNote (mirrorNote s (.sync 1 whole)) (.store (retainedOf s))
  let s := s.ten.recs.foldl (fun s e => [0, 1].foldl (fun s g =>
    let k := tenantSlot e.2 g
    if slotLoaded k then mirrorNote s (.keySlot e.1 g (some k.key)) else s) s) s
  let s := mirrorNote (mirrorNote s (.age s.welt.age)) (.homeEpoch s.homeEpoch)
  let ls := (s.halls.filter fun e => e.2.mirrored || whole).flatMap fun e => linesToCopy s e.1 e.2
  modPair s fun p => { p with resyncLeft := ls, resyncTotal := ls.length, resyncPos := 0 }

/-- May a resynchronisation start: the peer path up for 1 s, the partner READY (R571)? -/
def resyncDue (s : State) : Bool :=
  s.pair.role = .active && s.pair.peerPath && s.pair.partnerReady && decide (sec 1 + s.pair.peerSince ≤ s.now)

/-- RESYNC_START. -/
def execResyncStart (s : State) : Host.Outcome State Fault Refusal :=
  .next (if resyncDue s = true ∧ s.pair.sync = .notSynced then startResync s else s)

/-- The copy has ended: SYNCED, and a planned swap that sought it completes its command (R571, R577). -/
def endResync (s : State) : State :=
  let s := mirrorNote (modPair s fun p => { p with sync := .synced, resyncPos := 0, resyncTotal := 0 }) (.sync 0 s.pair.whole)
  match s.pair.swap with
  | some (at_, w, since) =>
    if s.pair.whole = false ∨ 1024 ≤ w then s
    else finishCmd (modPair s fun p => { p with swap := some (at_, 1024, since) }) w stOk 0 []
  | none => s

/-- RESYNC_STEP: the next line, under S6 (R571). -/
def resyncStep (s : State) : State :=
  if s.pair.role ≠ .active ∨ s.pair.sync ≠ .resyncing ∨ s.pair.peerPath = false then s
  else match s.pair.resyncLeft with
    | [] => endResync s
    | line :: rest =>
      let total := max 1 s.pair.resyncTotal
      let s := modPair s fun p => { p with resyncLeft := rest, resyncPos := 65535 * (total - rest.length) / total }
      match hallAt s (line * 64) with
      | none => s
      | some (hid, h) =>
        let off := line * 64 - 2 ^ 30 * h.base
        if isLanded s hid h off = false then s
        else
          let (s, d) := readLine s hid h off
          mirrorNote (xfer s 0x20 sysSub 6 64 0) (.lines hid [(off / 64, d)])

def execResyncStep (s : State) : Host.Outcome State Fault Refusal := .next (resyncStep s)

/-- `PAIR_SWAP`: every hall is mirrored from now on; the command completes when SYNC is SYNCED for all (R577). -/
def pairSwapBody (w : Nat) (s : State) (x : Win) : Answer :=
  if s.pair.role ≠ .active then fail s stNotActive
  else if s.pair.swap.isSome then fail s stBusy
  else
    let s := modPair s fun p => { p with swap := some (x.arg 0 8, w, s.now) }
    goesOn (if resyncDue s = true ∧ s.pair.sync ≠ .resyncing then startResync s
      else if s.pair.sync = .resyncing then startResync s else s)

def execPairSwap (w : Nat) (s : State) : Host.Outcome State Fault Refusal := .next (runCmd s w 0x0B02 (pairSwapBody w))

/-- SWAP_AT_REACHED: at AT the active quiesces, fences and sends RELEASE with its final MSEQ; it restarts with a recovery start
(R535, R577, R578). The row comes again when the quiesce is complete, or its 25 ms have passed. -/
def swapAtReached (s : State) : State :=
  match s.pair.swap with
  | none => s
  | some (at_, w, _) =>
    if w < 1024 ∨ s.now < at_ ∨ s.pair.role ≠ .active then s
    else
      let s := if s.pwr.quiesceSince.isSome then s else modPwr s fun p => { p with quiesceSince := some s.now, swapQuiesce := true }
      if quiesced s = true ∨ s.pwr.quiesceSince.any (fun t => decide (ms 25 + t ≤ s.now)) then recoveryStart (selfFence s 3) else s

def execSwapAtReached (s : State) : Host.Outcome State Fault Refusal := .next (swapAtReached s)

/-! ### Mirror records (R494, R569 to R571) -/

/-- `PEER_SYNC`: the standby applies the stream and acknowledges it (R569); a released lease may have waited for it (R577). -/
def peerSyncBody (recs : List MirrorRec) (s : State) (_x : Win) : Answer :=
  if s.pair.role ≠ .standby then fail s stDenied
  else
    let s := recs.foldl takeRec s
    let s := match pickPort s 8 false with
      | some p => sendFlit s p .peer (.mirrorAck p s.pair.applied)
      | none => s
    good (tryTakeover s [])

def execPeerSync (w : Nat) (recs : List MirrorRec) (s : State) : Host.Outcome State Fault Refusal :=
  .next (runCmd s w 0x0B04 (peerSyncBody recs))

/-- The body of a retained command, by opcode (R494). -/
def retainedBody (w op : Nat) : Option (State → Win → Answer) :=
  match op with
  | 0x0102 => some trustSetBody
  | 0x0103 => some (bmcKeySetBody w)
  | 0x0200 => some hallCreateBody
  | 0x0201 => some hallDestroyBody
  | 0x0202 => some hallTrimBody
  | 0x0204 => some hallSetBody
  | 0x0205 => some hallAclSetBody
  | 0x0206 => some hallAclRemoveBody
  | 0x0300 => some topoSetBody
  | 0x0301 => some routeSetBody
  | 0x0303 => some portSetBody
  | 0x0400 => some tenantCreateBody
  | 0x0402 => some tenantRotateBody
  | 0x0404 => some tenantRetireBody
  | 0x0405 => some tenantRemoveBody
  | 0x0700 => some flightLoadBody
  | 0x0701 => some flightCancelBody
  | 0x0704 => some shaperSetBody
  | 0x0801 => some tierHallSetBody
  | 0x0901 => some dramSetBody
  | 0x0905 => some fenceClearBody
  | 0x0A00 => some recTriggerSetBody
  | 0x0A05 => some dumpClearBody
  | 0x0B00 => some pairSetBody
  | 0x0D01 => some storeBareBody
  | _ => none

/-- A retained command whose change the standby holds, or need no longer hold, takes effect (R494). -/
def runHeld (s : State) (w : Nat) : State :=
  match s.win.get? w with
  | none => s
  | some x => match x.cmd with
    | none => s
    | some c => match retainedBody w c.op with
      | some body => settleTier (settle w (body s x))
      | none => s

/-- What waited for a record's acknowledgement goes on: completions are sent, a welt's step 3 of R187 has its acknowledgement, a command
takes effect. Without the acknowledgement a welt aborts (R187, R189, R570, R571). -/
def endWait (acked : Bool) (s : State) (m : MirWait) : State :=
  let s := m.send.foldl (fun s e => send s e.1 e.2.1 e.2.2) s
  let s := match m.welt with
    | some slot =>
      if (weltAt s slot).mseq = some m.mseq ∧ (weltAt s slot).st = .committing ∧ (weltAt s slot).mwait = true then
        if acked then durableGo (modWelt s slot fun w => { w with mwait := false }) slot else abortWelt s slot stFault false
      else s
    | none => s
  match m.win with
  | some w => runHeld s w
  | none => s

/-- Waits that a test names end. -/
def endWaits (s : State) (acked : Bool) (p : MirWait → Bool) : State :=
  let out := s.pair.waits.filter p
  out.foldl (endWait acked) (modPair s fun q => { q with waits := q.waits.filter fun m => !p m })

/-- MIRROR_ACK: the standby has applied every record up to `mseq` (R569). -/
def execMirrorAck (mseq : Nat) (s : State) : Host.Outcome State Fault Refusal :=
  .next (if s.pair.waits.any (fun m => decide (m.mseq ≤ mseq)) then settleTier (endWaits s true fun m => decide (m.mseq ≤ mseq)) else s)

/-- MIRROR_ACK_TIMEOUT: a record not acknowledged within 1 ms, or a lost peer path: NOT_SYNCED, and what waited goes on without
the mirror (R571). The standby learns it when the path still stands. -/
def execMirrorAckTimeout (s : State) : Host.Outcome State Fault Refusal :=
  .next (if s.pair.waits = [] ∨ s.pair.role = .fenced then s
    else if mirrorLive s = true ∧ s.pair.waits.all (fun m => decide (s.now < ms 1 + m.sentAt)) = true then s
    else
      let s := if s.pair.role = .active ∧ s.pair.peerPath = true ∧ s.pair.sync ≠ .notSynced then (sendMirror s (.sync 2 false)).1 else s
      settleTier (endWaits (loseSync s) false fun _ => true))

/-! ### The lease (R558, R559, R565 to R568) -/

/-- RENEW_TIMER (R28, R558). -/
def renewTimer (s : State) : State :=
  if s.pair.role ≠ .active ∨ s.pair.cfg.enable = false ∨ s.pwr.feltiOn = false ∨ s.now < ms 10 + s.pair.lastRenew then s
  else
    let lc := (s.pair.lc + 1) % 65536
    let s := modPair s fun p => { p with
      lc := lc, lcExpiry := ms 50 + s.now, lcAcked := false, lastRenew := s.now, renews := satAdd 32 p.renews 1 }
    leaseBoth s 0 lc (ms 50 + s.now) 0

def execRenewTimer (s : State) : Host.Outcome State Fault Refusal := .next (renewTimer s)

/-- A lease or time message has come in on a peer port: a reserved form is discarded and counted (R115, R561). -/
def hbtTake (s : State) (m : MgtMsg) (op : Nat) (k : State → State) : State :=
  if m.port < 8 ∨ heard s m.port false = false then s
  else if hbtBad m.bytes op then countBad s m.port
  else k s

/-- RENEW at the standby: E_s rises and ACK goes back on the same path, while ALIGNED (R558, R560). -/
def renewIn (s : State) (path : LeasePath) (lc expiry : Nat) : State :=
  if s.pair.role ≠ .standby ∨ s.pair.cfg.enable = false then s
  else
    let s := modPair s fun p => { p with lastHeard := s.now }
    if s.pair.aligned = false then s
    else
      let s := modPair s fun p => { p with
        eS := max p.eS expiry, lc := lc, renews := satAdd 32 p.renews 1
        expired := p.expired && decide (expiry ≤ p.eS), abandoned := p.abandoned && decide (expiry ≤ p.eS) }
      leaseSay s path 1 lc expiry 0

/-- ACK at the active: the first for the latest LC sets E_a (R558). -/
def ackIn (s : State) (lc : Nat) : State :=
  if s.pair.role ≠ .active ∨ s.pair.cfg.enable = false ∨ lc ≠ s.pair.lc ∨ s.pair.renews = 0 then s
  else
    modPair s fun p => { p with
      lastHeard := s.now, eA := if p.lcAcked then p.eA else p.lcExpiry, lcAcked := true }

/-- RELEASE at the standby: the lease has expired at once (R566). In a planned swap the takeover waits for the final MSEQ, which
only a peer path names (R577). -/
def releaseIn (s : State) (path : LeasePath) (mseq : Nat) : State :=
  if s.pair.role ≠ .standby ∨ s.pair.cfg.enable = false then s
  else
    let s := if s.pair.expired then s else leaseGone s
    let s := match path with
      | .peer _ => modPair s fun p => { p with toldFinal := if p.whole then some mseq else p.toldFinal }
      | .wire => s
    tryTakeover s []

def execRenew (m : MgtMsg) (s : State) : Host.Outcome State Fault Refusal :=
  .next (hbtTake s m 0x70 fun s => renewIn s (.peer m.port) (hbtLc m.bytes) (hbtExpiry m.bytes))

def execAck (m : MgtMsg) (s : State) : Host.Outcome State Fault Refusal := .next (hbtTake s m 0x71 fun s => ackIn s (hbtLc m.bytes))

def execRelease (m : MgtMsg) (s : State) : Host.Outcome State Fault Refusal :=
  .next (hbtTake s m 0x72 fun s => releaseIn s (.peer m.port) (hbtMseq m.bytes))

/-- LEASE_ACTIVE_EXPIRY: pool time reaches E_a (R559). -/
def execLeaseActiveExpiry (s : State) : Host.Outcome State Fault Refusal :=
  .next (if s.pair.role = .active ∧ s.pair.cfg.enable = true ∧ s.pair.eA ≠ 0 ∧ s.pair.eA ≤ s.now then selfFence s 1 true else s)

/-- LEASE_STANDBY_EXPIRY: E_s plus 10 ms (R559); then the takeover, where its conditions hold (R572). -/
def execLeaseStandbyExpiry (answers : List Bool) (s : State) : Host.Outcome State Fault Refusal :=
  .next (if s.pair.role ≠ .standby ∨ s.pair.cfg.enable = false ∨ s.pair.eS = 0 ∨ s.now < ms 10 + s.pair.eS then s
    else tryTakeover (if s.pair.expired then s else leaseGone s) answers)

/-- PREEMPT_DEADLINE: a takeover that has issued no preempt by E_s plus 100 ms is abandoned (R257, R568). -/
def execPreemptDeadline (s : State) : Host.Outcome State Fault Refusal :=
  .next (if s.pair.role = .standby ∧ s.pair.expired = true ∧ s.pair.abandoned = false ∧ s.pair.eS ≠ 0 ∧ ms 100 + s.pair.eS ≤ s.now then
      registerAll (modPair s fun p => { p with abandoned := true })
    else s)

/-- SELF_RESUME_CHECK: at E_a plus 200 ms every drive is asked for its reservation; at least five answers, each naming the own key,
make the SH940 active again with all its pool state (R567). -/
def selfResume (s : State) (holders : List (Option Nat)) : State :=
  if s.pair.role ≠ .fenced ∨ s.pair.atExpiry = false ∨ s.now < ms 200 + s.pair.eA then s
  else
    let s := say s ((List.range 8).map fun p => .nvmeResv p 0x0E 0 0)
    let got := holders.filterMap id
    if got.length < 5 ∨ got.any (fun k => decide (k ≠ resvKey s)) = true then s
    else
      let s := endOldEpoch { s with flash := { s.flash with stopped := false } }
      dispatchAll (settleTier (raiseEpoch (becomeActive (loseSync s))))

def execSelfResumeCheck (holders : List (Option Nat)) (s : State) : Host.Outcome State Fault Refusal := .next (selfResume s holders)

/-! ### Pool time (R22, R560) -/

/-- All counts move by `n` ticks. -/
def addTicks (s : State) (n : Nat) : State :=
  { s with clk := { s.clk with
    master := s.clk.master + n, core := s.clk.core + n, fab0 := s.clk.fab0 + n, fab1 := s.clk.fab1 + n } }

/-- TIME_SYNC_TIMER: a member that does not lead asks for the time (R560). -/
def execTimeSyncTimer (s : State) : Host.Outcome State Fault Refusal :=
  .next (if s.pair.cfg.enable = false ∨ s.pair.role = .active ∨ s.pair.peerPath = false ∨ s.now < ms 10 + s.pair.timeReqAt then s
    else
      hbtSay (modPair s fun p => { p with timeReqAt := s.now }) 8 3 0 0 0 0)

/-- TIME_REQ is answered on its port (R560). -/
def execTimeReq (m : MgtMsg) (s : State) : Host.Outcome State Fault Refusal :=
  .next (hbtTake s m 0x73 fun s => if s.pair.cfg.enable = false then s else hbtSay s m.port 4 0 0 (hbtSend m.bytes) 0)

/-- Is an offset within 100 ticks (R557, R560)? -/
def within (d : Int) : Bool := decide (-100 ≤ d ∧ d ≤ 100)

/-- TIME_RSP: the offset from half the round trip; before READY the count jumps forward to the active's (R22, R560). -/
def timeRsp (s : State) (tSend tEcho : Nat) : State :=
  if s.pair.role = .active ∨ s.pair.cfg.enable = false ∨ s.now < tEcho then s
  else
    let off : Int := (tSend + (s.now - tEcho) / 2 : Nat) - (s.now : Nat)
    let jump := !s.pwr.ready && decide (0 < off)
    let left := if jump then 0 else off
    let s := modPair s fun p => { p with offset := off, toRemove := left, aligned := within left }
    if jump then addTicks s off.toNat else s

def execTimeRsp (m : MgtMsg) (s : State) : Host.Outcome State Fault Refusal :=
  .next (hbtTake s m 0x74 fun s => timeRsp s (hbtSend m.bytes) (hbtEcho m.bytes))

/-- OFFSET_SLEW_TICK: one tick is added or held per 100 µs (R560). -/
def execOffsetSlewTick (s : State) : Host.Outcome State Fault Refusal :=
  .next (if s.pair.role = .active ∨ s.pair.toRemove = 0 ∨ s.now < us 100 + s.pair.slewAt then s
    else
      let up := decide (0 < s.pair.toRemove)
      let left := if up then s.pair.toRemove - 1 else s.pair.toRemove + 1
      let s := modPair s fun p => { p with slewAt := s.now, toRemove := left, aligned := p.aligned || within left }
      if up then addTicks s 1 else { s with clk := { s.clk with hold := s.clk.hold + 1 } })

/-- ALIGNED_LOSS_TIMEOUT: 10 s without a peer path (R560). -/
def execAlignedLossTimeout (s : State) : Host.Outcome State Fault Refusal :=
  .next (if s.pair.peerPath = false ∧ sec 10 + s.pair.peerSince ≤ s.now ∧ s.pair.role ≠ .active then
      modPair s fun p => { p with aligned := false }
    else s)

/-! ### The heartbeat wire (R562, R563) -/

/-- The wire path takes a state: a PAIR event (R563). -/
def setWire (s : State) (st : WireSt) : State :=
  if s.pair.wire = st then s
  else event (modPair s fun p => { p with wire := st }) .pathState srcWire none none 0 [(0, 1, 0), (1, 1, wireCode st)]

/-- Is a frame free of CRC errors and reserved values (R562)? -/
def frameOk (f : BitVec 72) : Bool :=
  f.extractLsb' 0 8 = 0xD5 && decide ((f.extractLsb' 8 4).toNat ≤ 2) && f.extractLsb' 13 3 = 0 && f.extractLsb' 64 8 = wireCrc f

/-- The pool time congruent to `e` modulo 2^32 that is nearest `now` (R562). -/
def nearestTime (now e : Nat) : Nat :=
  let d := (e + 2 ^ 32 - now % 2 ^ 32) % 2 ^ 32
  if d < 2 ^ 31 ∨ now + d < 2 ^ 32 then now + d else now + d - 2 ^ 32

/-- WIRE_FRAME: a bad frame is counted; a good one is delivered in UP, brings a path that is DOWN up, and is dropped in CHATTER
(R562, R563). -/
def wireFrame (s : State) (f : BitVec 72) : State :=
  if frameOk f = false then modPair s fun p => { p with wireErr := satAdd 32 p.wireErr 1 }
  else
    let was := s.pair.wire
    let s := modPair s fun p => { p with wireFrameAt := s.now }
    match was with
    | .chatter => s
    | .down => setWire s .up
    | .up =>
      let lc := (f.extractLsb' 16 16).toNat
      let t := nearestTime s.now (f.extractLsb' 32 32).toNat
      match (f.extractLsb' 8 4).toNat with
      | 0 => renewIn s .wire lc t
      | 1 => ackIn s lc
      | _ => releaseIn s .wire 0

def execWireFrame (bits : BitVec 72) (s : State) : Host.Outcome State Fault Refusal := .next (wireFrame s bits)

/-- WIRE_IDLE_TIMEOUT: no transition for 4 µs, or no valid frame for 30 ms (R563). -/
def execWireIdleTimeout (s : State) : Host.Outcome State Fault Refusal :=
  .next (if s.pair.wire = .up then setWire s .down else s)

/-- WIRE_CHATTER: too many short pulses within 1 ms (R563). -/
def execWireChatter (s : State) : Host.Outcome State Fault Refusal :=
  .next (setWire (modPair s fun p => { p with chatterAt := s.now }) .chatter)

/-- WIRE_CHATTER_CLEAR: 100 ms without such an excess (R563). -/
def execWireChatterClear (s : State) : Host.Outcome State Fault Refusal :=
  .next (if s.pair.wire = .chatter ∧ ms 100 + s.pair.chatterAt ≤ s.now then
      setWire s (if s.now < ms 30 + s.pair.wireFrameAt then .up else .down)
    else s)

/-! ### Recovery (R574, R575) -/

/-- RECOVERY_WINDOW_END: held requests proceed (R574). -/
def execRecoveryWindowEnd (s : State) : Host.Outcome State Fault Refusal :=
  .next (if s.home.recoveryEnd = 0 ∨ s.now < s.home.recoveryEnd then s
    else settleTier ((s.home.lines.map fun e => e.1).foldl activate s))

/-- Lines that one step of the clear takes (DESIGN CHOICE, log 49): 1 GiB of the hall. -/
def clearStep : Nat := 2 ^ 24

/-- The clear of a POISONED hall advances past lines written since the takeover (R422, R575). -/
def clearAdvance (s : State) (hid : Nat) (h : Hall) : State :=
  let hi := h.clearPos + clearStep
  let gone := fun (e : Nat × Granule) => match residentOffset h (e.1 / 2 ^ 34) (e.1 % 2 ^ 34 * 16) with
    | some x => decide (h.clearPos ≤ x / 64 ∧ x / 64 < hi) && !h.written.contains (x / 64)
    | none => false
  { s with
    dram := { s.dram with mem := s.dram.mem.filter fun e => !gone e }
    halls := s.halls.modify hid fun y => { y with clearPos := hi, written := y.written.filter fun l => decide (hi ≤ l) } }

/-- POISONED_HALL_CLEAR_STEP. -/
def execPoisonedHallClearStep (hall : Nat) (s : State) : Host.Outcome State Fault Refusal :=
  .next (match s.halls.get? hall with
    | none => s
    | some h => if h.poisoned = true ∧ h.clearPos < 2 ^ 24 * h.size then clearAdvance s hall h else s)

end Sys2Proof.Machine
end

