-- ==== Sys2Proof/Machine/Welt.lean ====
section
/-! DEFINITION. The rows of the WLT channel and of the welts' bounds (R162 to R204). -/

namespace Sys2Proof.Machine

/-! ### Messages (R164 to R168, R170, R185, R186, R196, R202) -/

/-- A reissued WLT request gets its recorded answer (R202). -/
def wltReissued (s : State) (m : WltMsg) (t : Tracker) : State :=
  let s := { s with home := { s.home with trackers := s.home.trackers.modify (trkKey m.ep m.tag) fun t =>
    { t with port := m.port, dropped := none } } }
  match t.done with
  | none => s
  | some (code, _) => match t.wlt with
    | some a => send s m.port (.wlt m.ep m.tag) (onPort a m.port)
    | none => send s m.port (.rsp m.ep m.tag) (.cmp m.port m.ep m.tag code 0 s.homeEpoch)

/-- A WLT request refused on RSP with `CMP_DENIED` (R164). -/
def wltDenied (s : State) (m : WltMsg) : State :=
  completeCode s { kind := .wltRd, ep := m.ep, org := .ep m.port m.tag, hall := m.hall, line := 0, offset := 0 } .denied

/-- The checks of every WLT request, then `k` (R47, R108, R115, R121, R164). -/
def wltArrive (s : State) (m : WltMsg) (code : Nat) (k : State → State) : State :=
  match arrive s m.port m.tag m.ep m.hall m.epoch code 0 (m.bad code) with
  | .over s | .noEntry s => s
  | .reissue s t => wltReissued s m t
  | .taken s =>
    if hallTakes s m.hall 0 && (rightsOf s m.hall m.ep).any fun a => a.welt then k s else wltDenied s m

/-- `WLT_OPEN` (R50, R166 to R168). -/
def wltOpen (s : State) (m : WltMsg) : State :=
  wltArrive s m 0x10 fun s =>
    if (s.halls.get? m.hall).all ownerFwd then wltDenied s m
    else if s.welt.age < s.welt.ageLimit then openWelt s m
    else if s.welt.limitFailed then wltAnswer s m.port m.ep m.tag fun p => .wltEnd p m.ep m.tag m.hall 0 false false stFault 0 s.homeEpoch
    else { s with welt := { s.welt with waiting := s.welt.waiting ++ [(m, s.now, ((s.halls.get? m.hall).map fun h => h.epoch).getD 0)] } }

def execWltOpen (m : WltMsg) (s : State) : Host.Outcome State Fault Refusal := .next (wltOpen s m)

/-- WLT_END with the status of an aborted welt, for a later request on its handle (R196). -/
def endAgain (s : State) (m : WltMsg) (status : Nat) : State :=
  wltAnswer s m.port m.ep m.tag fun p => .wltEnd p m.ep m.tag m.hall m.handle false false status 0 s.homeEpoch

/-- An open welt whose time has run out aborts (R170). -/
def weltLate (s : State) (slot : Nat) : State :=
  let w := weltAt s slot
  if w.st = .open_ ∧ w.openedAt + w.tmo ≤ s.now then abortWelt s slot stTimeout false else s

/-- A COMMIT or ABORT on a handle (R165, R185, R196): `k` takes an open welt. -/
def onWelt (s : State) (m : WltMsg) (k : State → Nat → Welt → State) : State :=
  let slot := m.handle % 4096
  let s := if handleFits (weltAt s slot) m.handle m.ep m.hall then weltLate s slot else s
  let w := weltAt s slot
  if handleFits w m.handle m.ep m.hall = false then wltDenied s m
  else match w.st with
    | .free => if w.status = 0 then wltDenied s m else endAgain s m w.status
    | .aborting => if w.asked then setWelt s slot { w with waitTags := w.waitTags ++ [(m.port, m.tag)] } else endAgain s m w.status
    | .committing => setWelt s slot { w with waitTags := w.waitTags ++ [(m.port, m.tag)] }
    | .open_ => k s slot w

/-- `WLT_COMMIT` (R185 to R187). `bad`: granules of its buffer, by pool line and index, found uncorrectable as the commit runs (R440). -/
def wltCommit (s : State) (m : WltMsg) (bad : List (Nat × Nat)) : State :=
  settleTier (wltArrive s m 0x13 fun s => onWelt s m fun s slot w =>
    if m.persist ∧ (s.halls.get? m.hall).all (fun h => h.cls ≠ .persistent) = true then
      wltAnswer s m.port m.ep m.tag fun p => .wltEnd p m.ep m.tag m.hall m.handle false false stBadArg 0 s.homeEpoch
    else commitStart (setWelt s slot { w with
      st := .committing, asked := true, port := m.port, tag := m.tag, persist := m.persist, phase := .collect, phaseAt := s.now
      bad := bad })
      slot)

def execWltCommit (m : WltMsg) (bad : List (Nat × Nat)) (s : State) : Host.Outcome State Fault Refusal := .next (wltCommit s m bad)

/-- `WLT_ABORT` (R195, R197). -/
def wltAbort (s : State) (m : WltMsg) : State :=
  settleTier (wltArrive s m 0x14 fun s => onWelt s m fun s slot w =>
    abortWelt (setWelt s slot { w with asked := true, port := m.port, tag := m.tag }) slot stOk false)

def execWltAbort (m : WltMsg) (s : State) : Host.Outcome State Fault Refusal := .next (wltAbort s m)

/-! ### Bounds (R170, R189) -/

/-- WELT_TIMEOUT: the open time reaches WELT_TMO (R170). -/
def execWeltTimeout (slot : Nat) (s : State) : Host.Outcome State Fault Refusal := .next (settleTier (weltLate s slot))

/-- COMMIT_COLLECTION_TIMEOUT: the owner has not answered within 2 ms and is declared dead (R189). -/
def execCommitCollectionTimeout (slot : Nat) (s : State) : Host.Outcome State Fault Refusal :=
  let w := weltAt s slot
  .next (if w.st = .committing ∧ w.phase = .collect ∧ ms 2 + w.phaseAt ≤ s.now then
      match s.home.snoops.find? fun x => x.2 = .weltCommit slot with
      | some x => endpointDead s w.owner 1 x.1.stag w.hall
      | none => s
    else s)

/-- JOURNAL_RECORD_DURABLE: the record issued last, its writes out, is durable; its commit goes on to its commit point (R187, R191). The
record of a welt that has aborted since stays in the journal and is replayed (DEDUCED, log 94). -/
def journalDurable (s : State) (hid : Nat) : State :=
  match s.flash.jobs.find? fun j => (match j.kind with
      | .record x _ => decide (x = hid)
      | _ => false) && decide (j.st = .running) with
  | none => s
  | some job =>
    if flashOff s then s
    else match (s.jrn.get? hid).bind fun j => j.recs.find? fun r => !r.durable with
      | none => settleTier (endJob s job false)
      | some r =>
        let s := endJob s job true
        let s := { s with jrn := s.jrn.modify hid fun j => { j with recs := j.recs.map fun x =>
          if x.jseq = r.jseq then { x with durable := true } else x } }
        let w := weltAt s r.slot
        let s := if w.st = .committing ∧ w.jwait = true ∧ w.jissued = true ∧ w.age = r.age then
            durableGo (modWelt s r.slot fun w => { w with jwait := false }) r.slot
          else s
        settleTier s

def execJournalRecordDurable (hall : Nat) (s : State) : Host.Outcome State Fault Refusal := .next (journalDurable s hall)

/-- JOURNAL_DURABLE_TIMEOUT: 12 ms without a durable record (R189). A commit that waits behind another's record, not for ring space, ends
as one whose record was not issued (DESIGN CHOICE, log 90). -/
def execJournalDurableTimeout (slot : Nat) (s : State) : Host.Outcome State Fault Refusal :=
  let w := weltAt s slot
  .next (if w.st = .committing ∧ w.phase = .durable ∧ w.jwait = true ∧ ms 12 + w.phaseAt ≤ s.now then
      settleTier (abortWelt s slot (if w.jissued then stFault else stAbortCapacity) false)
    else s)

/-! ### AGE_LIMIT (R167) -/

/-- Felti commits AGE_LIMIT + 2^36; `ok` says whether the store took it. -/
def ageCommit (s : State) (ok : Bool) : State :=
  let t := { s with welt := { s.welt with ageLimit := 2 ^ 36 + s.welt.ageLimit, limitFailed := false } }
  let (t, done) := commit t
  if ok && done then
    openWaiting (if mirrorLive t then mirrorNote t (.store (retainedOf t)) else t)
  else
    let ws := s.welt.waiting
    ws.foldl (fun s e => wltAnswer s e.1.port e.1.ep e.1.tag fun p => .wltEnd p e.1.ep e.1.tag e.1.hall 0 false false stFault 0 s.homeEpoch)
      { s with welt := { s.welt with limitFailed := true, retryAt := ms 10 + s.now, waiting := [] } }

/-- AGE_LIMIT_COMMIT: AGE has come within 2^32 of AGE_LIMIT (R167). -/
def execAgeLimitCommit (ok : Bool) (s : State) : Host.Outcome State Fault Refusal :=
  .next (if s.pwr.feltiOn = true ∧ s.welt.limitFailed = false ∧ s.welt.ageLimit ≤ 2 ^ 32 + s.welt.age then ageCommit s ok else s)

/-- AGE_LIMIT_RETRY: 10 ms after a failed commit (R167). -/
def execAgeLimitRetry (ok : Bool) (s : State) : Host.Outcome State Fault Refusal :=
  .next (if s.pwr.feltiOn = true ∧ s.welt.limitFailed = true ∧ s.welt.retryAt ≤ s.now then ageCommit s ok else s)

end Sys2Proof.Machine
end

