-- ==== Sys2Proof/Machine/Dispatch.lean ====
section
/-! DEFINITION. The meaning of each command: one arm per constructor, one direct call of its meaning. -/

namespace Sys2Proof.Machine

/-- The effect of one command on everything but the queue. -/
def exec (i : Instr) (s : State) : Host.Outcome State Fault Refusal :=
  match i with
  | .identityGet w => Sys2Proof.Machine.execIdentityGet w s
  | .attestGet w => Sys2Proof.Machine.execAttestGet w s
  | .trustSet w => Sys2Proof.Machine.execTrustSet w s
  | .bmcKeySet w => Sys2Proof.Machine.execBmcKeySet w s
  | .timeGet w => Sys2Proof.Machine.execTimeGet w s
  | .hallCreate w => Sys2Proof.Machine.execHallCreate w s
  | .hallDestroy w => Sys2Proof.Machine.execHallDestroy w s
  | .hallTrim w => Sys2Proof.Machine.execHallTrim w s
  | .hallQuery w => Sys2Proof.Machine.execHallQuery w s
  | .hallSet w => Sys2Proof.Machine.execHallSet w s
  | .hallAclSet w => Sys2Proof.Machine.execHallAclSet w s
  | .hallAclRemove w => Sys2Proof.Machine.execHallAclRemove w s
  | .hallAclQuery w => Sys2Proof.Machine.execHallAclQuery w s
  | .topoSet w => Sys2Proof.Machine.execTopoSet w s
  | .routeSet w => Sys2Proof.Machine.execRouteSet w s
  | .portQuery w => Sys2Proof.Machine.execPortQuery w s
  | .portSet w => Sys2Proof.Machine.execPortSet w s
  | .tenantCreate w => Sys2Proof.Machine.execTenantCreate w s
  | .tenantQuery w => Sys2Proof.Machine.execTenantQuery w s
  | .tenantKeyRotate w => Sys2Proof.Machine.execTenantKeyRotate w s
  | .tenantKeyLoad w => Sys2Proof.Machine.execTenantKeyLoad w s
  | .tenantKeyRetire w => Sys2Proof.Machine.execTenantKeyRetire w s
  | .tenantRemove w => Sys2Proof.Machine.execTenantRemove w s
  | .ctxCreate w => Sys2Proof.Machine.execCtxCreate w s
  | .ctxDestroy w => Sys2Proof.Machine.execCtxDestroy w s
  | .ctxQuery w => Sys2Proof.Machine.execCtxQuery w s
  | .ctxSet w => Sys2Proof.Machine.execCtxSet w s
  | .ctxBindHall w => Sys2Proof.Machine.execCtxBindHall w s
  | .ctxUnbindHall w => Sys2Proof.Machine.execCtxUnbindHall w s
  | .queueCreate w => Sys2Proof.Machine.execQueueCreate w s
  | .queueDestroy w => Sys2Proof.Machine.execQueueDestroy w s
  | .queueQuery w => Sys2Proof.Machine.execQueueQuery w s
  | .queueSet w => Sys2Proof.Machine.execQueueSet w s
  | .rxwinSet w => Sys2Proof.Machine.execRxwinSet w s
  | .lastLoad w => Sys2Proof.Machine.execLastLoad w s
  | .lastUnload w => Sys2Proof.Machine.execLastUnload w s
  | .lastStop w => Sys2Proof.Machine.execLastStop w s
  | .lastQuery w => Sys2Proof.Machine.execLastQuery w s
  | .flightLoad w => Sys2Proof.Machine.execFlightLoad w s
  | .flightCancel w => Sys2Proof.Machine.execFlightCancel w s
  | .flightQuery w => Sys2Proof.Machine.execFlightQuery w s
  | .flightRead w => Sys2Proof.Machine.execFlightRead w s
  | .shaperSet w => Sys2Proof.Machine.execShaperSet w s
  | .shaperQuery w => Sys2Proof.Machine.execShaperQuery w s
  | .tierHallQuery w => Sys2Proof.Machine.execTierHallQuery w s
  | .tierHallSet w => Sys2Proof.Machine.execTierHallSet w s
  | .tierHint w => Sys2Proof.Machine.execTierHint w s
  | .tierQuery w => Sys2Proof.Machine.execTierQuery w s
  | .tierDriveAdopt w => Sys2Proof.Machine.execTierDriveAdopt w s
  | .dramQuery w => Sys2Proof.Machine.execDramQuery w s
  | .dramSet w => Sys2Proof.Machine.execDramSet w s
  | .dramDiagWrite w => Sys2Proof.Machine.execDramDiagWrite w s
  | .dramDiagRead w => Sys2Proof.Machine.execDramDiagRead w s
  | .fenceQuery w => Sys2Proof.Machine.execFenceQuery w s
  | .fenceClear w => Sys2Proof.Machine.execFenceClear w s
  | .scanRun w r => Sys2Proof.Machine.execScanRun w r s
  | .recTriggerSet w => Sys2Proof.Machine.execRecTriggerSet w s
  | .recQuery w => Sys2Proof.Machine.execRecQuery w s
  | .recRead w bad => Sys2Proof.Machine.execRecRead w bad s
  | .dumpQuery w => Sys2Proof.Machine.execDumpQuery w s
  | .dumpRead w => Sys2Proof.Machine.execDumpRead w s
  | .dumpClear w => Sys2Proof.Machine.execDumpClear w s
  | .pairSet w => Sys2Proof.Machine.execPairSet w s
  | .pairQuery w => Sys2Proof.Machine.execPairQuery w s
  | .pairSwap w => Sys2Proof.Machine.execPairSwap w s
  | .leaseQuery w => Sys2Proof.Machine.execLeaseQuery w s
  | .peerSync w recs => Sys2Proof.Machine.execPeerSync w recs s
  | .fwQuery w => Sys2Proof.Machine.execFwQuery w s
  | .fwWrite w => Sys2Proof.Machine.execFwWrite w s
  | .fwActivate w => Sys2Proof.Machine.execFwActivate w s
  | .fwSvnCommit w => Sys2Proof.Machine.execFwSvnCommit w s
  | .storeQuery w => Sys2Proof.Machine.execStoreQuery w s
  | .storeBare w => Sys2Proof.Machine.execStoreBare w s
  | .resetCmd w => Sys2Proof.Machine.execResetCmd w s
  | .consoleUnlock w => Sys2Proof.Machine.execConsoleUnlock w s
  | .consoleUnlockExpiry => Sys2Proof.Machine.execConsoleUnlockExpiry s
  | .ringWrite w => Sys2Proof.Machine.execRingWrite w s
  | .ringTake w => Sys2Proof.Machine.execRingTake w s
  | .commandDispatch w => Sys2Proof.Machine.execCommandDispatch w s
  | .commandBoundExpiry w => Sys2Proof.Machine.execCommandBoundExpiry w s
  | .alertStatusClear w bits => Sys2Proof.Machine.execAlertStatusClear w bits s
  | .windowRegisterWrite w off v => Sys2Proof.Machine.execWindowRegisterWrite w off v s
  | .feltiTick => Sys2Proof.Machine.execFeltiTick s
  | .alertHoldoffExpiry w cls => Sys2Proof.Machine.execAlertHoldoffExpiry w cls s
  | .mbxOpen m => Sys2Proof.Machine.execMbxOpen m s
  | .mbxWrite path bytes => Sys2Proof.Machine.execMbxWrite path bytes s
  | .mbxRead path bytes => Sys2Proof.Machine.execMbxRead path bytes s
  | .mbxClose path bytes => Sys2Proof.Machine.execMbxClose path bytes s
  | .budgetAck m => Sys2Proof.Machine.execBudgetAck m s
  | .budgetDecreaseTimeout ep hall => Sys2Proof.Machine.execBudgetDecreaseTimeout ep hall s
  | .epState m => Sys2Proof.Machine.execEpState m s
  | .linkRekey m => Sys2Proof.Machine.execLinkRekey m s
  | .linkRekeyDue port => Sys2Proof.Machine.execLinkRekeyDue port s
  | .spdmFrag m => Sys2Proof.Machine.execSpdmFrag m s
  | .qdb m => Sys2Proof.Machine.execQdb m s
  | .getVersion conn => Sys2Proof.Machine.execGetVersion conn s
  | .getCapabilities conn => Sys2Proof.Machine.execGetCapabilities conn s
  | .negotiateAlgorithms conn supported => Sys2Proof.Machine.execNegotiateAlgorithms conn supported s
  | .getDigests conn => Sys2Proof.Machine.execGetDigests conn s
  | .getCertificate conn slot off len => Sys2Proof.Machine.execGetCertificate conn slot off len s
  | .challenge conn slot nonce => Sys2Proof.Machine.execChallenge conn slot nonce s
  | .getMeasurements conn index signed nonce => Sys2Proof.Machine.execGetMeasurements conn index signed nonce s
  | .keyExchange conn mutAuth => Sys2Proof.Machine.execKeyExchange conn mutAuth s
  | .finish conn chain sigOk => Sys2Proof.Machine.execFinish conn chain sigOk s
  | .keyUpdate sid => Sys2Proof.Machine.execKeyUpdate sid s
  | .heartbeat sid => Sys2Proof.Machine.execHeartbeat sid s
  | .endSession sid => Sys2Proof.Machine.execEndSession sid s
  | .chunkSend conn handle seq last data => Sys2Proof.Machine.execChunkSend conn handle seq last data s
  | .chunkGet conn handle seq => Sys2Proof.Machine.execChunkGet conn handle seq s
  | .spdmSessionExpiry sid => Sys2Proof.Machine.execSpdmSessionExpiry sid s
  | .linkKeyingResponse port k => Sys2Proof.Machine.execLinkKeyingResponse port k s
  | .keyingRetry port => Sys2Proof.Machine.execKeyingRetry port s
  | .smbusBlockWrite off data pecOk => Sys2Proof.Machine.execSmbusBlockWrite off data pecOk s
  | .smbusSetReadPointer ptr pecOk => Sys2Proof.Machine.execSmbusSetReadPointer ptr pecOk s
  | .smbusBlockRead len => Sys2Proof.Machine.execSmbusBlockRead len s
  | .smbusAlertResponse => Sys2Proof.Machine.execSmbusAlertResponse s
  | .smbusClockTimeout => Sys2Proof.Machine.execSmbusClockTimeout s
  | .smbalertStuckCheck lineLow => Sys2Proof.Machine.execSmbalertStuckCheck lineLow s
  | .phyTrainingDone port rate32 trained lanes highest => Sys2Proof.Machine.execPhyTrainingDone port rate32 trained lanes highest s
  | .negotiateResend port => Sys2Proof.Machine.execNegotiateResend port s
  | .negotiate port flit => Sys2Proof.Machine.execNegotiate port flit s
  | .seqFlitReceive port flit => Sys2Proof.Machine.execSeqFlitReceive port flit s
  | .idleFlitReceive port flit => Sys2Proof.Machine.execIdleFlitReceive port flit s
  | .nakReceive port flit => Sys2Proof.Machine.execNakReceive port flit s
  | .laneSwapReceive port flit => Sys2Proof.Machine.execLaneSwapReceive port flit s
  | .flitCrcError port => Sys2Proof.Machine.execFlitCrcError port s
  | .nakRepeat port space => Sys2Proof.Machine.execNakRepeat port space s
  | .replayTimeout port space => Sys2Proof.Machine.execReplayTimeout port space s
  | .phyRecoveryDone port => Sys2Proof.Machine.execPhyRecoveryDone port s
  | .keepAlive port => Sys2Proof.Machine.execKeepAlive port s
  | .downTimeout port => Sys2Proof.Machine.execDownTimeout port s
  | .failBackHoldExpiry port => Sys2Proof.Machine.execFailBackHoldExpiry port s
  | .laneErrorInterval port counts => Sys2Proof.Machine.execLaneErrorInterval port counts s
  | .laneSwapRequestTimeout port => Sys2Proof.Machine.execLaneSwapRequestTimeout port s
  | .laneSwapQuietStart port => Sys2Proof.Machine.execLaneSwapQuietStart port s
  | .laneSwapQuietEnd port => Sys2Proof.Machine.execLaneSwapQuietEnd port s
  | .rdS m => Sys2Proof.Machine.execRdS m s
  | .rdX m => Sys2Proof.Machine.execRdX m s
  | .rdNa m => Sys2Proof.Machine.execRdNa m s
  | .upg m => Sys2Proof.Machine.execUpg m s
  | .wrFull m => Sys2Proof.Machine.execWrFull m s
  | .wrPart m => Sys2Proof.Machine.execWrPart m s
  | .wbM m => Sys2Proof.Machine.execWbM m s
  | .amo m => Sys2Proof.Machine.execAmo m s
  | .wltRd m => Sys2Proof.Machine.execWltRd m s
  | .wltWr m => Sys2Proof.Machine.execWltWr m s
  | .wltOpen m => Sys2Proof.Machine.execWltOpen m s
  | .wltCommit m bad => Sys2Proof.Machine.execWltCommit m bad s
  | .wltAbort m => Sys2Proof.Machine.execWltAbort m s
  | .orderingPointReached line => Sys2Proof.Machine.execOrderingPointReached line s
  | .rspI m => Sys2Proof.Machine.execRspI m s
  | .rspS m => Sys2Proof.Machine.execRspS m s
  | .rspFwdS m => Sys2Proof.Machine.execRspFwdS m s
  | .rspFwdI m => Sys2Proof.Machine.execRspFwdI m s
  | .rspWbPend m => Sys2Proof.Machine.execRspWbPend m s
  | .dataWb m => Sys2Proof.Machine.execDataWb m s
  | .snoopTimeout ep stag => Sys2Proof.Machine.execSnoopTimeout ep stag s
  | .orphanWalk ep => Sys2Proof.Machine.execOrphanWalk ep s
  | .orderingBoundExpiry line ep tag => Sys2Proof.Machine.execOrderingBoundExpiry line ep tag s
  | .tierBoundExpiry line => Sys2Proof.Machine.execTierBoundExpiry line s
  | .trackerHoldExpiry ep tag => Sys2Proof.Machine.execTrackerHoldExpiry ep tag s
  | .weltTimeout slot => Sys2Proof.Machine.execWeltTimeout slot s
  | .commitCollectionTimeout slot => Sys2Proof.Machine.execCommitCollectionTimeout slot s
  | .journalRecordDurable hall => Sys2Proof.Machine.execJournalRecordDurable hall s
  | .journalDurableTimeout slot => Sys2Proof.Machine.execJournalDurableTimeout slot s
  | .ageLimitCommit ok => Sys2Proof.Machine.execAgeLimitCommit ok s
  | .ageLimitRetry ok => Sys2Proof.Machine.execAgeLimitRetry ok s
  | .landingReadDone hall block bad => Sys2Proof.Machine.execLandingReadDone hall block bad s
  | .writebackDone hall block => Sys2Proof.Machine.execWritebackDone hall block s
  | .superblockWriteDone hall => Sys2Proof.Machine.execSuperblockWriteDone hall s
  | .maxDirtyExpiry hall block => Sys2Proof.Machine.execMaxDirtyExpiry hall block s
  | .decayPeriodExpiry hall => Sys2Proof.Machine.execDecayPeriodExpiry hall s
  | .tierPolicyPass => Sys2Proof.Machine.execTierPolicyPass s
  | .decayAdaptPass => Sys2Proof.Machine.execDecayAdaptPass s
  | .keepExpiry hall block => Sys2Proof.Machine.execKeepExpiry hall block s
  | .hintTimeout w => Sys2Proof.Machine.execHintTimeout w s
  | .orderDeadlinePassed index => Sys2Proof.Machine.execOrderDeadlinePassed index s
  | .orderHoldExpiry hall block => Sys2Proof.Machine.execOrderHoldExpiry hall block s
  | .nvmeIoTimeout port cmd => Sys2Proof.Machine.execNvmeIoTimeout port cmd s
  | .nvmeAdminTimeout port => Sys2Proof.Machine.execNvmeAdminTimeout port s
  | .nvmeAdminComplete port => Sys2Proof.Machine.execNvmeAdminComplete port s
  | .nvmeWriteError port cmd => Sys2Proof.Machine.execNvmeWriteError port cmd s
  | .nvmeAsyncEvent port e => Sys2Proof.Machine.execNvmeAsyncEvent port e s
  | .nvmeLogPoll port e => Sys2Proof.Machine.execNvmeLogPoll port e s
  | .nvmeControllerFatal port => Sys2Proof.Machine.execNvmeControllerFatal port s
  | .nvmeReadyTimeout port => Sys2Proof.Machine.execNvmeReadyTimeout port s
  | .driveRemoved port => Sys2Proof.Machine.execDriveRemoved port s
  | .reservationConflict port => Sys2Proof.Machine.execReservationConflict port s
  | .intentBitClear region => Sys2Proof.Machine.execIntentBitClear region s
  | .intentResyncStep => Sys2Proof.Machine.execIntentResyncStep s
  | .rebuildRow => Sys2Proof.Machine.execRebuildRow s
  | .descriptorFetch qid => Sys2Proof.Machine.execDescriptorFetch qid s
  | .lastStart qid => Sys2Proof.Machine.execLastStart qid s
  | .map qid => Sys2Proof.Machine.execMap qid s
  | .unmap qid => Sys2Proof.Machine.execUnmap qid s
  | .sync qid => Sys2Proof.Machine.execSync qid s
  | .resume qid => Sys2Proof.Machine.execResume qid s
  | .epochDrainDone ctx => Sys2Proof.Machine.execEpochDrainDone ctx s
  | .epochDrainTimeout ctx => Sys2Proof.Machine.execEpochDrainTimeout ctx s
  | .ringAccessDone qid idx => Sys2Proof.Machine.execRingAccessDone qid idx s
  | .lastStartTimeReached lid => Sys2Proof.Machine.execLastStartTimeReached lid s
  | .translationWalkDone lid pos => Sys2Proof.Machine.execTranslationWalkDone lid pos s
  | .faultTmoExpiry qid fseq => Sys2Proof.Machine.execFaultTmoExpiry qid fseq s
  | .engineRequestComplete lid idx => Sys2Proof.Machine.execEngineRequestComplete lid idx s
  | .tileOverrun lid pos ns => Sys2Proof.Machine.execTileOverrun lid pos ns s
  | .positionEnd lid pos ue => Sys2Proof.Machine.execPositionEnd lid pos ue s
  | .thirdRunEnd lid pos stream => Sys2Proof.Machine.execThirdRunEnd lid pos stream s
  | .benchClearDone core => Sys2Proof.Machine.execBenchClearDone core s
  | .sentinelReplay core entry differs => Sys2Proof.Machine.execSentinelReplay core entry differs s
  | .infieldScan r hits => Sys2Proof.Machine.execInfieldScan r hits s
  | .thermalThreshold sensor temp => Sys2Proof.Machine.execThermalThreshold sensor temp s
  | .gateResume gallery => Sys2Proof.Machine.execGateResume gallery s
  | .tripCooldownRestart => Sys2Proof.Machine.execTripCooldownRestart s
  | .flightTakeover res => Sys2Proof.Machine.execFlightTakeover res s
  | .treadBoundary res => Sys2Proof.Machine.execTreadBoundary res s
  | .arbitrationGrant res => Sys2Proof.Machine.execArbitrationGrant res s
  | .refreshDue ch bank => Sys2Proof.Machine.execRefreshDue ch bank s
  | .retrainPause ch rank => Sys2Proof.Machine.execRetrainPause ch rank s
  | .retrainDeferExpiry ch rank => Sys2Proof.Machine.execRetrainDeferExpiry ch rank s
  | .scrubStep ch => Sys2Proof.Machine.execScrubStep ch s
  | .spprRepair ch rank bg bank row device => Sys2Proof.Machine.execSpprRepair ch rank bg bank row device s
  | .writtenClearDone hall => Sys2Proof.Machine.execWrittenClearDone hall s
  | .revocationDrainDone hall => Sys2Proof.Machine.execRevocationDrainDone hall s
  | .revocationDrainTimeout hall => Sys2Proof.Machine.execRevocationDrainTimeout hall s
  | .keyCopyAck slot => Sys2Proof.Machine.execKeyCopyAck slot s
  | .sweepStep tenant => Sys2Proof.Machine.execSweepStep tenant s
  | .sweepEnd tenant => Sys2Proof.Machine.execSweepEnd tenant s
  | .keyTrafficDrained tenant => Sys2Proof.Machine.execKeyTrafficDrained tenant s
  | .tenantDrainTimeout tenant => Sys2Proof.Machine.execTenantDrainTimeout tenant s
  | .pfailNAssert => Sys2Proof.Machine.execPfailNAssert s
  | .pfailNRelease => Sys2Proof.Machine.execPfailNRelease s
  | .inputUndervoltage dv => Sys2Proof.Machine.execInputUndervoltage dv s
  | .inputOvervoltage dv => Sys2Proof.Machine.execInputOvervoltage dv s
  | .bus12vFault => Sys2Proof.Machine.execBus12vFault s
  | .powerLossRailsDown => Sys2Proof.Machine.execPowerLossRailsDown s
  | .powerLossRestart => Sys2Proof.Machine.execPowerLossRestart s
  | .overvoltageRestart => Sys2Proof.Machine.execOvervoltageRestart s
  | .inputLow dv => Sys2Proof.Machine.execInputLow dv s
  | .prechargeEnd => Sys2Proof.Machine.execPrechargeEnd s
  | .railInRegulation step => Sys2Proof.Machine.execRailInRegulation step s
  | .railTimeout => Sys2Proof.Machine.execRailTimeout s
  | .railRetry => Sys2Proof.Machine.execRailRetry s
  | .resetNAssert => Sys2Proof.Machine.execResetNAssert s
  | .resetNRelease => Sys2Proof.Machine.execResetNRelease s
  | .prsntNChange asserted => Sys2Proof.Machine.execPrsntNChange asserted s
  | .resetDelayExpiry => Sys2Proof.Machine.execResetDelayExpiry s
  | .quiesceTimeout => Sys2Proof.Machine.execQuiesceTimeout s
  | .readyReached => Sys2Proof.Machine.execReadyReached s
  | .startBoundFail => Sys2Proof.Machine.execStartBoundFail s
  | .poolTimeCheck => Sys2Proof.Machine.execPoolTimeCheck s
  | .rootPllUnlock => Sys2Proof.Machine.execRootPllUnlock s
  | .renewTimer => Sys2Proof.Machine.execRenewTimer s
  | .renew m => Sys2Proof.Machine.execRenew m s
  | .ack m => Sys2Proof.Machine.execAck m s
  | .release m => Sys2Proof.Machine.execRelease m s
  | .timeSyncTimer => Sys2Proof.Machine.execTimeSyncTimer s
  | .timeReq m => Sys2Proof.Machine.execTimeReq m s
  | .timeRsp m => Sys2Proof.Machine.execTimeRsp m s
  | .offsetSlewTick => Sys2Proof.Machine.execOffsetSlewTick s
  | .alignedLossTimeout => Sys2Proof.Machine.execAlignedLossTimeout s
  | .wireFrame bits => Sys2Proof.Machine.execWireFrame bits s
  | .wireIdleTimeout => Sys2Proof.Machine.execWireIdleTimeout s
  | .wireChatter => Sys2Proof.Machine.execWireChatter s
  | .wireChatterClear => Sys2Proof.Machine.execWireChatterClear s
  | .leaseActiveExpiry => Sys2Proof.Machine.execLeaseActiveExpiry s
  | .leaseStandbyExpiry answers => Sys2Proof.Machine.execLeaseStandbyExpiry answers s
  | .preemptDeadline => Sys2Proof.Machine.execPreemptDeadline s
  | .selfResumeCheck holders => Sys2Proof.Machine.execSelfResumeCheck holders s
  | .mirrorAck mseq => Sys2Proof.Machine.execMirrorAck mseq s
  | .mirrorAckTimeout => Sys2Proof.Machine.execMirrorAckTimeout s
  | .resyncStart => Sys2Proof.Machine.execResyncStart s
  | .resyncStep => Sys2Proof.Machine.execResyncStep s
  | .recoveryWindowEnd => Sys2Proof.Machine.execRecoveryWindowEnd s
  | .poisonedHallClearStep hall => Sys2Proof.Machine.execPoisonedHallClearStep hall s
  | .swapAtReached => Sys2Proof.Machine.execSwapAtReached s
  | .fatalFault arr src addr => Sys2Proof.Machine.execFatalFault arr src addr s
  | .fatalReset => Sys2Proof.Machine.execFatalReset s
  | .runClose event source hall => Sys2Proof.Machine.execRunClose event source hall s
  | .segmentCopy => Sys2Proof.Machine.execSegmentCopy s
  | .managementCoresStop => Sys2Proof.Machine.execManagementCoresStop s
  | .railOutOfRegulation step => Sys2Proof.Machine.execRailOutOfRegulation step s
  | .testPortUse => Sys2Proof.Machine.execTestPortUse s
  | .nvmeControllerReady port => Sys2Proof.Machine.execNvmeControllerReady port s
  | .nvmeIoComplete port cmd => Sys2Proof.Machine.execNvmeIoComplete port cmd s
  | .partnerReadyReport ready feature storeMax => Sys2Proof.Machine.execPartnerReadyReport ready feature storeMax s
  | .roleDecisionTimeout => Sys2Proof.Machine.execRoleDecisionTimeout s
  | .smbalertHoldoffExpiry => Sys2Proof.Machine.execSmbalertHoldoffExpiry s

end Sys2Proof.Machine
end

