-- ==== Sys2Proof/Safety.lean ====
section
/-! DEFINITION. What counts as a safe run, and the words the statements use: a command due in its window, its opcode, the parts
of the state that no command of the block changes. -/

namespace Sys2Proof.Safety

open Sys2Proof.Machine

/-- The block goes on from a state: its step answers a next state. -/
def Runs (s : State) : Prop := ∃ t, step s = .next t

/-- The command with opcode `op` is due in window `w`, which reads `x`: it executes, has not begun, Felti runs, and no command
accepted before it holds one of its objects (R489, R492, R493). -/
abbrev Due (s : State) (w op : Nat) (x : Win) : Prop :=
  dueCmd s w op = some x ∧ objHeld s w ((x.cmd.map fun c => c.order).getD 0) (cmdObjs x op) = false

/-- A retained change takes effect at once: no standby mirrors, and the boot flash takes the commit (R494). -/
abbrev Local (s : State) : Prop := mirrorLive s = false ∧ s.store.writable = true

/-- The window and the opcode of a management command (R508 to R523). -/
def opcodeOf : Instr → Option (Nat × Nat)
  | .identityGet w => some (w, 0x0100) | .attestGet w => some (w, 0x0101) | .trustSet w => some (w, 0x0102)
  | .bmcKeySet w => some (w, 0x0103) | .timeGet w => some (w, 0x0104)
  | .hallCreate w => some (w, 0x0200) | .hallDestroy w => some (w, 0x0201) | .hallTrim w => some (w, 0x0202)
  | .hallQuery w => some (w, 0x0203) | .hallSet w => some (w, 0x0204) | .hallAclSet w => some (w, 0x0205)
  | .hallAclRemove w => some (w, 0x0206) | .hallAclQuery w => some (w, 0x0207)
  | .topoSet w => some (w, 0x0300) | .routeSet w => some (w, 0x0301) | .portQuery w => some (w, 0x0302)
  | .portSet w => some (w, 0x0303)
  | .tenantCreate w => some (w, 0x0400) | .tenantQuery w => some (w, 0x0401) | .tenantKeyRotate w => some (w, 0x0402)
  | .tenantKeyLoad w => some (w, 0x0403) | .tenantKeyRetire w => some (w, 0x0404) | .tenantRemove w => some (w, 0x0405)
  | .ctxCreate w => some (w, 0x0500) | .ctxDestroy w => some (w, 0x0501) | .ctxQuery w => some (w, 0x0502)
  | .ctxSet w => some (w, 0x0503) | .ctxBindHall w => some (w, 0x0504) | .ctxUnbindHall w => some (w, 0x0505)
  | .queueCreate w => some (w, 0x0506) | .queueDestroy w => some (w, 0x0507) | .queueQuery w => some (w, 0x0508)
  | .queueSet w => some (w, 0x0509) | .rxwinSet w => some (w, 0x050A)
  | .lastLoad w => some (w, 0x0600) | .lastUnload w => some (w, 0x0601) | .lastStop w => some (w, 0x0602)
  | .lastQuery w => some (w, 0x0603)
  | .flightLoad w => some (w, 0x0700) | .flightCancel w => some (w, 0x0701) | .flightQuery w => some (w, 0x0702)
  | .flightRead w => some (w, 0x0703) | .shaperSet w => some (w, 0x0704) | .shaperQuery w => some (w, 0x0705)
  | .tierHallQuery w => some (w, 0x0800) | .tierHallSet w => some (w, 0x0801) | .tierHint w => some (w, 0x0802)
  | .tierQuery w => some (w, 0x0803) | .tierDriveAdopt w => some (w, 0x0804)
  | .dramQuery w => some (w, 0x0900) | .dramSet w => some (w, 0x0901) | .dramDiagWrite w => some (w, 0x0902)
  | .dramDiagRead w => some (w, 0x0903) | .fenceQuery w => some (w, 0x0904) | .fenceClear w => some (w, 0x0905)
  | .scanRun w _ => some (w, 0x0906)
  | .recTriggerSet w => some (w, 0x0A00) | .recQuery w => some (w, 0x0A01) | .recRead w _ => some (w, 0x0A02)
  | .dumpQuery w => some (w, 0x0A03) | .dumpRead w => some (w, 0x0A04) | .dumpClear w => some (w, 0x0A05)
  | .pairSet w => some (w, 0x0B00) | .pairQuery w => some (w, 0x0B01) | .pairSwap w => some (w, 0x0B02)
  | .leaseQuery w => some (w, 0x0B03) | .peerSync w _ => some (w, 0x0B04)
  | .fwQuery w => some (w, 0x0C00) | .fwWrite w => some (w, 0x0C01) | .fwActivate w => some (w, 0x0C02)
  | .fwSvnCommit w => some (w, 0x0C03)
  | .storeQuery w => some (w, 0x0D00) | .storeBare w => some (w, 0x0D01) | .resetCmd w => some (w, 0x0D02)
  | .consoleUnlock w => some (w, 0x0D03)
  | _ => none

/-- A state without what an event or a message may touch: the recorder, the windows, the SMBus alert line, the ports, the SPDM
connections (which number what is sent on them), the sequencers' queues, what was sent and the free counter. -/
def quiet (s : State) : State :=
  { s with
    evr := {}, win := [], ports := [], flt := [], out := [], free := 0, spdm := { s.spdm with conns := [] }
    pwr := { s.pwr with smbAlertLow := false, smbReleasedAt := none, smbLineSince := 0 } }

end Sys2Proof.Safety
end

