-- ==== Sys2Proof/Certificates/Slice0/Obligations.lean ====
section
/-! DEFINITION. The statements about the block, each with the rules it formalises. -/

open Sys2Proof Sys2Proof.Machine Sys2Proof.Safety

/-- For every command c and every state s whose queue is c and then rest, step answers exactly what exec answers for c on
s with the queue rest. -/
def Obligations.FrontCommandRuns : Prop :=
  ∀ (c : Instr) (rest : List Instr) (s : State), s.pending = c :: rest → step s = exec c { s with pending := rest }

/-- On an empty queue step answers a next state in which each copy of the pool time has gone on by one tick of TCLK, the
core copy and the fabric copies too, unless the count is held, in which case only the held ticks fall by one; every
other part of the state is as before. That a step without a command is one tick is the choice of the model (log 4). -/
def Obligations.EmptyQueueTicks : Prop :=
  ∀ s : State, s.pending = [] → step s = .next (tick s) ∧
    (s.clk.hold = 0 → tick s = { s with clk := { s.clk with
      master := s.clk.master + 1, core := s.clk.core + 1, fab0 := s.clk.fab0 + 1, fab1 := s.clk.fab1 + 1 } }) ∧
    (0 < s.clk.hold → tick s = { s with clk := { s.clk with hold := s.clk.hold - 1 } })

/-- For every management command of the catalogue, named by its window and opcode: where no command with that opcode
executes in the window, not yet begun, while Felti runs, exec answers the state unchanged. LAST_LOAD is run again
while its image is read, so for it the window must hold no load either. That such a row leaves the state as it is, is
the choice of the model (log 5). -/
def Obligations.UndueCommandChangesNothing : Prop :=
  ∀ (c : Instr) (s : State) (w op : Nat), opcodeOf c = some (w, op) → dueCmd s w op = none →
    (op = 0x0600 → s.eng.loads.get? w = none) → exec c s = .next s

/-- While Felti runs, for a window that is open and whose memory is canonical, completing its command with a status, a
DETAIL and result bytes leaves a window with BUSY clear and no command in which the header reads that STATUS, the
number of result bytes (none unless the status is ST_OK), DETAIL and the time, and the data buffer reads the result
bytes; every register field is as before. MBX_DONE with the status and the length goes to its owner when NOTIFY is set
and a path is up. Nothing else of the state changes, but what sending that message changes. -/
def Obligations.CompletionWritesHeader : Prop :=
  ∀ (s : State) (n st d : Nat) (res : List Byte) (w : Win), s.win.get? n = some w → s.pwr.feltiOn = true → w.cls ≠ .closed → Memory.wf w.mem →
    st < 256 → d < 2 ^ 32 → s.now < 2 ^ 64 → res.length ≤ 0x40000 →
    let r := if st = stOk then res else []
    ∃ m, rdNat m 0x43 1 = st ∧ rdNat m 0x4C 4 = r.length ∧ rdNat m 0x58 8 = s.now ∧ rdNat m 0x60 4 = d ∧
      rdBytes m 0x1000 r.length = r ∧ Memory.wf m ∧
      (∀ a, ¬(a = 0x43 ∨ (0x4C ≤ a ∧ a < 0x50) ∨ (0x58 ≤ a ∧ a < 0x64) ∨ (0x1000 ≤ a ∧ a < 0x1000 + r.length)) →
        NMap.getD m a 0 = NMap.getD w.mem a 0) ∧
      let t : State := { s with win := s.win.set n { w with mem := m, busy := false, cmd := none } }
      finishCmd s n st d res =
        if w.notify && winPathUp s n w then winSay t n w (.mbxDone n (winOwner w) w.lastCseq st r.length) else t

/-- While Felti runs and RING reads 1: a ring whose CSEQ repeats LAST_CSEQ only clears RING; one that finds BUSY set, or
whose CSEQ is not LAST_CSEQ + 1 modulo 2^32, only clears RING and sets OVERRUN; the others are accepted. -/
def Obligations.RingsFollowTheSequenceNumber : Prop :=
  ∀ (s : State) (n : Nat) (x : Win), s.win.get? n = some x → x.ring = true → s.pwr.feltiOn = true →
    (hdr x 4 4 = x.lastCseq → exec (.ringTake n) s = .next { s with win := s.win.set n { x with ring := false } }) ∧
    (hdr x 4 4 ≠ x.lastCseq → (x.busy = true ∨ hdr x 4 4 ≠ (x.lastCseq + 1) % 2 ^ 32) →
      exec (.ringTake n) s = .next { s with win := s.win.set n { x with ring := false, overrun := true } }) ∧
    (hdr x 4 4 ≠ x.lastCseq → x.busy = false → hdr x 4 4 = (x.lastCseq + 1) % 2 ^ 32 →
      exec (.ringTake n) s = .next (acceptRing s n x))

/-- A ring accepted in a window other than 0 and 1 (whose LAST_CSEQ is retained too): RING reads 0, BUSY is set, LAST_CSEQ
is the CSEQ of the header, ACCEPT_TIME reads the time, and the window holds the command with its opcode, next in order
of acceptance, executing when fewer than 64 execute and none accepted before waits, holding the objects it names
unless it is a query. When a general check fails, the command is completed with that check's status and DETAIL;
nothing else of the state changes but the acceptance count. -/
def Obligations.AcceptedRingIsCheckedOrRuns : Prop :=
  ∀ (s : State) (n : Nat) (x : Win), s.win.get? n = some x → x.ring = true → s.pwr.feltiOn = true → 2 ≤ n → x.busy = false →
    hdr x 4 4 = (x.lastCseq + 1) % 2 ^ 32 → x.lastCseq < 2 ^ 32 →
    let op := hdr x 0 2
    let c : Cmd := { op := op, order := s.cmdSeq, accept := s.now, executing := decide (executing s < 64) && !commandWaits s
                     objs := if (cmdInfo op).any fun i => i.query then [] else cmdObjs x op }
    let y : Win := { x with ring := false, busy := true, lastCseq := hdr x 4 4, cmd := some c
                            mem := wrBytes x.mem 0x50 (leBytes 8 s.now) }
    let t : State := { s with cmdSeq := s.cmdSeq + 1, win := s.win.set n y }
    exec (.ringTake n) s = .next (match generalCheck s n x with
      | some (st, d) => finishCmd t n st d []
      | none => t)

/-- A write of 1 to RING sets RING. A byte written to ALERT_STATUS clears those bits, then SMBALERT_N follows. On windows
2 and up, byte 6 of the block sets NOTIFY and ALERT_EN and clears OVERRUN where it writes 1, byte 25 sets ALERT_MASK
(in a HOST window bits 4 and 5 only), and bytes that hold read-only or reserved fields change nothing. A dispatched
command executes. At its bound a command not begun ends ST_BUSY, one begun that is no revocation ends ST_TIMEOUT and
its later events complete nothing. A millisecond after an ALERT with nothing coalesced its interval ends, else the
count goes to the owner in a new ALERT. FELTI_TICK counts modulo 2^32 while Felti runs. Nothing else changes. -/
def Obligations.WindowRowsComplete : Prop :=
  (∀ (s : State) (n : Nat) (x : Win), s.win.get? n = some x →
    exec (.ringWrite n) s = .next { s with win := s.win.set n { x with ring := true } } ∧
    (∀ b : BitVec 8, exec (.alertStatusClear n b) s =
      .next (smbUpdate { s with win := s.win.set n { x with alertStatus := x.alertStatus &&& ~~~b } })) ∧
    (2 ≤ n → ∀ v : Byte,
      exec (.windowRegisterWrite n 6 v) s = .next { s with win := s.win.set n { x with notify := v.getLsbD 1, alertEn := v.getLsbD 2, overrun := x.overrun && !v.getLsbD 3 } } ∧
      exec (.windowRegisterWrite n 25 v) s = .next (smbUpdate { s with win := s.win.set n { x with alertMask := if x.cls = .host then (x.alertMask &&& 0xCF) ||| (v &&& 0x30) else v } }) ∧
      ∀ off, off ≠ 6 → off ≠ 24 → off ≠ 25 → off ≠ 32 → exec (.windowRegisterWrite n off v) s = .next s) ∧
    (∀ c : Cmd, x.cmd = some c → s.pwr.feltiOn = true →
      (c.executing = false → executing s < 64 →
        (s.win.any fun e => e.2.cmd.any fun d => !d.executing && decide (d.order < c.order)) = false →
        exec (.commandDispatch n) s = .next { s with win := s.win.set n { x with cmd := some { c with executing := true } } }) ∧
      (∀ i, cmdInfo c.op = some i → c.op ≠ 0x0B02 → c.accept + i.bound ≤ s.now →
        (c.begun = false → exec (.commandBoundExpiry n) s = .next (finishCmd s n stBusy 0 [])) ∧
        (c.begun = true → drainBound c.op = false →
          exec (.commandBoundExpiry n) s = .next (finishCmd (dropWindow s n) n stTimeout 0 [])))) ∧
    (∀ (cls : Nat) (g : AlertGap), (x.gaps.find? fun g => g.cls = cls) = some g → ms 1 + g.since ≤ s.now →
      let rest := x.gaps.filter fun y => y.cls ≠ cls
      (g.count = 0 → exec (.alertHoldoffExpiry n cls) s = .next { s with win := s.win.set n { x with gaps := rest } }) ∧
      (g.count ≠ 0 → x.alertEn = true → winPathUp s n x = true → exec (.alertHoldoffExpiry n cls) s =
        .next (winSay { s with win := s.win.set n { x with gaps := rest ++ [{ cls := cls, since := s.now }] } } n x
          (.alert n (winOwner x) cls g.time g.count g.event g.cursor))))) ∧
  (∀ s : State, s.pwr.feltiOn = true →
    exec .feltiTick s = .next { s with clk := { s.clk with feltiTick := (s.clk.feltiTick + 1) % 2 ^ 32 } })

/-- A mailbox message on a port that carries no MGT messages does nothing; a reserved form only counts in MSG_BAD of its
port; one of a dead endpoint does nothing. Else the port is learned, and an endpoint without a HOST window that some
access list names gets the lowest free window from 67 on, which MBX_OPENED names with ST_OK; one that holds a window
is told that one; one that no list names gets ST_DENIED. By the window's own path and from its OWNER, a write of 1 to
40 bytes writes them in rising order, a read of 1 to 1,024 bytes is answered with ceil(LEN / 40) pieces of the bytes
as the window reads, and a close by the endpoint closes it. By another path or from another source nothing but the
learning happens. EP_STATE up of a fabric port records the revision of the endpoint, recomputes the feature levels
when it changed, takes it from the dead list once its lines are walked (R157), and announces the home epoch to a
listed endpoint; down declares it dead; its reserved forms count in MSG_BAD. -/
def Obligations.EndpointMailboxRowsComplete : Prop :=
  (∀ (s : State) (m : MgtMsg), heard s m.port true = true → mbxOpenBad m.bytes = false → isDead s (mbxSrc m.bytes) = false →
    let ep := mbxSrc m.bytes
    let u := learn s ep m.port
    ((u.win.find? fun e => e.2.cls = .host ∧ e.2.owner = ep) = none →
      (listedIn u none ep = true → ∀ n, u.win.freeKey 67 957 = some n →
        exec (.mbxOpen m) s = .next (sendMgt { u with win := u.win.set n { cls := .host, owner := ep } } ep
          fun q => .mbxOpened q ep n stOk)) ∧
      (listedIn u none ep = false → exec (.mbxOpen m) s = .next (sendMgt u ep fun q => .mbxOpened q ep 0 stDenied))) ∧
    (∀ e, (u.win.find? fun e => e.2.cls = .host ∧ e.2.owner = ep) = some e →
      exec (.mbxOpen m) s = .next (sendMgt u ep fun q => .mbxOpened q ep e.1 stOk))) ∧
  (∀ (s : State) (path : Path) (b : List Byte), (pathPort s path).all (fun p => heard s p true) = true →
    (pathEp s path (mbxSrc b)).any (isDead s) = false →
    let w := mbxWin b
    let u := learnPath s path (mbxSrc b)
    (∀ x, pathOk u path w (mbxSrc b) = true → u.win.get? w = some x →
      (mbxWriteBad b = false →
        exec (.mbxWrite path b) s = .next (winWrites u w (subNat b 6 4) (sub b 15 (subNat b 10 1)))) ∧
      (mbxReadBad b = false →
        exec (.mbxRead path b) s = .next ((List.range ((subNat b 10 2 + 39) / 40)).foldl (fun t i =>
          winSay t w x (.mbxData w (winOwner x) (subNat b 6 4 + 40 * i)
            (winBytes t w x (subNat b 6 4 + 40 * i) (min 40 (subNat b 10 2 - 40 * i))) stOk (subNat b 12 2))) u)) ∧
      (∀ p, path = .port p → mbxCloseBad b = false → x.cmd = none →
        exec (.mbxClose path b) s = .next { u with win := u.win.erase w })) ∧
    (pathOk u path w (mbxSrc b) = false →
      (mbxWriteBad b = false → exec (.mbxWrite path b) s = .next u) ∧ (mbxReadBad b = false → exec (.mbxRead path b) s = .next u) ∧
      (mbxCloseBad b = false → exec (.mbxClose path b) s = .next u))) ∧
  (∀ (s : State) (p : Nat) (b : List Byte), let m : MgtMsg := ⟨p, b⟩
    (heard s p true = false → exec (.mbxOpen m) s = .next s ∧ exec (.mbxWrite (.port p) b) s = .next s ∧
      exec (.mbxRead (.port p) b) s = .next s ∧ exec (.mbxClose (.port p) b) s = .next s ∧ exec (.epState m) s = .next s) ∧
    (heard s p true = true → (mbxOpenBad b = true → exec (.mbxOpen m) s = .next (countBad s p)) ∧
      (mbxWriteBad b = true → exec (.mbxWrite (.port p) b) s = .next (countBad s p)) ∧
      (mbxReadBad b = true → exec (.mbxRead (.port p) b) s = .next (countBad s p)) ∧
      (mbxCloseBad b = true → exec (.mbxClose (.port p) b) s = .next (countBad s p)) ∧
      (8 ≤ p ∨ epStateBad b = true → exec (.epState m) s = .next (countBad s p)) ∧
      (isDead s (mbxSrc b) = true → (mbxOpenBad b = false → exec (.mbxOpen m) s = .next s) ∧
        (mbxWriteBad b = false → exec (.mbxWrite (.port p) b) s = .next s) ∧
        (mbxReadBad b = false → exec (.mbxRead (.port p) b) s = .next s) ∧
        (mbxCloseBad b = false → exec (.mbxClose (.port p) b) s = .next s)))) ∧
  (∀ (s : State) (m : MgtMsg), heard s m.port true = true → m.port < 8 → epStateBad m.bytes = false →
    let ep := subNat m.bytes 1 3
    let rev := subNat m.bytes 5 1
    let u : State := { s with eps := s.eps.set ep { epInfo s ep with rev := rev } }
    let v := if (epInfo s ep).rev = rev then u else recomputeLevels u
    let w : State := if (epInfo s ep).dead then
      { v with eps := v.eps.modify ep fun i => { i with upAgain := true, dead := i.walking } } else v
    (subNat m.bytes 4 1 = 1 → exec (.epState m) s = .next (if listedIn w none ep then sendEpoch w ep else w)) ∧
    (subNat m.bytes 4 1 = 0 → exec (.epState m) s = .next (endpointDead v ep 0 0 0)))

/-- Where a decrease of an access-list entry's budget has been noticed and is not yet in force: an acknowledgement of its
endpoint, not dead and not a reserved form, on a port that carries MGT messages, with the NSEQ of the latest notice
brings it into force (and teaches the port), one with another NSEQ only teaches the port; so does the passing of a
millisecond since the notice bring it into force. The entry's other fields and every other entry are as before. -/
def Obligations.BudgetsComeIntoForce : Prop :=
  (∀ (s : State) (m : MgtMsg) (a : AclEntry) (t : Nat), heard s m.port true = true → budgetAckBad m.bytes = false →
    let ep := subNat m.bytes 1 3
    let h := subNat m.bytes 4 2
    let u := learn s ep m.port
    isDead s ep = false → aclOf u h ep = some a → a.notice = some t →
    let v : AclEntry := { a with inForce := a.budget, notice := none }
    (subNat m.bytes 8 2 = a.nseq → exec (.budgetAck m) s = .next { u with acl := u.acl.set (aclKey h ep) v }) ∧
    (subNat m.bytes 8 2 ≠ a.nseq → exec (.budgetAck m) s = .next u)) ∧
  (∀ (s : State) (h ep : Nat) (a : AclEntry) (t : Nat), aclOf s h ep = some a → a.notice = some t → ms 1 + t ≤ s.now →
    let v : AclEntry := { a with inForce := a.budget, notice := none }
    exec (.budgetDecreaseTimeout ep h) s = .next { s with acl := s.acl.set (aclKey h ep) v })

/-- With a right PEC up to 28 bytes are written to window 0 in rising order and the read pointer is set; a PEC error
changes nothing. A block read gives up to 32 bytes from the pointer, as window 0 reads, and moves the pointer past
them; the alert response is the SH940's address 0x4C; a clock timeout leaves every register. A line held low for a
second while not driven, or high for 10 ms while driven, records SMBALERT_STUCK, once in an hour. Ten milliseconds
after its release the line may be driven again. A console unlock ends at its time. Nothing else changes. -/
def Obligations.SmbusRowsComplete : Prop :=
  (∀ (s : State) (off : Nat) (data : List Byte), data.length ≤ 28 →
    exec (.smbusBlockWrite off data true) s = .next (winWrites s 0 off data) ∧
    exec (.smbusBlockWrite off data false) s = .next s ∧
    exec (.smbusSetReadPointer off true) s = .next { s with pwr := { s.pwr with smbPtr := off } } ∧
    exec (.smbusSetReadPointer off false) s = .next s) ∧
  (∀ (s : State) (n : Nat) (w : Win), s.win.get? 0 = some w → n ≤ 32 → exec (.smbusBlockRead n) s = .next { s with
    pwr := { s.pwr with smbPtr := (s.pwr.smbPtr + n) % 2 ^ 32 }
    out := s.out ++ [.smbus ((List.range n).map fun i => winByte s 0 w (s.pwr.smbPtr + i))] }) ∧
  (∀ s : State, exec .smbusAlertResponse s = .next { s with out := s.out ++ [.smbus [0x4C]] } ∧
    exec .smbusClockTimeout s = .next s) ∧
  (∀ (s : State) (low : Bool), low = !s.pwr.smbAlertLow →
    (if low then sec 1 else ms 10) + s.pwr.smbLineSince ≤ s.now → s.pwr.smbStuckAt = none →
    exec (.smbalertStuckCheck low) s = .next (event { s with pwr := { s.pwr with smbStuckAt := some s.now } }
      .smbalertStuck (srcInput 3) none none 0 [(0, 1, b2n s.pwr.smbAlertLow)])) ∧
  (∀ (s : State) (t : Nat), s.pwr.smbReleasedAt = some t → ms 10 + t ≤ s.now →
    exec .smbalertHoldoffExpiry s = .next (smbUpdate { s with pwr := { s.pwr with smbReleasedAt := none } })) ∧
  (∀ (s : State) (t : Nat), s.pwr.consoleUntil = some t → t ≤ s.now →
    exec .consoleUnlockExpiry s = .next { s with pwr := { s.pwr with consoleUntil := none } })

/-- When due: IDENTITY_GET answers the grade, revision, versions, the running image's version and SVN, and the two
certificates; ATTEST_GET answers the report with the caller's nonce, over its own tenant for a TENANT session and over
all halls otherwise; TIME_GET answers the pool time and whether it is aligned; these change nothing else. TRUST_SET,
where no check of R451 and R508 fails and no standby mirrors, installs or removes the anchor it names and commits the
change; BMC_KEY_SET by the BMC on window 0, while no key exists, installs the key when its check value fits and ends
ST_BAD_ARG naming it otherwise. -/
def Obligations.IdentityCommandsComplete : Prop :=
  (∀ (s : State) (w : Nat) (x : Win), Due s w 0x0100 x → ∃ res, exec (.identityGet w) s = .next (finishCmd s w stOk 0 res) ∧
    res.take 4 = leBytes 1 (b2n s.hw.gradeD1) ++ [0xB1, 3, 2] ∧ subNat res 4 4 = (runningSlot s).ver % 2 ^ 32 ∧
    subNat res 8 4 = (runningSlot s).svn % 2 ^ 32) ∧
  (∀ (s : State) (w : Nat) (x : Win), Due s w 0x0101 x → exec (.attestGet w) s = .next (finishCmd s w stOk 0
    (attestReport s (x.bytes 0 32) (if x.cls = .tenant then some x.owner else none)))) ∧
  (∀ (s : State) (w : Nat) (x : Win), Due s w 0x0104 x →
    exec (.timeGet w) s = .next (finishCmd s w stOk 0 (leBytes 8 s.now ++ leBytes 1 (b2n s.pair.aligned)))) ∧
  (∀ (s : State) (w : Nat) (x : Win), Due s w 0x0102 x → Local s → trustCheck s x = none →
    let cert := x.bytes 8 (x.arg 4 4)
    let upd := fun (m : NMap (List Byte)) => if x.arg 2 1 = 1 then m.erase (x.arg 1 1) else m.set (x.arg 1 1) cert
    let new : State := if x.arg 0 1 = 0 then { s with trust := { s.trust with op := upd s.trust.op } }
      else { s with trust := { s.trust with link := upd s.trust.link } }
    exec (.trustSet w) s = .next (finishCmd (commit new).1 w stOk 0 [])) ∧
  (∀ (s : State) (x : Win), Due s 0 0x0103 x → Local s → x.cls = .bmc → x.session = none → s.trust.bmcKey = none →
    x.arg 68 36 = 0 → let k := leNat (x.bytes 12 32)
    exec (.bmcKeySet 0) s = .next (if leNat (x.bytes 44 8) = Config.kcv k
      then finishCmd (commit { s with trust := { s.trust with bmcKey := some k } }).1 0 stOk 0 []
      else finishCmd s 0 stBadArg 12 []))

/-- When due, with no standby mirroring and a boot flash that takes the commit: TOPO_SET with zero padding, a range within
the table, at most 131,072 entry bytes and leaves below 1,024 sets the leaves, or the distances, of the entries from
FIRST on, and commits; ROUTE_SET within the 2^18 endpoints and with ports 0 to 7 or 0xFF sets the route ports, commits
and recomputes the feature levels; PORT_QUERY of a port that exists answers its record and changes nothing; PORT_SET
with fields in their ranges sets the retained fields and commits, brings a port up that waits in KEYING and may now
come up, declares the link down where ACTION says so, and answers the record. A bad argument ends each of them with
ST_BAD_ARG at its offset, and a boot flash that takes no commit ends the three setting ones with ST_FAULT, without
effect. -/
def Obligations.TopologyCommandsComplete : Prop :=
  (∀ (s : State) (w : Nat) (x : Win), Due s w 0x0300 x → mirrorLive s = false → x.arg 1 3 = 0 → x.arg 12 4 = 0 →
    let idx := List.range (x.arg 8 4)
    let set := fun t : State => if s.store.writable then finishCmd (commit t).1 w stOk 0 [] else finishCmd s w stFault 0 []
    (x.arg 0 1 = 0 → x.arg 4 4 + x.arg 8 4 ≤ 2 ^ 18 → 2 * x.arg 8 4 ≤ 131072 →
      (∀ i, i < x.arg 8 4 → x.arg (16 + 2 * i) 2 < 1024) →
      exec (.topoSet w) s = .next (set { s with
        leaf := idx.foldl (fun m i => setLeaf m (x.arg 4 4 + i) (x.arg (16 + 2 * i) 2)) s.leaf })) ∧
    (x.arg 0 1 = 1 → x.arg 4 4 + x.arg 8 4 ≤ 2 ^ 20 → (x.arg 8 4 + 1) / 2 ≤ 131072 →
      exec (.topoSet w) s = .next (set { s with
        dist := idx.foldl (fun m i => setDist m (x.arg 4 4 + i) (nibble x i)) s.dist })) ∧
    (2 ≤ x.arg 0 1 → exec (.topoSet w) s = .next (finishCmd s w stBadArg 0 []))) ∧
  (∀ (s : State) (w : Nat) (x : Win), Due s w 0x0300 x → ∀ st d, topoCheck x = some (st, d) → st ≠ stOk →
    exec (.topoSet w) s = .next (finishCmd s w st d [])) ∧
  (∀ (s : State) (w : Nat) (x : Win), Due s w 0x0301 x →
    (mirrorLive s = false → x.arg 0 4 + x.arg 4 4 ≤ 2 ^ 18 →
      (∀ i, i < x.arg 4 4 → x.arg (8 + i) 1 < 8 ∨ x.arg (8 + i) 1 = 0xFF) →
      exec (.routeSet w) s = .next (if s.store.writable then finishCmd (recomputeLevels (commit { s with
        route := (List.range (x.arg 4 4)).foldl (fun m i => NMap.put m (x.arg 0 4 + i) (x.arg (8 + i) 1) 0xFF) s.route }).1)
        w stOk 0 [] else finishCmd s w stFault 0 [])) ∧
    (2 ^ 18 < x.arg 0 4 + x.arg 4 4 → exec (.routeSet w) s = .next (finishCmd s w stBadArg 0 [])) ∧
    (x.arg 0 4 + x.arg 4 4 ≤ 2 ^ 18 → ∀ i, i < x.arg 4 4 → 8 ≤ x.arg (8 + i) 1 → x.arg (8 + i) 1 ≠ 0xFF →
      (∀ j, j < i → x.arg (8 + j) 1 < 8 ∨ x.arg (8 + j) 1 = 0xFF) →
      exec (.routeSet w) s = .next (finishCmd s w stBadArg (8 + i) []))) ∧
  (∀ (s : State) (w : Nat) (x : Win), Due s w 0x0302 x → exec (.portQuery w) s =
    .next (if x.arg 0 1 ≤ 9 then finishCmd s w stOk 0 (recordOf s (x.arg 0 1)) else finishCmd s w stBadArg 0 [])) ∧
  (∀ (s : State) (w : Nat) (x : Win) (q : Port), Due s w 0x0303 x → mirrorLive s = false → let p := x.arg 0 1
    p ≤ 9 → s.ports.get? p = some q → (x.arg 1 1 = 0 ∨ (x.arg 1 1 = 1 ∧ p < 8)) → x.arg 2 1 ≤ 1 → x.arg 3 5 = 0 →
    16 ≤ x.arg 12 2 → x.arg 12 2 ≤ 1024 → 20 ≤ x.arg 14 2 → x.arg 14 2 ≤ 160 → 16 ≤ x.arg 16 2 →
    let r : Port := { q with cfg := { downTmo := x.arg 12 2, replayTmo := x.arg 14 2, laneThr := x.arg 16 2
                                      keyOff := decide (x.arg 1 1 = 1) } }
    let t := (commit { s with ports := s.ports.set p r }).1
    let u := if q.st = .keying ∧ mayComeUp t p r = true then portComesUp t p else t
    let v := if x.arg 2 1 = 1 then linkDown u p 5 else u
    exec (.portSet w) s = .next (if s.store.writable then finishCmd v w stOk 0 (recordOf v p) else finishCmd s w stFault 0 [])) ∧
  (∀ (s : State) (w : Nat) (x : Win), Due s w 0x0303 x → (9 < x.arg 0 1 → exec (.portSet w) s = .next (finishCmd s w stBadArg 0 [])) ∧
    (x.arg 0 1 ≤ 9 → (1 < x.arg 1 1 ∨ (x.arg 1 1 = 1 ∧ 8 ≤ x.arg 0 1)) →
      exec (.portSet w) s = .next (finishCmd s w stBadArg 1 [])))

/-- When due, with no standby mirroring: HALL_CREATE whose fields pass R36 and R40 and for which R31, R41, R42 and R231
give a place makes the hall there (a tier record for a tiered hall), moves landed slots out of its extents, commits,
begins the journal of a persistent one, and answers the hall's descriptor; with no place it ends ST_NO_SPACE and
changes nothing. HALL_DESTROY and HALL_TRIM of a hall that drains nothing raise its EPOCH in one step with the new
STATE (and with the lower SIZE and QUOTA of a trim), commit, and begin the drain, which ends the command later; while
the hall drains they end ST_BUSY. -/
def Obligations.HallLifecycleCommandsComplete : Prop :=
  (∀ (s : State) (w : Nat) (x : Win), Due s w 0x0200 x → Local s → createCheck s x = none →
    (placeHall s (newHall x) = none → exec (.hallCreate w) s = .next (finishCmd s w stNoSpace 0 [])) ∧
    (∀ (h : Hall) (r : TierRec), placeHall s (newHall x) = some (h, r) →
      let hid := x.arg 0 2
      let u : State := { s with
        halls := s.halls.set hid h
        tier := if h.cls = .resident then s.tier else { s.tier with halls := s.tier.halls.set hid r } }
      exec (.hallCreate w) s = .next (match h.extents.foldl (fun o e => o.bind fun s => clearExtent s e.1 e.2) (some u) with
        | none => finishCmd s w stNoSpace 0 []
        | some v =>
          let t := if h.cls = .persistent then newJournal (commit v).1 hid else (commit v).1
          if v.store.writable = true then finishCmd t w stOk 0 (hallBytes t hid) else finishCmd s w stFault 0 []))) ∧
  (∀ (s : State) (w : Nat) (x : Win) (h : Hall), Due s w 0x0201 x → Local s → s.halls.get? (x.arg 0 2) = some h →
    let hid := x.arg 0 2
    ((s.drains.get? hid).isSome = true → exec (.hallDestroy w) s = .next (finishCmd s w stBusy 0 [])) ∧
    (s.drains.get? hid = none →
      let t := (commit { s with halls := s.halls.set hid { h with epoch := (h.epoch + 1) % 65536, state := .destroying } }).1
      exec (.hallDestroy w) s = .next (markBegun (beginDrain t hid
        { kind := .destroy, oldSize := h.size, stepAt := s.now, window := cmdWin s x } h.size) w))) ∧
  (∀ (s : State) (w : Nat) (x : Win) (h : Hall), Due s w 0x0202 x → Local s → s.halls.get? (x.arg 0 2) = some h →
    let hid := x.arg 0 2
    let n := x.arg 2 2
    s.drains.get? hid = none →
    (n = 0 ∨ h.size ≤ n → exec (.hallTrim w) s = .next (finishCmd s w stBadArg 2 [])) ∧
    (0 < n → n < h.size →
      let h' : Hall := { h with epoch := (h.epoch + 1) % 65536, state := .trimming, size := n, quota := min h.quota n }
      let t := (commit { s with halls := s.halls.set hid h' }).1
      exec (.hallTrim w) s = .next (markBegun (beginDrain t hid
        { kind := .trim, lo := 2 ^ 30 * n, oldSize := h.size, stepAt := s.now, window := cmdWin s x } h.size) w)))

/-- When due: HALL_QUERY of an ID up to 4095 answers the descriptor and HALL_ACL_QUERY the total, the entries of the page
and the entries themselves, and neither changes anything else. HALL_SET whose fields pass sets ORPHAN, forwarding,
QUOTA (the SIZE for a RESIDENT hall) and WELT_TMO (100 for zero), commits and recomputes the levels; it answers the
descriptor at once when the hall lies within its QUOTA, and otherwise goes on while blocks are evicted. With a failed
check it changes nothing and answers its status. -/
def Obligations.HallQueriesAndSettingsComplete : Prop :=
  (∀ (s : State) (w : Nat) (x : Win), Due s w 0x0203 x → x.arg 0 2 ≤ 4095 →
    exec (.hallQuery w) s = .next (finishCmd s w stOk 0 (hallBytes s (x.arg 0 2)))) ∧
  (∀ (s : State) (w : Nat) (x : Win), Due s w 0x0207 x → x.arg 0 2 ≤ 4095 → 1 ≤ x.arg 2 2 → x.arg 2 2 ≤ 4096 →
    let es := s.acl.filter fun e => e.1 / 262144 = x.arg 0 2
    let page := (es.drop (x.arg 4 4)).take (x.arg 2 2)
    exec (.hallAclQuery w) s = .next (finishCmd s w stOk 0
      (leBytes 4 es.length ++ leBytes 2 page.length ++ leBytes 2 0 ++ page.flatMap fun e => entryBytes (e.1 % 262144) e.2))) ∧
  (∀ (s : State) (w : Nat) (x : Win) (h : Hall), Due s w 0x0204 x → Local s → s.halls.get? (x.arg 0 2) = some h →
    let hid := x.arg 0 2
    (∀ st d, hallSetCheck s x hid h = some (st, d) → exec (.hallSet w) s = .next (finishCmd s w st d [])) ∧
    (hallSetCheck s x hid h = none →
      let h' : Hall := { h with orphanRevert := decide (x.arg 2 1 = 1), fwdForce := decide (x.arg 3 1 = 1)
                                quota := if h.cls = .resident then h.size else x.arg 4 2
                                weltTmo := if x.arg 6 2 = 0 then 100 else x.arg 6 2 }
      let t := recomputeLevels (commit { s with halls := s.halls.set hid h' }).1
      (h.cls = .resident ∨ overQuota t hid h' = .none →
        exec (.hallSet w) s = .next (finishCmd t w stOk 0 (hallBytes t hid))) ∧
      (¬(h.cls = .resident ∨ overQuota t hid h' = .none) → exec (.hallSet w) s = .next (markBegun (settleTier { t with
        tier := { t.tier with shrink := (t.tier.shrink.filter fun e => e.1 ≠ hid) ++ [(hid, cmdWin s x)] } }) w))))

/-- When due, with no standby mirroring, on a hall that is not being destroyed and drains nothing: HALL_ACL_SET whose
entries pass R105 and R376 and keep the limits of R44 and R106 sets every entry with its budget notice, commits,
recomputes the levels, and sends the BUDGETs and, to endpoints new to the list, EPOCH; when no entry loses a right it
completes, else EPOCH is raised in the same step and the drain begins. HALL_ACL_REMOVE of endpoints of which none is
listed changes nothing; else it removes the entries, raises EPOCH, commits, closes the HOST windows no list names any
more, and begins the drain. -/
def Obligations.AccessListCommandsComplete : Prop :=
  (∀ (s : State) (w : Nat) (x : Win) (h : Hall), Due s w 0x0205 x → Local s → s.halls.get? (x.arg 0 2) = some h →
    h.state ≠ .destroying → s.drains.get? (x.arg 0 2) = none → aclArgCheck x = none →
    let hid := x.arg 0 2
    let as := aclArgs x
    let lost := aclLost s hid as
    let fresh := (as.filter fun a => (aclOf s hid a.ep).isNone).map fun a => a.ep
    let t := as.foldl (fun s a => setEntry s hid a) s
    let tell := fun (u : State) => sendEpochs (as.foldl (fun s a => sayBudget s hid a.ep) (recomputeLevels u)) fresh
    (aclFits s t hid = false → exec (.hallAclSet w) s = .next (finishCmd s w stNoSpace 0 [])) ∧
    (aclFits s t hid = true → lost = [] → exec (.hallAclSet w) s = .next (finishCmd (tell (commit t).1) w stOk 0 [])) ∧
    (aclFits s t hid = true → lost ≠ [] →
      let u := tell (commit { t with halls := t.halls.modify hid stepEpoch }).1
      exec (.hallAclSet w) s = .next (markBegun (beginDrain u hid
        { kind := .acl, scope := lost, stepAt := u.now, window := cmdWin s x } h.size) w))) ∧
  (∀ (s : State) (w : Nat) (x : Win) (h : Hall), Due s w 0x0206 x → Local s → s.halls.get? (x.arg 0 2) = some h →
    s.drains.get? (x.arg 0 2) = none → 1 ≤ x.arg 2 2 → x.arg 2 2 ≤ 256 → x.arg 4 4 = 0 →
    let hid := x.arg 0 2
    let eps := (List.range (x.arg 2 2)).map fun i => x.arg (8 + 4 * i) 4
    (∀ ep, ep ∈ eps → ep < 2 ^ 18) →
    let gone := (eps.eraseDups).filterMap fun ep => (aclOf s hid ep).map fun e => (ep, e.rights)
    (gone = [] → exec (.hallAclRemove w) s = .next (finishCmd s w stOk 0 [])) ∧
    (gone ≠ [] →
      let u := closeUnlisted (recomputeLevels (commit { s with
        acl := gone.foldl (fun m e => m.erase (aclKey hid e.1)) s.acl, halls := s.halls.set hid (stepEpoch h) }).1)
      exec (.hallAclRemove w) s = .next (markBegun (beginDrain u hid
        { kind := .acl, scope := gone, stepAt := u.now, window := cmdWin s x } h.size) w)))

/-- When due, with no standby mirroring: TENANT_QUERY answers the record. TENANT_CREATE of a free ID makes a LOCAL tenant
with a drawn key in slot 0, ACTIVE at once while no partner is READY, or a RELEASED or manifest-less BOUND one whose
slot 0 awaits its key, commits and answers the record; a manifest that does not unwrap ends ST_DENIED. TENANT_KEY_LOAD
fills the awaiting slot of a RELEASED tenant with the key its session unwraps. TENANT_KEY_ROTATE fills the other slot
with the key its ORIGIN brings; when that is ACTIVE it flips CUR, so that the sweep starts at 0, commits and answers
the record, else the rotation waits for the partner's copy; with no key it ends ST_DENIED, with one that fails its
check value ST_BAD_ARG. TENANT_KEY_RETIRE and TENANT_REMOVE stop the tenant's contexts and go on; TENANT_KEY_RETIRE's
slots are then DRAINING. -/
def Obligations.TenantCommandsComplete : Prop :=
  (∀ (s : State) (w : Nat) (x : Win), Due s w 0x0401 x → x.arg 0 2 ≤ 4095 →
    exec (.tenantQuery w) s = .next (finishCmd s w stOk 0 (tenantRecord s (x.arg 0 2)))) ∧
  (∀ (s : State) (w : Nat) (x : Win), Due s w 0x0400 x → Local s → x.arg 0 2 ≤ 4095 → s.ten.recs.get? (x.arg 0 2) = none →
    x.arg 4 2 ≠ 0 → let e := align8 (8 + x.arg 4 2)
    ((x.bytes (8 + x.arg 4 2) (e - (8 + x.arg 4 2))).any fun b => b ≠ 0) = false →
    let t := x.arg 0 2
    let r : Tenant := { anchor := x.bytes 8 (x.arg 4 2) }
    let made := fun (r : Tenant) => ({ s with ten := { s.ten with recs := s.ten.recs.set t r } } : State)
    let done := fun (u : State) => finishCmd (commit u).1 w stOk 0 (tenantRecord (commit u).1 t)
    (x.arg 2 1 = 0 → x.arg 3 1 ≤ 1 → x.arg 6 2 = 0 → s.pair.partnerReady = false →
      let r0 : Tenant := { r with origin := .localKey, sealKeys := decide (x.arg 3 1 = 1) }
      exec (.tenantCreate w) s = .next (done (fillSlot (made r0).tickFree t 0 (Config.randomKey s.free) []))) ∧
    (x.arg 2 1 = 2 → x.arg 3 1 = 0 → x.arg 6 2 = 0 →
      exec (.tenantCreate w) s = .next (done (made { r with origin := .released, sealKeys := false, slot0 := { st := .awaiting } }))) ∧
    (x.arg 2 1 = 1 → x.arg 3 1 = 0 → x.arg 6 2 = 0 →
      exec (.tenantCreate w) s = .next (done (made { r with origin := .bound, sealKeys := false, slot0 := { st := .awaiting } }))) ∧
    (x.arg 2 1 = 1 → x.arg 3 1 = 0 → x.arg 6 2 = 2320 → manifestForm (x.bytes e 2320) = true →
      let man := x.bytes e 2320
      let b : Tenant := { r with origin := .bound, sealKeys := false }
      exec (.tenantCreate w) s = .next (match manifestKey s b 0 man with
        | none => finishCmd s w stDenied 0 []
        | some key => done (fillSlot (made { b with manifestSeq := subNat man 16 8 }) t 0 key man)))) ∧
  (∀ (s : State) (w sid : Nat) (x : Win) (r : Tenant), Due s w 0x0403 x → s.ten.recs.get? (x.arg 0 2) = some r →
    r.origin = .released → x.arg 2 1 ≤ 1 → (tenantSlot r (x.arg 2 1)).st = .awaiting →
    (tenantSlot r (x.arg 2 1)).copyPending = false → x.arg 3 1 = 0 → x.arg 4 4 = 0 → x.arg 108 4 = 0 → x.session = some sid →
    (mayUnseal s = false → exec (.tenantKeyLoad w) s = .next (finishCmd s w stDenied 0 [])) ∧
    (mayUnseal s = true → exec (.tenantKeyLoad w) s = .next (match Config.unwrapKey sid (x.bytes 8 104) with
      | none => finishCmd s w stDenied 0 []
      | some (key, kcv) =>
        let k := tenantSlot r (x.arg 2 1)
        if kcv ≠ Config.kcv key ∨ (k.kcv ≠ 0 ∧ k.kcv ≠ kcv) then finishCmd s w stBadArg 8 []
        else let u := commitSelf (fillSlot s (x.arg 0 2) (x.arg 2 1) key [])
          finishCmd u w stOk 0 (tenantRecord u (x.arg 0 2))))) ∧
  (∀ (s : State) (w : Nat) (x : Win) (r : Tenant), Due s w 0x0402 x → Local s →
    s.ten.recs.get? (x.arg 0 2) = some r → x.arg 4 4 = 0 → r.sweep = none → r.cur ≤ 1 →
    (tenantSlot r (1 - r.cur)).st = .empty →
    (r.origin = .localKey → x.arg 2 2 = 0) → (r.origin = .bound → x.arg 2 2 = 2320 ∧ manifestForm (x.bytes 8 2320) = true) →
    (r.origin = .released → x.arg 2 2 = 104 ∧ x.arg 108 4 = 0) →
    let t := x.arg 0 2
    (rotationKey s x r = none → exec (.tenantKeyRotate w) s = .next (finishCmd s w stDenied 0 [])) ∧
    (∀ u man, rotationKey s x r = some (u, none, man) → exec (.tenantKeyRotate w) s = .next (finishCmd s w stBadArg 8 [])) ∧
    (∀ u key man, rotationKey s x r = some (u, some key, man) →
      let v := fillSlot (modTenant u t fun r => { r with manifestSeq := if man = [] then r.manifestSeq else subNat man 16 8 })
        t (1 - r.cur) key man
      ((tenantSlot (tenantAt v t) (1 - r.cur)).st = .active →
        exec (.tenantKeyRotate w) s = .next (finishCmd (commit (flipCur v t)).1 w stOk 0 (tenantRecord (commit (flipCur v t)).1 t))) ∧
      ((tenantSlot (tenantAt v t) (1 - r.cur)).st ≠ .active →
        let z := (commit v).1
        exec (.tenantKeyRotate w) s = .next (markBegun { z with ten := { z.ten with
          rotation := z.ten.rotation.set t { w := cmdWin s x, step := 0, gen := 1 - r.cur } } } w)))) ∧
  (∀ (s : State) (w : Nat) (x : Win) (r : Tenant), s.ten.recs.get? (x.arg 0 2) = some r → Local s →
    let t := x.arg 0 2
    (Due s w 0x0404 x →
      let u := (commit { s with ten := { s.ten with recs := s.ten.recs.set t { r with st := .removing, retiring := true } } }).1
      exec (.tenantKeyRetire w) s = .next (markBegun (drainSlots (stopTenant u t) t { w := cmdWin s x, step := 4, gen := 1 }) w)) ∧
    (Due s w 0x0405 x → r.st ≠ .retired → cmdWin s x = some w →
      let u := (commit { s with ten := { s.ten with recs := s.ten.recs.set t { r with st := .removing, retiring := false } } }).1
      exec (.tenantRemove w) s = .next (markBegun
        (settleRemoval (setRemoval (stopTenant (markBegun u w) t) t { w := some w, step := 3 }) t) w)))

/-- A copy the partner acknowledges makes its slot ACTIVE, and a rotation that waited for it flips CUR, commits and
completes its command. A sweep step that finds a granule of the other GEN, or else a stored unit, rewrites it under
CUR and moves SWEEP_POS on; one that finds only a journal record writes back its first block, unless a checkpoint is
on its way; when nothing carries the old GEN the sweep ends, its slot is EMPTY on both partners, ROTATIONS counts.
When no traffic remains under DRAINING slots, or 20 ms after they became so, the slots are zeroised and the tenant is
RETIRED. A revocation drain with nothing outstanding releases what it withdrew and completes its command; at its bound
the command ends ST_TIMEOUT and the withdrawal stands. A finished clear zeroes the released extents and frees them. -/
def Obligations.KeyAndDrainRowsComplete : Prop :=
  (∀ (s : State) (t gen : Nat) (r : Tenant), gen ≤ 1 → s.ten.recs.get? t = some r → (tenantSlot r gen).copyPending = true →
    let u : State := { s with ten := { s.ten with
      recs := s.ten.recs.set t (setSlot r gen { tenantSlot r gen with st := .active, copyPending := false }) } }
    (s.ten.rotation.get? t = none → exec (.keyCopyAck (2 * t + gen)) s = .next u) ∧
    (∀ o w, s.ten.rotation.get? t = some o → o.gen = gen → o.w = some w →
      let v := commitSelf (flipCur { u with ten := { u.ten with rotation := u.ten.rotation.erase t } } t)
      exec (.keyCopyAck (2 * t + gen)) s = .next (finishCmd v w stOk 0 (tenantRecord v t)))) ∧
  (∀ (s : State) (t p : Nat) (r : Tenant), s.ten.recs.get? t = some r → r.sweep = some p → r.st = .active →
    (∀ hid h c ca, oldGranule s t r.cur = some (hid, h, c, ca) →
      ∃ (v : State) (q : Nat), p ≤ q ∧ v = commitSelf (modTenant (sweepGranule s hid h c ca).tickFree t fun r => { r with sweep := some q }) ∧
        exec (.sweepStep t) s = .next (if mirrorLive v then mirrorNote v (.sweepPos t q) else v)) ∧
    (∀ n m, oldGranule s t r.cur = none → oldUnit s t r.cur = some (n, m) →
      ∃ (v : State) (q : Nat), p ≤ q ∧ v = commitSelf (modTenant (sweepUnit s r n m).tickFree t fun r => { r with sweep := some q }) ∧
        exec (.sweepStep t) s = .next (if mirrorLive v then mirrorNote v (.sweepPos t q) else v)) ∧
    (∀ hid h x b, oldGranule s t r.cur = none → oldUnit s t r.cur = none → oldRecord s t r.cur = some (hid, h, x) →
      (recBlocks h x).head? = some b → ((s.jrn.get? hid).any fun j => j.goals.any fun g => decide (x.jseq ≤ g.1)) = false →
      exec (.sweepStep t) s = .next (settleTier (writeBack s hid h b false))) ∧
    (oldGranule s t r.cur = none → oldUnit s t r.cur = none → oldRecord s t r.cur = none →
      let v := if mirrorLive s then (sendMirror s (.keySlot t (1 - r.cur) none)).1 else s
      exec (.sweepEnd t) s = .next (commitSelf (modTenant v t fun r =>
        { setSlot r (1 - r.cur) {} with sweep := none, rotations := min (r.rotations + 1) (2 ^ 32 - 1) })))) ∧
  (∀ (s : State) (t : Nat) (o : TenOp), s.ten.removal.get? t = some o → o.step = 4 →
    (slotTraffic s t = false → exec (.keyTrafficDrained t) s = .next (zeroise s t o)) ∧
    (ms 20 + o.drainAt ≤ s.now → exec (.tenantDrainTimeout t) s = .next (zeroise s t { o with late := true }))) ∧
  (∀ (s : State) (hid : Nat) (h : Hall) (d : Drain), s.halls.get? hid = some h → s.drains.get? hid = some d →
    (drained s hid h d = true → exec (.revocationDrainDone hid) s = .next (afterDrain (endDrain s hid h d) h.tenant)) ∧
    (∀ w, d.late = false → d.stepAt + drainBoundOf h ≤ s.now → d.window = some w →
      exec (.revocationDrainTimeout hid) s = .next (afterDrain (finishCmd
        { s with drains := s.drains.set hid { d with late := true, window := none } } w stTimeout 0 []) h.tenant))) ∧
  (∀ (s : State) (hid : Nat) (c : Clear), (s.clears.find? fun c => c.hall = hid) = some c →
    let t := c.extents.foldl (fun s e => clearRange s e.1 (2 ^ 30 * e.2) (2 ^ 30 * (e.2 + 1))) s
    exec (.writtenClearDone hid) s = .next { t with clears := t.clears.erase c })

/-- When due: CTX_CREATE for an ACTIVE tenant makes the context under the lowest free ID; CTX_QUERY, QUEUE_QUERY answer
their record and change nothing; CTX_SET sets the shadow rate and the fault timeout; CTX_BIND_HALL binds a hall of its
own tenant, up to 256, and ends ST_DRAINING on one being destroyed; CTX_UNBIND_HALL drops the binding, at once when no
position used the hall, else after the drain; CTX_DESTROY of a context without queues frees it and empties the
galleries of it; QUEUE_CREATE whose fields pass makes the queue; QUEUE_SET sets CQ_NOTIFY; QUEUE_DESTROY stops the
queue and goes on; RXWIN_SET sets the window, or with SIZE 0 frees it. -/
def Obligations.ContextAndQueueCommandsComplete : Prop :=
  (∀ (s : State) (w cid : Nat) (x : Win) (r : Tenant), Due s w 0x0500 x → s.ten.recs.get? (x.arg 0 2) = some r → r.st = .active →
    x.arg 2 2 < 8192 → s.eng.queues.get? (x.arg 2 2) = none → qidHeld s (x.arg 2 2) = none → 39 ≤ x.arg 4 1 → x.arg 4 1 ≤ 57 →
    x.arg 5 1 ≤ 5 → x.arg 6 2 ≤ 10000 → s.eng.ctxs.freeKey 0 65536 = some cid →
    let c : Ctx := { tenant := x.arg 0 2, vaBits := x.arg 4 1, shadow := x.arg 5 1, ctlQueue := x.arg 2 2
                     faultTmo := if x.arg 6 2 = 0 then 1000 else x.arg 6 2 }
    let t : State := { s with eng := { s.eng with ctxs := s.eng.ctxs.set cid c } }
    exec (.ctxCreate w) s = .next (finishCmd t w stOk 0 (ctxRecord t cid))) ∧
  (∀ (s : State) (w : Nat) (x : Win), Due s w 0x0502 x →
    exec (.ctxQuery w) s = .next (finishCmd s w stOk 0 (ctxRecord s (x.arg 0 2)))) ∧
  (∀ (s : State) (w : Nat) (x : Win) (c : Ctx), s.eng.ctxs.get? (x.arg 0 2) = some c →
    let cid := x.arg 0 2
    let put := fun (c : Ctx) => ({ s with eng := { s.eng with ctxs := s.eng.ctxs.set cid c } } : State)
    (Due s w 0x0503 x → x.arg 2 1 ≤ 5 → x.arg 3 1 = 0 → 1 ≤ x.arg 4 2 → x.arg 4 2 ≤ 10000 →
      let t := put { c with shadow := x.arg 2 1, faultTmo := x.arg 4 2 }
      exec (.ctxSet w) s = .next (finishCmd t w stOk 0 (ctxRecord t cid))) ∧
    (Due s w 0x0501 x → (s.eng.queues.any fun e => e.2.ctx = cid) = false →
      exec (.ctxDestroy w) s = .next (finishCmd { s with eng := { s.eng with
        ctxs := s.eng.ctxs.erase cid
        gals := s.eng.gals.map fun e => (e.1, { e.2 with cache := e.2.cache.filter fun y => y.1 ≠ cid }) } } w stOk 0 [])) ∧
    (∀ h, Due s w 0x0504 x → s.halls.get? (x.arg 2 2) = some h →
      (h.state = .destroying → exec (.ctxBindHall w) s = .next (finishCmd s w stDraining 0 [])) ∧
      (h.state ≠ .destroying → h.tenant ≠ c.tenant → exec (.ctxBindHall w) s = .next (finishCmd s w stDenied 0 [])) ∧
      (h.state ≠ .destroying → h.tenant = c.tenant →
        (c.halls.contains (x.arg 2 2) = true → exec (.ctxBindHall w) s = .next (finishCmd s w stOk 0 [])) ∧
        (c.halls.contains (x.arg 2 2) = false → 256 ≤ c.halls.length → exec (.ctxBindHall w) s = .next (finishCmd s w stNoSpace 0 [])) ∧
        (c.halls.contains (x.arg 2 2) = false → c.halls.length < 256 →
          exec (.ctxBindHall w) s = .next (finishCmd (put { c with halls := c.halls ++ [x.arg 2 2] }) w stOk 0 [])))) ∧
    (Due s w 0x0505 x → c.drain = none → c.halls.contains (x.arg 2 2) = true →
      let waits := drainWaits s cid fun p => (s.halls.get? (x.arg 2 2)).any fun h =>
        decide (2 ^ 18 * h.base ≤ p.2 ∧ p.2 < 2 ^ 18 * (h.base + h.size))
      let c' : Ctx := { c with halls := c.halls.filter fun n => n ≠ x.arg 2 2 }
      let d : TDrain := { lo := 0, hi := 0, at_ := s.now, win := cmdWin s x, hall := some (x.arg 2 2), waits := waits }
      (waits = [] → exec (.ctxUnbindHall w) s = .next (finishCmd (put c') w stOk 0 [])) ∧
      (waits ≠ [] → exec (.ctxUnbindHall w) s = .next (markBegun { s with eng := { s.eng with
        ctxs := (s.eng.ctxs.set cid c').set cid { c' with drain := some d } } } w)))) ∧
  (∀ (s : State) (w : Nat) (x : Win) (c : Ctx) (h : Hall) (a : Rights), Due s w 0x0506 x → s.eng.ctxs.get? (x.arg 2 2) = some c →
    c.st = .active → s.halls.get? (x.arg 8 2) = some h → h.cls = .resident → h.tenant = c.tenant → h.state ≠ .destroying →
    (c.opened = true ∨ c.ctlQueue = x.arg 0 2) → x.arg 0 2 < 8192 → s.eng.queues.get? (x.arg 0 2) = none →
    (∀ n, qidHeld s (x.arg 0 2) = some n → n = x.arg 2 2) → x.arg 4 4 < 2 ^ 18 →
    rightsOf s (x.arg 8 2) (x.arg 4 4) = some a → a.read = true → a.write = true → x.arg 10 2 < 0x7FF →
    6 ≤ x.arg 12 1 → x.arg 12 1 ≤ 15 → 6 ≤ x.arg 13 1 → x.arg 13 1 ≤ 15 → 4 ≤ x.arg 14 1 → x.arg 14 1 ≤ 9 → x.arg 15 1 ≤ 1 →
    let q : Queue := { owner := x.arg 4 4, ringHall := x.arg 8 2, ctx := x.arg 2 2, sub := x.arg 10 2, sqLog := x.arg 12 1
                       cqLog := x.arg 13 1, fqLog := x.arg 14 1, cqNotify := decide (x.arg 15 1 = 1), sqBase := x.arg 16 4
                       cqBase := x.arg 20 4, fqBase := x.arg 24 4 }
    let taken := (s.eng.queues.filter fun e => e.2.ringHall = x.arg 8 2).flatMap fun e => ringRanges e.2
    (∀ i r, (ringRanges q)[i]? = some r → r.2 ≤ 2 ^ 30 * h.size ∧ (taken ++ (ringRanges q).take i).any (overlaps r) = false) →
    let t : State := { s with eng := { s.eng with
      queues := s.eng.queues.set (x.arg 0 2) q, ctxs := s.eng.ctxs.set (x.arg 2 2) { c with opened := true } } }
    exec (.queueCreate w) s = .next (finishCmd t w stOk 0 (queueRecord t (x.arg 0 2)))) ∧
  (∀ (s : State) (w : Nat) (x : Win),
    (Due s w 0x0508 x → x.arg 0 2 < 8192 →
      exec (.queueQuery w) s = .next (finishCmd s w stOk 0 (queueRecord s (x.arg 0 2)))) ∧
    (∀ q, s.eng.queues.get? (x.arg 0 2) = some q →
      (Due s w 0x0509 x → x.arg 2 1 ≤ 1 →
        let t : State := { s with eng := { s.eng with
          queues := s.eng.queues.set (x.arg 0 2) { q with cqNotify := decide (x.arg 2 1 = 1) } } }
        exec (.queueSet w) s = .next (finishCmd t w stOk 0 (queueRecord t (x.arg 0 2)))) ∧
      (Due s w 0x0507 x → cmdWin s x = some w →
        exec (.queueDestroy w) s = .next (markBegun (stopQueue (markBegun s w) (x.arg 0 2) (some w)) w))) ∧
    (Due s w 0x050A x → (s.ten.recs.get? (x.arg 2 2)).isSome = true → x.arg 4 4 < 2 ^ 18 → x.arg 8 8 ≤ 2 ^ 40 →
      (x.cls = .host → x.arg 4 4 = x.owner) → (∀ r, s.eng.rx.get? (x.arg 0 2) = some r → r.ep = x.arg 4 4) →
      exec (.rxwinSet w) s = .next (finishCmd { s with eng := { s.eng with
        rx := if x.arg 8 8 = 0 then s.eng.rx.erase (x.arg 0 2) else s.eng.rx.set (x.arg 0 2) ⟨x.arg 2 2, x.arg 4 4, x.arg 8 8⟩ } } w stOk 0 [])))

/-- When due: LAST_LOAD of an ACTIVE context with a length in range whose pages all translate begins to read the lines of
the image and goes on; run again once every line has come without poison, it stores an image that passes the checks of
F07 under the lowest free handle, for the context's tenant, and answers the handle; an image that fails them ends
ST_BAD_ARG. LAST_UNLOAD of a handle that no admitted last uses frees it. LAST_STOP of an admitted last stops it and
goes on until its completion record is written. LAST_QUERY answers the 256-byte header and the lasts admitted. -/
def Obligations.LastCommandsComplete : Prop :=
  (∀ (s : State) (w : Nat) (x : Win) (c : Ctx) (lines : List Nat), Due s w 0x0600 x → s.eng.loads.get? w = none →
    s.eng.ctxs.get? (x.arg 0 2) = some c → c.st = .active → x.arg 2 2 = 0 → 256 ≤ x.arg 4 4 → x.arg 4 4 ≤ 13568 →
    cmdWin s x = some w → vaLines s c (x.arg 8 8) (x.arg 4 4) = some lines →
    exec (.lastLoad w) s = .next (markBegun (readImage { s with eng := { s.eng with
      loads := s.eng.loads.set w { ctx := x.arg 0 2, va := x.arg 8 8, len := x.arg 4 4, lines := lines } } } w (x.arg 0 2) lines) w)) ∧
  (∀ (s : State) (w hd : Nat) (l : Load) (c : Ctx), s.eng.loads.get? w = some l → s.pwr.feltiOn = true → l.bad = none →
    l.lines.length ≤ l.got.length → (∀ e, e ∈ l.got → e.2.poison = 0) → s.eng.ctxs.get? l.ctx = some c →
    s.eng.loaded.freeKey 0 1024 = some hd →
    let t : State := { s with eng := { s.eng with loads := s.eng.loads.erase w } }
    exec (.lastLoad w) s = .next (if imageOk (loadBytes l) then finishCmd { t with eng := { t.eng with
        loaded := s.eng.loaded.set hd { image := loadBytes l, tenant := c.tenant } } } w stOk 0 (leBytes 2 hd)
      else finishCmd t w stBadArg 8 [])) ∧
  (∀ (s : State) (w : Nat) (x : Win) (l : Loaded), s.eng.loaded.get? (x.arg 0 2) = some l →
    (Due s w 0x0601 x → handleLasts s (x.arg 0 2) = 0 → exec (.lastUnload w) s = .next (finishCmd
      { s with eng := { s.eng with loaded := s.eng.loaded.erase (x.arg 0 2) } } w stOk 0 [])) ∧
    (Due s w 0x0603 x → exec (.lastQuery w) s = .next (finishCmd s w stOk 0
      (sub l.image 0 256 ++ leBytes 2 (handleLasts s (x.arg 0 2)))))) ∧
  (∀ (s : State) (w lid : Nat) (x : Win) (l : Last), Due s w 0x0602 x →
    (s.eng.lasts.find? fun e => e.2.qid = x.arg 0 2 ∧ e.2.sqIdx = x.arg 2 2) = some (lid, l) → cmdWin s x = some w →
    exec (.lastStop w) s = .next (markBegun (lastStop (markBegun (modLast s lid fun l => { l with stopBy := some w }) w) lid) w))

/-- A reserved form of QDB counts in MSG_BAD, a dead endpoint's is discarded; else the port is learned, and an acceptable
doorbell of a queue sets the three counters, arms the notice and lets waiting faults take records; any other counts in
DB_BAD. A fetch of an ACTIVE queue with a descriptor and a free CQ slot advances SQ_HEAD and issues its read. A
finished access leaves the queue: a descriptor's bytes and tag are taken and what needs no row completes; a completion
record advances CQ_TAIL, tells OWNER when due, completes the window that waits, and the next record follows; a fault
record advances FQ_TAIL and sends QFLT; one that failed puts the queue in ERROR. A record without RESUME within its
FAULT_TMO stops its last. -/
def Obligations.QueueRowsComplete : Prop :=
  (∀ (s : State) (m : MgtMsg), heard s m.port true = true →
    let qid := subNat m.bytes 1 2
    let src := subNat m.bytes 3 3
    let a := subNat m.bytes 6 2
    let b := subNat m.bytes 8 2
    let c := subNat m.bytes 10 2
    let u := learn s src m.port
    (qdbBad m.bytes = true → exec (.qdb m) s = .next (countBad s m.port)) ∧
    (qdbBad m.bytes = false → isDead s src = true → exec (.qdb m) s = .next s) ∧
    (qdbBad m.bytes = false → isDead s src = false → u.eng.queues.get? qid = none → exec (.qdb m) s = .next u) ∧
    (∀ q, qdbBad m.bytes = false → isDead s src = false → u.eng.queues.get? qid = some q →
      (qdbOk q src a b c = true → exec (.qdb m) s = .next (retryFaults { u with eng := { u.eng with
        queues := u.eng.queues.set qid { q with sqTail := a, cqHead := b, fqHead := c, armed := true } } } qid)) ∧
      (qdbOk q src a b c = false → exec (.qdb m) s = .next { u with eng := { u.eng with
        queues := u.eng.queues.set qid { q with dbBad := min (q.dbBad + 1) (2 ^ 32 - 1) } } }))) ∧
  (∀ (s : State) (qid : Nat) (q : Queue), s.eng.queues.get? qid = some q →
    (q.st = .active → q.sqHead ≠ q.sqTail → cqUsed q < 2 ^ q.cqLog →
      exec (.descriptorFetch qid) s = .next (issueRing (modQueue s qid fun q =>
        { q with sqHead := (q.sqHead + 1) % 65536, descs := q.descs ++ [{ idx := q.sqHead, bytes := [], dtag := 0 }] })
        qid 0 q.sqHead none)) ∧
    (∀ (idx : Nat) (a : RingAcc) (code : CmpCode), (q.acc.find? fun a => a.idx = idx) = some a → a.code = some code →
      let u : State := { s with eng := { s.eng with
        queues := s.eng.queues.set qid { q with acc := q.acc.filter fun x => x.idx ≠ idx } } }
      (code ≠ .ok → exec (.ringAccessDone qid idx) s = .next (ringFailed u qid q a code)) ∧
      (code = .ok → a.ring = 0 → exec (.ringAccessDone qid idx) s = .next (descArrived u qid a)) ∧
      (code = .ok → a.ring = 1 → exec (.ringAccessDone qid idx) s = .next (recordWritten u qid q)) ∧
      (code = .ok → a.ring = 2 → exec (.ringAccessDone qid idx) s = .next (notice (modQueue u qid fun q' =>
        { q' with fqTail := (q.fqTail + 1) % 1024 }) q fun p => .qflt p q.owner qid ((q.fqTail + 1) % 1024)))) ∧
    (∀ (fseq : Nat) (f : FaultRec), (q.open_.find? fun f => f.fseq = fseq) = some f → ms f.tmo + f.time ≤ s.now →
      exec (.faultTmoExpiry qid fseq) s = .next (lastStop s f.lid)))

/-- A presented start that R273 and R274 refuse completes with that status; an admitted one takes its cores, counts in
STARTS, and begins at once when its START has come (LATE_START) and otherwise waits. A presented MAP or UNMAP of a
context without a drain, on its control queue, changes the leaves of its range and then either completes with TSEQ one
higher, or waits for the drain of the epoch step; SYNC completes with the digest of the entries, changing no leaf;
RESUME of an open record replays its positions or stops its last and completes. When the positions of a drain are over
its descriptor or window completes; 50 ms after the step their lasts are stopped. -/
def Obligations.DescriptorsComplete : Prop :=
  (∀ (s : State) (qid : Nat) (q : Queue) (d : Desc), s.pwr.feltiOn = true → presented s qid 0x01 = some (q, d) →
    (∀ st, startRefusal s qid q d = some st → exec (.lastStart qid) s = .next (settleQueue (endDesc s qid d st) qid)) ∧
    (startRefusal s qid q d = none → s.now < subNat d.bytes 16 8 →
      let hd := subNat d.bytes 8 2
      let img := ((s.eng.loaded.get? hd).map fun x => x.image).getD []
      let shadow := ((s.eng.ctxs.get? q.ctx).map fun c => c.shadow).getD 0
      let cores := (imgGals img).flatMap fun g => (freeCores s g).take (hdrCpg img)
      let lid := s.eng.nextLid
      let l : Last := { qid := qid, sqIdx := d.idx, handle := hd, ctx := q.ctx
                        args := (List.range 4).map fun i => subNat d.bytes (24 + 8 * i) 8, start := subNat d.bytes 16 8
                        cores := cores, shadow := shadow, bound := boundNs img shadow }
      let u := cores.foldl (fun s p => setCore s p { coreAt s p with holder := some lid }) s
      let v : State := { u with eng := { u.eng with nextLid := lid + 1, lasts := u.eng.lasts.set lid l } }
      exec (.lastStart qid) s = .next (settleQueue (modQueue v qid fun q => { q with
        starts := satAdd 32 q.starts 1
        descs := q.descs.map fun x => if x.idx = d.idx then { x with running := true, lid := some lid } else x }) qid))) ∧
  (∀ (s : State) (qid : Nat) (q : Queue) (d : Desc) (c : Ctx), isCtl s qid q = true → s.eng.ctxs.get? q.ctx = some c →
    c.st = .active → c.drain = none →
    let va := subNat d.bytes 8 8
    (presented s qid 0x10 = some (q, d) → exec (.map qid) s = .next (mapBody s qid d q c)) ∧
    (∀ h hid, presented s qid 0x10 = some (q, d) → hallAt s (subNat d.bytes 16 8) = some (hid, h) → c.halls.contains hid = true →
      subNat d.bytes 24 4 = 1 → subNat d.bytes 28 1 = 0 → va % 4096 = 0 → subNat d.bytes 16 8 % 4096 = 0 → va + 4096 ≤ 2 ^ c.vaBits →
      subNat d.bytes 16 8 + 4096 ≤ 2 ^ 30 * (h.base + h.size) → c.leaves = [] →
      let leaf : Leaf := { size := 0, ppa := subNat d.bytes 16 8, w := (subNat d.bytes 29 1).testBit 0 }
      let c' : Ctx := { c with leaves := [(va / 4096, leaf)] }
      allTablePages s - tablePages c + tablePages c' ≤ 524288 →
      exec (.map qid) s = .next (tableDone (modCtx s q.ctx fun _ => c') qid d q.ctx 0)) ∧
    (presented s qid 0x11 = some (q, d) → va % 4096 = 0 → subNat d.bytes 16 8 % 4096 = 0 → subNat d.bytes 16 8 ≤ 2 ^ 40 →
      let lo := va / 4096
      let hi := lo + subNat d.bytes 16 8 / 4096
      ((leavesIn c lo hi).any fun e => !wholly lo hi e) = false →
      exec (.unmap qid) s = .next (epochStep (modCtx s q.ctx fun c => { c with leaves := leavesOut c lo hi }) qid d q.ctx lo hi)) ∧
    (presented s qid 0x12 = some (q, d) → va % 4096 = 0 → subNat d.bytes 16 8 % 4096 = 0 → subNat d.bytes 16 8 ≤ 2 ^ 30 →
      exec (.sync qid) s = .next (tableDone s qid d q.ctx (leNat ((Config.sha384 ((List.range (subNat d.bytes 16 8 / 4096)).flatMap
        fun i => leBytes 8 (syncEntry c (va / 4096 + i)))).take 8))))) ∧
  (∀ (s : State) (qid : Nat) (q : Queue) (d : Desc) (f : FaultRec), presented s qid 0x13 = some (q, d) →
    (q.open_.find? fun f => f.fseq = subNat d.bytes 8 4) = some f →
    exec (.resume qid) s = .next (settleQueue (endDesc
      (if subNat d.bytes 12 1 = 0 then replayRecord s qid f else lastStop s f.lid) qid d stOk) qid)) ∧
  (∀ (s : State) (cid : Nat) (c : Ctx) (t : TDrain), s.eng.ctxs.get? cid = some c → c.drain = some t →
    (drainOver s t = true → t.desc = none → ∀ w, t.win = some w →
      exec (.epochDrainDone cid) s = .next (finishCmd (modCtx s cid fun c => { c with drain := none }) w stOk 0 [])) ∧
    (∀ qid idx x, drainOver s t = true → t.desc = some (qid, idx) → t.win = none →
      ((s.eng.queues.get? qid).bind fun q => q.descs.find? fun x => x.idx = idx) = some x →
      exec (.epochDrainDone cid) s = .next (settleQueue (endDesc (modCtx (modCtx s cid fun c => { c with drain := none }) cid
        fun c => { c with tseq := (c.tseq + 1) % 2 ^ 32 }) qid x stOk 0 t.ended) qid)) ∧
    (ms 50 + t.at_ ≤ s.now →
      let ls := ((t.waits.filter fun w => (s.eng.lasts.get? w.1).any fun l => (l.trans.get? w.2).isSome && l.ending.isNone).map
        fun w => w.1).eraseDups
      exec (.epochDrainTimeout cid) s = .next (modCtx (ls.foldl lastStop s) cid fun c =>
        { c with drain := c.drain.map fun d => { d with ended := d.ended + ls.length } })))

/-- Unless the role is FENCED: an admitted last begins at its START. A translation phase with a faulting page faults the
position, with its record; a finished line read reaches its position, which runs when its last line has come; a
request that times out is tried once more, and another error ends the last. A tile above its time counts once and
records TILE_OVERRUN. The end of a running position that waits for no staged line runs its stages and stores the
bench: an unshadowed tile's output is issued, a shadowed one's compared, a rerun's ends the rerun, a SELECT's list
gives the sequence. A third run that matches one stream issues that stream and fences the other core while Felti runs.
A bench clear leaves the bench zero and the core free. Each row's other forms are in the meanings it names here. -/
def Obligations.EngineRowsComplete : Prop :=
  (∀ (s : State) (lid : Nat) (l : Last), s.eng.lasts.get? lid = some l →
    (l.begunAt = none → l.start ≤ s.now → l.ending = none → fencedNow s = false → exec (.lastStartTimeReached lid) s =
      .next (goLast (beginChain (modLast s lid fun l => { l with begunAt := some s.now }) lid 0) lid)) ∧
    (∀ (q : Nat) (p : Pos) (c : Ctx), findPos l q = some p → s.eng.ctxs.get? l.ctx = some c → p.st = .translate → p.need = [] →
      fencedNow s = false → ∀ f, firstFault s c (posTouches s (lastImage s l) l p) = some f →
      exec (.translationWalkDone lid q) s = .next (faultPos s lid q p f)) ∧
    (∀ (q : Nat) (p : Pos) (c : Ctx), findPos l q = some p → s.eng.ctxs.get? l.ctx = some c → p.st = .translate → p.need = [] →
      fencedNow s = false → posTouches s (lastImage s l) l p = [] →
      ∃ t, exec (.translationWalkDone lid q) s = .next t ∧ t = modPos (modLast (modPos (modPos s lid q fun p => { p with trans := [] })
        lid q fun p => { p with st := .running }) lid fun l => { l with trans := l.trans.set (posKey l q) [] }) lid q
        fun p => { p with need := [] }) ∧
    (∀ (idx : Nat) (r : EngReq) (code : CmpCode), (l.reqs.find? fun r => r.idx = idx) = some r → r.code = some code →
      let u := modLast s lid fun l => { l with reqs := l.reqs.filter fun x => x.idx ≠ idx }
      let tile := ((l.seq[r.pos]?).map fun x => x.1).getD noTile
      (code = .ok ∨ code = .poison → exec (.engineRequestComplete lid idx) s =
        .next (goLast (if r.write.isSome then u else depositRead u lid r) lid)) ∧
      (code = .timeout → r.again = false → exec (.engineRequestComplete lid idx) s = .next (sendEng (modLast s lid fun l =>
        { l with reqs := l.reqs.map fun x => if x.idx = idx then { x with again := true, code := none } else x }) lid idx)) ∧
      (code = .timeout → r.again = true →
        exec (.engineRequestComplete lid idx) s = .next (endLast u lid stTimeout r.stage tile)) ∧
      (code = .denied ∨ code = .revoked ∨ code = .epoch →
        exec (.engineRequestComplete lid idx) s = .next (endLast u lid (reqStatus s r code) r.stage tile))) ∧
    (∀ (q ns : Nat) (p : Pos), findPos l q = some p → fencedNow s = false → p.overrun = false → q < selWrite → p.st = .running →
      sumNat ((chainStages (lastImage s l) l.chain).map fun i => (stageOf (lastImage s l) i).ns) < ns →
      exec (.tileOverrun lid q ns) s = .next (event (modLast (modPos s lid q fun p => { p with overrun := true }) lid fun l =>
        { l with overruns := satAdd 32 l.overruns 1, late := true }) .tileOverrun (srcCore (physCore l p.core)) none none 0
          [(0, 2, l.qid), (2, 2, l.sqIdx), (4, 1, headStage (lastImage s l) l.chain), (8, 4, p.tile), (12, 4, ns)])) ∧
    (∀ (q : Nat) (p : Pos) (ue : BenchErrors), findPos l q = some p → fencedNow s = false → p.st = .running →
      let img := lastImage s l
      let core := physCore l p.core
      let r := runPosition img l p (coreAt s core) ue
      let outs := streamOf img p (posTouches s img l p) (chainStages img l.chain) r
      let u := arrayErrors (dropPos s lid q) (runGallery img l core) l.ctx ue
      let v := setCore u core { coreAt u core with bench := r.bench, poison := r.poison, kept := r.kept }
      let d := modLast v lid fun l => { l with done := l.done ++ [q] }
      stageWaits s img l p outs = false →
      (q = selRead → exec (.positionEnd lid q ue) s = .next (match selectList img l p with
        | none => endLast u lid stBadArg (headStage img l.chain) noTile
        | some ts => goLast (modLast u lid fun l => { l with seq := sequenceOf l.shadow l.chain ts, started := true }) lid)) ∧
      (q = selWrite → exec (.positionEnd lid q ue) s =
        .next (goLast (issueOuts (modLast u lid fun l => { l with done := l.done ++ [selWrite] }) lid q noTile (selectOuts img l p)) lid)) ∧
      (q ≠ selRead → q ≠ selWrite →
        (p.rerun = true → exec (.positionEnd lid q ue) s =
          .next (goLast (modLast v lid fun l => { l with reruns := l.reruns.filter fun x => x ≠ q }) lid)) ∧
        (p.rerun = false → l.seq.contains (p.tile, true) = false →
          exec (.positionEnd lid q ue) s = .next (goLast (issueOuts d lid q p.tile outs) lid)) ∧
        (p.rerun = false → l.seq.contains (p.tile, true) = true → l.ending = none →
          let run : RunOut := { core := core, outs := outs, input := p.reads, bench := keptRegions img l.chain r.bench }
          let h := heldOf l p.tile
          exec (.positionEnd lid q ue) s = .next (goLast (compareRuns (setHeld d lid
            (if p.shadow then { h with shad := some run } else { h with prim := some run })) lid q p.tile) lid)) ∧
        (p.rerun = false → l.seq.contains (p.tile, true) = true → l.ending.isSome = true →
          exec (.positionEnd lid q ue) s = .next (goLast d lid)))) ∧
    (∀ (q : Nat) (h : Held) (a b : RunOut) (t : Nat), fencedNow s = false →
      (l.held.find? fun h => h.tile = ((l.seq[q]?).map fun x => x.1).getD noTile) = some h → h.prim = some a → h.shad = some b →
      h.third = some t → l.cores.contains t = true →
      let tile := ((l.seq[q]?).map fun x => x.1).getD noTile
      let u := event (dropHeld s lid tile) .shadowMismatch (srcGallery (runGallery (lastImage s l) l a.core)) none none 0
        [(0, 2, a.core), (2, 2, b.core), (4, 2, t), (6, 1, 0), (7, 1, b2n (!s.pwr.feltiOn)), (8, 4, tile), (12, 1, headStage (lastImage s l) l.chain)]
      let v := goLast (issueOuts (capture u a) lid q tile a.outs) lid
      exec (.thirdRunEnd lid q 0) s = .next (if v.pwr.feltiOn = true then fenceCore v b.core 1 else v))) ∧
  (∀ (s : State) (core t : Nat), (coreAt s core).clearing = some t → exec (.benchClearDone core) s = .next (setCore s core
    { coreAt s core with bench := [], poison := [], clearing := none, kept := [] }))

/-- When due, a takeover already reached at acceptance counting as having occurred: FLIGHT_LOAD of an image that fails a
check of R381 answers that check; one without FORCE that would cut admitted claims answers ST_BUSY; any other fills
the pending bank and commits. FLIGHT_CANCEL empties the pending bank and commits, or answers ST_NOT_ACTIVE for an
empty one. FLIGHT_QUERY answers the flight record and FLIGHT_READ the image of the bank named, ST_NOT_ACTIVE for an
empty pending bank; they change nothing else. SHAPER_SET that passes its checks writes the pair's entry with its
buckets reset and commits, and answers the pair's record, ST_VERSION for a LAT_TGT while the store is in format 2,
ST_NO_SPACE with 4,096 entries; SHAPER_QUERY answers the record. -/
def Obligations.FlightAndShaperCommandsComplete : Prop :=
  (∀ (s : State) (w : Nat) (x : Win), Due s w 0x0700 x → Local s →
    let b := x.bytes 0 (flightLen (x.arg 6 2) (x.arg 8 2))
    let r := subNat b 5 1
    let f := imageFlight b
    let chk := flightCheck (resLimit s r) (cmdAccept x) b
    let t := settleTakeover s r (cmdAccept x)
    let u : State := { t with flt := t.flt.modify r fun q => { q with pending := some f, pendDerived := false } }
    (∀ st d, chk = some (st, d) → exec (.flightLoad w) s = .next (finishCmd s w st d [])) ∧
    (chk = none → f.force = false → breaksClaims s r f = true → exec (.flightLoad w) s = .next (finishCmd s w stBusy 0 [])) ∧
    (chk = none → (f.force = true ∨ breaksClaims s r f = false) → exec (.flightLoad w) s = .next
      (if u.store.writable = true then finishCmd (commit u).1 w stOk 0 [] else finishCmd s w stFault 0 []))) ∧
  (∀ (s : State) (w : Nat) (x : Win), Due s w 0x0701 x → Local s →
    let r := x.arg 0 1
    let t := settleTakeover s r (cmdAccept x)
    let u : State := { t with flt := t.flt.modify r fun q => { q with pending := none, pendDerived := false } }
    (resKnown s r = false → exec (.flightCancel w) s = .next (finishCmd s w stBadArg 0 [])) ∧
    (resKnown s r = true →
    (((t.flt.get? r).bind fun q => q.pending) = none → exec (.flightCancel w) s = .next (finishCmd t w stNotActive 0 [])) ∧
    (((t.flt.get? r).bind fun q => q.pending).isSome = true → exec (.flightCancel w) s = .next
      (if u.store.writable = true then finishCmd (commit u).1 w stOk 0 [] else finishCmd s w stFault 0 [])))) ∧
  (∀ (s : State) (w : Nat) (x : Win), Due s w 0x0702 x →
    exec (.flightQuery w) s = .next (if resKnown s (x.arg 0 1) = true
      then finishCmd s w stOk 0 (flightRecord s (x.arg 0 1) (s.flt.getD (x.arg 0 1) { active := bareFlight })) else finishCmd s w stBadArg 0 [])) ∧
  (∀ (s : State) (w : Nat) (x : Win), Due s w 0x0703 x →
    let q := s.flt.getD (x.arg 0 1) { active := bareFlight }
    (resKnown s (x.arg 0 1) = false → exec (.flightRead w) s = .next (finishCmd s w stBadArg 0 [])) ∧
    (resKnown s (x.arg 0 1) = true →
    (x.arg 1 1 = 0 → exec (.flightRead w) s = .next (finishCmd s w stOk 0 (flightBytes (x.arg 0 1) q.active))) ∧
    (x.arg 1 1 = 1 → exec (.flightRead w) s = .next (match q.pending with
      | some f => finishCmd s w stOk 0 (flightBytes (x.arg 0 1) f)
      | none => finishCmd s w stNotActive 0 [])) ∧
    (1 < x.arg 1 1 → exec (.flightRead w) s = .next (finishCmd s w stBadArg 1 [])))) ∧
  (∀ (s : State) (w : Nat) (x : Win), Due s w 0x0704 x → Local s →
    let r := x.arg 0 1
    let q := s.flt.getD r { active := bareFlight }
    let v := x.arg 8 32
    let old := shaperOf s r q (x.arg 2 2) (x.arg 1 1)
    let n := (q.shapers.filter fun e => e.2.explicit_).length
    (∀ st d, shaperCheck s x = some (st, d) → exec (.shaperSet w) s = .next (finishCmd s w st d [])) ∧
    (shaperCheck s x = none → x.arg 4 1 = 0 → bits v 80 16 ≠ 0 → s.store.fmtWrite = 2 →
      exec (.shaperSet w) s = .next (finishCmd s w stVersion 0 [])) ∧
    (shaperCheck s x = none → x.arg 4 1 = 0 → (bits v 80 16 = 0 ∨ s.store.fmtWrite ≠ 2) → old.explicit_ = false → 4096 ≤ n →
      exec (.shaperSet w) s = .next (finishCmd s w stNoSpace 0 [])) ∧
    (shaperCheck s x = none → x.arg 4 1 = 0 → (bits v 80 16 = 0 ∨ s.store.fmtWrite ≠ 2) → (old.explicit_ = true ∨ n < 4096) →
      let cfg : ShaperCfg := { pir := bits v 24 24, cbs := bits v 48 16, pbs := bits v 64 16, latTgt := bits v 80 16 }
      let q' : Seqr := { q with shapers := q.shapers.set (shKey (x.arg 2 2) (x.arg 1 1))
                                  { old with cfg := cfg, explicit_ := true, cTok := 6400 * cfg.cbs, pTok := 0, tokAt := s.now } }
      let u := (commit { s with flt := s.flt.set r q' }).1
      exec (.shaperSet w) s = .next (finishCmd u w stOk 0 (shaperRecord u r (x.arg 2 2) (x.arg 1 1) q'))) ∧
    (shaperCheck s x = none → x.arg 4 1 = 1 →
      let cfg := defaultShaper s r
      let q' : Seqr := { q with shapers := q.shapers.set (shKey (x.arg 2 2) (x.arg 1 1))
                                  { old with cfg := cfg, explicit_ := false, cTok := 6400 * cfg.cbs, pTok := 0, tokAt := s.now } }
      let u := (commit { s with flt := s.flt.set r q' }).1
      exec (.shaperSet w) s = .next (finishCmd u w stOk 0 (shaperRecord u r (x.arg 2 2) (x.arg 1 1) q')))) ∧
  (∀ (s : State) (w : Nat) (x : Win), Due s w 0x0705 x →
    let q := s.flt.getD (x.arg 0 1) { active := bareFlight }
    (resKnown s (x.arg 0 1) = true ∧ x.arg 1 1 < 8 ∧ x.arg 2 2 < 2048 →
      exec (.shaperQuery w) s = .next (finishCmd s w stOk 0 (shaperRecord s (x.arg 0 1) (x.arg 2 2) (x.arg 1 1) q))) ∧
    (∀ d, badArg [(!resKnown s (x.arg 0 1), 0), (decide (8 ≤ x.arg 1 1), 1), (decide (2048 ≤ x.arg 2 2), 2)] = some (stBadArg, d) →
      exec (.shaperQuery w) s = .next (finishCmd s w stBadArg d [])))

/-- At or after its TAKEOVER a pending flight without FORCE becomes the active one: the banks swap, the cycle starts at
TAKEOVER, every shaper of the resource is reconfigured and the takeovers count; a FORCE flight also records its event
for each last whose claims it cuts. Before that nothing changes. A tread boundary names the tread now in force, with
every bucket filled to that time. An arbitration first counts what waits red; the transfer picked spends its tokens
and leaves the queue (a pending rewrite is then issued, a landing order starts), and with none picked nothing else
changes. -/
def Obligations.FlightRowsComplete : Prop :=
  (∀ (s : State) (r : Nat) (q : Seqr) (f : Flight), s.flt.get? r = some q → q.pending = some f →
    (s.now < f.takeover → exec (.flightTakeover r) s = .next s) ∧
    (f.takeover ≤ s.now → f.force = false → ∃ q', exec (.flightTakeover r) s = .next { s with flt := s.flt.set r q' } ∧ q'.active = f ∧ q'.pending = none ∧
      q'.bank = 1 - q.bank ∧ q'.t0 = f.takeover ∧ q'.tread = 0 ∧ q'.takeovers = satAdd 32 q.takeovers 1 ∧ q'.pools = [] ∧ q'.wait = q.wait ∧
      q'.shapers = q.shapers.map fun e => (e.1, { e.2 with cTok := 6400 * e.2.cfg.cbs, pTok := 0, tokAt := f.takeover })) ∧
    (f.takeover ≤ s.now → f.force = true → ∃ q', q'.active = f ∧ q'.pending = none ∧
      let u : State := { s with flt := s.flt.set r q' }
      let lost := claimsCut u r f f.takeover
      exec (.flightTakeover r) s = .next (if lost.isEmpty = true
        then event (markLost u lost) .forcedTakeover (srcFlight r) none none 0 [(0, 2, 0xFFFF), (8, 8, f.takeover)]
        else lost.foldl (fun s e => event s .forcedTakeover (srcFlight r) none none 0
          [(0, 2, e.2.qid), (2, 2, e.2.sqIdx % 65536), (8, 8, f.takeover)]) (markLost u lost)))) ∧
  (∀ (s : State) (r : Nat) (q : Seqr), s.flt.get? r = some q → exec (.treadBoundary r) s = .next { s with flt := s.flt.set r { q with
    tread := (treadAt q.active (s.now - q.t0)).1
    shapers := q.shapers.map fun e => (e.1, fillShaper q (e.1 / 8) (e.1 % 8) s.now e.2)
    pools := q.pools.map fun e => (e.1, (poolTok q e.1 s.now, s.now)) } }) ∧
  (∀ (s : State) (r : Nat) (q : Seqr), s.flt.get? r = some q →
    let q1 := markRed s r q
    (pickXfer s r q1 = none → exec (.arbitrationGrant r) s = .next { s with flt := s.flt.set r q1 }) ∧
    (∀ i x, pickXfer s r q1 = some i → q1.wait[i]? = some x → x.rewrite = false → x.order = false →
      exec (.arbitrationGrant r) s = .next { s with flt := s.flt.set r (grantXfer s r q1 i x) }) ∧
    (∀ i x, pickXfer s r q1 = some i → q1.wait[i]? = some x → x.rewrite = true → x.order = false →
      exec (.arbitrationGrant r) s = .next (issueRewrite { s with flt := s.flt.set r (grantXfer s r q1 i x) } (r - 8) x.addr)) ∧
    (∀ i x, pickXfer s r q1 = some i → q1.wait[i]? = some x → x.rewrite = false → x.order = true →
      exec (.arbitrationGrant r) s = .next (grantOrder { s with flt := s.flt.set r (grantXfer s r q1 i x) } x.sub)))

/-- When due: TIER_HALL_QUERY answers the 32-byte tier record of a hall that is not RESIDENT, TIER_QUERY the state of the
flash tier; neither changes anything else. TIER_HALL_SET within the ranges of R225 sets the eight RW fields, commits
and answers the record, or ends ST_FAULT where the boot flash takes no commit. TIER_HINT that passes R226 and R227,
for each of its six verbs: RELEASE ends the holds and COOL sets the heat of the range's blocks to 0 at once; LAND and
KEEP land the blocks, WRITEBACK writes the DIRTY ones back, a block being written and rewritten since twice, and each
completes when its blocks are done, at once or later; DISCARD drops the blocks that no transfer moves and no directory
entry names, and answers how many of the others it skipped. TIER_DRIVE_ADOPT of a suitable drive begins the drive's
set-up and goes on; the cases R249 and R519 refuse answer their status (that a position without a suitable drive ends
ST_FAULT and a second adoption of one position ST_BUSY is the model's choice, logs 23 and 90). A hall that does not
exist ends the three hall commands with ST_BAD_ARG, and every check that fails with its own status. -/
def Obligations.TierCommandsComplete : Prop :=
  (∀ (s : State) (w : Nat) (x : Win), Due s w 0x0800 x →
    exec (.tierHallQuery w) s = .next (if (hallOf s (x.arg 0 2)).any (fun h => decide (h.cls ≠ .resident)) = true
      then finishCmd s w stOk 0 (tierBytes s (x.arg 0 2)) else finishCmd s w stBadArg 0 [])) ∧
  (∀ (s : State) (w : Nat) (x : Win), Due s w 0x0801 x → mirrorLive s = false →
    (s.halls.get? (x.arg 0 2) = none → exec (.tierHallSet w) s = .next (finishCmd s w stBadArg 0 [])) ∧
    (∀ h : Hall, s.halls.get? (x.arg 0 2) = some h →
      let v := x.arg 8 32
      (h.cls = .resident → exec (.tierHallSet w) s = .next (finishCmd s w stBadArg 0 [])) ∧
      (h.cls ≠ .resident → h.state = .destroying → exec (.tierHallSet w) s = .next (finishCmd s w stDraining 0 [])) ∧
      (h.cls ≠ .resident → h.state ≠ .destroying → x.arg 2 6 = 0 → bits v 12 4 = 0 → bits v 56 8 = 0 → bits v 86 2 = 0 → bits v 120 8 = 0 →
        10 ≤ bits v 64 16 → bits v 64 16 ≤ 10000 → 1 ≤ bits v 80 4 → bits v 80 4 ≤ 4 → 1 ≤ bits v 88 8 → 1 ≤ bits v 96 8 → bits v 112 8 ≤ 50 →
        let t : TierRec := { tierRec s (x.arg 0 2) with
          decayPeriod := bits v 64 16, decayShift := bits v 80 4, adapt := v.testBit 84, engineHeat := v.testBit 85
          maxDirty := bits v 88 8, hintHeat := bits v 96 8, wbHeat := bits v 104 8, freePct := bits v 112 8 }
        let u := (commit { s with tier := { s.tier with halls := s.tier.halls.set (x.arg 0 2) t } }).1
        exec (.tierHallSet w) s = .next (if s.store.writable = true then finishCmd u w stOk 0 (tierBytes u (x.arg 0 2))
          else finishCmd s w stFault 0 [])))) ∧
  (∀ (s : State) (w : Nat) (x : Win), Due s w 0x0802 x → s.halls.get? (x.arg 0 2) = none →
    exec (.tierHint w) s = .next (finishCmd s w stBadArg 0 [])) ∧
  (∀ (s : State) (w : Nat) (x : Win) (h : Hall), Due s w 0x0802 x → s.halls.get? (x.arg 0 2) = some h →
    let hid := x.arg 0 2
    let bs := (List.range (x.arg 16 8 / blockBytes h)).map fun i => x.arg 8 8 / blockBytes h + i
    let wait := fun (u : State) (blocks : List Nat) =>
      let n : Hint := { w := cmdWin s x, hall := hid, verb := x.arg 2 1, blocks := blocks, since := u.now, until_ := x.arg 24 8
                        hold := if x.arg 2 1 = 1 then blocks else [] }
      let v := holdKept u n
      if hintDone v n = true then finishCmd v w stOk 0 (leBytes 4 0)
      else markBegun { v with tier := { v.tier with hints := v.tier.hints ++ [n] } } w
    let out := bs.flatMap fun b => match blockOf s hid b with
      | some y => if y.st = .dirty ∨ y.st = .evicting true then [b]
          else if y.st = .flushing then (if y.redirty then [b, b] else [b]) else []
      | none => []
    let keeps := fun (b : Nat) (y : Block) => y.st = .landing || y.st = .flushing || y.st = .evicting true ||
      s.home.dir.any fun e => decide (lineOf h 0 + b * (blockBytes h / 64) ≤ e.1 ∧ e.1 < lineOf h 0 + (b + 1) * (blockBytes h / 64))
    let skip := bs.filter fun b => (blockOf s hid b).any (keeps b)
    let drop := bs.filter fun b => (blockOf s hid b).any fun y => !keeps b y
    (∀ st d, hintCheck s x h = some (st, d) → exec (.tierHint w) s = .next (finishCmd s w st d [])) ∧
    (hintCheck s x h = none →
      (x.arg 2 1 ≤ 1 → exec (.tierHint w) s = .next (wait (bs.foldl (fun s b => settleTier (land s hid h b .hint sysSub)) s) bs)) ∧
      (x.arg 2 1 = 2 → exec (.tierHint w) s = .next (finishCmd (settleTier
        (bs.foldl (fun s b => modBlock s hid b fun y => { y with keepUntil := none }) { s with tier := { s.tier with
          hints := s.tier.hints.map fun y => if y.hall = hid then { y with hold := y.hold.filter fun b => !bs.contains b } else y } }))
        w stOk 0 (leBytes 4 0))) ∧
      (x.arg 2 1 = 3 → exec (.tierHint w) s = .next (finishCmd (bs.foldl (fun s b => modBlock s hid b fun y => { y with heat := 0 }) s)
        w stOk 0 (leBytes 4 0))) ∧
      (x.arg 2 1 = 4 → exec (.tierHint w) s = .next (wait (out.foldl (fun s b => writeBack s hid h b false) s) out)) ∧
      (x.arg 2 1 = 5 → exec (.tierHint w) s = .next (finishCmd (settleTier (drop.foldl (fun s b => dropBlock s hid b) s))
        w stOk 0 (leBytes 4 skip.length))))) ∧
  (∀ (s : State) (w : Nat) (x : Win), Due s w 0x0803 x → ∃ res, exec (.tierQuery w) s = .next (finishCmd s w stOk 0 res) ∧
    res.take 4 = leBytes 4 s.tier.ordersDropped ∧ (res.drop 4).take 2 = leBytes 2 s.tier.orders.length ∧
    (res.drop 6).take 1 = leBytes 1 (flashState s) ∧ (res.drop 8).take 4 = leBytes 4 (flashGib s) ∧
    (res.drop 12).take 4 = leBytes 4 (flashUsable s - flashUsed s)) ∧
  (∀ (s : State) (w : Nat) (x : Win), Due s w 0x0804 x →
    let p := x.arg 0 1
    (8 ≤ p ∨ driveTakes s p = true → exec (.tierDriveAdopt w) s = .next (finishCmd s w stBadArg 0 [])) ∧
    (p < 8 → driveTakes s p = false → (s.hw.media.get? p).any (fun m => m.meets) = false →
      exec (.tierDriveAdopt w) s = .next (finishCmd s w stFault 0 [])) ∧
    (∀ m, p < 8 → driveTakes s p = false → s.hw.media.get? p = some m → cmdWin s x = some w → m.meets = true →
      (m.lbas < s.flash.cmin → exec (.tierDriveAdopt w) s = .next (finishCmd s w stNoSpace 0 [])) ∧
      (s.flash.cmin ≤ m.lbas → (s.flash.adopt.get? p).isSome = true → exec (.tierDriveAdopt w) s = .next (finishCmd s w stBusy 0 [])) ∧
      (s.flash.cmin ≤ m.lbas → s.flash.adopt.get? p = none → exec (.tierDriveAdopt w) s = .next
        (markBegun (beginSetUp { s with flash := { s.flash with adopt := s.flash.adopt.set p w } } p (setUp true !m.formatted)) w))))

/-- A landing whose reads are done ends with its units in the frame; a writeback whose writes are done ends and notes
CLEAN to a standby; a superblock write moves the checkpoint and frees the records it covers. A landing one of whose
units is bad reads on. A block DIRTY for its MAX_DIRTY is written back. At a decay period the heat of landed blocks
shifts right, every 10 ms each hall's policy runs, every second the decay periods adapt; before their time these
change nothing. A hold whose time has passed ends and the tier serves what waits; an order not started by its DEADLINE
is dropped and counted; a hint of 2 s completes its window with ST_TIMEOUT and goes on. -/
def Obligations.TierRowsComplete : Prop :=
  (∀ (s : State) (hid b : Nat) (bad : List (Nat × Nat)) (h : Hall) (x : Block), hallOf s hid = some h → blockOf s hid b = some x →
    (x.st = .landing →
      let t := nvEnd s (.land hid b)
      let odd := ((blockUnits t hid h b).filter (misplaced t hid)).map fun u => (driveOf u, rowOf u)
      let y := { x with bad := x.bad ++ ((bad ++ odd).eraseDups).filter fun k => x.asked.contains k && !x.bad.contains k }
      let u := modBlock t hid b fun z => { z with bad := y.bad }
      exec (.landingReadDone hid b bad) s = .next (if !flashOff u && !(landSlots u hid h b y).isEmpty then landReads u hid h b
        else settleTier (landFinish u hid h b y))) ∧
    (∀ j, runningJob s (.block hid b) = some j → flashOff s = false →
      let u := writebackEnd s hid h b j
      let v := if mirrors u h = true then mirrorNote u (.clean hid b) else u
      exec (.writebackDone hid b) s = .next (settleTier (hintBlockDone (goalDone v hid h b) hid h b))) ∧
    (x.st = .dirty → x.dirtyAt + x.maxDirty ≤ s.now → exec (.maxDirtyExpiry hid b) s = .next (writeBack s hid h b false))) ∧
  (∀ (s : State) (hid : Nat) (j : FlashJob), runningJob s (.super hid) = some j → flashOff s = false →
    exec (.superblockWriteDone hid) s = .next (settleTier { endJob s j true with jrn := (endJob s j true).jrn.modify hid fun j =>
      let k := j.sbWrite.foldl (fun (j : Journal) w => if w.2 = true then { j with sb1 := w.1 } else { j with sb0 := w.1 }) j
      { k with sbWrite := [], recs := k.recs.filter fun r => decide ((checkpoint k).ckptJ < r.jseq) } })) ∧
  (∀ (s : State) (hid : Nat), (hallOf s hid).isSome = true → let t := tierRec s hid
    (s.now < ms t.decayIn + t.lastDecay → exec (.decayPeriodExpiry hid) s = .next s) ∧
    (ms t.decayIn + t.lastDecay ≤ s.now →
      let u := modTier s hid fun t => { t with lastDecay := s.now, decayIn := t.decayPeriod, hintIn := t.hintHeat }
      exec (.decayPeriodExpiry hid) s = .next ((hallBlocks u hid).foldl (fun s e => if landed e.2 = true then
        modBlock s hid e.1 fun x => { x with heat := x.heat / 2 ^ t.decayShift } else s) u))) ∧
  (∀ s : State, s.pwr.feltiOn = true → ms 10 + s.tier.lastPolicy ≤ s.now → exec .tierPolicyPass s =
    .next (((s.halls.map fun (e : Nat × Hall) => e.1) ++ [4095]).foldl (fun (s : State) hid => match hallOf s hid with
        | some h => if h.cls = HallClass.resident then s else policyHall s hid h
        | none => s) { s with tier := { s.tier with lastPolicy := s.now } })) ∧
  (∀ s : State, s.pwr.feltiOn = true → sec 1 + s.tier.lastAdapt ≤ s.now → exec .decayAdaptPass s =
    .next { s with tier := { s.tier with lastAdapt := s.now, halls := s.tier.halls.map fun e => (e.1, adaptRec e.2) } }) ∧
  (∀ (s : State) (hid b : Nat) (x : Block) (t : Nat), blockOf s hid b = some x → t ≤ s.now →
    (x.keepUntil = some t → exec (.keepExpiry hid b) s = .next (settleTier { s with tier := { s.tier with blocks := s.tier.blocks.set (blkKey hid b) { x with keepUntil := none } } })) ∧
    (x.holdUntil = some t → exec (.orderHoldExpiry hid b) s = .next (settleTier { s with tier := { s.tier with blocks := s.tier.blocks.set (blkKey hid b) { x with holdUntil := none } } }))) ∧
  (∀ (s : State) (i : Nat) (o : LandOrder), s.tier.orders[i]? = some o → o.deadline ≤ s.now → exec (.orderDeadlinePassed i) s =
    .next { s with tier := { s.tier with orders := s.tier.orders.eraseIdx i, ordersDropped := satAdd 32 s.tier.ordersDropped 1 } }) ∧
  (∀ (s : State) (w : Nat) (h : Hint), (s.tier.hints.find? fun h => h.w = some w) = some h → sec 2 + h.since ≤ s.now →
    exec (.hintTimeout w) s = .next (finishCmd { s with tier := { s.tier with hints := s.tier.hints.map fun x => if x.w = some w then { x with w := none } else x } }
      w stTimeout 0 []))

/-- An I/O 4 ms old is aborted and counts a timeout: the eighth within a second fails the drive, else a read is tried from
the rest of its row and another command issued once more, except that with all NVMe I/O stopped only reservation
commands are issued; a write error reissues the write once, and one of a rewrite fails the drive. A completed
reservation, control-area write or deallocation takes its effect and leaves the queue. An admin completion goes to the
next step of a set-up, ends it, or ends the adoption it was for; after 1 s the admin command is given up with Abort
(that the set-up then goes on is the model's choice, log 90). An asynchronous event and a poll read the three log
pages, and a critical log fails the drive; a fatal controller is reset once in 60 s with its queues deleted, and fails
when it comes again or is not ready in 10 s; ready, it is set up again. A removed drive is FAILED. A reservation
conflict of an ACTIVE module stops all NVMe I/O and fences it. -/
def Obligations.DriveRowsComplete : Prop :=
  (∀ (s : State) (p cmd : Nat) (c : NvCmd), ((driveAt s p).cmds.find? fun c => c.id = cmd) = some c →
    let times := ((driveAt s p).timeouts.filter fun t => s.now < sec 1 + t) ++ [s.now]
    let u := say (modDrive s p fun d => { d with timeouts := times }) [.nvmeAdmin p 0x08 cmd]
    let gone := modDrive s p fun d => { d with cmds := d.cmds.filter fun x => x.id ≠ cmd }
    (ms 4 + c.issued ≤ s.now → queuesDown (driveAt s p) = false →
      (8 ≤ times.length → exec (.nvmeIoTimeout p cmd) s = .next (failDrive u p 2)) ∧
      (times.length < 8 → (s.flash.stopped = false ∨ c.for_ = .resv) → exec (.nvmeIoTimeout p cmd) s =
        .next (if c.op = .read then readLate u p c else retryWrite u p c 2)) ∧
      (times.length < 8 → s.flash.stopped = true → c.for_ ≠ .resv → exec (.nvmeIoTimeout p cmd) s =
        .next (modDrive u p fun d => { d with cmds := d.cmds.filter fun x => x.id ≠ cmd }))) ∧
    ((c.op = .write ∨ c.op = .control) → exec (.nvmeWriteError p cmd) s = .next (if s.flash.stopped = true then s else retryWrite s p c 3)) ∧
    (c.op = .s5write → exec (.nvmeWriteError p cmd) s = .next (failDrive s p 1)) ∧
    (c.op = .resvRegister → exec (.nvmeIoComplete p cmd) s = .next (modDrive gone p fun d => { d with key := resvKey gone })) ∧
    (c.op = .resvAcquire → exec (.nvmeIoComplete p cmd) s = .next (modDrive gone p fun d => { d with holder := some (resvKey gone) })) ∧
    (c.op = .control → exec (.nvmeIoComplete p cmd) s = .next (settleTier (ctlAck gone p c))) ∧
    (∀ id j lo hi, c.op = .dsm → c.for_ = .job id → jobAt gone id = some j → j.kind = .free lo hi →
      exec (.nvmeIoComplete p cmd) s = .next (settleTier (replaySkipped (freeOver gone j)))) ∧
    (∀ r, (c.op = .s5write ∨ c.op = .dsm) → c.for_ = .row r → exec (.nvmeIoComplete p cmd) s = .next gone)) ∧
  (∀ (s : State) (p t : Nat), (driveAt s p).admin = some t →
    (∀ a c rest, (driveAt s p).todo = a :: c :: rest → exec (.nvmeAdminComplete p) s =
      .next (say (modDrive s p fun d => { d with todo := c :: rest, admin := some s.now }) [adminOut p c])) ∧
    (∀ w, (driveAt s p).todo.length ≤ 1 → s.flash.adopt.get? p = some w →
      exec (.nvmeAdminComplete p) s = .next (adoptEnd (endSetUp s p) p w)) ∧
    ((driveAt s p).todo.length ≤ 1 → s.flash.adopt.get? p = none → exec (.nvmeAdminComplete p) s = .next (endSetUp s p)) ∧
    (sec 1 + t ≤ s.now → exec (.nvmeAdminTimeout p) s = .next (adminNext (say s [.nvmeAdmin p 0x08 0]) p))) ∧
  (∀ (s : State) (p : Nat) (e : DriveEvent),
    ((driveAt s p).aen = true → exec (.nvmeAsyncEvent p e) s = .next (driveLog (say s (logPages p ++ [.nvmeAdmin p 0x0C 0])) p e)) ∧
    (sec 10 + (driveAt s p).lastPoll ≤ s.now → driveTakes s p = true →
      exec (.nvmeLogPoll p e) s = .next (driveLog (say s (logPages p)) p e)) ∧
    (s.now < sec 10 + (driveAt s p).lastPoll → exec (.nvmeLogPoll p e) s = .next s)) ∧
  (∀ (s : State) (p : Nat),
    (driveTakes s p = true → ((driveAt s p).lastFatal.any fun t => decide (s.now < sec 60 + t)) = true →
      exec (.nvmeControllerFatal p) s = .next (failDrive s p 4)) ∧
    (driveTakes s p = true → ((driveAt s p).lastFatal.any fun t => decide (s.now < sec 60 + t)) = false →
      exec (.nvmeControllerFatal p) s =
        .next (say (modDrive s p fun d => { d with resetting := some s.now, lastFatal := some s.now, aen := false }) (deleteQueues p))) ∧
    (∀ t, (driveAt s p).resetting = some t → sec 10 + t ≤ s.now → exec (.nvmeReadyTimeout p) s = .next (failDrive s p 4)) ∧
    (∀ t, (driveAt s p).resetting = some t → exec (.nvmeControllerReady p) s =
      .next (beginSetUp (modDrive s p fun d => { d with resetting := none }) p (setUp false false))) ∧
    (driveSt s p ≠ .absent → exec (.driveRemoved p) s =
      .next (settleTier (driveTo { s with hw := { s.hw with media := s.hw.media.erase p } } p .failed 6))) ∧
    (s.pair.role = .active → driveTakes s p = true →
      let t := modDrive s.tickFree p fun d => { d with holder := none }
      exec (.reservationConflict p) s = .next (selfFence { t with flash := { t.flash with stopped := true } } (Config.freeChoice s.free % 4))))

/-- A region's bit clears when 1 s has passed since its last write of part of a row, no such write is under way and its
parity needs no resync; before, nothing changes. A resync step recomputes the parity of the next row of the first
region that waits, and past its last row clears the region's bit; it waits while the tier is offline, all NVMe I/O
stopped or the row locked. A rebuild step deallocates a row of which nothing was stored, else reads the row's other
slots and writes its own, and moves the cursor: the slot then holds the current value when every other slot does, when
nothing is stored in the row or when it was written since the adoption, and is missing otherwise; past the last row
the drive is ONLINE. -/
def Obligations.IntentAndRebuildRowsComplete : Prop :=
  (∀ (s : State) (g t : Nat), s.flash.intent.get? g = some t →
    exec (.intentBitClear g) s = .next (if sec 1 + t ≤ s.now ∧ regionBusy s g = false ∧ s.flash.resync.contains g = false
      then settleTier (ctlSettle (ctlWrite { s with flash := { s.flash with intent := s.flash.intent.erase g } }).1) else s)) ∧
  (∀ (s : State) (g : Nat) (rest : List Nat), s.flash.resync = g :: rest →
    let r := 4096 * g + s.flash.resyncRow
    (flashHalt s = true ∨ rowBusy s r = true → exec .intentResyncStep s = .next s) ∧
    (flashHalt s = false → rowBusy s r = false → s.flash.resyncRow + 1 < 4096 → r + 1 < s.flash.cmin - 262144 →
      exec .intentResyncStep s = .next (fixParity { s with flash := { s.flash with resyncRow := s.flash.resyncRow + 1 } } r)) ∧
    (flashHalt s = false → rowBusy s r = false → (4096 ≤ s.flash.resyncRow + 1 ∨ s.flash.cmin - 262144 ≤ r + 1) →
      let u := if r < s.flash.cmin - 262144 then fixParity s r else s
      exec .intentResyncStep s = .next (settleTier (ctlSettle (ctlWrite
        { u with flash := { u.flash with resync := rest, resyncRow := 0, intent := u.flash.intent.erase g } }).1)))) ∧
  (∀ (s : State) (d r : Nat), s.flash.rebuild.head? = some (d, r) → s.flash.stopped = false → rowBusy s r = false →
    (s.flash.cmin - 262144 ≤ r → exec .rebuildRow s = .next (settleTier (driveTo s d .online 0xFF))) ∧
    (r < s.flash.cmin - 262144 →
      let stored := (List.range 7).any fun p => storedBit s (4096 * (7 * r + p))
      let whole := (List.range 8).all fun q => decide (q = d) || slotGood s [] q r
      let fresh := s.flash.fresh.contains (d, r)
      let u := if stored = false then nvIssue s d .dsm r 1 (.row r) (.nvme d 0x09 (rowLba r) 1 [])
        else if whole = true then writeRows (readRows s (((List.range 8).filter fun q => q ≠ d).map fun q => (q, r)) (.row r) sysSub 5)
          [] [(d, r)] .s5write (.row r) sysSub 5
        else s
      exec .rebuildRow s = .next { u with flash := { u.flash with
        rebuild := u.flash.rebuild.set d (r + 1)
        fresh := dropSlot u.flash.fresh (d, r)
        missing := if stored = false ∨ whole = true ∨ fresh = true then dropSlot u.flash.missing (d, r)
          else addSlot u.flash.missing (d, r) } }))

/-- When due: DRAM_QUERY of a channel below 16 answers its record; DRAM_SET within R441 and R442 sets the channel's three
fields and the module's RATE_CAP, commits and answers the record. A diagnostic command that fails R433 answers that
check. DRAM_DIAG_WRITE sets DEBUG[2] and queues one transaction on each line it reaches, the pair under STRONG and one
line under LIGHT, with the masks of its argument, and goes on. DRAM_DIAG_READ of a landed block answers 160 bytes of
stored granules and the decode's outcome and place, and changes nothing but the model's free counter; a block that is
not landed is landed first. -/
def Obligations.DramCommandsComplete : Prop :=
  (∀ (s : State) (w : Nat) (x : Win), Due s w 0x0900 x →
    exec (.dramQuery w) s = .next (if x.arg 0 1 < 16 then finishCmd s w stOk 0 (chanRecord s (x.arg 0 1)) else finishCmd s w stBadArg 0 [])) ∧
  (∀ (s : State) (w : Nat) (x : Win), Due s w 0x0901 x → mirrorLive s = false → x.arg 0 1 < 16 → x.arg 1 7 = 0 →
    let v := x.arg 8 32
    bits v 10 6 = 0 → bits v 57 7 = 0 → bits v 85 11 = 0 →
    rateBins.contains (bits v 32 16) = true → 1 ≤ bits v 64 8 → bits v 64 8 ≤ 168 → 64 ≤ bits v 72 13 → bits v 72 13 ≤ 4096 →
    let t := modChan s (x.arg 0 1) fun y => { y with
      cfg := { scrubEn := v.testBit 7, scrubHours := bits v 64 8, retrainMs := bits v 72 13 }
      pauseGap := [(0, y.pauseGap.getD 0 y.cfg.retrainMs), (1, y.pauseGap.getD 1 y.cfg.retrainMs)] }
    let u := (commit { t with dram := { t.dram with rateCap := bits v 32 16 } }).1
    exec (.dramSet w) s = .next (if s.store.writable = true then finishCmd u w stOk 0 (chanRecord u (x.arg 0 1)) else finishCmd s w stFault 0 [])) ∧
  (∀ (s : State) (w : Nat) (x : Win) (h : Hall), Due s w 0x0902 x → s.halls.get? (x.arg 0 2) = some h →
    (∀ st d, diagCheck s x = some (st, d) → exec (.dramDiagWrite w) s = .next (finishCmd s w st d [])) ∧
    (diagCheck s x = none → h.light = true → x.arg 96 80 ≠ 0 → exec (.dramDiagWrite w) s = .next (finishCmd s w stBadArg 96 [])) ∧
    (diagCheck s x = none → (h.light = false ∨ x.arg 96 80 = 0) →
      let u : State := { s with hw := { s.hw with dbgFlags := s.hw.dbgFlags ||| 4 } }
      let ls := diagLines h (x.arg 8 8)
      exec (.dramDiagWrite w) s = .next (markBegun ((List.range ls.length).foldl (fun s i =>
        enqueue s { kind := .diag, ep := 2 ^ 18, org := .diag ((x.cmd.map fun c => c.order).getD 0) i, hall := x.arg 0 2, line := 0
                    offset := (ls[i]?).getD 0, dmask := BitVec.ofNat 640 (x.arg (16 + 80 * i) 80) }) u) w))) ∧
  (∀ (s : State) (w : Nat) (x : Win) (h : Hall), Due s w 0x0903 x → s.halls.get? (x.arg 0 2) = some h →
    let gs := (diagLines h (x.arg 8 8)).flatMap fun o => match locate s (x.arg 0 2) h o with
      | some (c, ca) => (List.range 4).map fun i => (ppaOf h o + 16 * i, granAt s c (ca + 16 * i))
      | none => []
    let out := if h.light = true then lightOut (gs.map fun g => decodeLight s g.2.err) else decodeOut (decodePair s (gs.map fun g => g.2.err))
    (∀ st d, diagCheck s x = some (st, d) → exec (.dramDiagRead w) s = .next (finishCmd s w st d [])) ∧
    (diagCheck s x = none → isLanded s (x.arg 0 2) h (x.arg 8 8) = true → exec (.dramDiagRead w) s = .next (finishCmd s.tickFree w stOk 0
      (sub ((List.range gs.length).flatMap fun i => leBytes 20 (storedBits h.light gs i).toNat) 0 160 ++ leBytes 1 out.1 ++ leBytes 1 0 ++ leBytes 2 out.2))) ∧
    (diagCheck s x = none → isLanded s (x.arg 0 2) h (x.arg 8 8) = false →
      exec (.dramDiagRead w) s = .next (settleTier (land s (x.arg 0 2) h (x.arg 8 8 / blockBytes h) .demand sysSub))))

/-- On an ONLINE channel: a bank whose interval of 3.9 us (1.95 us above 85 C) has passed is refreshed unless an urgency 3
access waits on it. A due retraining pause runs, or is deferred while an urgency 3 access waits for the rank, at most
1 ms. A scrub step decodes the next pair, or LIGHT line, and moves the scrub position past it. A row due for repair is
repaired once a start within the DIMM's resources, counted, kept in the repair map and committed; with 1,024 entries
in the map the fault is recorded instead. -/
def Obligations.DramRowsComplete : Prop :=
  (∀ (s : State) (c : Nat) (x : Chan), s.dram.chans.get? c = some x → x.st = .online →
    (∀ bank, x.refreshed.getD bank 0 + (if 340 < x.temp then 195 else 390) ≤ s.now → urgentOn s c (fun b => b = bank) = false →
      exec (.refreshDue c bank) s = .next { s with
        dram := { s.dram with chans := s.dram.chans.set c { x with refreshed := x.refreshed.set bank s.now } }
        out := s.out ++ [.ddr c 0 bank] }) ∧
    (∀ rank, pauseDue s x rank = true →
      (urgentOn s c (fun b => b / 32 = rank) = false → exec (.retrainPause c rank) s = .next (pauseRank s c rank)) ∧
      (urgentOn s c (fun b => b / 32 = rank) = true → x.deferSince.get? rank = none → exec (.retrainPause c rank) s =
        .next { s with dram := { s.dram with chans := s.dram.chans.set c { x with deferSince := x.deferSince.set rank s.now } } })) ∧
    (∀ rank t, x.deferSince.get? rank = some t → exec (.retrainDeferExpiry c rank) s =
      .next (if urgentOn s c (fun b => b / 32 = rank) = true ∧ s.now < ms 1 + t then s else pauseRank s c rank)) ∧
    (x.cfg.scrubEn = true → chanBytes x ≠ 0 →
      let light := (frameOwner s c x.scrubAt).any fun e => e.2.light
      let at_ := if light = true then x.scrubAt else x.scrubAt / 128 * 128
      exec (.scrubStep c) s = .next (modChan (Sys2Proof.Machine.scrubAt s c at_) c fun y => { y with scrubAt := (at_ + if light = true then 64 else 128) % chanBytes x })) ∧
    (∀ rank bg bank row device,
      let key := row * 64 + rank * 32 + bg * 4 + bank
      let dimm := s.hw.dimms.getD c { serial := 0 }
      let used := (s.dram.repairs.filter fun r => r.serial = dimm.serial ∧ r.device = device ∧ r.st ≠ 2).length
      x.repaired.contains key = false → repairDue s x key device = true →
      (1024 ≤ s.dram.repairs.length → exec (.spprRepair c rank bg bank row device) s =
        .next (event { s with dram := { s.dram with chans := s.dram.chans.set c { x with repaired := x.repaired ++ [key] } } } .repairMapFull (srcChan c) none none
          (rowAddr x.x4 x.ranks rank bg bank row) [(0, 1, rank), (1, 1, bg), (2, 1, bank), (3, 1, 0), (4, 4, row), (8, 2, 0), (10, 1, 0xFF)])) ∧
      (s.dram.repairs.length < 1024 → dimm.sppr ≤ used → exec (.spprRepair c rank bg bank row device) s = .next s) ∧
      (s.dram.repairs.length < 1024 → used < dimm.sppr → exec (.spprRepair c rank bg bank row device) s = .next (commitSelf { s with
        dram := { s.dram with
          chans := s.dram.chans.set c { x with repaired := x.repaired ++ [key], repairs := satAdd 16 x.repairs 1 }
          repairs := s.dram.repairs ++ [{ serial := dimm.serial, rank := rank, bg := bg, bank := bank, row := row, device := device, st := 0 }] }
        out := s.out ++ [.ddr c 2 row] }))))

/-- When due: FENCE_QUERY answers the number of entries and the entries; FENCE_CLEAR of a listed unit marks its entry for
the next core-die reset and commits, and of another ends ST_BAD_ARG at offset 2; SCAN_RUN scans the unit it names, or
the next of the rotation, and answers the RESULT. Every 10 minutes of a ready module the next unit of the rotation
takes its turn. A sentinel replayed on a free core that is not fenced, with another stream, records SENTINEL_FAIL and
fences the core; with the same stream nothing changes. -/
def Obligations.FenceAndScanRowsComplete : Prop :=
  (∀ (s : State) (w : Nat) (x : Win), Due s w 0x0904 x →
    exec (.fenceQuery w) s = .next (finishCmd s w stOk 0 (lay [(2, s.fence.list.length)] ++ s.fence.list.flatMap fenceEntry))) ∧
  (∀ (s : State) (w : Nat) (x : Win), Due s w 0x0905 x → Local s → x.arg 0 1 ≤ 1 → x.arg 1 1 = 0 →
    let isIt := fun (f : Fenced) => f.slice == decide (x.arg 0 1 = 1) && f.unit == x.arg 2 2
    (s.fence.list.any isIt = true → exec (.fenceClear w) s = .next (finishCmd (commit { s with fence := { s.fence with
      list := s.fence.list.map fun f => if isIt f = true then { f with cleared := true } else f } }).1 w stOk 0 [])) ∧
    (s.fence.list.any isIt = false → exec (.fenceClear w) s = .next (finishCmd s w stBadArg 2 []))) ∧
  (∀ (s : State) (w : Nat) (x : Win) (r : ScanResult), Due s w 0x0906 x → x.arg 0 1 ≤ 2 → x.arg 1 1 = 0 →
    (x.arg 0 1 = 0 → exec (.scanRun w r) s = .next (finishCmd (scanNext s r).1 w stOk 0 (leBytes 1 (scanNext s r).2))) ∧
    (x.arg 0 1 = 1 → x.arg 2 2 < 136 → s.hw.gradeD1 = false → exec (.scanRun w r) s =
      .next (finishCmd (scanUnit s false (x.arg 2 2) r).1 w stOk 0 (leBytes 1 (scanUnit s false (x.arg 2 2) r).2))) ∧
    (x.arg 0 1 = 2 → x.arg 2 2 < 68 → exec (.scanRun w r) s =
      .next (finishCmd (scanUnit s true (x.arg 2 2) r).1 w stOk 0 (leBytes 1 (scanUnit s true (x.arg 2 2) r).2))) ∧
    (x.arg 0 1 = 1 → (136 ≤ x.arg 2 2 ∨ s.hw.gradeD1 = true) → exec (.scanRun w r) s = .next (finishCmd s w stBadArg 2 []))) ∧
  (∀ (s : State) (r : ScanResult) (hits : List ArrayHit), s.pwr.feltiOn = true → s.pwr.ready = true →
    (sec 600 + s.fence.lastScan ≤ s.now → exec (.infieldScan r hits) s =
      .next (scanNext (hits.foldl arrayHit { s with fence := { s.fence with lastScan := s.now } }) r).1) ∧
    (s.now < sec 600 + s.fence.lastScan → exec (.infieldScan r hits) s = .next s)) ∧
  (∀ (s : State) (core entry : Nat), s.pwr.feltiOn = true → s.hw.gradeD1 = false → core < 136 → (s.fence.sentinels.get? entry).isSome = true → scanBusy s false core = false →
    coreFence s core = none →
    exec (.sentinelReplay core entry true) s = .next (fenceCore (event s .sentinelFail (srcCore core) none none 0 [(0, 1, entry)]) core 2) ∧
    exec (.sentinelReplay core entry false) s = .next s)

/-- A drive slot's or a DIMM's sensor below its event threshold before and after takes its new value, a DIMM's into its
channel, and nothing else changes; crossing the threshold records THERMAL_EVENT with the temperature, the threshold
and the direction. A gated gallery cool for 10 ms records its event, is no longer gated and dispatches its lasts
unless the role is FENCED. After a trip and 60 s of every sensor below 85 C the rails come up for a cold start. -/
def Obligations.ThermalRowsComplete : Prop :=
  (∀ (s : State) (n : Nat) (t : Int), 19 ≤ n → n < 37 → s.pwr.tripped = false →
    (∀ tr, thermalTrip n = some tr → t < tr) →
    let old := (s.hw.temps.get? n).getD 0
    let u : State := { s with hw := { s.hw with temps := s.hw.temps.set n t } }
    let v := if 20 ≤ n ∧ n < 36 then modChan u (n - 20) fun c => { c with temp := t } else u
    (decide (old < thermalEvent n) = decide (t < thermalEvent n) → exec (.thermalThreshold n t) s = .next v) ∧
    (decide (old < thermalEvent n) ≠ decide (t < thermalEvent n) →
      let e := event v .thermalEvent (srcSensor n) none none 0 (thermalDetail t (thermalEvent n) (decide (t < thermalEvent n)))
      exec (.thermalThreshold n t) s = .next (coolClock e))) ∧
  (∀ (s : State) (g t : Nat), (s.eng.gals.getD g {}).coolSince = some t → (s.eng.gals.getD g {}).gated = true → ms 10 + t ≤ s.now →
    let u := event s .thermalGate (srcSensor g) none none 0 [(0, 1, 0), (2, 2, tempBits ((s.hw.temps.get? g).getD 0))]
    let v : State := { u with eng := { u.eng with gals := u.eng.gals.set g { s.eng.gals.getD g {} with gated := false, coolSince := none } } }
    exec (.gateResume g) s = .next (if fencedNow v = true then v else (galleryLasts v g).foldl dispatch v)) ∧
  (∀ (s : State) (t : Nat), s.pwr.coolSince = some t → s.pwr.tripped = true →
    (sec 60 + t ≤ s.now → exec .tripCooldownRestart s = .next (tryEnable { s with pwr := { s.pwr with
      tripped := false, coolSince := none, startKind := .cold, railTries := 0 } })) ∧
    (s.now < sec 60 + t → exec .tripCooldownRestart s = .next s))

/-- When due: REC_TRIGGER_SET whose fields pass sets the trigger and commits; REC_QUERY answers the recorder record;
REC_READ answers the readable records from its cursor on that the caller sees, as many as fit, with NEXT after the
last one taken; a limit below the first one ends ST_BAD_ARG with its length in DETAIL. DUMP_QUERY answers the entries,
DUMP_READ the bytes named of the fullest copy (ST_BUSY while it is written), DUMP_CLEAR frees the entry and commits. A
run 1 ms without a repeat or 1 s old closes with its record; while Felti runs a completed segment is copied, and the
segments beyond the copy's ring go. -/
def Obligations.RecorderAndDumpRowsComplete : Prop :=
  (∀ (s : State) (w : Nat) (x : Win), Due s w 0x0A00 x → Local s →
    let b := x.bytes 8 56
    x.arg 1 7 = 0 → subNat b 0 1 < 16 → bits (subNat b 10 2) 12 3 = 0 → bits (subNat b 12 2) 12 3 = 0 → subNat b 14 2 = 0 → subNat b 32 4 ≠ 0 →
    subNat b 40 4 < 32 → subNat b 44 12 = 0 →
    exec (.recTriggerSet w) s = .next (finishCmd (commit { s with evr := { s.evr with
      triggers := s.evr.triggers.set (x.arg 0 1) (triggerOf b), matches_ := s.evr.matches_.erase (x.arg 0 1) } }).1 w stOk 0 [])) ∧
  (∀ (s : State) (w : Nat) (x : Win), Due s w 0x0A01 x → exec (.recQuery w) s = .next (finishCmd s w stOk 0 (recorderRecord s))) ∧
  (∀ (s₀ : State) (w : Nat) (x : Win) (bad : List Nat), Due s₀ w 0x0A02 x → 64 ≤ x.arg 8 4 → x.arg 8 4 ≤ 131072 →
    let s := spoilRecs s₀ bad
    let sees := fun (r : Record) => decide (x.cls ≠ .tenant) || decide (r.tenant = some x.owner)
    let rs := (readable s).filter fun r => decide (x.arg 0 8 ≤ r.cursor)
    let got := readFrom sees rs (x.arg 0 8) (x.arg 8 4) []
    (∀ r, rs.find? sees = some r → x.arg 8 4 < 64 * r.len → exec (.recRead w bad) s₀ = .next (finishCmd s w stBadArg (64 * r.len) [])) ∧
    ((∀ r, rs.find? sees = some r → 64 * r.len ≤ x.arg 8 4) → exec (.recRead w bad) s₀ =
      .next (finishCmd s w stOk 0 (leBytes 8 got.1 ++ leBytes 4 got.2.length ++ leBytes 4 0 ++ got.2)))) ∧
  (∀ (s : State) (w : Nat) (x : Win), Due s w 0x0A03 x → exec (.dumpQuery w) s = .next (finishCmd s w stOk 0
    (lay [(2, s.dump.entries.length), (2, s.dump.lost), (4, 0)] ++ s.dump.entries.flatMap (dumpEntry s)))) ∧
  (∀ (s : State) (w : Nat) (x : Win) (d : Dump), Due s w 0x0A04 x → s.dump.entries.get? (x.arg 0 1) = some d → x.arg 1 7 = 0 →
    let size := if d.fullLen = 0 then d.summary.length else d.fullLen
    (dumpState s (x.arg 0 1) d = 4 → exec (.dumpRead w) s = .next (finishCmd s w stBusy 0 [])) ∧
    (dumpState s (x.arg 0 1) d ≠ 4 → x.arg 8 8 ≤ size → x.arg 16 4 ≤ 131072 →
      exec (.dumpRead w) s = .next (finishCmd s w stOk 0 (if d.fullLen = 0 then (d.summary.drop (x.arg 8 8)).take (x.arg 16 4)
        else ownBytes s (2 ^ 30 * x.arg 0 1 + x.arg 8 8) (min (x.arg 16 4) (size - x.arg 8 8)))))) ∧
  (∀ (s : State) (w : Nat) (x : Win) (d : Dump), Due s w 0x0A05 x → Local s → s.dump.entries.get? (x.arg 0 1) = some d →
    exec (.dumpClear w) s = .next (finishCmd (commit { s with dump := { s.dump with
      entries := s.dump.entries.erase (x.arg 0 1)
      current := if s.dump.current = some (x.arg 0 1) then none else s.dump.current } }).1 w stOk 0 [])) ∧
  (∀ (s : State) (e src h : Nat) (r : Run), (s.evr.runs.find? fun r => decide (r.event = e ∧ r.source = src) &&
      (decide (r.hall = some h) || r.hall.isNone) && decide (ms 1 + r.lastAt ≤ s.now ∨ sec 1 + r.openedAt ≤ s.now)) = some r →
    exec (.runClose e src h) s = .next (closeRun s r)) ∧
  (∀ s : State, s.pwr.feltiOn = true → s.evr.segs < s.evr.units / segUnits →
    let off := copyBase + s.evr.segs % copySegs * 2 ^ 20
    ownMay s off segUnits = true →
    let u := ownStore s off 7 (bytesLines (segBytes s.evr s.evr.segs))
    exec .segmentCopy s = .next { u with evr := { s.evr with
      segs := s.evr.segs + 1
      copyStalled := s.evr.copyStalled && decide (s.evr.segs + 1 < s.evr.units / segUnits)
      recs := s.evr.recs.filter fun r => decide ((s.evr.segs + 1 - copySegs) * segUnits ≤ r.pos) } })

/-- While the dies are not held: a FATAL fault is recorded, a failed slice's fence is committed for the next reset, the
module fences, and the third one within 10 minutes holds the dies; else a first one takes the dump and a further one
cuts it and starts the recovery. The reset comes when the dump is done or 200 ms have passed. A lost root PLL does the
same with the summary alone, and resets at once. The management cores' stop only stops Felti; a rail out of
regulation, the 12 V bus apart, drops PWROK; the test port sets DEBUG[0] unless FUSES[0] is set; the time check sets
each copy to the master, with an event for one that differed. -/
def Obligations.FatalRowsComplete : Prop :=
  (∀ (s : State) (arr : FatalArray) (src addr : Nat), s.pwr.diesHeld = false →
    let u := logFault (event s .metadataUe src none none addr [(0, 1, arrayCode arr)]) .metadataUe src
    let v := if arr = .sramControl ∧ src / 1024 = 0x06 ∧ src % 1024 < 68 then commitSelf (fenceSlice u (src % 1024) 1 3) else u
    let g := fatalGuard v
    (g.2 = true → exec (.fatalFault arr src addr) s = .next g.1) ∧
    (g.2 = false → s.pwr.fatalAt.isSome = true → exec (.fatalFault arr src addr) s = .next (recoveryStart (cutDump g.1))) ∧
    (g.2 = false → s.pwr.fatalAt = none →
      let d := writeDump g.1 false g.1.pwr.feltiOn (evCode .metadataUe) src s.evr.next
      exec (.fatalFault arr src addr) s = .next { d with pwr := { d.pwr with fatalAt := some d.now, fatalDumpDone := d.pwr.feltiOn } })) ∧
  (∀ (s : State) (t : Nat), s.pwr.fatalAt = some t → s.pwr.diesHeld = false →
    (s.pwr.fatalDumpDone = true ∨ ms 200 + t ≤ s.now → exec .fatalReset s = .next (recoveryStart s)) ∧
    (s.pwr.fatalDumpDone = false → s.now < ms 200 + t → exec .fatalReset s = .next s)) ∧
  (∀ s : State, s.pwr.diesHeld = false →
    let g := fatalGuard (logFault (event s .rootPllLoss srcGuard none none 0 []) .rootPllLoss srcGuard)
    exec .rootPllUnlock s = .next (if g.2 = true then g.1 else recoveryStart (if g.1.pwr.fatalAt.isSome = true then cutDump g.1
      else writeDump g.1 false false (evCode .rootPllLoss) srcGuard s.evr.next))) ∧
  (∀ s : State, exec .managementCoresStop s = .next { s with pwr := { s.pwr with feltiOn := false } }) ∧
  (∀ (s : State) (n : Nat), s.pwr.rails = 10 → 1 ≤ n → n ≤ 10 → s.pwr.railsOut.contains n = false →
    (n ≠ 3 → exec (.railOutOfRegulation n) s = .next (setPwrok { s with pwr := { s.pwr with railsOut := s.pwr.railsOut ++ [n] } } false)) ∧
    (n = 3 → exec (.railOutOfRegulation n) s = .next s)) ∧
  (∀ s : State, exec .testPortUse s = .next (if s.hw.fuses.getLsbD 0 = true then s
    else { s with hw := { s.hw with dbgFlags := s.hw.dbgFlags ||| 1 } })) ∧
  (∀ s : State, s.pwr.diesHeld = false → (s.clk.core = s.clk.master → s.clk.fab0 = s.clk.master → s.clk.fab1 = s.clk.master → exec .poolTimeCheck s = .next s) ∧
    (s.clk.core ≠ s.clk.master → s.clk.fab0 = s.clk.master → s.clk.fab1 = s.clk.master → ∃ t, exec .poolTimeCheck s = .next t ∧
      t.clk = { s.clk with core := s.clk.master } ∧ t.evr = (event s .poolTimeFix srcGuard none none 0
        [(0, 1, 0), (8, 8, (2 ^ 64 + s.clk.core - s.clk.master) % 2 ^ 64)]).evr))

/-- When due: FW_QUERY and STORE_QUERY answer their records. FW_WRITE in order puts its bytes into the slot not running,
erased at OFFSET 0, and the store format follows. FW_ACTIVATE of an image that verifies, has an SVN of at least
FUSED_MIN_SVN and reads the format, makes it NEXT, with MODE 1 also scheduling a warm reset; ST_BAD_ARG, ST_DENIED,
ST_VERSION and ST_BUSY answer the other cases. FW_SVN_COMMIT with two valid images of at least that SVN raises
FUSED_MIN_SVN and ends ST_DENIED otherwise. STORE_BARE with its magic number marks the bare record and commits. RESET
schedules its reset 10 ms ahead or at AT, unless the active member with a READY partner refuses. CONSOLE_UNLOCK opens
the console for 1 to 60 minutes and sets DEBUG[1]. -/
def Obligations.FirmwareAndStoreCommandsComplete : Prop :=
  (∀ (s : State) (w : Nat) (x : Win), Due s w 0x0C00 x → exec (.fwQuery w) s = .next (finishCmd s w stOk 0
    (lay [(4, s.fw.a.ver), (4, s.fw.a.svn), (4, s.fw.b.ver), (4, s.fw.b.svn), (1, b2n s.fw.runningB), (1, b2n s.fw.nextB),
      (1, s.fw.a.st), (1, s.fw.b.st), (4, s.hw.fusedMinSvn)]))) ∧
  (∀ (s : State) (w : Nat) (x : Win), Due s w 0x0C01 x → x.arg 4 4 ≤ 131072 → x.arg 0 4 + x.arg 4 4 ≤ slotSize →
    (x.arg 0 4 = 0 → exec (.fwWrite w) s = .next (finishCmd (setOther s (slotOf 2 (x.bytes 8 (x.arg 4 4)))) w stOk 0 [])) ∧
    (x.arg 0 4 ≠ 0 → (otherSlot s).st = 2 → x.arg 0 4 = (otherSlot s).data.length → exec (.fwWrite w) s =
      .next (finishCmd (setOther s (slotOf 2 ((otherSlot s).data ++ x.bytes 8 (x.arg 4 4)))) w stOk 0 [])) ∧
    (x.arg 0 4 ≠ 0 → ((otherSlot s).st ≠ 2 ∨ x.arg 0 4 ≠ (otherSlot s).data.length) → exec (.fwWrite w) s = .next (finishCmd s w stBadArg 0 []))) ∧
  (∀ (s : State) (w : Nat) (x : Win), Due s w 0x0C02 x → x.arg 4 1 ≤ 1 →
    let o := otherSlot s
    let fits := decide (o.storeMin ≤ s.store.fmtWrite) && decide (s.store.fmtWrite ≤ o.storeMax)
    (o.st ≠ 1 → o.st ≠ 2 → exec (.fwActivate w) s = .next (finishCmd s w stBadArg 0 [])) ∧
    (o.st = 1 → o.svn < s.hw.fusedMinSvn → exec (.fwActivate w) s = .next (finishCmd s w stDenied 0 [])) ∧
    (o.st = 1 → s.hw.fusedMinSvn ≤ o.svn → fits = false → exec (.fwActivate w) s = .next (finishCmd s w stVersion 0 [])) ∧
    (o.st = 1 → s.hw.fusedMinSvn ≤ o.svn → fits = true → x.arg 4 1 = 1 → resetRefused s = true →
      exec (.fwActivate w) s = .next (finishCmd s w stBusy 0 [])) ∧
    (o.st = 1 → s.hw.fusedMinSvn ≤ o.svn → fits = true → (x.arg 4 1 = 0 ∨ resetRefused s = false) →
      let t := setOther s { o with st := 1 }
      let u : State := { t with fw := { t.fw with nextB := !t.fw.runningB }, pwr := { t.pwr with failedStarts := 0 } }
      exec (.fwActivate w) s = .next (finishCmd (if x.arg 4 1 = 1 then resetAt u false 0 else u) w stOk 0 []))) ∧
  (∀ (s : State) (w : Nat) (x : Win), Due s w 0x0C03 x → exec (.fwSvnCommit w) s = .next (
    if s.fw.a.st = 1 ∧ s.fw.b.st = 1 ∧ x.arg 0 4 ≤ s.fw.a.svn ∧ x.arg 0 4 ≤ s.fw.b.svn
    then finishCmd { s with hw := { s.hw with fusedMinSvn := max s.hw.fusedMinSvn (x.arg 0 4) } } w stOk 0 [] else finishCmd s w stDenied 0 [])) ∧
  (∀ (s : State) (w : Nat) (x : Win), Due s w 0x0D00 x → exec (.storeQuery w) s = .next (finishCmd s w stOk 0 (storeRecord s))) ∧
  (∀ (s : State) (w : Nat) (x : Win), Due s w 0x0D01 x → Local s → exec (.storeBare w) s = .next (
    if x.arg 0 4 = 0x45524142 then finishCmd (commit { s with store := { s.store with barePending := true } }).1 w stOk 0 [] else finishCmd s w stBadArg 0 [])) ∧
  (∀ (s : State) (w : Nat) (x : Win), Due s w 0x0D02 x → x.arg 0 1 ≤ 1 → x.arg 1 1 ≤ 1 → x.arg 2 6 = 0 →
    (resetRefused s = true → x.arg 1 1 = 0 → exec (.resetCmd w) s = .next (finishCmd s w stBusy 0 [])) ∧
    (resetRefused s = false ∨ x.arg 1 1 = 1 → exec (.resetCmd w) s = .next (finishCmd { s with pwr := { s.pwr with
      resetDue := some (decide (x.arg 0 1 = 1), max (ms 10 + s.now) (x.arg 8 8)), quiesceSince := none } } w stOk 0 []))) ∧
  (∀ (s : State) (w : Nat) (x : Win), Due s w 0x0D03 x → 1 ≤ x.arg 0 4 → x.arg 0 4 ≤ 60 → exec (.consoleUnlock w) s = .next (finishCmd { s with
    pwr := { s.pwr with consoleUntil := some (sec (60 * x.arg 0 4) + s.now) }, hw := { s.hw with dbgFlags := s.hw.dbgFlags ||| 2 } } w stOk 0 []))

/-- PFAIL_N falling, an input below 360 V for 50 us or above 430 V for 1 ms, and a 12 V fault declare a power loss, with
their cause and the voltage noted; the overvoltage also stops the power stage. PFAIL_N rising lets the main rails come
up. At 12 ms the main rails are down and the dies held. A second later, with PFAIL_N released, the input in range and
the power stage not stopped, the rails come up for a cold start; after an overvoltage the range must first have held.
Between 360 V and 380 V an event a minute is recorded while the main rails are up, with the lowest voltage since the
one before. -/
def Obligations.PowerInputRowsComplete : Prop :=
  (∀ s : State, exec .pfailNAssert s = .next (declareLoss { s with pwr := { s.pwr with pfailN := false } } 0)) ∧
  (∀ s : State, exec .pfailNRelease s = .next (tryEnable { s with pwr := { s.pwr with pfailN := true } })) ∧
  (∀ (s : State) (dv : Nat), exec (.inputUndervoltage dv) s =
    .next (if dv < 3600 then declareLoss { s with hw := { s.hw with inputDv := dv } } 1 else s)) ∧
  (∀ (s : State) (dv : Nat), exec (.inputOvervoltage dv) s = .next (if 4300 < dv
    then declareLoss { s with hw := { s.hw with inputDv := dv }, pwr := { s.pwr with ovp := true } } 2 else s)) ∧
  (∀ s : State, exec .bus12vFault s = .next (declareLoss s 3)) ∧
  (∀ (s : State) (c t : Nat), s.pwr.loss = some (c, t) → s.pwr.lossRailsDown = false → ms 12 + t ≤ s.now →
    let u := railsOff (holdDies s)
    exec .powerLossRailsDown s = .next { u with pwr := { u.pwr with
      railTries := 0, railRetryAt := none, lossRailsDown := true, starting := false, stage := 0
      resetStuck := false, resetHits := false } }) ∧
  (∀ (s : State) (c t : Nat), s.pwr.loss = some (c, t) → s.pwr.lossRailsDown = true → s.pwr.pfailN = true → sec 1 + (ms 12 + t) ≤ s.now →
    3800 ≤ s.hw.inputDv → s.hw.inputDv ≤ 4200 →
    let go := fun (u : State) => tryEnable { u with pwr := { u.pwr with loss := none, lossRailsDown := false, startKind := .cold, railTries := 0 } }
    (s.pwr.ovp = false → exec .powerLossRestart s = .next (go s)) ∧
    (s.pwr.ovp = true → exec .powerLossRestart s = .next s ∧ exec .overvoltageRestart s = .next (go { s with pwr := { s.pwr with ovp := false } }))) ∧
  (∀ (s : State) (dv : Nat), 3600 ≤ dv → dv < 3800 → s.pwr.rails = 10 →
    let low := if s.pwr.lastLow.isNone = true ∨ s.pwr.lowest = 0 then dv else min dv s.pwr.lowest
    let u : State := { s with hw := { s.hw with inputDv := dv }, pwr := { s.pwr with lowest := low } }
    ((s.pwr.lastLow.any fun t => decide (s.now < sec 60 + t)) = true → exec (.inputLow dv) s = .next u) ∧
    ((s.pwr.lastLow.any fun t => decide (s.now < sec 60 + t)) = false → exec (.inputLow dv) s =
      .next (event { u with pwr := { u.pwr with lastLow := some s.now, lowest := 0 } } .inputLow srcModule none none 0 [(0, 2, low)])))

/-- The end of the precharge starts a power-up: standby rails on, the dies held, the guard die's state as at power-up, the
main rails enabled when PFAIL_N and PRSNT_N allow. Each rail in regulation enables the next; with the tenth the dies
are released. A rail 10 ms late takes all down, once more after 1 s, then for good with the failure noted. A rail back
in regulation raises PWROK when it was the last one out. Without chatter RESET_N holds the dies; its release makes a
recovery start below 1 s and a cold start from 1 s on, or the start it cut short anew. PRSNT_N released while the
rails are up is an event; asserted, the rails may come up. -/
def Obligations.RailAndPinRowsComplete : Prop :=
  (∀ s : State, (s.pwr.precharged = false ∨ s.pwr.lossRailsDown = true) → let g := powerUpGuard (inputStarts s)
    exec .prechargeEnd s = .next (tryEnable { g with pwr := { g.pwr with
      precharged := true, rails := 2, railTries := 0, railAt := none, railRetryAt := none, loss := none, lossRailsDown := false
      ovp := false, tripped := false, coolSince := none, startKind := .powerUp, stage := 0, starting := true, ready := false
      lastLow := none, lowest := 0, resetSince := 0, resetAsserts := [], resetChatter := false, prsntChanges := [], prsntChatter := false
      fatalTimes := [], fatalAt := none, fatalHold := false, smbReleasedAt := none, smbStuckAt := none, smbLineSince := 0
      consoleUntil := none, diesHeld := true, feltiOn := false } })) ∧
  (∀ (s : State) (n t : Nat), s.pwr.railAt = some t → s.pwr.rails < 10 → n = s.pwr.rails + 1 →
    (n < 10 → exec (.railInRegulation n) s = .next { s with
      pwr := { s.pwr with rails := n, railAt := some s.now }
      out := (s.out ++ if n = 3 then [.pin 2 true] else []) ++ [.rail (n + 1) true] }) ∧
    (n = 10 → exec (.railInRegulation n) s = .next (releaseDies { s with pwr := { s.pwr with rails := 10, railAt := none, railTries := 0 } })) ∧
    (ms 10 + t ≤ s.now → s.pwr.railTries = 0 → exec .railTimeout s = .next { railsOff s with pwr := { (railsOff s).pwr with
      railTries := 1, railRetryAt := some (sec 1 + s.now) } }) ∧
    (ms 10 + t ≤ s.now → s.pwr.railTries = 1 → exec .railTimeout s = .next { railsOff s with pwr := { (railsOff s).pwr with
      railTries := 2, railRetryAt := none, powerLog := s.pwr.powerLog ++ [(n, 2)] } }) ∧
    (railsOff s).pwr = { s.pwr with rails := 2, railAt := none, railsOut := [] }) ∧
  (∀ (s : State) (n : Nat), s.pwr.rails = 10 → s.pwr.railsOut = [n] → s.pwr.loss = none → s.pwr.diesHeld = false →
    exec (.railInRegulation n) s = .next (setPwrok { s with pwr := { s.pwr with railsOut := [] } } true)) ∧
  (∀ (s : State) (t : Nat), s.pwr.railRetryAt = some t → t ≤ s.now → exec .railRetry s = .next (tryEnable { s with pwr := { s.pwr with railRetryAt := none } })) ∧
  (∀ s : State, s.pwr.resetN = true → s.pwr.resetChatter = false → s.pwr.rails = 10 → s.pwr.loss = none →
    let old := s.pwr.resetAsserts.filter fun t => decide (s.now < sec 10 + t)
    let u : State := { s with pwr := { s.pwr with resetN := false, resetSince := s.now, resetAsserts := old ++ [s.now], resetChatter := false } }
    let during := s.pwr.starting && !s.pwr.diesHeld
    let v := holdDies u (during && decide (s.pwr.startKind = .warm))
    old.length < 4 → exec .resetNAssert s = .next { v with pwr := { v.pwr with resetHits := v.pwr.resetHits || during } }) ∧
  (∀ s : State, s.pwr.resetN = false → s.pwr.rails = 10 → s.pwr.loss = none → s.pwr.resetStuck = false → s.pwr.resetChatter = false →
    let u : State := { s with pwr := { s.pwr with resetN := true, resetSince := s.now } }
    (s.pwr.resetHits = true → exec .resetNRelease s = .next (restartStart u)) ∧
    (s.pwr.resetHits = false → sec 1 ≤ s.now - s.pwr.resetSince → exec .resetNRelease s = .next (coldStart u .cold false)) ∧
    (s.pwr.resetHits = false → s.now - s.pwr.resetSince < sec 1 → s.pwr.fatalHold = false → exec .resetNRelease s = .next (recoveryStart u)) ∧
    (s.pwr.resetHits = false → s.now - s.pwr.resetSince < sec 1 → s.pwr.fatalHold = true → exec .resetNRelease s = .next u)) ∧
  (∀ s : State, s.pwr.prsntChatter = false →
    let old := s.pwr.prsntChanges.filter fun t => decide (s.now < sec 10 + t)
    let u := fun (b : Bool) => ({ s with pwr := { s.pwr with prsnt := b, prsntChanges := old ++ [s.now], prsntChatter := false } } : State)
    old.length < 8 →
    (s.pwr.prsnt = true → s.pwr.rails = 10 → exec (.prsntNChange false) s = .next (event (u false) .prsntReleased (srcInput 2) none none 0 [])) ∧
    (s.pwr.prsnt = false → exec (.prsntNChange true) s = .next (tryEnable (u true))))

/-- A reset due starts cold, or quiesces and starts warm when what runs has completed; 25 ms without that make a recovery
start. READY is reached by a start whose dies and Felti run, whose age commit has not failed and of whose home slices
at most 4 are fenced: the flights of every resource come into force, the stage is 6, dumps are settled, missing
channels recorded, the role taken, the epochs announced after a cold start and waiting ports come up. The second start
in a row past its bound makes the other slot NEXT, with its event. A READY partner makes a waiting side 1 a standby; a
second without one makes it serve and announce its epochs. -/
def Obligations.StartRowsComplete : Prop :=
  (∀ (s : State) (cold : Bool) (t : Nat), s.pwr.resetDue = some (cold, t) → t ≤ s.now → s.pwr.starting = false → s.pwr.diesHeld = false →
    (cold = true → exec .resetDelayExpiry s = .next (coldStart s .cold false)) ∧
    (cold = false → let u : State := if s.pwr.quiesceSince.isSome = true then s else { s with pwr := { s.pwr with quiesceSince := some s.now } }
      exec .resetDelayExpiry s = .next (if quiesced u = true then warmStart u else u))) ∧
  (∀ (s : State) (t : Nat), s.pwr.quiesceSince = some t → s.pwr.swapQuiesce = false →
    (ms 25 + t ≤ s.now → exec .quiesceTimeout s = .next (recoveryStart s)) ∧ (s.now < ms 25 + t → exec .quiesceTimeout s = .next s)) ∧
  (∀ s : State, s.pwr.starting = true → s.pwr.diesHeld = false → s.pwr.feltiOn = true → s.welt.limitFailed = false → (fencedSlices s.fence.list).length ≤ 4 →
    let cold := decide (s.pwr.startKind = .powerUp ∨ s.pwr.startKind = .cold)
    let u := resourceCodes.foldl readyFlight s
    let v := settleDumps (missingChannels { u with pwr := { u.pwr with stage := 6, readyTime := u.now, starting := false, ready := true, failedStarts := 0 } })
    exec .readyReached s = .next (portsUp (announce (if cold = true then coldRole v else warmRole v) cold))) ∧
  (∀ s : State, s.pwr.starting = true → s.pwr.diesHeld = false → s.pwr.missed = false → s.pwr.startTime + startBound s.pwr.startKind ≤ s.now →
    (s.pwr.failedStarts = 0 → exec .startBoundFail s = .next { s with pwr := { s.pwr with failedStarts := 1, missed := true } }) ∧
    (s.pwr.failedStarts = 1 → exec .startBoundFail s = .next (event { s with
      pwr := { s.pwr with failedStarts := 0, missed := true }, fw := { s.fw with nextB := !s.fw.runningB } } .firmwareFallback srcGuard none none 0
      [(0, 1, b2n (!s.fw.runningB)), (1, 1, 2)]))) ∧
  (∀ (s : State) (r : Bool) (feature storeMax : Nat), let t := modPair s fun p => { p with
      partnerFeature := feature, partnerStore := storeMax, partnerReady := r, partnerAt := if r && !p.partnerReady then s.now else p.partnerAt }
    let u := refreshFormat (if r = true then t else releaseCopies t)
    exec (.partnerReadyReport r feature storeMax) s = .next (if r = true ∧ u.pair.roleDueAt.isSome = true then becomeStandby u else u)) ∧
  (∀ (s : State) (t : Nat), s.pair.roleDueAt = some t →
    exec .roleDecisionTimeout s = .next (if t ≤ s.now then sendEpochs (serveFrom s) (listedEps s) else s))

/-- When due: PAIR_QUERY and LEASE_QUERY answer their records. PAIR_SET with legal arguments (SIDE and ENABLE 0 or 1, zero
reserved bytes) puts ENABLE in force at once, with what that changes of the role, keeps number, side and partner for
the next cold start, commits, and answers the pair record; SIDE or ENABLE above 1 is ST_BAD_ARG. PAIR_SWAP ends
ST_NOT_ACTIVE when ROLE is not ACTIVE and ST_BUSY with a swap in progress; otherwise AT and the window are kept, the
command stays, and a resynchronisation of every hall starts when the partner can take it. PEER_SYNC at a standby
applies the records in order and acknowledges the last one applied; elsewhere it is ST_DENIED (the model's choice of
status). -/
def Obligations.PairCommandsComplete : Prop :=
  (∀ (s : State) (w : Nat) (x : Win), Due s w 0x0B01 x → exec (.pairQuery w) s = .next (finishCmd s w stOk 0 (pairRecord s))) ∧
  (∀ (s : State) (w : Nat) (x : Win), Due s w 0x0B03 x → exec (.leaseQuery w) s = .next (finishCmd s w stOk 0 (leaseRecord s))) ∧
  (∀ (s : State) (w : Nat) (x : Win), Due s w 0x0B00 x → Local s →
    (1 < x.arg 4 1 → exec (.pairSet w) s = .next (finishCmd s w stBadArg 4 [])) ∧
    (x.arg 4 1 ≤ 1 → 1 < x.arg 5 1 → exec (.pairSet w) s = .next (finishCmd s w stBadArg 5 [])) ∧
    (x.arg 4 1 ≤ 1 → x.arg 5 1 ≤ 1 → x.arg 6 2 = 0 →
      let same := decide (x.arg 0 4 = s.pair.cfg.number ∧ x.arg 4 1 = s.pair.cfg.side ∧ x.arg 8 48 = s.pair.cfg.partnerId)
      let t := (commit { s with pair := { s.pair with
        cfg := { s.pair.cfg with enable := decide (x.arg 5 1 = 1) }, next := if same then none else some (x.arg 0 4, x.arg 4 1, x.arg 8 48) } }).1
      let u := enableChange t s.pair.cfg.enable (decide (x.arg 5 1 = 1))
      exec (.pairSet w) s = .next (finishCmd u w stOk 0 (pairRecord u)))) ∧
  (∀ (s : State) (w : Nat) (x : Win), Due s w 0x0B02 x →
    (s.pair.role ≠ .active → exec (.pairSwap w) s = .next (finishCmd s w stNotActive 0 [])) ∧
    (s.pair.role = .active → s.pair.swap.isSome = true → exec (.pairSwap w) s = .next (finishCmd s w stBusy 0 [])) ∧
    (s.pair.role = .active → s.pair.swap = none →
      let t : State := { s with pair := { s.pair with swap := some (x.arg 0 8, w, s.now) } }
      exec (.pairSwap w) s = .next (markBegun (if resyncDue t = true ∨ t.pair.sync = .resyncing then startResync t else t) w))) ∧
  (∀ (s : State) (w : Nat) (x : Win) (recs : List MirrorRec), Due s w 0x0B04 x →
    (s.pair.role = .standby →
      let t := recs.foldl takeRec s
      let u := (match pickPort t 8 false with
        | some p => sendFlit t p .peer (.mirrorAck p t.pair.applied)
        | none => t)
      exec (.peerSync w recs) s = .next (finishCmd (tryTakeover u []) w stOk 0 [])) ∧
    (s.pair.role ≠ .standby → exec (.peerSync w recs) s = .next (finishCmd s w stDenied 0 [])))

/-- RENEW_TIMER at an enabled active 10 ms after the last renewal sends RENEW with the next LC and expiry 50 ms ahead on
both paths. RENEW on an up path at an enabled aligned standby raises E_s to its expiry, clears an expiry it exceeds
and sends ACK on the same path; not aligned it is only heard. The first ACK of the latest LC sets E_a to that
renewal's expiry, a later one leaves it; an ACK of another LC changes nothing. A reserved form of the three is
discarded and counted. RELEASE expires the standby's lease at once and lets it take over. An enabled active fences
itself when pool time reaches E_a; a standby's lease has expired at E_s + 10 ms, and it takes over when it may:
enabled, READY, aligned, before E_s + 100 ms; from then on the takeover is abandoned, with the keys registered again.
A unit fenced at E_a resumes at E_a + 200 ms when at least five drives answer and each names its own key, else it
stays fenced. -/
def Obligations.LeaseRowsComplete : Prop :=
  (∀ s : State, s.pair.role = .active → s.pair.cfg.enable = true → s.pwr.feltiOn = true →
    (s.now < ms 10 + s.pair.lastRenew → exec .renewTimer s = .next s) ∧
    (ms 10 + s.pair.lastRenew ≤ s.now → exec .renewTimer s = .next (leaseBoth { s with pair := { s.pair with
      lc := (s.pair.lc + 1) % 65536, lcExpiry := ms 50 + s.now, lcAcked := false, lastRenew := s.now, renews := satAdd 32 s.pair.renews 1 } }
      0 ((s.pair.lc + 1) % 65536) (ms 50 + s.now) 0))) ∧
  (∀ (s : State) (m : MgtMsg), 8 ≤ m.port → heard s m.port false = true → hbtBad m.bytes 0x70 = false → s.pair.role = .standby → s.pair.cfg.enable = true →
    let e := hbtExpiry m.bytes
    (s.pair.aligned = false → exec (.renew m) s = .next { s with pair := { s.pair with lastHeard := s.now } }) ∧
    (s.pair.aligned = true → exec (.renew m) s = .next (leaseSay { s with pair := { s.pair with
      lastHeard := s.now, eS := max s.pair.eS e, lc := hbtLc m.bytes, renews := satAdd 32 s.pair.renews 1
      expired := s.pair.expired && decide (e ≤ s.pair.eS), abandoned := s.pair.abandoned && decide (e ≤ s.pair.eS) } } (.peer m.port) 1 (hbtLc m.bytes) e 0))) ∧
  (∀ (s : State) (m : MgtMsg), 8 ≤ m.port → heard s m.port false = true → hbtBad m.bytes 0x71 = false → s.pair.role = .active →
    s.pair.cfg.enable = true → s.pair.renews ≠ 0 →
    (hbtLc m.bytes = s.pair.lc → exec (.ack m) s = .next { s with pair := { s.pair with
      lastHeard := s.now, eA := if s.pair.lcAcked = true then s.pair.eA else s.pair.lcExpiry, lcAcked := true } }) ∧
    (hbtLc m.bytes ≠ s.pair.lc → exec (.ack m) s = .next s)) ∧
  (∀ (s : State) (m : MgtMsg), 8 ≤ m.port → heard s m.port false = true →
    (hbtBad m.bytes 0x70 = true → exec (.renew m) s = .next (countBad s m.port)) ∧
    (hbtBad m.bytes 0x71 = true → exec (.ack m) s = .next (countBad s m.port)) ∧
    (hbtBad m.bytes 0x72 = true → exec (.release m) s = .next (countBad s m.port))) ∧
  (∀ (s : State) (m : MgtMsg), 8 ≤ m.port → heard s m.port false = true → hbtBad m.bytes 0x72 = false → s.pair.role = .standby →
    s.pair.cfg.enable = true → s.pair.expired = false → s.pair.whole = false →
    exec (.release m) s = .next (tryTakeover { s with pair := { s.pair with expired := true, expiries := satAdd 32 s.pair.expiries 1, toldFinal := s.pair.toldFinal } } [])) ∧
  (∀ s : State, s.pair.role = .active → s.pair.cfg.enable = true → s.pair.eA ≠ 0 →
    exec .leaseActiveExpiry s = .next (if s.pair.eA ≤ s.now then selfFence s 1 true else s)) ∧
  (∀ (s : State) (l : List Bool), s.pair.role = .standby → s.pair.cfg.enable = true → s.pair.eS ≠ 0 → s.pair.expired = false →
    (s.now < ms 10 + s.pair.eS → exec (.leaseStandbyExpiry l) s = .next s) ∧
    (ms 10 + s.pair.eS ≤ s.now → let t : State := { s with pair := { s.pair with expired := true, expiries := satAdd 32 s.pair.expiries 1 } }
      exec (.leaseStandbyExpiry l) s = .next (if s.pwr.ready = true ∧ s.pair.aligned = true ∧ s.now < ms 100 + s.pair.eS ∧
        (s.pair.toldFinal.all (fun m => decide (m ≤ s.pair.applied)) = true ∨ s.pair.whole = false ∨ s.pair.sync ≠ .synced) then takeover t l else t))) ∧
  (∀ s : State, s.pair.role = .standby → s.pair.expired = true → s.pair.abandoned = false → s.pair.eS ≠ 0 →
    exec .preemptDeadline s = .next (if ms 100 + s.pair.eS ≤ s.now then registerAll { s with pair := { s.pair with abandoned := true } } else s)) ∧
  (∀ (s : State) (l : List (Option Nat)), s.pair.role = .fenced → s.pair.atExpiry = true → ms 200 + s.pair.eA ≤ s.now →
    let t : State := { s with out := s.out ++ (List.range 8).map fun p => .nvmeResv p 0x0E 0 0 }
    (5 ≤ (l.filterMap id).length → (∀ k ∈ l.filterMap id, k = resvKey s) → exec (.selfResumeCheck l) s = .next (dispatchAll (settleTier (raiseEpoch
      (becomeActive (loseSync (endOldEpoch { t with flash := { t.flash with stopped := false } }))))))) ∧
    ((l.filterMap id).length < 5 → exec (.selfResumeCheck l) s = .next t))

/-- TIME_SYNC_TIMER at an enabled member that does not lead, its peer path up, asks for the time 10 ms after it last did.
TIME_REQ is answered with the pool time and the echo. TIME_RSP gives the offset of the active's time plus half the
round trip; before READY a positive offset is jumped, else it is to be removed and ALIGNED tells whether it is within
100 ticks. A slew tick removes one tick by adding one to every count or holding one. 10 s without a peer path clear
ALIGNED. A bad wire frame counts in WIRE_ERR; a good one brings a DOWN path UP with its event, is dropped in CHATTER,
and in UP is taken as its RENEW, ACK or RELEASE. Silence makes an UP path DOWN; chatter makes it CHATTER, ended by 100
ms without excess, to UP when a frame came within 30 ms and else to DOWN. -/
def Obligations.TimeAndWireRowsComplete : Prop :=
  (∀ s : State, s.pair.cfg.enable = true → s.pair.role ≠ .active → s.pair.peerPath = true →
    (s.now < ms 10 + s.pair.timeReqAt → exec .timeSyncTimer s = .next s) ∧
    (ms 10 + s.pair.timeReqAt ≤ s.now → exec .timeSyncTimer s =
      .next (hbtSay { s with pair := { s.pair with timeReqAt := s.now } } 8 3 0 0 0 0))) ∧
  (∀ (s : State) (m : MgtMsg), 8 ≤ m.port → heard s m.port false = true →
    (hbtBad m.bytes 0x73 = false → s.pair.cfg.enable = true → exec (.timeReq m) s = .next (hbtSay s m.port 4 0 0 (hbtSend m.bytes) 0)) ∧
    (hbtBad m.bytes 0x73 = true → exec (.timeReq m) s = .next (countBad s m.port)) ∧
    (hbtBad m.bytes 0x74 = true → exec (.timeRsp m) s = .next (countBad s m.port))) ∧
  (∀ (s : State) (m : MgtMsg), 8 ≤ m.port → heard s m.port false = true → hbtBad m.bytes 0x74 = false → s.pair.cfg.enable = true →
    let a := hbtSend m.bytes
    let e := hbtEcho m.bytes
    s.pair.role ≠ .active → e ≤ s.now →
    let off : Int := (a + (s.now - e) / 2 : Nat) - (s.now : Nat)
    (s.pwr.ready = false → 0 < off → exec (.timeRsp m) s = .next (addTicks { s with pair := { s.pair with offset := off, toRemove := 0, aligned := true } } off.toNat)) ∧
    (s.pwr.ready = true ∨ off ≤ 0 → exec (.timeRsp m) s = .next { s with pair := { s.pair with
      offset := off, toRemove := off, aligned := decide (-100 ≤ off ∧ off ≤ 100) } })) ∧
  (∀ s : State, s.pair.role ≠ .active → us 100 + s.pair.slewAt ≤ s.now →
    (0 < s.pair.toRemove → exec .offsetSlewTick s = .next (addTicks { s with pair := { s.pair with
      slewAt := s.now, toRemove := s.pair.toRemove - 1, aligned := s.pair.aligned || within (s.pair.toRemove - 1) } } 1)) ∧
    (s.pair.toRemove < 0 → exec .offsetSlewTick s = .next { s with clk := { s.clk with hold := s.clk.hold + 1 }, pair := { s.pair with
      slewAt := s.now, toRemove := s.pair.toRemove + 1, aligned := s.pair.aligned || within (s.pair.toRemove + 1) } })) ∧
  (∀ s : State, s.pair.peerPath = false → s.pair.role ≠ .active →
    exec .alignedLossTimeout s = .next (if sec 10 + s.pair.peerSince ≤ s.now then { s with pair := { s.pair with aligned := false } } else s)) ∧
  (∀ (s : State) (f : BitVec 72), let t : State := { s with pair := { s.pair with wireFrameAt := s.now } }
    let lc := (f.extractLsb' 16 16).toNat
    (frameOk f = false → exec (.wireFrame f) s = .next { s with pair := { s.pair with wireErr := satAdd 32 s.pair.wireErr 1 } }) ∧
    (frameOk f = true → s.pair.wire = .chatter → exec (.wireFrame f) s = .next t) ∧
    (frameOk f = true → s.pair.wire = .down → exec (.wireFrame f) s = .next (event { t with pair := { t.pair with wire := .up } } .pathState srcWire none none 0
      [(0, 1, 0), (1, 1, 0)])) ∧
    (frameOk f = true → s.pair.wire = .up → (f.extractLsb' 8 4).toNat = 0 →
      exec (.wireFrame f) s = .next (renewIn t .wire lc (nearestTime t.now (f.extractLsb' 32 32).toNat))) ∧
    (frameOk f = true → s.pair.wire = .up → (f.extractLsb' 8 4).toNat = 1 → exec (.wireFrame f) s = .next (ackIn t lc)) ∧
    (frameOk f = true → s.pair.wire = .up → (f.extractLsb' 8 4).toNat = 2 → exec (.wireFrame f) s = .next (releaseIn t .wire 0))) ∧
  (∀ s : State, s.pair.wire = .up → exec .wireIdleTimeout s = .next (event { s with pair := { s.pair with wire := .down } } .pathState srcWire none none 0
    [(0, 1, 0), (1, 1, 1)])) ∧
  (∀ s : State, s.pair.wire ≠ .chatter → exec .wireChatter s = .next (event { s with pair := { s.pair with chatterAt := s.now, wire := .chatter } } .pathState srcWire none none 0
    [(0, 1, 0), (1, 1, 2)])) ∧
  (∀ s : State, s.pair.wire = .chatter →
    exec .wireChatterClear s = .next (if ms 100 + s.pair.chatterAt ≤ s.now then setWire s (if s.now < ms 30 + s.pair.wireFrameAt then .up else .down) else s))

/-- MIRROR_ACK ends the waits of every record up to its MSEQ, their held sends, welts and commands going on; without such
a wait it changes nothing. When an acknowledgement is late by 1 ms, or the peer path is lost, SYNC becomes NOT_SYNCED,
the standby is told on a standing path, and every wait ends without the mirror. RESYNC_START at an active NOT_SYNCED
unit whose partner is READY on a path up for 1 s starts the copy; a step sends the next landed line and passes over
one no longer there; after the last SYNC is SYNCED and a PAIR_SWAP that sought it completes. At the end of the
recovery window the held lines are activated. The clear of a POISONED hall advances one step and keeps what was
written since. At the swap instant the active quiesces and, complete or 25 ms later, fences with cause 3 and starts
again with a recovery start. -/
def Obligations.MirrorAndRecoveryRowsComplete : Prop :=
  (∀ (s : State) (m : Nat),
    ((∃ v ∈ s.pair.waits, v.mseq ≤ m) → exec (.mirrorAck m) s = .next (settleTier ((s.pair.waits.filter fun v => decide (v.mseq ≤ m)).foldl (endWait true)
      { s with pair := { s.pair with waits := s.pair.waits.filter fun v => !decide (v.mseq ≤ m) } }))) ∧
    ((∀ v ∈ s.pair.waits, m < v.mseq) → exec (.mirrorAck m) s = .next s)) ∧
  (∀ s : State, s.pair.waits ≠ [] → s.pair.role ≠ .fenced →
    (mirrorLive s = true → (∀ v ∈ s.pair.waits, s.now < ms 1 + v.sentAt) → exec .mirrorAckTimeout s = .next s) ∧
    ((mirrorLive s = false ∨ ∃ v ∈ s.pair.waits, ms 1 + v.sentAt ≤ s.now) →
      let t := if s.pair.role = .active ∧ s.pair.peerPath = true ∧ s.pair.sync ≠ .notSynced then (sendMirror s (.sync 2 false)).1 else s
      exec .mirrorAckTimeout s = .next (settleTier (endWaits (loseSync t) false fun _ => true)))) ∧
  (∀ s : State, s.pair.role = .active → s.pair.peerPath = true → s.pair.partnerReady = true → sec 1 + s.pair.peerSince ≤ s.now →
    (s.pair.sync = .notSynced → exec .resyncStart s = .next (startResync s)) ∧ (s.pair.sync ≠ .notSynced → exec .resyncStart s = .next s)) ∧
  (∀ s : State, s.pair.role = .active → s.pair.sync = .resyncing → s.pair.peerPath = true →
    (s.pair.resyncLeft = [] → let t := mirrorNote { s with pair := { s.pair with sync := .synced, resyncPos := 0, resyncTotal := 0 } } (.sync 0 s.pair.whole)
      (s.pair.swap = none → t.pair.swap = none → exec .resyncStep s = .next t) ∧
      (∀ a w d, t.pair.swap = some (a, w, d) → w < 1024 → t.pair.whole = true →
        exec .resyncStep s = .next (finishCmd { t with pair := { t.pair with swap := some (a, 1024, d) } } w stOk 0 []))) ∧
    (∀ line rest, s.pair.resyncLeft = line :: rest →
      let n := max 1 s.pair.resyncTotal
      let t : State := { s with pair := { s.pair with resyncLeft := rest, resyncPos := 65535 * (n - rest.length) / n } }
      (hallAt t (line * 64) = none → exec .resyncStep s = .next t) ∧
      (∀ hid h, let off := line * 64 - 2 ^ 30 * h.base
        hallAt t (line * 64) = some (hid, h) →
        (isLanded t hid h off = false → exec .resyncStep s = .next t) ∧
        (isLanded t hid h off = true → exec .resyncStep s =
          .next (mirrorNote (xfer (readLine t hid h off).1 0x20 sysSub 6 64 0) (.lines hid [(off / 64, (readLine t hid h off).2)])))))) ∧
  (∀ s : State, s.home.recoveryEnd ≠ 0 →
    exec .recoveryWindowEnd s = .next (if s.home.recoveryEnd ≤ s.now then settleTier ((s.home.lines.map fun e => e.1).foldl activate s) else s)) ∧
  (∀ (s : State) (hid : Nat) (h : Hall), s.halls.get? hid = some h →
    exec (.poisonedHallClearStep hid) s = .next (if h.poisoned = true ∧ h.clearPos < 2 ^ 24 * h.size then clearAdvance s hid h else s)) ∧
  (∀ (s : State) (a d : Nat), s.pair.swap = some (a, 1024, d) → s.pair.role = .active →
    (s.now < a → exec .swapAtReached s = .next s) ∧
    (a ≤ s.now → let t : State := if s.pwr.quiesceSince.isSome = true then s else { s with pwr := { s.pwr with quiesceSince := some s.now, swapQuiesce := true } }
      exec .swapAtReached s = .next (if quiesced t = true ∨ t.pwr.quiesceSince.any (fun q => decide (ms 25 + q ≤ t.now)) = true
        then recoveryStart (selfFence t 3) else t)))

/-- GET_VERSION starts a connection afresh; capabilities and algorithms follow in that order; an unsupported set or a
request out of order is an error. Once algorithms are agreed: digests and the slot 0 certificate chain are answered
(another slot, or an offset past its end, is an error), a challenge is signed over chain digest and nonce, the
measurement at a known index is answered, signed on request, an unknown one is an error, a key exchange with mutual
authentication and fewer than 64 sessions opens a handshake. FINISH after it with a good signature of a chain under an
operator or tenant anchor opens a session with its window; one without a handshake, with a bad signature or an unknown
chain is an error. Chunks are taken in order from 0 and given in order up to the end. A session's KEY_UPDATE,
HEARTBEAT and END_SESSION step its keys, note its time, and close its window. The codes are the model's presumption
(log 15). -/
def Obligations.SpdmRequestsComplete : Prop :=
  (∀ (s : State) (c : Nat), exec (.getVersion c) s = .next (spdmSay (setConn s c { step := 1, msgSeq := (connOf s c).msgSeq }) c 0x04 (leBytes 2 0x1300))) ∧
  (∀ (s : State) (c : Nat), exec (.getCapabilities c) s = .next (if (connOf s c).step = 1 then spdmSay (setConn s c { connOf s c with step := 2 }) c 0x61 [] else spdmError s c 4)) ∧
  (∀ (s : State) (c : Nat) (b : Bool),
    ((connOf s c).step = 2 → exec (.negotiateAlgorithms c b) s = .next (if b = true then spdmSay (setConn s c { connOf s c with step := 3 }) c 0x63 [] else spdmError s c 1)) ∧
    ((connOf s c).step ≠ 2 → exec (.negotiateAlgorithms c b) s = .next (spdmError s c 4))) ∧
  (∀ (s : State) (c : Nat), (connOf s c).step < 3 → ∀ (a b e : Nat) (g : Bool) (d : List Byte), ∀ i ∈ [Instr.getDigests c,
    .getCertificate c a b e, .challenge c a d, .getMeasurements c a g d, .keyExchange c g, .chunkSend c a b g d], exec i s = .next (spdmError s c 4)) ∧
  (∀ (s : State) (c : Nat), 3 ≤ (connOf s c).step →
    exec (.getDigests c) s = .next (spdmSay s c 0x01 (sub (Config.sha384 (certChain s)) 0 48)) ∧
    (∀ slot off len, exec (.getCertificate c slot off len) s = .next (if slot = 0 ∧ off < (certChain s).length
      then spdmAnswer s c 0x02 (((certChain s).drop off).take len) else spdmError s c 1)) ∧
    (∀ n, let body := sub (Config.sha384 (certChain s)) 0 48 ++ sub n 0 32
      exec (.challenge c 0 n) s = .next (spdmSay s c 0x03 (body ++ aliasSig s body))) ∧
    (∀ slot n, slot ≠ 0 → exec (.challenge c slot n) s = .next (spdmError s c 1)) ∧
    (∀ i g n m, measurement s c i n = some m → exec (.getMeasurements c i g n) s =
      .next (spdmAnswer s c 0x60 (if g = true then m ++ aliasSig s (m ++ n) else m))) ∧
    (∀ i g n, 6 < i → i ≠ 0x10 → exec (.getMeasurements c i g n) s = .next (spdmError s c 1)) ∧
    (∀ m, exec (.keyExchange c m) s = .next (if m = true ∧ s.spdm.sessions.length < 64 then spdmSay (setConn s c { connOf s c with hs := some true }) c 0x64 [] else spdmError s c 1)) ∧
    (∀ h l d, exec (.chunkSend c h 0 l d) s = .next (spdmSay (setConn s c { connOf s c with
      recv := d, chunkIn := if l = true then none else some (h, 1) }) c 0x05 (leBytes 1 h ++ leBytes 2 0))) ∧
    (∀ h q l d, q ≠ 0 → (connOf s c).chunkIn = some (h, q) → exec (.chunkSend c h q l d) s = .next (spdmSay (setConn s c { connOf s c with
      recv := (connOf s c).recv ++ d, chunkIn := if l = true then none else some (h, q + 1) }) c 0x05 (leBytes 1 h ++ leBytes 2 q)))) ∧
  (∀ (s : State) (c : Nat) (k : ChainEnd) (g : Bool),
    ((connOf s c).hs ≠ some true → exec (.finish c k g) s = .next (spdmError s c 4)) ∧
    ((connOf s c).hs = some true → exec (.finish c k false) s = .next (spdmError (setConn s c { connOf s c with hs := none }) c 6)) ∧
    (∀ cls t sid w, (∀ d, k ≠ .kyholt d) → let u := setConn s c { connOf s c with hs := none }
      (connOf s c).hs = some true → chainClass u k = some (cls, t) → s.spdm.sessions.freeKey 0 65 = some sid → s.win.freeKey 2 64 = some w →
      exec (.finish c k true) s = .next (spdmSay { u with
        spdm := { u.spdm with sessions := s.spdm.sessions.set sid { conn := c, cls := cls, tenant := t, window := some w, lastBeat := s.now } }
        win := s.win.set w { cls := cls, owner := t, session := some sid } } c 0x65 []))) ∧
  (∀ (s : State) (c h q : Nat), let big := (connOf s c).large
    exec (.chunkGet c h q) s = .next (if 4096 * q < big.length then spdmSay s c 0x06 (leBytes 1 h ++ leBytes 2 q ++ (big.drop (4096 * q)).take 4096) else spdmError s c 4)) ∧
  (∀ (s : State) (i : Nat) (x : Session), s.spdm.sessions.get? i = some x →
    exec (.keyUpdate i) s = .next (spdmSay { s with spdm := { s.spdm with sessions := s.spdm.sessions.set i { x with keyGen := x.keyGen + 1 } } } x.conn 0x69 []) ∧
    exec (.heartbeat i) s = .next (spdmSay { s with spdm := { s.spdm with sessions := s.spdm.sessions.set i { x with lastBeat := s.now } } } x.conn 0x68 []) ∧
    exec (.endSession i) s = .next (spdmSay (dropSession s i) x.conn 0x6C []))

/-- A fragment of 1 to 44 bytes teaches the endpoint's port (one of the link partner, EP zero in KEYING or on a peer port,
teaches nothing); FIRST starts a message, the next of its MSGSEQ goes on, LAST completes it; another MSGSEQ or more
than 4,096 bytes drops what was gathered; a reserved form, another size among them, counts as bad. A session silent
for 90 s is dropped. A port in KEYING not yet keyed advances, installs its keys at a FINISH with a chain that R474
accepts, and records and delays a failure by 10 s with its event; at its retry time it starts again, the requester
asking. A key of 3,600 s or 2^34 counts is due once the rekey before it is over: the switch points, each next value
plus 4,096, are announced; before, nothing changes. The partner's switch points are kept on a keyed link; on another,
or in a reserved form, they are counted as bad. -/
def Obligations.SpdmFragmentAndKeyingRowsComplete : Prop :=
  (∀ (s : State) (m : MgtMsg), heard s m.port true = true →
    let b := m.bytes
    let ep := subNat b 1 3
    let conn := fragConn s m.port ep
    let t := if conn = ep then learn s ep m.port else s
    let x := connOf t conn
    let d := sub b 11 (subNat b 5 1)
    let first := (subNat b 4 1).testBit 0
    let last := (subNat b 4 1).testBit 1
    let sec := (subNat b 4 1).testBit 2
    (fragBad b = true → exec (.spdmFrag m) s = .next (countBad s m.port)) ∧
    (fragBad b = false → isDead s ep = true → conn = ep → exec (.spdmFrag m) s = .next s) ∧
    (fragBad b = false → (isDead s ep = false ∨ conn ≠ ep) →
      (first = true → last = true → d.length ≤ 4096 →
        exec (.spdmFrag m) s = .next (setConn t conn { x with frag := none, recv := if sec = true then x.recv else d })) ∧
      (first = true → last = false → d.length ≤ 4096 → exec (.spdmFrag m) s = .next (setConn t conn { x with frag := some (subNat b 6 2, d) })) ∧
      (∀ old, first = false → x.frag = some (subNat b 6 2, old) →
        exec (.spdmFrag m) s = .next (setConn t conn (if 4096 < (old ++ d).length then { x with frag := none }
          else if last = true then { x with frag := none, recv := if sec = true then x.recv else old ++ d }
          else { x with frag := some (subNat b 6 2, old ++ d) }))) ∧
      (first = false → x.frag.all (fun f => decide (f.1 ≠ subNat b 6 2)) = true → exec (.spdmFrag m) s = .next (setConn t conn { x with frag := none })))) ∧
  (∀ (s : State) (i : Nat) (x : Session), s.spdm.sessions.get? i = some x →
    exec (.spdmSessionExpiry i) s = .next (if sec 90 + x.lastBeat ≤ s.now then dropSession s i else s)) ∧
  (∀ (s : State) (p : Nat) (q : Port), s.ports.get? p = some q → q.st = .keying → q.key.keyed = false → (q.cfg.keyOff = false ∨ 8 ≤ p) →
    let bad := fun (code kind : Nat) => event (modPort s p fun q => { q with key := { q.key with step := 0, retryAt := sec 10 + s.now } }) .keyingFail (srcPort p)
      none none 0 [(0, 1, code), (1, 1, kind)]
    exec (.linkKeyingResponse p .advance) s = .next { s with ports := s.ports.set p { q with key := { q.key with step := q.key.step + 1 } } } ∧
    (∀ k, exec (.linkKeyingResponse p (.finish k)) s = .next (if linkChainOk s p k = true then installKeys s p else bad 0 0)) ∧
    exec (.linkKeyingResponse p .refused) s = .next (bad 0 0) ∧
    (∀ c, exec (.linkKeyingResponse p (.failed c)) s = .next (bad c 1)) ∧
    (s.now < q.key.retryAt → exec (.keyingRetry p) s = .next s) ∧
    (q.key.retryAt ≤ s.now → let t : State := { s with ports := s.ports.set p { q with key := { q.key with step := 1, retryAt := sec 10 + s.now } } }
      exec (.keyingRetry p) s = .next (askVersion t p))) ∧
  (∀ (s : State) (p : Nat) (q : Port), s.ports.get? p = some q →
    (rekeyDue s q = false → exec (.linkRekeyDue p) s = .next s) ∧
    (q.key.keyed = true → q.key.swTxAcked = true → (sec 3600 + q.key.since ≤ s.now ∨ 2 ^ 34 + (keyBase q).1 ≤ q.sn.txNext ∨
        2 ^ 34 + (keyBase q).2.1 ≤ q.sp.txNext ∨ 2 ^ 34 + (keyBase q).2.2 ≤ q.key.cctrTx) →
      let n := q.sn.txNext + 4096
      let m := q.sp.txNext + 4096
      let c := q.key.cctrTx + 4096
      exec (.linkRekeyDue p) s = .next (sendHere { s with ports := s.ports.set p { q with key := { q.key with
        since := s.now, swTx := q.key.swTx ++ [(n, m, c)], swTxAcked := false } } } p (.rekey p) (.linkRekey p n m c)))) ∧
  (∀ (s : State) (m : MgtMsg) (q : Port), s.ports.get? m.port = some q → heard s m.port true = true →
    (mgtBad m.bytes 0x5F [(8, 24)] = true ∨ q.key.keyed = false → exec (.linkRekey m) s = .next (countBad s m.port)) ∧
    (mgtBad m.bytes 0x5F [(8, 24)] = false → q.key.keyed = true → exec (.linkRekey m) s = .next { s with
      ports := s.ports.set m.port { q with key := { q.key with
        swRx := q.key.swRx ++ [(subNat m.bytes 8 8, subNat m.bytes 16 8, subNat m.bytes 24 8)] } } }))

/-- On a port whose link stands: a SEQ flit that fails integrity counts as a failure (without keys, one with KEYED set;
with keys, one with it clear); a reserved header or slot encoding, slots of another space, or an acknowledgement of a
number not sent declares the link down (causes 3, 2, 2). Otherwise the acknowledgements free their flits, and while
the link still stands the flit is of R77's classes: accepted, NEXT rises by one and an IDLE answers; the first of a
gap draws a NAK, later ones none; a duplicate changes nothing; one outside declares the link down; in KEYING only MGT
flits are taken. IDLE and NAK flits pass the same checks, with zero slot headers; an IDLE frees what it acknowledges;
a NAK resends its flit and the later ones, or, of a number not sent, declares the link down. A flit of another type or
on a port without a link changes nothing. A CRC error changes nothing. NAK and replay repeat after REPLAY_TMO,
recovery's end resends with fresh counts, IDLE leaves after 1 µs of silence, DOWN_TMO without a flit or in recovery
declares the link down, and 1 s after coming up a port takes its endpoints back, those with messages in flight on the
partner once they are acknowledged. Each row completes whatever the port's state. -/
def Obligations.LinkFlitRowsComplete : Prop :=
  (∀ (s : State) (p : Nat) (q : Port) (f : List Byte), s.ports.get? p = some q →
    ((linkAlive q = false ∨ inRange (flitType f) 1 4 = true) → exec (.seqFlitReceive p f) s = .next (goLasts s)) ∧
    (q.key.keyed = false → openSeq q f = if flitKeyed f = true then none else some (flitSlots f)) ∧ (q.key.keyed = true → flitKeyed f = false → openSeq q f = none) ∧
    (linkAlive q = true → inRange (flitType f) 1 4 = false →
      (openSeq q f = none → exec (.seqFlitReceive p f) s = .next (goLasts (integrityFail s p))) ∧
      (∀ b, openSeq q f = some b →
        let t := modPort s p fun q => { q with lastValid := s.now }
        let l := fourSlots b
        let u := takeAcks t p f
        ((hdrBad f || slotsBad l) = true → exec (.seqFlitReceive p f) s = .next (goLasts (linkDown t p 3))) ∧
        ((hdrBad f || slotsBad l) = false → slotsWrong p (flitSpace f) l = true → exec (.seqFlitReceive p f) s = .next (goLasts (linkDown t p 2))) ∧
        ((hdrBad f || slotsBad l) = false → slotsWrong p (flitSpace f) l = false → alive u p = false → exec (.seqFlitReceive p f) s = .next (goLasts u)) ∧
        (∀ r, (hdrBad f || slotsBad l) = false → slotsWrong p (flitSpace f) l = false → u.ports.get? p = some r → linkAlive r = true →
          let priv := decide (flitSpace f = 1)
          let x := portSpace r priv
          (r.st = .keying → onlyMgt (flitSpace f) l = false → exec (.seqFlitReceive p f) s = .next (goLasts u)) ∧
          ((r.st ≠ .keying ∨ onlyMgt (flitSpace f) l = true) →
            (seqClass (x.next % 4096) (flitSeq f) priv = .accept → exec (.seqFlitReceive p f) s =
              .next (goLasts (sendIdle { u with ports := u.ports.set p (switchRx (setSpace r priv { x with next := x.next + 1, gapAt := none })) } p))) ∧
            (seqClass (x.next % 4096) (flitSeq f) priv = .gap → x.gapAt = none → exec (.seqFlitReceive p f) s = .next (goLasts (sendNak u p priv))) ∧
            (seqClass (x.next % 4096) (flitSeq f) priv = .gap → x.gapAt.isSome = true → exec (.seqFlitReceive p f) s = .next (goLasts u)) ∧
            (seqClass (x.next % 4096) (flitSeq f) priv = .duplicate → exec (.seqFlitReceive p f) s = .next (goLasts u)) ∧
            (seqClass (x.next % 4096) (flitSeq f) priv = .outside → exec (.seqFlitReceive p f) s = .next (goLasts (linkDown u p 2)))))))) ∧
  (∀ (s : State) (p : Nat) (q : Port) (f : List Byte), s.ports.get? p = some q → ∀ e ∈ [(1, Instr.idleFlitReceive p f), (2, Instr.nakReceive p f)],
    let t := modPort s p fun q => switchRx { q with lastValid := s.now, key := { q.key with cctrRx := if q.key.keyed then some (flitCctr f) else none } }
    let u := takeAcks t p f
    let bad := hdrBad f || !((fourSlots (flitSlots f)).all fun a => zeros a 0 1)
    ((linkAlive q = false ∨ (flitType f ≠ e.1 ∧ flitType f ≤ 4)) → exec e.2 s = .next (goLasts s)) ∧
    (linkAlive q = true → (flitType f = e.1 ∨ 4 < flitType f) →
      (controlOk q f = false → exec e.2 s = .next (goLasts (integrityFail s p))) ∧
      (controlOk q f = true → bad = true → exec e.2 s = .next (goLasts (linkDown t p 3))) ∧
      (controlOk q f = true → bad = false → alive u p = false → exec e.2 s = .next (goLasts u)) ∧
      (∀ r, controlOk q f = true → bad = false → u.ports.get? p = some r → linkAlive r = true →
        (e.1 = 1 → exec e.2 s = .next (goLasts u)) ∧
        (e.1 = 2 →
          let priv := decide (flitSpace f = 1)
          let x := portSpace r priv
          let d := (x.txNext + 4095 - flitSeq f) % 4096
          (d < 2048 → d < x.txNext → (x.unack.any fun f => f.seq = x.txNext - 1 - d) = true →
            exec e.2 s = .next (goLasts (replayFrom u p priv (x.txNext - 1 - d) true))) ∧
          (d < 2048 → d < x.txNext → (x.unack.any fun f => f.seq = x.txNext - 1 - d) = false → exec e.2 s = .next (goLasts u)) ∧
          ((2048 ≤ d ∨ x.txNext ≤ d) → exec e.2 s = .next (goLasts (linkDown u p 2))))))) ∧
  (∀ (s : State) (p n : Nat) (f : List Byte), exec (.flitCrcError p) s = .next s ∧ (s.ports.get? p = none →
    (∀ i ∈ [Instr.seqFlitReceive p f, .idleFlitReceive p f, .nakReceive p f], exec i s = .next (goLasts s)) ∧
    (∀ i ∈ [Instr.nakRepeat p n, .replayTimeout p n, .keepAlive p, .downTimeout p, .failBackHoldExpiry p, .phyRecoveryDone p], exec i s = .next s))) ∧
  (∀ (s : State) (p sp : Nat) (q : Port), s.ports.get? p = some q → let x := portSpace q (sp = 1)
    (x.gapAt = none → exec (.nakRepeat p sp) s = .next s) ∧ (x.unack = [] → exec (.replayTimeout p sp) s = .next s) ∧
    (∀ t, x.gapAt = some t → exec (.nakRepeat p sp) s = .next (if t + 10 * q.cfg.replayTmo ≤ s.now ∧ linkSends q = true then sendNak s p (sp = 1) else s)) ∧
    (∀ f l, x.unack = f :: l → exec (.replayTimeout p sp) s =
      .next (if x.progressAt + 10 * q.cfg.replayTmo ≤ s.now ∧ (q.st = .keying ∨ q.st = .up) then replayFrom s p (sp = 1) f.seq true else s))) ∧
  (∀ (s : State) (p : Nat) (q : Port), s.ports.get? p = some q →
    (exec (.keepAlive p) s = .next (if linkSends q = true ∧ us 1 + q.lastSent ≤ s.now then sendIdle s p else s)) ∧
    (q.recoverySince = none → exec (.downTimeout p) s = .next (if linkAlive q = true ∧ q.lastValid + us q.cfg.downTmo ≤ s.now then linkDown s p 0 else s)) ∧
    (∀ t, q.recoverySince = some t → exec (.downTimeout p) s = .next (if t + us q.cfg.downTmo ≤ s.now then linkDown s p 1 else s)) ∧
    (q.st ≠ .recovery → exec (.phyRecoveryDone p) s = .next s) ∧
    (q.st = .recovery → let fresh := fun (x : Space) => { x with unack := x.unack.map fun f => { f with sends := 0 } }
      let t : State := { s with ports := s.ports.set p { q with
        st := if q.key.keyed || (q.cfg.keyOff && decide (p < 8)) then .up else .keying, recoverySince := none, lastValid := s.now, sn := fresh q.sn, sp := fresh q.sp } }
      exec (.phyRecoveryDone p) s = .next (linkResumes (replayFrom (replayFrom t p true 0 false) p false 0 false) p)) ∧
    (s.ports.get? (partnerPort p) = none → exec (.failBackHoldExpiry p) s = .next s) ∧
    (∀ r, s.ports.get? (partnerPort p) = some r → exec (.failBackHoldExpiry p) s = .next (if q.st = .up ∧ q.routedAway = true ∧ sec 1 + q.upSince ≤ s.now then
      recomputeLevels { s with ports := s.ports.set p { q with routedAway := false, movingBack := (epsOn r).filter fun e => routePort s e = p } } else s)))

/-- A port in TRAINING that did not train, or on lanes R66 does not have, goes down with its event; one that trained
negotiates, its NEGOTIATE sent with REV 2 and 1, DOWN_TMO and the capabilities, with the rate, width and spare lane:
x16 of the chosen lanes, or after the loss of a second lane the half that is left; a width that changed is recorded
and the flights of a fabric port follow it. NEGOTIATE is sent again 1 µs after the last while the other end's has not
come. A NEGOTIATE flit with KEYED set fails integrity; one with a reserved header declares the link down; one without
a common revision takes the port down with its event; otherwise the port is KEYING at the highest common revision,
lanes may be swapped when both DOWN_TMO are at least 32 µs and the other end can, the requester asks for keying, and
an unkeyed port of a READY unit comes up. One on a link that stands only acknowledges. In other states nothing
changes. -/
def Obligations.LinkTrainingRowsComplete : Prop :=
  (∀ (s : State) (p : Nat) (q : Port) (r t : Bool) (l hi : Nat), s.ports.get? p = some q →
    let lanes := if t = true then (if q.half = true then halfLanes q.badLanes else fullLanes p l) else none
    (q.st ≠ .training → exec (.phyTrainingDone p r t l hi) s = .next s) ∧
    (q.st = .training → lanes = none → exec (.phyTrainingDone p r t l hi) s = .next (event { s with ports := s.ports.set p { q with st := .down } } .trainFail (srcPort p) none none 0
      [(0, 1, (setBits 17 l).length), (1, 1, hi)])) ∧
    (∀ m w, q.st = .training → lanes = some (m, w) →
      let u := sendNegotiate { s with ports := s.ports.set p { q with
        st := .negotiating, rate32 := r, degraded := q.half, half := false, spareUsed := decide (w ≠ 31), swappedLane := w
        badLanes := if q.half = true then q.badLanes else if w = 31 then [] else [w], lastValid := s.now } } p
      (q.degraded = q.half → exec (.phyTrainingDone p r t l hi) s = .next u) ∧
      (q.degraded ≠ q.half → exec (.phyTrainingDone p r t l hi) s =
        .next (widthChange (event u .portDegraded (srcPort p) none none 0 [(0, 1, b2n q.half), (4, 4, m)]) p q.degraded q.half (resLimit s p))))) ∧
  (∀ (s : State) (p : Nat) (q : Port), s.ports.get? p = some q →
    exec (.negotiateResend p) s = .next (if q.st = .negotiating ∧ q.partner = none ∧ us 1 + q.lastNegotiate ≤ s.now then sendNegotiate s p else s) ∧
    (let caps := if p < 8 then 3 else 1
     sendNegotiate s p = sendControl (modPort s p fun q => { q with lastNegotiate := s.now }) p 3 0 0 (msgOf 47 [(1, 2), (1, 1), (2, q.cfg.downTmo), (1, caps)]) (.negotiate p 2 1 q.cfg.downTmo caps))) ∧
  (∀ (s : State) (p : Nat) (r t : Bool) (l hi : Nat) (f : List Byte), s.ports.get? p = none → ∀ i ∈ [Instr.phyTrainingDone p r t l hi, .negotiateResend p, .negotiate p f], exec i s = .next s) ∧
  (∀ (s : State) (p : Nat) (q : Port) (f : List Byte), s.ports.get? p = some q →
    let v := modPort s p fun q => { q with lastValid := s.now }
    let u := takeAcks v p f
    let bad := hdrBad f || !((fourSlots (flitSlots f)).all fun a => zeros a 0 1)
    (((q.st ≠ .negotiating ∧ linkAlive q = false) ∨ (flitType f ≠ 3 ∧ flitType f ≤ 4)) → exec (.negotiate p f) s = .next s) ∧
    ((q.st = .negotiating ∨ linkAlive q = true) → (flitType f = 3 ∨ 4 < flitType f) →
      (flitKeyed f = true → exec (.negotiate p f) s = .next (integrityFail s p)) ∧
      (flitKeyed f = false → bad = true → exec (.negotiate p f) s = .next (linkDown v p 3)) ∧
      (flitKeyed f = false → bad = false → ((u.ports.get? p).any fun q => decide (q.st = .negotiating)) = false → exec (.negotiate p f) s = .next u) ∧
      (∀ x, flitKeyed f = false → bad = false → u.ports.get? p = some x → x.st = .negotiating →
        let a := subNat f 1 1
        let b := subNat f 2 1
        let d := subNat f 3 2
        let c := subNat f 5 1
        (min 2 a < max 1 b → exec (.negotiate p f) s = .next (event { u with ports := u.ports.set p { x with partner := some (a, b, d, c), st := .down } } .noCommonRev (srcPort p) none none 0 [(0, 1, b), (1, 1, a)])) ∧
        (max 1 b ≤ min 2 a →
          let r : Port := { x with
            partner := some (a, b, d, c), st := .keying, dfp1 := decide (min 2 a = 1)
            swapEn := decide (32 ≤ x.cfg.downTmo ∧ 32 ≤ d) && c.testBit 0, key := { x.key with retryAt := sec 10 + u.now } }
          let w := recomputeLevels { u with ports := u.ports.set p r }
          let t := if (r.cfg.keyOff && decide (p < 8)) = true then w else askVersion w p
          exec (.negotiate p f) s = .next (if mayComeUp t p r = true then portComesUp t p else t)))))

/-- A lane over the LANE_THR latched at the start of its interval on an UP port starts a swap; with swap disabled it is
recorded; with a swap under way nothing starts; with the spare in use the link goes down with cause 6, a fabric port
to train again at x8, a peer port for good. The new LANE_THR holds from the next interval. A LANE_SWAP flit passes a
control flit's checks. A REQUEST is refused with swap disabled or the spare used, accepted when no swap is under way,
and passed over when the SH940's own crossing request stands; an ACCEPT or REFUSE of the own request goes on or ends
the swap with its event. 10 µs without an answer send the REQUEST again, up to four times, then end the swap with its
event. 1 µs after the accept the link falls quiet, and afterwards flits resume on the new lanes, recorded. Each row
completes whatever the port's state. -/
def Obligations.LaneSwapRowsComplete : Prop :=
  (∀ (s : State) (p : Nat) (q0 : Port) (l : List Nat), s.ports.get? p = some q0 →
    let q := { q0 with laneThr := q0.cfg.laneThr }
    let u := { s with ports := s.ports.set p q }
    let found := (List.range l.length).find? fun i => decide (q0.laneThr < (l[i]?).getD 0)
    (q.st ≠ .up → exec (.laneErrorInterval p l) s = .next u) ∧ (q.st = .up → found = none → exec (.laneErrorInterval p l) s = .next u) ∧
    (∀ i, let n := (l[i]?).getD 0
      q.st = .up → found = some i →
      (q.spareUsed = true → exec (.laneErrorInterval p l) s =
        .next (linkDown { u with ports := u.ports.set p { q with badLanes := q.badLanes ++ [i], half := decide (p < 8), outOfUse := decide (8 ≤ p) } } p 6)) ∧
      (q.spareUsed = false → q.swapEn = false → exec (.laneErrorInterval p l) s = .next (event u .laneThreshold (srcPort p) none none 0 [(0, 1, i), (1, 1, 0), (4, 4, n)])) ∧
      (q.spareUsed = false → q.swapEn = true → q.swap.isSome = true → exec (.laneErrorInterval p l) s = .next u) ∧
      (q.spareUsed = false → q.swapEn = true → q.swap = none → exec (.laneErrorInterval p l) s = .next (sendLaneSwap { u with
        ports := u.ports.set p { q with swapId := (q.swapId + 1) % 256, swap := some { lane := i, id := (q.swapId + 1) % 256, mine := true, count := n, sentAt := s.now } } } p 0 i ((q.swapId + 1) % 256))))) ∧
  (∀ (s : State) (p : Nat) (l : List Nat) (f : List Byte), s.ports.get? p = none →
    ∀ i ∈ [Instr.laneErrorInterval p l, .laneSwapReceive p f, .laneSwapRequestTimeout p, .laneSwapQuietStart p, .laneSwapQuietEnd p], exec i s = .next s) ∧
  (∀ (s : State) (p : Nat) (q : Port) (f : List Byte), s.ports.get? p = some q →
    let v := modPort s p fun q => switchRx { q with lastValid := s.now, key := { q.key with cctrRx := if q.key.keyed then some (flitCctr f) else none } }
    let t := takeAcks v p f
    let bad := hdrBad f || !((fourSlots (flitSlots f)).all fun a => zeros a 0 1)
    let k := subNat f 1 1
    let i := subNat f 2 1
    let j := subNat f 3 1
    ((linkAlive q = false ∨ (flitType f ≠ 4 ∧ flitType f ≤ 4)) → exec (.laneSwapReceive p f) s = .next s) ∧
    (linkAlive q = true → 4 ≤ flitType f →
      (controlOk q f = false → exec (.laneSwapReceive p f) s = .next (integrityFail s p)) ∧
      (controlOk q f = true → bad = true → exec (.laneSwapReceive p f) s = .next (linkDown v p 3)) ∧
      (controlOk q f = true → bad = false → alive t p = false → exec (.laneSwapReceive p f) s = .next t) ∧
      (∀ r, controlOk q f = true → bad = false → t.ports.get? p = some r → linkAlive r = true →
        (((if p < 8 then 16 else 8) ≤ i ∨ 3 ≤ k) → exec (.laneSwapReceive p f) s = .next t) ∧
        (i < (if p < 8 then 16 else 8) →
          (k = 0 → (r.swapEn = false ∨ r.spareUsed = true) → exec (.laneSwapReceive p f) s = .next (sendLaneSwap t p 2 i j)) ∧
          (k = 0 → r.swapEn = true → r.spareUsed = false → r.swap = none → exec (.laneSwapReceive p f) s = .next (sendLaneSwap { t with
            ports := t.ports.set p { r with badLanes := r.badLanes ++ [i], swap := some { lane := i, id := j, mine := false, sentAt := t.now, accepted := some t.now } } } p 1 i j)) ∧
          (∀ w, k = 0 → r.swapEn = true → r.spareUsed = false → r.swap = some w → w.mine = true → w.accepted = none → (p < 8 ∨ t.pair.cfg.side = 0) →
            exec (.laneSwapReceive p f) s = .next t) ∧
          (∀ w, k = 0 → r.swapEn = true → r.spareUsed = false → r.swap = some w → w.mine = true → w.accepted = none → 8 ≤ p → t.pair.cfg.side ≠ 0 →
            exec (.laneSwapReceive p f) s = .next (sendLaneSwap { t with
              ports := t.ports.set p { r with badLanes := r.badLanes ++ [i], swap := some { lane := i, id := j, mine := false, sentAt := t.now, accepted := some t.now } } } p 1 i j)) ∧
          (∀ w, r.swap = some w → w.mine = true → w.lane = i → w.id = j → w.accepted = none →
            (k = 1 → exec (.laneSwapReceive p f) s = .next { t with ports := t.ports.set p { r with badLanes := r.badLanes ++ [i], swap := some { w with accepted := some t.now } } }) ∧
            (k = 2 → exec (.laneSwapReceive p f) s = .next (event { t with ports := t.ports.set p { r with swap := none } } .laneThreshold (srcPort p) none none 0
              [(0, 1, i), (1, 1, 2), (4, 4, w.count)])))))) ) ∧
  (∀ (s : State) (p : Nat) (q : Port), s.ports.get? p = some q → q.swap = none → ∀ i ∈ [Instr.laneSwapRequestTimeout p, .laneSwapQuietStart p, .laneSwapQuietEnd p], exec i s = .next s) ∧
  (∀ (s : State) (p : Nat) (q : Port) (w : Swap), s.ports.get? p = some q → q.swap = some w →
    ((w.mine = false ∨ w.accepted.isSome = true ∨ s.now < us 10 + w.sentAt) → exec (.laneSwapRequestTimeout p) s = .next s) ∧
    (w.mine = true → w.accepted = none → us 10 + w.sentAt ≤ s.now → w.tries < 5 → exec (.laneSwapRequestTimeout p) s = .next (sendLaneSwap { s with
      ports := s.ports.set p { q with swap := some { w with tries := w.tries + 1, sentAt := s.now } } } p 0 w.lane w.id)) ∧
    (w.mine = true → w.accepted = none → us 10 + w.sentAt ≤ s.now → 5 ≤ w.tries → exec (.laneSwapRequestTimeout p) s =
      .next (event { s with ports := s.ports.set p { q with swap := none } } .laneThreshold (srcPort p) none none 0 [(0, 1, w.lane), (1, 1, 1), (4, 4, w.count)])) ∧
    ((q.st ≠ .up ∨ w.accepted = none) → exec (.laneSwapQuietStart p) s = .next s) ∧
    (∀ t, w.accepted = some t → q.st = .up → exec (.laneSwapQuietStart p) s =
      .next (if us 1 + t ≤ s.now then { s with ports := s.ports.set p { q with st := .swapping } } else s)) ∧
    (q.st ≠ .swapping → exec (.laneSwapQuietEnd p) s = .next s) ∧
    (q.st = .swapping → exec (.laneSwapQuietEnd p) s = .next (linkResumes (event { s with ports := s.ports.set p { q with
      st := .up, spareUsed := true, swappedLane := w.lane, swap := none, lastValid := s.now } } .laneSwap (srcPort p) none none 0 [(0, 1, w.lane), (1, 1, w.id)]) p)))

/-- Each request row: on a port that is not up nothing happens; a STANDBY counts and drops it, a FENCED unit and one that
quiesces drop or time it out, a dead endpoint's is dropped. Else the sender's port is learned; a reserved field (an
offset not of a line, an unlisted atomic size or its misaligned offset) is CMP_DENIED and counted bad; another home
epoch CMP_EPOCH; a held tracker makes it a reissue; without an entry, or over its budget, it is CMP_DENIED without a
tracker and counted in BUDGET_DENY; otherwise a tracker is taken. Then the request-context check, and for a welt
access an open welt and no engine context: failing it completes CMP_DENIED, passing it waits in its line's queue. A
welt access also serves what the welts it meets release. -/
def Obligations.RequestRowsComplete : Prop :=
  ∀ (s : State) (n : ReqMsg) (c : Instr) (r : Req) (bad : Bool) (f : State → State), let m := n
    (c, r, bad, f) ∈ ([(.rdS m, reqOf .rdS m, m.bad 1, id), (.rdX m, reqOf .rdX m, m.bad 2, id), (.rdNa m, reqOf .rdNa m, m.bad 3, id), (.upg m, reqOf .upg m, m.bad 4, id),
      (.wrFull m, { reqOf .wrFull m with d := m.line }, m.bad 5, id), (.wrPart m, { reqOf .wrPart m with d := m.line, mask := m.mask }, m.bad 6, id),
      (.amo m, { reqOf .amo m with amoOp := m.amoOp, amoSize := m.amoSize, ret := m.ret, opA := m.opA, opB := m.opB },
        m.bad 8 || !amoListed m.amoOp m.amoSize || decide (m.offset % amoBytes m.amoSize ≠ 0), id),
      (.wltRd m, { reqOf .wltRd m with handle := m.handle }, m.bad 0x11, settleTier), (.wltWr m, { reqOf .wltWr m with handle := m.handle }, m.bad 0x12, settleTier)] : List (Instr × Req × Bool × (State → State))) →
    (heard s n.port false = false → exec c s = .next (f s)) ∧ (heard s n.port false = true →
    let t := learn s n.src n.port
    let deny := fun (t : State) => modPort t n.port fun q => { q with budgetDeny := satAdd 32 q.budgetDeny 1 }
    (s.pair.role = .standby → exec c s = .next (f { s with pair := { s.pair with discarded := satAdd 32 s.pair.discarded 1 } })) ∧
    ((s.pair.role = .fenced ∨ (s.pair.role ≠ .standby ∧ s.pwr.diesHeld = true)) → exec c s = .next (f s)) ∧
    (s.pair.role ≠ .standby → s.pair.role ≠ .fenced → s.pwr.diesHeld = false →
      (isDead s n.src = true → exec c s = .next (f s)) ∧
      (isDead s n.src = false → s.pwr.quiesceSince.isSome = true → exec c s = .next (f (answerNote t n.port n.src n.tag .timeout))) ∧
      (isDead s n.src = false → s.pwr.quiesceSince = none →
        (bad = true → exec c s = .next (f (answerNote (countBad t n.port) n.port n.src n.tag .denied))) ∧
        (bad = false → n.epoch ≠ s.homeEpoch → exec c s = .next (f (answerNote t n.port n.src n.tag .epoch))) ∧
        (bad = false → n.epoch = s.homeEpoch →
          (∀ h, s.home.trackers.get? (trkKey n.src n.tag) = some h → exec c s = .next (f (reissued t r n.port n.tag h))) ∧
          (s.home.trackers.get? (trkKey n.src n.tag) = none →
            (aclOf s n.hall n.src = none → exec c s = .next (f (answerNote (deny t) n.port n.src n.tag .denied))) ∧
            (∀ a, aclOf s n.hall n.src = some a →
              (a.inForce ≤ charged s n.hall n.src → exec c s = .next (f (answerNote (deny t) n.port n.src n.tag .denied))) ∧
              (charged s n.hall n.src < a.inForce →
                let line := ((s.halls.get? n.hall).map fun h => lineOf h n.offset).getD 0
                let v : Tracker := { hall := n.hall, kind := kindCode r.kind, line := line, port := n.port }
                let u : State := { t with home := { s.home with trackers := s.home.trackers.set (trkKey n.src n.tag) v } }
                (passes u r.kind n.hall n.offset n.src n.ctx = true → (isWelt r = true → n.ctx = none ∧ (openOf u r).isSome = true) →
                  exec c s = .next (f (enqueue u r))) ∧
                ((passes u r.kind n.hall n.offset n.src n.ctx = false ∨ (isWelt r = true ∧ (n.ctx.isSome = true ∨ openOf u r = none))) →
                  exec c s = .next (f (completeCode u r .denied))))))))))

/-- On a port that is not up nothing happens. A WB_M a serving home takes: with a reserved field it is CMP_DENIED and
counted bad; to a hall that does not take requests, on a line not recorded to its sender, it is CMP_DENIED. On a line
its sender owns the entry is freed and the data held until it is written, its block landing if need be, and then
completed; of a line in the write set of a welt of the sender the data joins the buffer and it completes CMP_OK. In
the recovery window one with the old epoch from a writer is taken whatever the entry says. One refused for want of
rights, while a revocation's snoop to its sender is out for the line, answers that snoop. An answer to a snoop: with a
reserved field it is counted bad; from a dead endpoint, or of an STAG not outstanding, it is discarded; else the snoop
is no longer outstanding and the answer is dealt with by what the snoop was for. RSP_WB_PEND counts as RSP_I when its
WB_M was taken, else the snoop waits for it. -/
def Obligations.WritebackAndSnoopAnswerRowsComplete : Prop :=
  (∀ (s : State) (m : ReqMsg), (heard s m.port false = false → exec (.wbM m) s = .next s) ∧
    (heard s m.port false = true → s.pair.role ≠ .standby → s.pair.role ≠ .fenced → s.pwr.diesHeld = false → isDead s m.src = false → s.pwr.quiesceSince = none →
      (m.bad 0x07 = true → exec (.wbM m) s = .next (answerNote (countBad (learn s m.src m.port) m.port) m.port m.src m.tag .denied)))) ∧
  (∀ (s : State) (m : ReqMsg) (a : AclEntry) (h : Hall), m.bad 0x07 = false → heard s m.port false = true →
    s.pair.role ≠ .standby → s.pair.role ≠ .fenced → s.pwr.diesHeld = false → isDead s m.src = false → s.pwr.quiesceSince = none →
    s.home.trackers.get? (trkKey m.src m.tag) = none → aclOf s m.hall m.src = some a → charged s m.hall m.src < a.inForce → (learn s m.src m.port).halls.get? m.hall = some h →
    let d := m.line
    let line := lineOf h m.offset
    let v : Tracker := { hall := m.hall, kind := 7, line := line, port := m.port }
    let t := learn s m.src m.port
    let u : State := { t with home := { s.home with trackers := s.home.trackers.set (trkKey m.src m.tag) v } }
    let r : Req := { reqOf .wrFull m with line := line, d := d }
    let take := fun (t : State) => takeWb (landFor t m.hall h m.offset m.src) line m.port m.src m.tag d
    (m.epoch = s.homeEpoch → oldWb s m = false →
      (hallTakes u m.hall m.offset = false → exec (.wbM m) s = .next (wbDrain (completeCode u (reqOf .wrFull m) .denied) m)) ∧
      (hallTakes u m.hall m.offset = true →
        (((dirAt u line).bind fun e => e.owner) ≠ some m.src → exec (.wbM m) s = .next (completeCode u r .denied)) ∧
        (∀ e, dirAt u line = some e → e.owner = some m.src →
          (e.pin = none → exec (.wbM m) s = .next (take (freeDir u line))) ∧
          (∀ slot, e.pin = some slot →
            ((weltAt u slot).owner = m.src → (weltAt u slot).writes.contains line = true → 
              exec (.wbM m) s = .next (settleTier (noteWb (completeCode (if (weltAt u slot).st = .aborting then u else modWelt u slot fun w => { w with buf := w.buf.set line d }) r .ok) line m.src))) ∧
            ((weltAt u slot).owner ≠ m.src ∨ (weltAt u slot).writes.contains line = false → exec (.wbM m) s = .next (take (freeDir u line))))))) ∧
    (oldWb s m = true → hallTakes u m.hall m.offset = true →
      exec (.wbM m) s = .next (take (if ((dirAt u line).bind fun e => e.owner) = some m.src then freeDir u line else u)))) ∧
  (∀ (s : State) (m : RspMsg) (c : Instr) (v : Resp) (bad : Bool),
    (c, v, bad) ∈ [(.rspI m, .i, m.bad 0x41), (.rspS m, .s, m.bad 0x42), (.rspFwdS m, .fwdS, m.bad 0x43), (.rspFwdI m, .fwdI, m.bad 0x44), (.dataWb m, .wb m.line, m.badData)] →
    (heard s m.port false = false → exec c s = .next s) ∧
    (heard s m.port false = true → bad = true → exec c s = .next (countBad s m.port)) ∧
    (heard s m.port false = true → bad = false → (isDead s m.ep = true ∨ findSnoop s m.ep m.stag = none) → exec c s = .next s) ∧
    (∀ x use, heard s m.port false = true → bad = false → isDead s m.ep = false → findSnoop s m.ep m.stag = some (x, use) →
      exec c s = .next (settleTier (answerSnoop (dropSnoop s m.ep m.stag) x use v)))) ∧
  (∀ (s : State) (m : RspMsg),
    (heard s m.port false = false → exec (.rspWbPend m) s = .next s) ∧
    (heard s m.port false = true → m.bad 0x45 = true → exec (.rspWbPend m) s = .next (countBad s m.port)) ∧
    (heard s m.port false = true → m.bad 0x45 = false → (isDead s m.ep = true ∨ findSnoop s m.ep m.stag = none) → exec (.rspWbPend m) s = .next s) ∧
    (∀ x use, heard s m.port false = true → m.bad 0x45 = false → isDead s m.ep = false → findSnoop s m.ep m.stag = some (x, use) →
      (wbTaken s x = true → exec (.rspWbPend m) s = .next (settleTier (answerSnoop (dropSnoop s m.ep m.stag) x use .i))) ∧
      (wbTaken s x = false → exec (.rspWbPend m) s = .next { s with home := { s.home with
        snoops := s.home.snoops.map fun y => if y.1.ep = m.ep ∧ y.1.stag = m.stag then ({ y.1 with wbPend := true }, y.2) else y } })))

/-- ORDERING_POINT_REACHED: while a transaction is active, a back-invalidation of the line is out, in the recovery window,
or in a unit held or fenced, the line's queue stands; otherwise the welts it meets are dealt with, and the request
that goes next leaves the queue and is admitted. A snoop unanswered for 2 ms declares its endpoint dead; before,
nothing changes. The walk resolves every entry that names the dead endpoint and, once none does, ends with its event.
A request that waits for its ordering point for 1.5 ms, counted from the end of a recovery window, ends CMP_TIMEOUT; a
WLT_OPEN waiting for AGE_LIMIT ends ST_TIMEOUT (the model's reading). 16 ms in the tier phase end CMP_TIMEOUT, the
data a WR_FULL's snoops collected being stored. A tracker whose completion was lost 1 s ago is released with its
event. -/
def Obligations.HomeBoundRowsComplete : Prop :=
  (∀ (s : State) (l : Nat),
    let leaving := s.home.snoops.any fun x => decide (x.1.line = l) && (match x.2 with
      | .victimOf _ => true
      | _ => false)
    ((lineCtl s l).active.isSome = true ∨ leaving = true ∨ s.now < s.home.recoveryEnd ∨ s.pwr.diesHeld = true ∨ s.pair.role = .fenced → exec (.orderingPointReached l) s = .next (settleTier s)) ∧
    ((lineCtl s l).active = none → leaving = false → s.home.recoveryEnd ≤ s.now → s.pwr.diesHeld = false → s.pair.role ≠ .fenced →
      let u := meet s l
      let c := lineCtl u l
      (pickReq u l c.fifo = none → exec (.orderingPointReached l) s = .next (settleTier u)) ∧
      (∀ i r, pickReq u l c.fifo = some i → c.fifo[i]? = some r →
        exec (.orderingPointReached l) s = .next (settleTier (takeUp (setLine u l { c with fifo := c.fifo.eraseIdx i }) l r))))) ∧
  (∀ (s : State) (ep t : Nat) (x : Snoop) (u : SnoopUse), findSnoop s ep t = some (x, u) →
    exec (.snoopTimeout ep t) s = .next (if ms 2 + x.sentAt ≤ s.now then endpointDead s ep 1 t x.hall else s)) ∧
  (∀ (s : State) (ep : Nat), (epInfo s ep).walking = true → s.pwr.feltiOn = true →
    let t := settleTier (s.home.dir.foldl (fun s e => resolveEntry s e.1 ep) s)
    let names := (t.home.dir.any fun e => decide (e.2.owner = some ep) || (e.2.coarse.isNone && e.2.ptrs.contains ep)) ||
      ((t.home.lines.any fun e => e.2.active.any fun a => a.req.mute && decide (a.req.ep = ep)) || t.home.wbHeld.any fun x => x.mute && decide (x.ep = ep))
    (names = true → exec (.orphanWalk ep) s = .next t) ∧
    (names = false → let i := epInfo t ep
      exec (.orphanWalk ep) s = .next (event { t with eps := t.eps.set ep { i with walking := false, dead := !i.upAgain } } .orphanWalkDone srcSlices none none ep
        [(0, 4, i.poisoned), (4, 4, i.reverted), (8, 4, i.removed)]))) ∧
  (∀ (s : State) (l ep tag : Nat), let c := lineCtl s l
    let due := fun (r : Req) => decide (r.ep = ep ∧ reqTag r = tag) && orderingDue s r.at_
    let open_ := fun (x : WltMsg × Nat × Nat) => decide (x.1.ep = ep ∧ x.1.tag = tag) && orderingDue s x.2.1
    (∀ i r, c.fifo.findIdx? due = some i → c.fifo[i]? = some r → exec (.orderingBoundExpiry l ep tag) s = .next (completeCode (setLine s l { c with fifo := c.fifo.eraseIdx i }) r .timeout)) ∧
    (∀ i m t, c.fifo.findIdx? due = none → s.welt.waiting.findIdx? open_ = some i → s.welt.waiting[i]? = some (m, t) → exec (.orderingBoundExpiry l ep tag) s =
      .next (wltAnswer { s with welt := { s.welt with waiting := s.welt.waiting.eraseIdx i } } m.port ep tag fun p => .wltEnd p ep tag m.hall 0 false false stTimeout 0 s.homeEpoch)) ∧
    (c.fifo.findIdx? due = none → s.welt.waiting.findIdx? open_ = none → exec (.orderingBoundExpiry l ep tag) s = .next s)) ∧
  (∀ (s : State) (l : Nat),
    let due := fun (x : Resend) => decide (x.req.line = l ∧ ms 16 + x.since ≤ s.now)
    let t := (s.home.resends.filter due).foldl (fun s x => completeCode s x.req .timeout) { s with home := { s.home with resends := s.home.resends.filter fun x => !due x } }
    ((lineCtl t l).active = none → exec (.tierBoundExpiry l) s = .next t) ∧
    (∀ a i h, (lineCtl t l).active = some a → hallAt t (l * 64) = some (i, h) →
      (a.phase ≠ .tier ∨ t.now < ms 16 + a.since → exec (.tierBoundExpiry l) s = .next t) ∧
      (a.phase = .tier → ms 16 + a.since ≤ t.now → let u := completeCode (endActive t l) a.req .timeout
        (a.req.kind ≠ .wrFull ∨ a.got = none → exec (.tierBoundExpiry l) s = .next (settleTier u)) ∧
        (∀ d, a.req.kind = .wrFull → a.got = some d → exec (.tierBoundExpiry l) s = .next (settleTier (storeLine u i h l d (reqSub u a.req) (reqSvc a.req))))))) ∧
  (∀ (s : State) (ep tag : Nat), (s.home.trackers.get? (trkKey ep tag)).all (fun t => t.dropped.isNone) = true → exec (.trackerHoldExpiry ep tag) s = .next s) ∧
  (∀ (s : State) (ep tag : Nat), findSnoop s ep tag = none → exec (.snoopTimeout ep tag) s = .next s) ∧
  (∀ (s : State) (ep : Nat), ((epInfo s ep).walking = false ∨ s.pwr.feltiOn = false) → exec (.orphanWalk ep) s = .next s) ∧
  (∀ (s : State) (ep tag z : Nat) (t : Tracker), s.home.trackers.get? (trkKey ep tag) = some t → t.dropped = some z →
    (s.now < sec 1 + z → exec (.trackerHoldExpiry ep tag) s = .next s) ∧
    (sec 1 + z ≤ s.now → exec (.trackerHoldExpiry ep tag) s = .next (event { s with home := { s.home with trackers := s.home.trackers.erase (trkKey ep tag) } } .trackerReleased srcSlices
      none none ep [(0, 2, tag), (2, 1, t.kind)])))

/-- On a port that is not up nothing happens; a reserved form is CMP_DENIED and counted bad. For a message a serving home
takes (no reserved field, current epoch, tag not held, within budget): a hall that does not take requests, or a sender
without WELT there, is answered CMP_DENIED. WLT_OPEN in a hall whose level needs the owner-forward rule is CMP_DENIED;
with AGE below AGE_LIMIT it opens a welt; else it waits, or ends ST_FAULT when the limit could not be committed.
WLT_COMMIT and WLT_ABORT on a handle that names no welt of the sender and hall are CMP_DENIED; on an ended welt they
get its status again, or CMP_DENIED where it was delivered; on a committing one, and on one that aborts by the owner's
request, they wait for its end. On an open welt COMMIT starts the commit, but PERSIST in a hall that is not PERSISTENT
ends ST_BAD_ARG and leaves the welt open, and ABORT aborts it with ST_OK. -/
def Obligations.WeltMessageRowsComplete : Prop :=
  (∀ (s : State) (m : WltMsg) (bad : List (Nat × Nat)), ∀ e ∈ [(0x10, Instr.wltOpen m, id), (0x13, .wltCommit m bad, settleTier), (0x14, .wltAbort m, settleTier)],
    (heard s m.port false = false → exec e.2.1 s = .next (e.2.2 s)) ∧
    (heard s m.port false = true → s.pair.role ≠ .standby → s.pair.role ≠ .fenced → s.pwr.diesHeld = false → isDead s m.ep = false → s.pwr.quiesceSince = none →
      m.bad e.1 = true → exec e.2.1 s = .next (e.2.2 (answerNote (countBad (learn s m.ep m.port) m.port) m.port m.ep m.tag .denied)))) ∧
  (∀ (s : State) (m : WltMsg) (bad : List (Nat × Nat)) (a : AclEntry) (h : Hall), heard s m.port false = true → m.epoch = s.homeEpoch → s.pair.role ≠ .standby → s.pair.role ≠ .fenced → s.pwr.diesHeld = false →
    isDead s m.ep = false → s.pwr.quiesceSince = none → s.home.trackers.get? (trkKey m.ep m.tag) = none → aclOf s m.hall m.ep = some a → charged s m.hall m.ep < a.inForce → (learn s m.ep m.port).halls.get? m.hall = some h →
    let t := learn s m.ep m.port
    let u : Nat → State := fun code => { t with home := { s.home with trackers := s.home.trackers.set (trkKey m.ep m.tag) { hall := m.hall, kind := code, port := m.port } } }
    (m.bad 0x10 = false → (hallTakes (u 0) m.hall 0 = false ∨ a.rights.welt = false) → exec (.wltOpen m) s = .next (wltDenied (u 0x10) m)) ∧
    (m.bad 0x13 = false → (hallTakes (u 0) m.hall 0 = false ∨ a.rights.welt = false) → exec (.wltCommit m bad) s = .next (settleTier (wltDenied (u 0x13) m))) ∧
    (m.bad 0x14 = false → (hallTakes (u 0) m.hall 0 = false ∨ a.rights.welt = false) → exec (.wltAbort m) s = .next (settleTier (wltDenied (u 0x14) m))) ∧
    (m.bad 0x10 = false → hallTakes (u 0) m.hall 0 = true → a.rights.welt = true →
      (ownerFwd h = true → exec (.wltOpen m) s = .next (wltDenied (u 0x10) m)) ∧
      (ownerFwd h = false →
        (s.welt.age < s.welt.ageLimit → exec (.wltOpen m) s = .next (openWelt (u 0x10) m)) ∧
        (s.welt.ageLimit ≤ s.welt.age → s.welt.limitFailed = true →
          exec (.wltOpen m) s = .next (wltAnswer (u 0x10) m.port m.ep m.tag fun p => .wltEnd p m.ep m.tag m.hall 0 false false stFault 0 s.homeEpoch)) ∧
        (s.welt.ageLimit ≤ s.welt.age → s.welt.limitFailed = false →
          exec (.wltOpen m) s = .next { u 0x10 with welt := { s.welt with waiting := s.welt.waiting ++ [(m, s.now, h.epoch)] } }))) ∧
    (hallTakes (u 0) m.hall 0 = true → a.rights.welt = true → ∀ e ∈ [(0x13, Instr.wltCommit m bad), (0x14, .wltAbort m)], m.bad e.1 = false →
      let k := m.handle % 4096
      let w := weltAt s k
      (handleFits w m.handle m.ep m.hall = false → exec e.2 s = .next (settleTier (wltDenied (u e.1) m))) ∧
      (handleFits w m.handle m.ep m.hall = true →
        (w.st = .free → w.status = 0 → exec e.2 s = .next (settleTier (wltDenied (u e.1) m))) ∧
        (w.st = .free → w.status ≠ 0 → exec e.2 s = .next (settleTier (endAgain (u e.1) m w.status))) ∧
        (w.st = .aborting → w.asked = false → exec e.2 s = .next (settleTier (endAgain (u e.1) m w.status))) ∧
        ((w.st = .committing ∨ (w.st = .aborting ∧ w.asked = true)) → exec e.2 s = .next (settleTier (setWelt (u e.1) k { w with waitTags := w.waitTags ++ [(m.port, m.tag)] }))) ∧
        (w.st = .open_ → s.now < w.openedAt + w.tmo →
          (e.1 = 0x13 → m.persist = true → h.cls ≠ .persistent → exec e.2 s =
            .next (settleTier (wltAnswer (u 0x13) m.port m.ep m.tag fun p => .wltEnd p m.ep m.tag m.hall m.handle false false stBadArg 0 s.homeEpoch))) ∧
          (e.1 = 0x13 → (m.persist = false ∨ h.cls = .persistent) → exec e.2 s = .next (settleTier (commitStart (setWelt (u 0x13) k { w with
            st := .committing, asked := true, port := m.port, tag := m.tag, persist := m.persist, phase := .collect, phaseAt := s.now, bad := bad }) k))) ∧
          (e.1 = 0x14 → exec e.2 s = .next (settleTier (abortWelt (setWelt (u 0x14) k { w with asked := true, port := m.port, tag := m.tag }) k stOk false)))))))

/-- An open welt whose time has run out aborts with ST_TIMEOUT; before, nothing of it changes. A commit whose owner owes
an answer for 2 ms declares the owner dead. The durable record of a journal ends its writes, marks the record, and
takes the welt that waits for it to its commit point. A persist commit without its durable record for 12 ms aborts,
with ST_FAULT when the record was issued and ST_ABORT_CAPACITY when not. AGE_LIMIT_COMMIT within 2^32 of the limit,
and AGE_LIMIT_RETRY 10 ms after a failure, commit AGE_LIMIT + 2^36 and open what waited; a failed commit answers what
waited with ST_FAULT and is retried 10 ms later. -/
def Obligations.WeltBoundRowsComplete : Prop :=
  (∀ (s : State) (k : Nat), let w := weltAt s k
    (w.st = .open_ → w.openedAt + w.tmo ≤ s.now → exec (.weltTimeout k) s = .next (settleTier (abortWelt s k stTimeout false))) ∧
    ((w.st ≠ .open_ ∨ s.now < w.openedAt + w.tmo) → exec (.weltTimeout k) s = .next (settleTier s)) ∧
    (w.st = .committing → w.phase = .collect →
      (s.now < ms 2 + w.phaseAt → exec (.commitCollectionTimeout k) s = .next s) ∧
      (∀ x, ms 2 + w.phaseAt ≤ s.now → (s.home.snoops.find? fun x => decide (x.2 = .weltCommit k)) = some x →
        exec (.commitCollectionTimeout k) s = .next (endpointDead s w.owner 1 x.1.stag w.hall))) ∧
    (w.st = .committing → w.phase = .durable → w.jwait = true →
      (s.now < ms 12 + w.phaseAt → exec (.journalDurableTimeout k) s = .next s) ∧
      (ms 12 + w.phaseAt ≤ s.now → exec (.journalDurableTimeout k) s = .next (settleTier (abortWelt s k (if w.jissued = true then stFault else stAbortCapacity) false))))) ∧
  (∀ (s : State) (k : Nat), let w := weltAt s k
    ((w.st ≠ .committing ∨ w.phase ≠ .collect) → exec (.commitCollectionTimeout k) s = .next s) ∧ ((w.st ≠ .committing ∨ w.phase ≠ .durable ∨ w.jwait = false) → exec (.journalDurableTimeout k) s = .next s)) ∧
  (∀ (s : State) (hid : Nat),
    let kind := fun (j : FlashJob) => match j.kind with
      | .record x _ => decide (x = hid)
      | _ => false
    let mine := s.flash.jobs.find? fun j => kind j && decide (j.st = .running)
    let rec_ := (s.jrn.get? hid).bind fun j => j.recs.find? fun r => !r.durable
    ((mine = none ∨ flashOff s = true) → exec (.journalRecordDurable hid) s = .next s) ∧
    (∀ b, mine = some b → flashOff s = false →
      (rec_ = none → exec (.journalRecordDurable hid) s = .next (settleTier (endJob s b false))) ∧
      (∀ r, rec_ = some r →
        let u := endJob s b true
        let t : State := { u with jrn := u.jrn.modify hid fun j => { j with recs := j.recs.map fun x => if x.jseq = r.jseq then { x with durable := true } else x } }
        let w := weltAt t r.slot
        (w.st = .committing → w.jwait = true → w.jissued = true → w.age = r.age →
          exec (.journalRecordDurable hid) s = .next (settleTier (durableGo (modWelt t r.slot fun w => { w with jwait := false }) r.slot))) ∧
        ((w.st ≠ .committing ∨ w.jwait = false ∨ w.jissued = false ∨ w.age ≠ r.age) → exec (.journalRecordDurable hid) s = .next (settleTier t))))) ∧
  (∀ (s : State) (ok : Bool), s.pwr.feltiOn = false → exec (.ageLimitCommit ok) s = .next s ∧ exec (.ageLimitRetry ok) s = .next s) ∧
  (∀ (s : State) (ok : Bool), s.pwr.feltiOn = true →
    let t := (commit { s with welt := { s.welt with ageLimit := 2 ^ 36 + s.welt.ageLimit, limitFailed := false } }).1
    let failed := s.welt.waiting.foldl (fun s e => wltAnswer s e.1.port e.1.ep e.1.tag fun p => .wltEnd p e.1.ep e.1.tag e.1.hall 0 false false stFault 0 s.homeEpoch)
      { s with welt := { s.welt with limitFailed := true, retryAt := ms 10 + s.now, waiting := [] } }
    (s.welt.limitFailed = false → s.welt.ageLimit ≤ 2 ^ 32 + s.welt.age →
      (ok = true → Local s → mirrorLive t = false → exec (.ageLimitCommit ok) s = .next (openWaiting t)) ∧
      ((ok = false ∨ s.store.writable = false) → exec (.ageLimitCommit ok) s = .next failed)) ∧
    ((s.welt.limitFailed = true ∨ 2 ^ 32 + s.welt.age < s.welt.ageLimit) → exec (.ageLimitCommit ok) s = .next s) ∧
    (s.welt.limitFailed = true → s.welt.retryAt ≤ s.now →
      (ok = true → Local s → mirrorLive t = false → exec (.ageLimitRetry ok) s = .next (openWaiting t)) ∧
      ((ok = false ∨ s.store.writable = false) → exec (.ageLimitRetry ok) s = .next failed)) ∧
    ((s.welt.limitFailed = false ∨ s.now < s.welt.retryAt) → exec (.ageLimitRetry ok) s = .next s))

/-- In a window with BUSY set, an MBX_WRITE, or on window 0 an SMBus block write, whose bytes all lie in the header or the
data buffer leaves every window, and everything else but the learned port (and the count of a reserved form), as it
was. MBX_READ and the SMBus block read return for each such byte the value the window holds; they are not stopped by
BUSY. -/
def Obligations.BusyWindowKeepsItsBytes : Prop :=
  ∀ (s : State) (n : Nat) (x : Win), s.win.get? n = some x → x.busy = true →
    (∀ (path : Path) (b : List Byte), mbxWin b = n →
      (∀ i, i < subNat b 10 1 → (0x40 ≤ subNat b 6 4 + i ∧ subNat b 6 4 + i < 0x80) ∨ (0x1000 ≤ subNat b 6 4 + i ∧ subNat b 6 4 + i < 0x41000)) →
      ∃ t, exec (.mbxWrite path b) s = .next t ∧ (∀ m, t.win.get? m = s.win.get? m) ∧
        { t with win := [] } = { mbxTake s path (mbxSrc b) (mbxWriteBad b) id with win := [] }) ∧
    (∀ (off : Nat) (data : List Byte) (pec : Bool), n = 0 →
      (∀ i, i < data.length → (0x40 ≤ off + i ∧ off + i < 0x80) ∨ (0x1000 ≤ off + i ∧ off + i < 0x41000)) →
      ∃ t, exec (.smbusBlockWrite off data pec) s = .next t ∧ (∀ m, t.win.get? m = s.win.get? m) ∧
        { t with win := [] } = { s with win := [] }) ∧
    (∀ (path : Path) (b : List Byte), (pathPort s path).any (fun p => !heard s p true) = false → mbxReadBad b = false → (pathEp s path (mbxSrc b)).any (isDead s) = false →
      mbxWin b = n → pathOk (learnPath s path (mbxSrc b)) path n (mbxSrc b) = true →
      exec (.mbxRead path b) s = .next (readPieces (learnPath s path (mbxSrc b)) n x (subNat b 6 4) (subNat b 10 2) (subNat b 12 2))) ∧
    (∀ len, n = 0 → exec (.smbusBlockRead len) s = .next { s with
      pwr := { s.pwr with smbPtr := (s.pwr.smbPtr + min len 32) % 2 ^ 32 }
      out := s.out ++ [.smbus (winBytes s 0 x s.pwr.smbPtr (min len 32))] }) ∧
    (∀ (t : State) (off len i : Nat), i < len → ((0x40 ≤ off + i ∧ off + i < 0x80) ∨ (0x1000 ≤ off + i ∧ off + i < 0x41000)) →
      (winBytes t n x off len)[i]? = some (NMap.getD x.mem (off + i) 0))

/-- Whatever the state and the operands, exec answers a next state, and so does step, with or without a command waiting. -/
def Obligations.EveryCommandAnswersNext : Prop :=
  (∀ (c : Instr) (s : State), ∃ t, exec c s = .next t) ∧ (∀ s : State, ∃ t, step s = .next t)

/-- With NEXT and SEQ below 4,096: SEQ = NEXT is accepted. In the privileged space every other value is a gap or a
duplicate, a gap exactly when (SEQ - NEXT) mod 4,096 is 1 to 2,047. In the normal space it is a gap exactly when that
is 1 to 511, a duplicate exactly when (NEXT - SEQ) mod 4,096 is 1 to 512, and out of the window for the 3,072 values
that remain. -/
def Obligations.SeqClasses : Prop :=
  ∀ next seq : Nat, next < 4096 → seq < 4096 →
    let a := (seq + 4096 - next) % 4096
    let b := (next + 4096 - seq) % 4096
    (∀ priv, seqClass next seq priv = .accept ↔ seq = next) ∧
    (seqClass next seq true = .gap ↔ 1 ≤ a ∧ a ≤ 2047) ∧ (seqClass next seq true = .duplicate ↔ 1 ≤ b ∧ b ≤ 2048) ∧
    (seqClass next seq true ≠ .outside) ∧
    (seqClass next seq false = .gap ↔ 1 ≤ a ∧ a ≤ 511) ∧ (seqClass next seq false = .duplicate ↔ 1 ≤ b ∧ b ≤ 512) ∧
    (seqClass next seq false = .outside ↔ 512 ≤ a ∧ a < 3584)

/-- On a line of a hall that lies on an ONLINE channel and whose key is loaded, every write stores as poison each granule
whose mask bit is set; a granule left unmasked is stored clean, with the write's data, when all its 16 bytes are
written; a write of a part of a granule that reads as poison leaves it poisoned (unless the stored error lies beyond
the code's guarantee). In a LIGHT hall each granule written holds the hall's TENANT as its tag. No granule outside the
line (LIGHT) or its pair (STRONG) changes. A line wholly written, in a hall not marked POISONED, then reads as
written, poisoned granules as zero; for STRONG where the pair held no error. -/
def Obligations.LineWritesFollowTheirMasks : Prop :=
  ∀ (s : State) (hid : Nat) (h : Hall) (x : Nat) (d : LineData) (mask : BitVec 64) (c ca : Nat),
    locate s hid h (x / 64 * 64) = some (c, ca) → ca % 64 = 0 → chanOnline s c = true → slotLoaded (curSlot s hid h) = true →
    let w := writeLine s hid h x d mask
    let g : Nat → Granule := fun i => granAt w.1 c (ca + 16 * i)
    let seen := pairGran s h x c ca
    let pair := decodePair s ((List.range 8).map fun j => (seen j).err)
    let old : Nat → Granule := fun i => if h.light = true then seenGran s h (x / 64) c (ca + 16 * i) else seen (pairAt ca + i)
    let tag := if h.light = true then h.tenant else 0
    let bad : Granule := { data := 0, poison := true, written := true, gen := curGen s hid h, tag := tag, key := (curSlot s hid h).key }
    w.2 = .ok ∧
    (∀ i, i < 4 →
      (d.poison.getLsbD i = true → g i = bad) ∧
      (d.poison.getLsbD i = false → granMask mask i = 0xFFFF → g i = { bad with data := granOf d.data i, poison := false }) ∧
      (d.poison.getLsbD i = false → granMask mask i ≠ 0 → granMask mask i ≠ 0xFFFF →
        (h.light = true → ∀ p, decodeLight s (old i).err ≠ .wrong p) → (h.light = false → ∀ p, pair ≠ .wrong p) →
        (deliver s hid h (old i)).1.2 = true → g i = bad) ∧
      (h.light = true → (d.poison.getLsbD i = true ∨ granMask mask i ≠ 0) → (g i).tag = h.tenant)) ∧
    (∀ c' ca', (∀ j, j < 8 → granKey c' ca' ≠ granKey c (ca / 128 * 128 + 16 * j)) → granAt w.1 c' ca' = granAt s c' ca') ∧
    (h.light = true → ∀ c' ca', (∀ j, j < 4 → granKey c' ca' ≠ granKey c (ca + 16 * j)) → granAt w.1 c' ca' = granAt s c' ca') ∧
    ((∀ i, i < 4 → d.poison.getLsbD i = true ∨ granMask mask i = 0xFFFF) → h.poisoned = false → (h.light = false → pair = .clean) →
      ∀ i, i < 4 → (readLine w.1 hid h x).2.poison.getLsbD i = d.poison.getLsbD i ∧
        granOf (readLine w.1 hid h x).2.data i = if d.poison.getLsbD i = true then 0 else granOf d.data i)

/-- The state after reset: no command waits; pool time, HOME_EPOCH and the message sequences of every port are zero;
windows 0 and 1 are BMC windows with the reset values of R482; no hall, access entry, tenant, anchor, BMC key or pair
setting exists; every resource runs the bare flight, one tread of 100,000 ticks with every SVC_CIR zero and no
reservation; the route table is learned with F0 the port of an endpoint not heard from, every leaf is 0x3FF and every
distance 15; every port holds the defaults of F03. Every other field is the model's choice (logs 6, 7, 11). -/
def Obligations.ResetState : Prop :=
  State.reset.pending = [] ∧ State.reset.now = 0 ∧ State.reset.homeEpoch = 0 ∧
    (∀ n x, State.reset.win.get? n = some x → n < 2 ∧ x.cls = .bmc ∧ x.busy = false ∧ x.notify = false ∧ x.alertEn = false ∧ x.overrun = false ∧ x.lastCseq = 0 ∧
      x.alertStatus = 0 ∧ x.alertMask = 0x1C ∧ x.alertsDropped = 0 ∧ x.ring = false ∧ x.cmd = none) ∧
    (State.reset.win.get? 0).isSome = true ∧ (State.reset.win.get? 1).isSome = true ∧
    State.reset.halls = [] ∧ State.reset.acl = [] ∧ State.reset.ten.recs = [] ∧ State.reset.trust = {} ∧ State.reset.pair.cfg = {} ∧
    (∀ r q, State.reset.flt.get? r = some q → q.active.treads.map (fun t => (t.len, t.resCount, t.svc)) = [(100000, 0, [0, 0, 0, 0, 0, 0, 0, 0])] ∧
      q.active.res = [] ∧ q.pending = none) ∧ (∀ r ∈ resourceCodes, (State.reset.flt.get? r).isSome = true) ∧ resourceCodes.length = 50 ∧
    (∀ ep, leafOf State.reset ep = 0x3FF) ∧ (∀ a b, distOf State.reset a b = 15) ∧ (∀ ep, State.reset.route.get? ep = none) ∧
    (∀ p, p < 10 → ∃ q, State.reset.ports.get? p = some q ∧ q.cfg.downTmo = 64 ∧ q.cfg.replayTmo = 30 ∧ q.cfg.laneThr = 256 ∧
      q.sn.next = 0 ∧ q.sp.next = 0 ∧ q.sn.txNext = 0 ∧ q.sp.txNext = 0) ∧
    State.reset.dram.mem.canon zeroGranule

/-- From every state, whatever command is in front: after a step the queue is the rest of what it was, GRADE_D1, LIFECYCLE
and the fuse flags are as they were, and FUSED_MIN_SVN, which FW_SVN_COMMIT raises irreversibly, is not lower. So an
image that the fuses refuse (R550, R523) is refused for ever. That LIFECYCLE and the fuse flags do not change at run
time is the model's: the spec gives no command that changes them. -/
def Obligations.FusesAndQueueHold : Prop :=
  ∀ s t : State, step s = .next t →
    t.pending = s.pending.tail ∧ t.hw.gradeD1 = s.hw.gradeD1 ∧ t.hw.lifecycle = s.hw.lifecycle ∧ t.hw.fuses = s.hw.fuses ∧
    s.hw.fusedMinSvn ≤ t.hw.fusedMinSvn

/-- The stored granules of all channels are one table in rising address order that lists no granule equal to the all-zero
codeword, which an unlisted granule reads as (the reset contents of R413 and R422). From every state in which this
holds, every step, whatever the command, answers a state in which it holds, so that two memories that read alike are
equal. -/
def Obligations.DramTableStaysCanonical : Prop :=
  ∀ s t : State, s.dram.mem.canon zeroGranule → step s = .next t → t.dram.mem.canon zeroGranule

/-- From every state, a step whose front command is not PRECHARGE_END leaves a master count that is not lower: neither a
tick, a time exchange with the partner, nor any start but a power-up moves it back. PRECHARGE_END, the power-up,
either changes nothing, when the part is powered, or leaves the count at zero. -/
def Obligations.PoolTimeNeverStepsBack : Prop :=
  (∀ s t : State, s.pending.head? ≠ some .prechargeEnd → step s = .next t → s.now ≤ t.now) ∧
  (∀ (s t : State), exec .prechargeEnd s = .next t → (t = s ∧ s.pwr.precharged = true) ∨ t.now = 0)
end

