-- ==== Sys2Proof/Laws/Events.lean ====
section
/-! SUPPORT. What messages, alerts and events leave alone: everything but the recorder, the windows, the SMBus alert line, the ports'
queues, the transfers waiting at the flight sequencers and what has been sent. -/

namespace Sys2Proof.Laws

open Sys2Proof.Machine Sys2Proof.Safety

@[simp] theorem now_of_quiet {s t : State} (h : quiet t = quiet s) : t.now = s.now := by
  have := congrArg State.clk h; simpa [quiet, State.now] using congrArg Clock.master this

theorem quiet_ite {c : Prop} [Decidable c] {a b s : State} (ha : quiet a = quiet s) (hb : quiet b = quiet s) :
    quiet (if c then a else b) = quiet s := by
  by_cases h : c
  · rw [if_pos h, ha]
  · rw [if_neg h, hb]

theorem xfer_quiet (s : State) (r sub svc bytes addr : Nat) : quiet (xfer s r sub svc bytes addr) = quiet s := by
  unfold xfer; repeat (first | rfl | split)

theorem sendFlit_quiet (s : State) (p : Nat) (c : Cargo) (m : Emit) : quiet (sendFlit s p c m) = quiet s := by
  unfold sendFlit
  split
  · rfl
  · cases c <;> dsimp only <;> first | rfl | exact xfer_quiet ..

theorem send_quiet (s : State) (p : Nat) (c : Cargo) (m : Emit) : quiet (send s p c m) = quiet s := by
  unfold send; repeat (first | rfl | exact sendFlit_quiet .. | split)

theorem sendEp_quiet (s : State) (ep : Nat) (c : Cargo) (m : Nat → Emit) : quiet (sendEp s ep c m) = quiet s := by
  unfold sendEp; simp only
  split
  · split
    · rfl
    · exact send_quiet ..
  · rfl

theorem sendMgt_quiet (s : State) (ep : Nat) (m : Nat → Emit) : quiet (sendMgt s ep m) = quiet s := sendEp_quiet ..

theorem foldl_quiet {α : Type} (f : State → α → State) (h : ∀ s a, quiet (f s a) = quiet s) (l : List α) (s : State) :
    quiet (l.foldl f s) = quiet s := by
  induction l generalizing s with
  | nil => rfl
  | cons a t ih => rw [List.foldl_cons, ih, h]

theorem sendHere_quiet (s : State) (p : Nat) (c : Cargo) (m : Emit) : quiet (sendHere s p c m) = quiet s := by
  unfold sendHere; exact quiet_ite (sendFlit_quiet ..) rfl

theorem sendSpdm_quiet (s : State) (c : Nat) (sec : Bool) (b : List Byte) (cargo : Cargo) : quiet (sendSpdm s c sec b cargo) = quiet s := by
  unfold sendSpdm; dsimp only
  refine quiet_ite rfl ?_
  rw [foldl_quiet _ (fun t i => quiet_ite (sendMgt_quiet ..) (sendHere_quiet ..))]; rfl

theorem saySecured_quiet (s : State) (c : Nat) (b : List Byte) (cargo : Cargo) : quiet (saySecured s c b cargo) = quiet s := by
  unfold saySecured; rw [sendSpdm_quiet]; rfl

theorem winSay_quiet (s : State) (n : Nat) (w : Win) (m : Emit) : quiet (winSay s n w m) = quiet s := by
  unfold winSay; split
  · exact sendMgt_quiet ..
  · exact quiet_ite rfl rfl
  · split
    · exact saySecured_quiet ..
    · rfl
  · rfl
  · split
    · exact saySecured_quiet ..
    · rfl

theorem smbUpdate_quiet (s : State) : quiet (smbUpdate s) = quiet s := by
  unfold smbUpdate; split
  · rfl
  · dsimp only
    exact quiet_ite rfl (quiet_ite rfl rfl)

theorem alertWin_quiet (s : State) (n : Nat) (w : Win) (cls time event cursor : Nat) :
    quiet (alertWin s n w cls time event cursor) = quiet s := by
  unfold alertWin; dsimp only
  split
  · rfl
  · split
    · rfl
    · split
      · rfl
      · split
        · rw [winSay_quiet]; rfl
        · rfl

theorem raiseAlert_quiet (s : State) (cls : Nat) (tenant hall : Option Nat) (time event cursor : Nat) :
    quiet (raiseAlert s cls tenant hall time event cursor) = quiet s := by
  unfold raiseAlert; split
  · rfl
  · rw [smbUpdate_quiet]
    refine foldl_quiet _ (fun t e => ?_) _ _
    split
    · split
      · exact alertWin_quiet ..
      · rfl
    · rfl

theorem putRecord_quiet (s : State) (r : Record) : quiet (putRecord s r) = quiet s := by
  unfold putRecord; simp only; split <;> rfl

theorem closeRun_quiet (s : State) (r : Run) : quiet (closeRun s r) = quiet s := by
  unfold closeRun; simp only
  rw [putRecord_quiet]; split <;> rfl

theorem runTriggers_quiet (s : State) (ev cls src : Nat) (tenant hall : Option Nat) (addr : Nat) :
    quiet (runTriggers s ev cls src tenant hall addr).1 = quiet s := by
  unfold runTriggers
  suffices h : ∀ (l : List (Nat × Trigger)) (a : State × List Trigger), quiet a.1 = quiet s →
      quiet (l.foldl _ a).1 = quiet s from h _ _ rfl
  intro l
  induction l with
  | nil => exact fun _ h => h
  | cons e t ih =>
    intro a h
    rw [List.foldl_cons]
    refine ih _ ?_
    simp only
    repeat (first | exact h | split)

theorem writeSingle_quiet (s : State) (r : Record) (fired : List Trigger) : quiet (writeSingle s r fired) = quiet s := by
  unfold writeSingle; simp only
  split
  · exact putRecord_quiet ..
  · split
    · rw [putRecord_quiet]; rfl
    · rw [putRecord_quiet]; rfl

theorem closeOver_quiet (s : State) (r : Record) : quiet (closeOver s r) = quiet s := by
  unfold closeOver; split
  · exact closeRun_quiet ..
  · rfl

theorem logEvent_quiet (s : State) (r : Record) (fired : List Trigger) : quiet (logEvent s r fired).1 = quiet s := by
  unfold logEvent
  split
  · exact writeSingle_quiet ..
  · rw [← closeOver_quiet s r]
    generalize closeOver s r = u
    dsimp only
    split
    · rfl
    · split
      · rfl
      · split
        · rfl
        · rw [writeSingle_quiet]; rfl

theorem alertEvent_quiet (s : State) (r : Record) (fired : List Trigger) (c : Nat) : quiet (alertEvent s r fired c) = quiet s := by
  unfold alertEvent; dsimp only; split
  · rw [raiseAlert_quiet, raiseAlert_quiet]
  · exact raiseAlert_quiet ..

theorem uartSay_quiet (s : State) (kind value source : Nat) : quiet (uartSay s kind value source) = quiet s := by
  unfold uartSay; exact quiet_ite rfl rfl

/-- An event leaves everything outside the recorder, the windows, connections and what it sends alone (R505, R604 to R609). -/
theorem event_quiet (s : State) (e : Ev) (src : Nat) (tenant hall : Option Nat) (addr : Nat) (detail : List (Nat × Nat × Nat)) :
    quiet (event s e src tenant hall addr detail) = quiet s := by
  unfold event; dsimp only
  rw [uartSay_quiet, alertEvent_quiet, logEvent_quiet]
  exact runTriggers_quiet ..

end Sys2Proof.Laws
end

