-- ==== Sys2Proof/Laws/Tables.lean ====
section
/-! SUPPORT. What the operations on tables do: a read after a write, every other key left alone, and the canonical form of a
memory kept by every memory operation. -/

namespace Sys2Proof.Laws

open Sys2Proof Sys2Proof.Machine

variable {α : Type}

@[simp] theorem get?_nil (k : Nat) : NMap.get? ([] : NMap α) k = none := rfl

@[simp] theorem get?_set_self (m : NMap α) (k : Nat) (v : α) : (m.set k v).get? k = some v := by
  induction m with
  | nil => simp [NMap.set, NMap.get?]
  | cons e t ih =>
    simp only [NMap.set]
    split
    · simp [NMap.get?]
    · split
      · simp [NMap.get?]
      · rename_i h; simp [NMap.get?, h, ih]

theorem get?_set_ne (m : NMap α) {k j : Nat} (v : α) (h : j ≠ k) : (m.set k v).get? j = m.get? j := by
  induction m with
  | nil => simp [NMap.set, NMap.get?, Ne.symm h]
  | cons e t ih =>
    simp only [NMap.set]
    split
    · simp [NMap.get?, Ne.symm h]
    · split
      · rename_i h1; subst h1; simp [NMap.get?, Ne.symm h]
      · simp only [NMap.get?, ih]

theorem get?_set (m : NMap α) (k j : Nat) (v : α) : (m.set k v).get? j = if j = k then some v else m.get? j := by
  split
  · subst j; exact get?_set_self ..
  · exact get?_set_ne _ _ ‹_›

/-- The later of two writes to one key stands. -/
@[simp] theorem set_set (m : NMap α) (k : Nat) (v w : α) : (m.set k v).set k w = m.set k w := by
  induction m with
  | nil => simp [NMap.set]
  | cons e t ih =>
    simp only [NMap.set]
    split
    · simp [NMap.set]
    · split
      · rename_i h; subst h; simp [NMap.set]
      · rename_i h1 h2; simp only [NMap.set, h1, h2, if_false, ih]

theorem get?_modify (m : NMap α) (k j : Nat) (f : α → α) :
    (m.modify k f).get? j = if j = k then (m.get? k).map f else m.get? j := by
  unfold NMap.modify
  rcases h : m.get? k with _ | x
  · by_cases e : j = k
    · subst e; simp [h]
    · simp [e]
  · simp only [get?_set, Option.map_some]

theorem get?_erase_ne (m : NMap α) {k j : Nat} (h : j ≠ k) : (m.erase k).get? j = m.get? j := by
  induction m with
  | nil => rfl
  | cons e t ih =>
    simp only [NMap.erase]
    split
    · rename_i h1; subst h1; simp [NMap.get?, Ne.symm h]
    · simp only [NMap.get?, ih]

/-- A key below every key of a table is not in it. -/
theorem get?_none_of_lt (m : NMap α) (k : Nat) (h : m.all (fun f => decide (k < f.1)) = true) : m.get? k = none := by
  induction m with
  | nil => rfl
  | cons e t ih =>
    simp only [List.all_cons, Bool.and_eq_true, decide_eq_true_eq] at h
    simp [NMap.get?, Nat.ne_of_gt h.1, ih h.2]

@[simp] theorem get?_erase_self (m : NMap α) (k : Nat) (h : m.rising = true) : (m.erase k).get? k = none := by
  induction m with
  | nil => rfl
  | cons e t ih =>
    simp only [NMap.rising, Bool.and_eq_true] at h
    simp only [NMap.erase]
    split
    · rename_i h1; subst h1; exact get?_none_of_lt t _ h.1
    · rename_i h1; simp [NMap.get?, h1, ih h.2]

theorem getD_put_ne [DecidableEq α] (m : NMap α) {k j : Nat} (v d : α) (h : j ≠ k) :
    (m.put k v d).getD j d = m.getD j d := by
  unfold NMap.put NMap.getD
  split
  · rw [get?_erase_ne _ h]
  · rw [get?_set_ne _ _ h]

/-- A read after a write to the same place gives what was written. -/
theorem getD_put_self [DecidableEq α] (m : NMap α) (k : Nat) (v d : α) (h : m.rising = true ∨ v ≠ d) :
    (m.put k v d).getD k d = v := by
  unfold NMap.put NMap.getD
  split
  · rename_i e
    rw [get?_erase_self _ _ (h.resolve_right (fun z => z e)), e]; rfl
  · rw [get?_set_self]; rfl

/-! ### The canonical form -/

theorem all_set (m : NMap α) (k : Nat) (v : α) (p : Nat × α → Bool) (h : m.all p = true) (hv : p (k, v) = true) :
    (m.set k v).all p = true := by
  induction m with
  | nil => simp [NMap.set, hv]
  | cons e t ih =>
    simp only [List.all_cons, Bool.and_eq_true] at h
    simp only [NMap.set]
    split
    · simp [hv, h.1, h.2]
    · split
      · simp [hv, h.2]
      · simp [h.1, ih h.2]

theorem all_erase (m : NMap α) (k : Nat) (p : Nat × α → Bool) (h : m.all p = true) : (m.erase k).all p = true := by
  induction m with
  | nil => rfl
  | cons e t ih =>
    simp only [List.all_cons, Bool.and_eq_true] at h
    simp only [NMap.erase]
    split
    · exact h.2
    · simp [h.1, ih h.2]

theorem rising_set (m : NMap α) (k : Nat) (v : α) (h : m.rising = true) : (m.set k v).rising = true := by
  induction m with
  | nil => rfl
  | cons e t ih =>
    simp only [NMap.rising, Bool.and_eq_true] at h
    simp only [NMap.set]
    split
    · rename_i h1
      simp only [NMap.rising, List.all_cons, Bool.and_eq_true, decide_eq_true_eq]
      refine ⟨⟨h1, ?_⟩, h.1, h.2⟩
      exact List.all_eq_true.2 fun f hf => by
        have := List.all_eq_true.1 h.1 f hf
        simp only [decide_eq_true_eq] at this ⊢; omega
    · split
      · rename_i h1; subst h1; simp only [NMap.rising, Bool.and_eq_true]; exact ⟨h.1, h.2⟩
      · simp only [NMap.rising, Bool.and_eq_true]
        exact ⟨all_set _ _ _ _ h.1 (by simp only [decide_eq_true_eq]; omega), ih h.2⟩

theorem rising_erase (m : NMap α) (k : Nat) (h : m.rising = true) : (m.erase k).rising = true := by
  induction m with
  | nil => rfl
  | cons e t ih =>
    simp only [NMap.rising, Bool.and_eq_true] at h
    simp only [NMap.erase]
    split
    · exact h.2
    · simp only [NMap.rising, Bool.and_eq_true]; exact ⟨all_erase _ _ _ h.1, ih h.2⟩

/-- A write keeps the canonical form. -/
theorem canon_put [DecidableEq α] (m : NMap α) (k : Nat) (v d : α) (h : m.canon d) : (m.put k v d).canon d := by
  unfold NMap.put NMap.canon NMap.noDflt at *
  split
  · exact ⟨rising_erase _ _ h.1, all_erase _ _ _ h.2⟩
  · exact ⟨rising_set _ _ _ h.1, all_set _ _ _ _ h.2 (by simpa using ‹¬v = d›)⟩

theorem all_filter (m : NMap α) (p q : Nat × α → Bool) (h : m.all p = true) : (m.filter q).all p = true := by
  simp only [List.all_eq_true, List.mem_filter] at *
  exact fun x hx => h x hx.1

theorem rising_filter (m : NMap α) (q : Nat × α → Bool) (h : m.rising = true) : NMap.rising (m.filter q) = true := by
  induction m with
  | nil => rfl
  | cons e t ih =>
    simp only [NMap.rising, Bool.and_eq_true] at h
    rw [List.filter_cons]
    split
    · simp only [NMap.rising, Bool.and_eq_true]; exact ⟨all_filter _ _ _ h.1, ih h.2⟩
    · exact ih h.2

/-- Clearing a range keeps the canonical form. -/
theorem canon_clear [DecidableEq α] (m : NMap α) (lo hi : Nat) (d : α) (h : m.canon d) : (m.clear lo hi).canon d :=
  ⟨rising_filter _ _ h.1, all_filter _ _ _ h.2⟩

/-- Entries stored that differ from the default keep the canonical form. -/
theorem canon_sets [DecidableEq α] (cells m : NMap α) (d : α) (h : m.canon d) (hc : ∀ g ∈ cells, g.2 ≠ d) :
    NMap.canon (cells.foldl (fun m g => m.set g.1 g.2) m) d := by
  induction cells generalizing m with
  | nil => exact h
  | cons g t ih =>
    refine ih _ ⟨rising_set _ _ _ h.1, all_set _ _ _ _ h.2 ?_⟩ fun x hx => hc x (List.mem_cons_of_mem _ hx)
    simpa using hc g List.mem_cons_self

/-- Bytes written into a window keep its memory canonical. -/
theorem wf_wrBytes (m : List Host.Cell) (off : Nat) (b : List Byte) (h : Memory.wf m) : Memory.wf (wrBytes m off b) := by
  induction b generalizing m off with
  | nil => exact h
  | cons x t ih => exact ih _ _ (canon_put m off x 0 h)

/-! ### Bytes and numbers -/

/-- What a byte memory reads after bytes are written into it. -/
theorem getD_wrBytes (b : List Byte) (m : List Host.Cell) (off a : Nat) (h : Memory.wf m) :
    NMap.getD (wrBytes m off b) a 0 = if off ≤ a ∧ a < off + b.length then (b[a - off]?).getD 0 else NMap.getD m a 0 := by
  induction b generalizing m off with
  | nil => rw [if_neg (by simp)]; rfl
  | cons x t ih =>
    show NMap.getD (wrBytes (NMap.put m off x 0) (off + 1) t) a 0 = _
    rw [ih _ _ (canon_put m off x 0 h)]
    simp only [List.length_cons]
    by_cases e : a = off
    · subst e
      rw [if_neg (by omega), if_pos (by omega), getD_put_self _ _ _ _ (.inl h.1)]; simp
    · rw [getD_put_ne _ _ _ e]
      by_cases q : off + 1 ≤ a ∧ a < off + 1 + t.length
      · rw [if_pos q, if_pos (by omega), show a - off = (a - (off + 1)) + 1 by omega]; simp
      · rw [if_neg q, if_neg (by omega)]

@[simp] theorem length_leBytes (n x : Nat) : (leBytes n x).length = n := by
  induction n generalizing x with
  | zero => rfl
  | succ n ih => simp [leBytes, ih]

/-- A number laid out in `n` bytes reads back modulo 256^n. -/
theorem leNat_leBytes (n x : Nat) : leNat (leBytes n x) = x % 256 ^ n := by
  induction n generalizing x with
  | zero => simp [leBytes, leNat, Nat.mod_one]
  | succ n ih =>
    simp only [leBytes, leNat, ih]
    rw [Nat.pow_succ, Nat.mul_comm (256 ^ n) 256, Nat.mod_mul]
    simp

/-- Bytes read where bytes were written are those written. -/
theorem rdBytes_wrBytes_self (m : List Host.Cell) (off : Nat) (b : List Byte) (h : Memory.wf m) : rdBytes (wrBytes m off b) off b.length = b := by
  apply List.ext_getElem?
  intro i
  simp only [rdBytes, List.getElem?_map]
  by_cases hi : i < b.length
  · rw [List.getElem?_range hi]; simp only [Option.map_some]
    rw [getD_wrBytes _ _ _ _ h, if_pos (by omega), show off + i - off = i by omega, List.getElem?_eq_getElem hi]; rfl
  · rw [List.getElem?_eq_none (by simpa using hi), List.getElem?_eq_none (by simpa using hi)]; rfl

/-- Bytes read outside those written are as before. -/
theorem rdBytes_wrBytes_ne (m : List Host.Cell) (off o n : Nat) (b : List Byte) (h : Memory.wf m) (d : o + n ≤ off ∨ off + b.length ≤ o) :
    rdBytes (wrBytes m off b) o n = rdBytes m o n := by
  simp only [rdBytes]
  apply List.map_congr_left
  intro i hi; rw [List.mem_range] at hi
  rw [getD_wrBytes _ _ _ _ h, if_neg (by omega)]

/-! ### Granules -/

/-- A granule stored keeps the DRAM's table canonical. -/
theorem canon_putGran (s : State) (c ca : Nat) (g : Granule) (h : s.dram.mem.canon zeroGranule) :
    (putGran s c ca g).dram.mem.canon zeroGranule := canon_put _ _ _ _ h

/-- A range cleared keeps the DRAM's table canonical. -/
theorem canon_clearRange (s : State) (c lo hi : Nat) (h : s.dram.mem.canon zeroGranule) :
    (clearRange s c lo hi).dram.mem.canon zeroGranule := canon_clear _ _ _ _ h

/-- A granule reads as it was stored; every other granule reads as before. -/
theorem granAt_putGran (s : State) (c ca c' ca' : Nat) (g : Granule) (h : s.dram.mem.rising = true ∨ g ≠ zeroGranule) :
    granAt (putGran s c ca g) c' ca' = if granKey c' ca' = granKey c ca then g else granAt s c' ca' := by
  unfold granAt putGran
  split
  · rename_i e; rw [e]; exact getD_put_self _ _ _ _ h
  · exact getD_put_ne _ _ _ ‹_›

/-- At reset the DRAM's table and the windows' memories are canonical. -/
theorem reset_memory_wf : State.reset.dram.mem.canon zeroGranule ∧ ∀ e ∈ State.reset.win, Memory.wf e.2.mem := by
  decide

end Sys2Proof.Laws
end

