-- ==== Sys2Proof/Laws/Memory.lean ====
section
/-! SUPPORT. What the operations on the DRAM leave alone: counting an error, marking a block dirty and writing a line keep the
place of every line, the keys, and every granule outside the line's pair. -/

namespace Sys2Proof.Laws

open Sys2Proof Sys2Proof.Machine Sys2Proof.Safety

/-- What an event leaves alone, field by field. -/
theorem event_keeps (s : State) (e : Ev) (src : Nat) (tenant hall : Option Nat) (addr : Nat) (detail : List (Nat × Nat × Nat)) :
    let t := event s e src tenant hall addr detail
    t.dram = s.dram ∧ t.halls = s.halls ∧ t.tier = s.tier ∧ t.ten = s.ten ∧ t.hw = s.hw ∧ t.pending = s.pending := by
  have h := event_quiet s e src tenant hall addr detail
  refine ⟨?_, ?_, ?_, ?_, ?_, ?_⟩
  · have k := congrArg (fun z : State => z.dram) h; exact k
  · have k := congrArg (fun z : State => z.halls) h; exact k
  · have k := congrArg (fun z : State => z.tier) h; exact k
  · have k := congrArg (fun z : State => z.ten) h; exact k
  · have k := congrArg (fun z : State => z.hw) h; exact k
  · have k := congrArg (fun z : State => z.pending) h; exact k

/-- Counting an error changes no granule, hall, block or key, and no channel's state. -/
theorem noteError_keeps (s : State) (c ca : Nat) (light : Bool) (mask place : Nat) (poison : Bool) (hall tenant : Option Nat) :
    let t := noteError s c ca light mask place poison hall tenant
    t.dram.mem = s.dram.mem ∧ t.halls = s.halls ∧ t.tier = s.tier ∧ t.ten = s.ten ∧ ∀ k, chanOnline t k = chanOnline s k := by
  unfold noteError; dsimp only
  split
  · simp
  · refine ⟨?_, ?_, ?_, ?_, ?_⟩
    · rw [(event_keeps ..).1]; split <;> rfl
    · rw [(event_keeps ..).2.1]; split <;> rfl
    · rw [(event_keeps ..).2.2.1]; split <;> rfl
    · rw [(event_keeps ..).2.2.2.1]; split <;> rfl
    · intro k
      have m : ∀ f : Chan → Chan, (∀ y, (f y).st = y.st) → chanOnline (modChan s c f) k = chanOnline s k := by
        intro f hf; unfold chanOnline modChan; simp only [get?_modify]
        by_cases e : k = c
        · rw [e]; cases h : s.dram.chans.get? c <;> simp [hf]
        · rw [if_neg e]
      have d : ∀ a b : State, a.dram = b.dram → chanOnline a k = chanOnline b k := by
        intro a b e; unfold chanOnline; rw [e]
      rw [d _ _ (event_keeps ..).1]
      split <;> exact m _ fun _ => rfl

/-- A block marked dirty keeps its slots. -/
theorem blockOf_dirtyBlock (s : State) (hid : Nat) (h : Hall) (x n b : Nat) :
    (blockOf (dirtyBlock s hid h x) n b).map (fun k => k.slots) = (blockOf s n b).map fun k => k.slots := by
  unfold dirtyBlock
  split
  · rfl
  · unfold blockOf; dsimp only; rw [get?_modify]
    split
    · rename_i e; rw [e]
      cases s.tier.blocks.get? (blkKey hid (x / blockBytes h)) with
      | none => rfl
      | some k => simp only [Option.map_some]; split <;> rfl
    · rfl

/-- Where a line lies depends on its hall and its block's slots alone. -/
theorem locate_congr {s t : State} (hid : Nat) (h : Hall) (x : Nat)
    (e : ∀ n b, (blockOf t n b).map (fun k => k.slots) = (blockOf s n b).map fun k => k.slots) : locate t hid h x = locate s hid h x := by
  unfold locate; dsimp only
  have e := e hid (x / blockBytes h)
  cases h.cls with
  | resident => rfl
  | tiered | persistent =>
    dsimp only
    cases h1 : blockOf t hid (x / blockBytes h) <;> cases h2 : blockOf s hid (x / blockBytes h) <;> rw [h1, h2] at e <;> simp at e
    all_goals first | rfl | (dsimp only; rw [e])

theorem locate_dirtyBlock (s : State) (hid : Nat) (h : Hall) (x y : Nat) :
    locate (dirtyBlock s hid h x) hid h y = locate s hid h y :=
  locate_congr hid h y fun n b => blockOf_dirtyBlock s hid h x n b

@[simp] theorem dirtyBlock_dram (s : State) (hid : Nat) (h : Hall) (x : Nat) : (dirtyBlock s hid h x).dram = s.dram := by
  unfold dirtyBlock; split <;> rfl
@[simp] theorem dirtyBlock_ten (s : State) (hid : Nat) (h : Hall) (x : Nat) : (dirtyBlock s hid h x).ten = s.ten := by
  unfold dirtyBlock; split <;> rfl
@[simp] theorem dirtyBlock_free (s : State) (hid : Nat) (h : Hall) (x : Nat) : (dirtyBlock s hid h x).free = s.free := by
  unfold dirtyBlock; split <;> rfl

/-- `a` holds the granules, blocks and keys of `b`, and its channels are online where those of `b` are. -/
structure SameMemory (a b : State) : Prop where
  mem : a.dram.mem = b.dram.mem
  tier : a.tier = b.tier
  ten : a.ten = b.ten
  online : ∀ k, chanOnline a k = chanOnline b k

theorem SameMemory.refl (a : State) : SameMemory a a := ⟨rfl, rfl, rfl, fun _ => rfl⟩

theorem SameMemory.trans {a b c : State} (x : SameMemory a b) (y : SameMemory b c) : SameMemory a c :=
  ⟨x.mem.trans y.mem, x.tier.trans y.tier, x.ten.trans y.ten, fun k => (x.online k).trans (y.online k)⟩

theorem SameMemory.foldl {α : Type} (f : State → α → State) (hf : ∀ s a, SameMemory (f s a) s) (l : List α) (s : State) :
    SameMemory (l.foldl f s) s := by
  induction l generalizing s with
  | nil => exact .refl s
  | cons a t ih => exact (ih _).trans (hf _ _)

theorem noteError_same (s : State) (c ca : Nat) (light : Bool) (mask place : Nat) (poison : Bool) (hall tenant : Option Nat) :
    SameMemory (noteError s c ca light mask place poison hall tenant) s :=
  let k := noteError_keeps s c ca light mask place poison hall tenant
  ⟨k.1, k.2.2.1, k.2.2.2.1, k.2.2.2.2⟩

theorem noteLight_same (s : State) (hid : Nat) (h : Hall) (c ca : Nat) (outs : Nat → Decode) :
    SameMemory (noteLight s hid h c ca outs) s := by
  refine SameMemory.foldl _ (fun a i => ?_) _ _
  split <;> first | exact noteError_same .. | exact .refl _

theorem notePair_same (s : State) (hid : Nat) (h : Hall) (c base : Nat) (gs : Nat → Granule) (out : Decode) :
    SameMemory (notePair s hid h c base gs out) s := by
  unfold notePair; split <;> first | exact noteError_same .. | exact .refl _

theorem modChan_same (s : State) (c : Nat) (f : Chan → Chan) (hf : ∀ y, (f y).st = y.st) : SameMemory (modChan s c f) s := by
  refine ⟨rfl, rfl, rfl, fun k => ?_⟩
  unfold chanOnline modChan; simp only [get?_modify]
  by_cases e : k = c
  · rw [e]; cases h : s.dram.chans.get? c <;> simp [hf]
  · rw [if_neg e]

theorem event_same (s : State) (e : Ev) (src : Nat) (tenant hall : Option Nat) (addr : Nat) (detail : List (Nat × Nat × Nat)) :
    SameMemory (event s e src tenant hall addr detail) s := by
  have q := event_quiet s e src tenant hall addr detail
  have d : (event s e src tenant hall addr detail).dram = s.dram := congrArg (fun s => s.dram) q
  exact ⟨by rw [d], congrArg (fun s => s.tier) q, congrArg (fun s => s.ten) q, fun k => by unfold chanOnline; rw [d]⟩

theorem noteSeen_same (s : State) (hid : Nat) (h : Hall) (x c ca : Nat) (gs : Nat → Granule) (used : Nat → Bool) :
    SameMemory (noteSeen s hid h x c ca gs used) s := by
  unfold noteSeen; dsimp only
  have m := modChan_same s c (fun y => { y with tagMiss := satAdd 16 y.tagMiss 1 }) fun _ => rfl
  repeat' split
  · exact (event_same ..).trans ((event_same ..).trans m)
  · exact event_same ..
  · exact (event_same ..).trans m
  · exact .refl _

theorem noteWritten_same (s : State) (hid : Nat) (h : Hall) (l : Nat) : SameMemory (noteWritten s hid h l) s := by
  unfold noteWritten; split <;> exact ⟨rfl, rfl, rfl, fun _ => rfl⟩

/-- What storing granules does: those named hold their value, every other granule is left alone. -/
theorem storeGrans_spec (s : State) (c b n : Nat) (p : Nat → Bool) (f : Nat → Granule) (hb : b % 16 = 0) :
    let t := storeGrans s c b n p f
    (∀ i, i < n → p i = true → (f i).written = true → granAt t c (b + 16 * i) = f i) ∧
    (∀ c' ca', (∀ j, j < n → p j = true → granKey c' ca' ≠ granKey c (b + 16 * j)) → granAt t c' ca' = granAt s c' ca') ∧
    t.tier = s.tier ∧ t.ten = s.ten ∧ (∀ k, chanOnline t k = chanOnline s k) := by
  unfold storeGrans
  induction n with
  | zero => exact ⟨by omega, fun _ _ _ => rfl, rfl, rfl, fun _ => rfl⟩
  | succ n ih =>
    dsimp only at ih ⊢
    simp only [List.range_succ, List.foldl_append, List.foldl_cons, List.foldl_nil]
    obtain ⟨i1, i2, i3, i4, i5⟩ := ih
    refine ⟨?_, ?_, ?_, ?_, ?_⟩
    · intro i hi hp hw
      by_cases hn : i = n
      · subst hn; rw [if_pos hp, granAt_putGran _ _ _ _ _ _ (.inr (by intro e; rw [e] at hw; cases hw)), if_pos rfl]
      · split
        · unfold granAt putGran; dsimp only; rw [getD_put_ne]
          · exact i1 i (by omega) hp hw
          · unfold granKey; omega
        · exact i1 i (by omega) hp hw
    · intro c' ca' hne
      split
      · unfold granAt putGran; dsimp only; rw [getD_put_ne _ _ _ (hne n (by omega) ‹_›)]
        exact i2 c' ca' fun j hj => hne j (by omega)
      · exact i2 c' ca' fun j hj => hne j (by omega)
    · split <;> exact i3
    · split <;> exact i4
    · intro k; split <;> exact i5 k

/-- The keys of a hall depend on the tenants alone. -/
theorem keys_congr {a b : State} (e : a.ten = b.ten) (hid : Nat) (h : Hall) :
    curGen a hid h = curGen b hid h ∧ curSlot a hid h = curSlot b hid h ∧ (∀ g, genSlot a hid h g = genSlot b hid h g) := by
  unfold curGen curSlot genSlot; rw [e]; exact ⟨rfl, rfl, fun _ => rfl⟩

theorem poisonGranule_congr {a b : State} (e : a.ten = b.ten) (hid : Nat) (h : Hall) : poisonGranule a hid h = poisonGranule b hid h := by
  unfold poisonGranule; rw [(keys_congr e hid h).1, (keys_congr e hid h).2.1]

/-- Whether a granule is delivered as poison depends on the tenants alone. -/
theorem deliver_poison_congr {a b : State} (e : a.ten = b.ten) (hid : Nat) (h : Hall) (g : Granule) :
    (deliver a hid h g).1.2 = (deliver b hid h g).1.2 := by
  unfold deliver; dsimp only; rw [(keys_congr e hid h).2.2]; repeat' split
  all_goals rfl

theorem deliver_poisonGranule (s : State) (hid : Nat) (h : Hall) : (deliver s hid h (poisonGranule s hid h)).1 = (0, true) := by
  unfold deliver poisonGranule; dsimp only; rw [if_neg (by decide)]
  by_cases q : h.light = true <;> simp [q]

/-- What a write makes of a granule (R149): poison where its mask bit is set, the data where all 16 bytes are written, poison
where a part of a poisoned granule is; the hall's tag and WRITTEN whenever anything is stored. -/
theorem mergeGran_spec (s : State) (hid : Nat) (h : Hall) (old : Granule) (d : LineData) (mask : BitVec 64) (i : Nat) :
    (d.poison.getLsbD i = true → mergeGran s hid h old d mask i = poisonGranule s hid h) ∧
    (d.poison.getLsbD i = false → granMask mask i = 0xFFFF →
      mergeGran s hid h old d mask i = { poisonGranule s hid h with data := granOf d.data i, poison := false }) ∧
    (d.poison.getLsbD i = false → granMask mask i ≠ 0 → granMask mask i ≠ 0xFFFF → (deliver s hid h old).1.2 = true →
      mergeGran s hid h old d mask i = poisonGranule s hid h) ∧
    ((d.poison.getLsbD i = true ∨ granMask mask i ≠ 0) → (mergeGran s hid h old d mask i).written = true ∧
      (mergeGran s hid h old d mask i).tag = if h.light = true then h.tenant else 0) := by
  unfold mergeGran
  refine ⟨?_, ?_, ?_, ?_⟩
  · intro e; rw [if_pos e]
  · intro e f; rw [if_neg (by simp [e]), if_neg (by rw [f]; decide)]; dsimp only; rw [if_neg (by simp [f])]
    simp only [f, poisonGranule, if_true]
  · intro e f k q; rw [if_neg (by simp [e]), if_neg f]; dsimp only
    rw [if_pos (by simp only [q, Bool.and_true, Bool.not_eq_true']; exact decide_eq_false k)]
  · intro e; split
    · exact ⟨rfl, rfl⟩
    · rename_i n; rw [if_neg (by simpa [n] using e)]; dsimp only; split <;> exact ⟨rfl, rfl⟩

/-- One granule put below the ones joined so far. -/
theorem getLsbD_joined (acc : BitVec 512) (x : BitVec 128) (k : Nat) (hk : k < 512) :
    (acc <<< 128 ||| x.setWidth 512).getLsbD k = if k < 128 then x.getLsbD k else acc.getLsbD (k - 128) := by
  simp only [BitVec.getLsbD_or, BitVec.getLsbD_shiftLeft, BitVec.getLsbD_setWidth, hk, decide_true, Bool.true_and]
  by_cases h : k < 128
  · simp [h]
  · rw [BitVec.getLsbD_of_ge x k (by omega)]; simp [h]

/-- A line joined from four granules carries each granule's poison bit, and zero where it is set (R426). -/
theorem joinLine_spec (g : Nat → BitVec 128 × Bool) (i : Nat) (hi : i < 4) :
    let j := joinLine ((List.range 4).map g)
    j.poison.getLsbD i = (g i).2 ∧ granOf j.data i = if (g i).2 = true then 0 else (g i).1 := by
  have w : ∀ q : BitVec 128 × Bool, (if q.2 = true then (0 : BitVec 512) else q.1.setWidth 512) =
      (if q.2 = true then (0 : BitVec 128) else q.1).setWidth 512 := by intro q; split <;> simp
  have bits : ∀ p0 p1 p2 p3 : Bool, ∀ k : Fin 4,
      (((((0 : BitVec 4) <<< 1 ||| (BitVec.ofBool p3).setWidth 4) <<< 1 ||| (BitVec.ofBool p2).setWidth 4) <<< 1 |||
        (BitVec.ofBool p1).setWidth 4) <<< 1 ||| (BitVec.ofBool p0).setWidth 4).getLsbD k =
        if k.1 = 0 then p0 else if k.1 = 1 then p1 else if k.1 = 2 then p2 else p3 := by decide
  simp only [joinLine, List.range_succ, List.range_zero, List.nil_append, List.cons_append, List.map_cons, List.map_nil, List.foldr, w]
  have cs : i = 0 ∨ i = 1 ∨ i = 2 ∨ i = 3 := by omega
  refine ⟨?_, ?_⟩
  · have := bits (g 0).2 (g 1).2 (g 2).2 (g 3).2 ⟨i, hi⟩
    refine this.trans ?_
    rcases cs with rfl | rfl | rfl | rfl <;> rfl
  · apply BitVec.eq_of_getLsbD_eq; intro k hk
    unfold granOf
    rw [BitVec.getLsbD_setWidth, BitVec.getLsbD_ushiftRight]
    simp only [hk, decide_true, Bool.true_and]
    rcases cs with rfl | rfl | rfl | rfl
    · rw [getLsbD_joined _ _ _ (by omega), if_pos (by omega)]; simp
    · rw [getLsbD_joined _ _ _ (by omega), if_neg (by omega), getLsbD_joined _ _ _ (by omega), if_pos (by omega)]
      rw [show 128 * 1 + k - 128 = k by omega]
    · rw [getLsbD_joined _ _ _ (by omega), if_neg (by omega), getLsbD_joined _ _ _ (by omega), if_neg (by omega),
        getLsbD_joined _ _ _ (by omega), if_pos (by omega)]
      rw [show 128 * 2 + k - 128 - 128 = k by omega]
    · rw [getLsbD_joined _ _ _ (by omega), if_neg (by omega), getLsbD_joined _ _ _ (by omega), if_neg (by omega),
        getLsbD_joined _ _ _ (by omega), if_neg (by omega), getLsbD_joined _ _ _ (by omega), if_pos (by omega)]
      rw [show 128 * 3 + k - 128 - 128 - 128 = k by omega]

end Sys2Proof.Laws
end

