-- ==== Sys2Proof/WellFormed.lean ====
section
/-! DEFINITION. When a command is well formed: every number lies in the range its field has in the spec. The meanings are
total; a command out of range finds no such object and changes nothing. -/

namespace Sys2Proof

/-- A message of a fabric port fills one slot or two (R11, R114). -/
def ReqMsg.wf (m : ReqMsg) : Bool := decide (m.port < 8) && decide (m.bytes.length = 55 ∨ m.bytes.length = 110)
def WltMsg.wf (m : WltMsg) : Bool := decide (m.port < 8) && decide (m.bytes.length = 55)
def RspMsg.wf (m : RspMsg) : Bool := decide (m.port < 8) && decide (m.bytes.length = 55 ∨ m.bytes.length = 110)

/-- An MGT or HBT message arrives on a fabric or peer port and fills one slot (R11, R114, R498, R561). -/
def MgtMsg.wf (m : MgtMsg) : Bool := decide (m.port < 10) && decide (m.bytes.length = 55)

/-- A mailbox message fills one slot, and its path names a port that exists (R11, R479). -/
def mbxWf (path : Path) (b : List Byte) : Bool :=
  decide (b.length = 55) && match path with
    | .port p => decide (p < 8)
    | .session _ => true
    | .ethernet => true
    | .peer p => decide (p = 8 ∨ p = 9)

/-- A flit arrives on a port with its first 242 bytes, CRC and FEC being the physical layer's (R64, R67). -/
def flitWf (port : Nat) (f : List Byte) : Bool := decide (port < 10) && decide (f.length = 242)

/-- A command's fields lie in their ranges. -/
def Instr.wf : Instr → Bool
  | .identityGet w | .attestGet w | .trustSet w | .bmcKeySet w | .timeGet w | .hallCreate w | .hallDestroy w
  | .hallTrim w | .hallQuery w | .hallSet w | .hallAclSet w | .hallAclRemove w | .hallAclQuery w | .topoSet w
  | .routeSet w | .portQuery w | .portSet w | .tenantCreate w | .tenantQuery w | .tenantKeyRotate w
  | .tenantKeyLoad w | .tenantKeyRetire w | .tenantRemove w | .ctxCreate w | .ctxDestroy w | .ctxQuery w | .ctxSet w
  | .ctxBindHall w | .ctxUnbindHall w | .queueCreate w | .queueDestroy w | .queueQuery w | .queueSet w | .rxwinSet w
  | .lastLoad w | .lastUnload w | .lastStop w | .lastQuery w | .flightLoad w | .flightCancel w | .flightQuery w
  | .flightRead w | .shaperSet w | .shaperQuery w | .tierHallQuery w | .tierHallSet w | .tierHint w | .tierQuery w
  | .tierDriveAdopt w | .dramQuery w | .dramSet w | .dramDiagWrite w | .dramDiagRead w | .fenceQuery w
  | .fenceClear w | .scanRun w _ | .recTriggerSet w | .recQuery w | .recRead w _ | .dumpQuery w | .dumpRead w
  | .dumpClear w | .pairSet w | .pairQuery w | .pairSwap w | .leaseQuery w | .peerSync w _ | .fwQuery w | .fwWrite w
  | .fwActivate w | .fwSvnCommit w | .storeQuery w | .storeBare w | .resetCmd w | .consoleUnlock w | .ringWrite w
  | .ringTake w | .commandDispatch w | .commandBoundExpiry w | .alertStatusClear w _ | .hintTimeout w =>
    decide (w < 1024)
  | .consoleUnlockExpiry | .feltiTick | .getVersion _ | .getCapabilities _ | .negotiateAlgorithms _ _ | .getDigests _
  | .getMeasurements _ _ _ _ | .keyExchange _ _ | .finish _ _ _ | .keyUpdate _ | .heartbeat _ | .endSession _
  | .spdmSessionExpiry _ | .smbusAlertResponse | .smbusClockTimeout | .smbalertStuckCheck _ | .ageLimitCommit _
  | .ageLimitRetry _ | .tierPolicyPass | .decayAdaptPass | .orderDeadlinePassed _ | .intentResyncStep | .rebuildRow
  | .lastStartTimeReached _ | .engineRequestComplete _ _ | .infieldScan _ _ | .tripCooldownRestart | .pfailNAssert
  | .pfailNRelease | .inputUndervoltage _ | .inputOvervoltage _ | .bus12vFault | .powerLossRailsDown
  | .powerLossRestart | .overvoltageRestart | .inputLow _ | .prechargeEnd | .railInRegulation _ | .railTimeout
  | .railRetry | .resetNAssert | .resetNRelease | .prsntNChange _ | .resetDelayExpiry | .quiesceTimeout
  | .readyReached | .startBoundFail | .poolTimeCheck | .rootPllUnlock | .renewTimer | .timeSyncTimer
  | .offsetSlewTick | .alignedLossTimeout | .wireFrame _ | .wireIdleTimeout | .wireChatter | .wireChatterClear
  | .leaseActiveExpiry | .leaseStandbyExpiry _ | .preemptDeadline | .selfResumeCheck _ | .mirrorAck _
  | .mirrorAckTimeout | .resyncStart | .resyncStep | .recoveryWindowEnd | .swapAtReached | .fatalFault _ _ _
  | .fatalReset | .segmentCopy | .managementCoresStop | .railOutOfRegulation _ | .testPortUse | .partnerReadyReport _ _ _
  | .roleDecisionTimeout | .smbalertHoldoffExpiry => true
  | .windowRegisterWrite w off _ => decide (w < 1024) && decide (off < 4294967296)
  | .alertHoldoffExpiry w cls => decide (w < 1024) && decide (cls < 6)
  | .mbxOpen m | .budgetAck m | .epState m | .linkRekey m | .spdmFrag m | .qdb m | .renew m | .ack m | .release m
  | .timeReq m | .timeRsp m => m.wf
  | .mbxWrite path b | .mbxRead path b | .mbxClose path b => mbxWf path b
  | .budgetDecreaseTimeout ep hall => decide (ep < 262144) && decide (hall < 4096)
  | .linkRekeyDue port | .linkKeyingResponse port _ | .keyingRetry port | .phyTrainingDone port _ _ _ _
  | .negotiateResend port | .flitCrcError port | .phyRecoveryDone port | .keepAlive port
  | .downTimeout port | .failBackHoldExpiry port | .laneErrorInterval port _ | .laneSwapRequestTimeout port
  | .laneSwapQuietStart port | .laneSwapQuietEnd port => decide (port < 10)
  | .getCertificate _ slot off len => decide (slot < 8) && decide (off < 4294967296) && decide (len < 65536)
  | .challenge _ slot _ => decide (slot < 8)
  | .chunkSend _ handle _ _ _ | .chunkGet _ handle _ => decide (handle < 256)
  | .smbusBlockWrite off _ _ => decide (off < 4294967296)
  | .smbusSetReadPointer ptr _ => decide (ptr < 4294967296)
  | .smbusBlockRead len => decide (len < 33)
  | .negotiate port f | .seqFlitReceive port f | .idleFlitReceive port f | .nakReceive port f | .laneSwapReceive port f =>
    flitWf port f
  | .nakRepeat port space | .replayTimeout port space => decide (port < 10) && decide (space < 2)
  | .rdS m | .rdX m | .rdNa m | .upg m | .wrFull m | .wrPart m | .wbM m | .amo m | .wltRd m | .wltWr m => m.wf
  | .wltOpen m | .wltCommit m _ | .wltAbort m => m.wf
  | .rspI m | .rspS m | .rspFwdS m | .rspFwdI m | .rspWbPend m | .dataWb m => m.wf
  | .orderingPointReached line | .tierBoundExpiry line => decide (line < 70368744177664)
  | .snoopTimeout ep stag => decide (ep < 262144) && decide (stag < 65536)
  | .orphanWalk ep => decide (ep < 262144)
  | .orderingBoundExpiry line ep tag => decide (line < 70368744177664) && decide (ep < 262144) && decide (tag < 65536)
  | .trackerHoldExpiry ep tag => decide (ep < 262144) && decide (tag < 65536)
  | .weltTimeout slot | .commitCollectionTimeout slot | .journalDurableTimeout slot => decide (slot < 4096)
  | .journalRecordDurable hall | .landingReadDone hall _ _ | .writebackDone hall _ | .superblockWriteDone hall
  | .maxDirtyExpiry hall _ | .decayPeriodExpiry hall | .keepExpiry hall _ | .orderHoldExpiry hall _
  | .writtenClearDone hall | .revocationDrainDone hall | .revocationDrainTimeout hall | .poisonedHallClearStep hall
  | .runClose _ _ hall => decide (hall < 4096)
  | .nvmeIoTimeout port _ | .nvmeAdminTimeout port | .nvmeAdminComplete port | .nvmeWriteError port _
  | .nvmeAsyncEvent port _ | .nvmeLogPoll port _ | .nvmeControllerFatal port | .nvmeReadyTimeout port
  | .driveRemoved port | .reservationConflict port | .nvmeControllerReady port | .nvmeIoComplete port _ =>
    decide (port < 8)
  | .intentBitClear region => decide (region < 4096)
  | .descriptorFetch qid | .lastStart qid | .map qid | .unmap qid | .sync qid | .resume qid | .ringAccessDone qid _
  | .faultTmoExpiry qid _ => decide (qid < 4096)
  | .epochDrainDone ctx | .epochDrainTimeout ctx => decide (ctx < 65536)
  | .translationWalkDone _ pos | .tileOverrun _ pos _ | .positionEnd _ pos _ | .thirdRunEnd _ pos _ =>
    decide (pos < 4294967296)
  | .benchClearDone core | .sentinelReplay core _ _ => decide (core < 136)
  | .thermalThreshold sensor _ => decide (sensor < 37)
  | .gateResume gallery => decide (gallery < 16)
  | .flightTakeover res | .treadBoundary res | .arbitrationGrant res => decide (res < 64)
  | .refreshDue ch bank => decide (ch < 16) && decide (bank < 64)
  | .retrainPause ch rank | .retrainDeferExpiry ch rank => decide (ch < 16) && decide (rank < 2)
  | .scrubStep ch => decide (ch < 16)
  | .spprRepair ch rank bg bank _ device =>
    decide (ch < 16) && decide (rank < 2) && decide (bg < 8) && decide (bank < 4) && decide (device < 20)
  | .keyCopyAck slot => decide (slot < 8192)
  | .sweepStep tenant | .sweepEnd tenant | .keyTrafficDrained tenant | .tenantDrainTimeout tenant =>
    decide (tenant < 4096)

end Sys2Proof
end

