-- ==== Sys2Proof/Laws/PerInstr.lean ====
section
/-! SUPPORT. What well-formedness says of each command's window, port and hall, constructor by constructor. -/

namespace Sys2Proof.Laws.Fields

set_option Elab.async false

/-- The window a command names, where it names one. -/
def window : Instr → Option Nat
  | .identityGet x | .attestGet x | .trustSet x | .bmcKeySet x | .timeGet x | .hallCreate x | .hallDestroy x
  | .hallTrim x | .hallQuery x | .hallSet x | .hallAclSet x | .hallAclRemove x | .hallAclQuery x | .topoSet x
  | .routeSet x | .portQuery x | .portSet x | .tenantCreate x | .tenantQuery x | .tenantKeyRotate x | .tenantKeyLoad x
  | .tenantKeyRetire x | .tenantRemove x | .ctxCreate x | .ctxDestroy x | .ctxQuery x | .ctxSet x | .ctxBindHall x
  | .ctxUnbindHall x | .queueCreate x | .queueDestroy x | .queueQuery x | .queueSet x | .rxwinSet x | .lastLoad x
  | .lastUnload x | .lastStop x | .lastQuery x | .flightLoad x | .flightCancel x | .flightQuery x | .flightRead x
  | .shaperSet x | .shaperQuery x | .tierHallQuery x | .tierHallSet x | .tierHint x | .tierQuery x | .tierDriveAdopt x
  | .dramQuery x | .dramSet x | .dramDiagWrite x | .dramDiagRead x | .fenceQuery x | .fenceClear x | .scanRun x _
  | .recTriggerSet x | .recQuery x | .recRead x _ | .dumpQuery x | .dumpRead x | .dumpClear x | .pairSet x | .pairQuery x
  | .pairSwap x | .leaseQuery x | .peerSync x _ | .fwQuery x | .fwWrite x | .fwActivate x | .fwSvnCommit x
  | .storeQuery x | .storeBare x | .resetCmd x | .consoleUnlock x | .ringWrite x | .ringTake x | .commandDispatch x
  | .commandBoundExpiry x | .alertStatusClear x _ | .windowRegisterWrite x _ _ | .alertHoldoffExpiry x _ | .hintTimeout x => some x
  | _ => none

/-- The port a command arrives on or acts on, where it names one itself. -/
def port : Instr → Option Nat
  | .linkRekeyDue x | .linkKeyingResponse x _ | .keyingRetry x | .phyTrainingDone x _ _ _ _ | .negotiateResend x
  | .negotiate x _ | .seqFlitReceive x _ | .idleFlitReceive x _ | .nakReceive x _ | .laneSwapReceive x _
  | .flitCrcError x | .nakRepeat x _ | .replayTimeout x _ | .phyRecoveryDone x | .keepAlive x | .downTimeout x
  | .failBackHoldExpiry x | .laneErrorInterval x _ | .laneSwapRequestTimeout x | .laneSwapQuietStart x
  | .laneSwapQuietEnd x | .nvmeIoTimeout x _ | .nvmeAdminTimeout x | .nvmeAdminComplete x | .nvmeWriteError x _
  | .nvmeAsyncEvent x _ | .nvmeLogPoll x _ | .nvmeControllerFatal x | .nvmeReadyTimeout x | .driveRemoved x
  | .reservationConflict x | .nvmeControllerReady x | .nvmeIoComplete x _ => some x
  | _ => none

/-- The hall a command names, where it names one itself. -/
def hall : Instr → Option Nat
  | .budgetDecreaseTimeout _ x | .journalRecordDurable x | .landingReadDone x _ _ | .writebackDone x _
  | .superblockWriteDone x | .maxDirtyExpiry x _ | .decayPeriodExpiry x | .keepExpiry x _ | .orderHoldExpiry x _
  | .writtenClearDone x | .revocationDrainDone x | .revocationDrainTimeout x | .poisonedHallClearStep x | .runClose _ _ x => some x
  | _ => none

/-- A well-formed command names a window, a port and a hall that the SH940 can have (R479, R116): 1,024 windows, ten ports, 4,096 halls. -/
def Statement (i : Instr) : Prop :=
  i.wf = true → (∀ w, window i = some w → w < 1024) ∧ (∀ p, port i = some p → p < 10) ∧ (∀ h, hall i = some h → h < 4096)

theorem identityGet (x0 : Nat) : Statement (.identityGet x0) := by
  intro h; refine ⟨fun _ e => ?_, fun _ e => ?_, fun _ e => ?_⟩ <;> cases e <;> delta Instr.wf at h <;> simp at h <;> omega
theorem attestGet (x0 : Nat) : Statement (.attestGet x0) := by
  intro h; refine ⟨fun _ e => ?_, fun _ e => ?_, fun _ e => ?_⟩ <;> cases e <;> delta Instr.wf at h <;> simp at h <;> omega
theorem trustSet (x0 : Nat) : Statement (.trustSet x0) := by
  intro h; refine ⟨fun _ e => ?_, fun _ e => ?_, fun _ e => ?_⟩ <;> cases e <;> delta Instr.wf at h <;> simp at h <;> omega
theorem bmcKeySet (x0 : Nat) : Statement (.bmcKeySet x0) := by
  intro h; refine ⟨fun _ e => ?_, fun _ e => ?_, fun _ e => ?_⟩ <;> cases e <;> delta Instr.wf at h <;> simp at h <;> omega
theorem timeGet (x0 : Nat) : Statement (.timeGet x0) := by
  intro h; refine ⟨fun _ e => ?_, fun _ e => ?_, fun _ e => ?_⟩ <;> cases e <;> delta Instr.wf at h <;> simp at h <;> omega
theorem hallCreate (x0 : Nat) : Statement (.hallCreate x0) := by
  intro h; refine ⟨fun _ e => ?_, fun _ e => ?_, fun _ e => ?_⟩ <;> cases e <;> delta Instr.wf at h <;> simp at h <;> omega
theorem hallDestroy (x0 : Nat) : Statement (.hallDestroy x0) := by
  intro h; refine ⟨fun _ e => ?_, fun _ e => ?_, fun _ e => ?_⟩ <;> cases e <;> delta Instr.wf at h <;> simp at h <;> omega
theorem hallTrim (x0 : Nat) : Statement (.hallTrim x0) := by
  intro h; refine ⟨fun _ e => ?_, fun _ e => ?_, fun _ e => ?_⟩ <;> cases e <;> delta Instr.wf at h <;> simp at h <;> omega
theorem hallQuery (x0 : Nat) : Statement (.hallQuery x0) := by
  intro h; refine ⟨fun _ e => ?_, fun _ e => ?_, fun _ e => ?_⟩ <;> cases e <;> delta Instr.wf at h <;> simp at h <;> omega
theorem hallSet (x0 : Nat) : Statement (.hallSet x0) := by
  intro h; refine ⟨fun _ e => ?_, fun _ e => ?_, fun _ e => ?_⟩ <;> cases e <;> delta Instr.wf at h <;> simp at h <;> omega
theorem hallAclSet (x0 : Nat) : Statement (.hallAclSet x0) := by
  intro h; refine ⟨fun _ e => ?_, fun _ e => ?_, fun _ e => ?_⟩ <;> cases e <;> delta Instr.wf at h <;> simp at h <;> omega
theorem hallAclRemove (x0 : Nat) : Statement (.hallAclRemove x0) := by
  intro h; refine ⟨fun _ e => ?_, fun _ e => ?_, fun _ e => ?_⟩ <;> cases e <;> delta Instr.wf at h <;> simp at h <;> omega
theorem hallAclQuery (x0 : Nat) : Statement (.hallAclQuery x0) := by
  intro h; refine ⟨fun _ e => ?_, fun _ e => ?_, fun _ e => ?_⟩ <;> cases e <;> delta Instr.wf at h <;> simp at h <;> omega
theorem topoSet (x0 : Nat) : Statement (.topoSet x0) := by
  intro h; refine ⟨fun _ e => ?_, fun _ e => ?_, fun _ e => ?_⟩ <;> cases e <;> delta Instr.wf at h <;> simp at h <;> omega
theorem routeSet (x0 : Nat) : Statement (.routeSet x0) := by
  intro h; refine ⟨fun _ e => ?_, fun _ e => ?_, fun _ e => ?_⟩ <;> cases e <;> delta Instr.wf at h <;> simp at h <;> omega
theorem portQuery (x0 : Nat) : Statement (.portQuery x0) := by
  intro h; refine ⟨fun _ e => ?_, fun _ e => ?_, fun _ e => ?_⟩ <;> cases e <;> delta Instr.wf at h <;> simp at h <;> omega
theorem portSet (x0 : Nat) : Statement (.portSet x0) := by
  intro h; refine ⟨fun _ e => ?_, fun _ e => ?_, fun _ e => ?_⟩ <;> cases e <;> delta Instr.wf at h <;> simp at h <;> omega
theorem tenantCreate (x0 : Nat) : Statement (.tenantCreate x0) := by
  intro h; refine ⟨fun _ e => ?_, fun _ e => ?_, fun _ e => ?_⟩ <;> cases e <;> delta Instr.wf at h <;> simp at h <;> omega
theorem tenantQuery (x0 : Nat) : Statement (.tenantQuery x0) := by
  intro h; refine ⟨fun _ e => ?_, fun _ e => ?_, fun _ e => ?_⟩ <;> cases e <;> delta Instr.wf at h <;> simp at h <;> omega
theorem tenantKeyRotate (x0 : Nat) : Statement (.tenantKeyRotate x0) := by
  intro h; refine ⟨fun _ e => ?_, fun _ e => ?_, fun _ e => ?_⟩ <;> cases e <;> delta Instr.wf at h <;> simp at h <;> omega
theorem tenantKeyLoad (x0 : Nat) : Statement (.tenantKeyLoad x0) := by
  intro h; refine ⟨fun _ e => ?_, fun _ e => ?_, fun _ e => ?_⟩ <;> cases e <;> delta Instr.wf at h <;> simp at h <;> omega
theorem tenantKeyRetire (x0 : Nat) : Statement (.tenantKeyRetire x0) := by
  intro h; refine ⟨fun _ e => ?_, fun _ e => ?_, fun _ e => ?_⟩ <;> cases e <;> delta Instr.wf at h <;> simp at h <;> omega
theorem tenantRemove (x0 : Nat) : Statement (.tenantRemove x0) := by
  intro h; refine ⟨fun _ e => ?_, fun _ e => ?_, fun _ e => ?_⟩ <;> cases e <;> delta Instr.wf at h <;> simp at h <;> omega
theorem ctxCreate (x0 : Nat) : Statement (.ctxCreate x0) := by
  intro h; refine ⟨fun _ e => ?_, fun _ e => ?_, fun _ e => ?_⟩ <;> cases e <;> delta Instr.wf at h <;> simp at h <;> omega
theorem ctxDestroy (x0 : Nat) : Statement (.ctxDestroy x0) := by
  intro h; refine ⟨fun _ e => ?_, fun _ e => ?_, fun _ e => ?_⟩ <;> cases e <;> delta Instr.wf at h <;> simp at h <;> omega
theorem ctxQuery (x0 : Nat) : Statement (.ctxQuery x0) := by
  intro h; refine ⟨fun _ e => ?_, fun _ e => ?_, fun _ e => ?_⟩ <;> cases e <;> delta Instr.wf at h <;> simp at h <;> omega
theorem ctxSet (x0 : Nat) : Statement (.ctxSet x0) := by
  intro h; refine ⟨fun _ e => ?_, fun _ e => ?_, fun _ e => ?_⟩ <;> cases e <;> delta Instr.wf at h <;> simp at h <;> omega
theorem ctxBindHall (x0 : Nat) : Statement (.ctxBindHall x0) := by
  intro h; refine ⟨fun _ e => ?_, fun _ e => ?_, fun _ e => ?_⟩ <;> cases e <;> delta Instr.wf at h <;> simp at h <;> omega
theorem ctxUnbindHall (x0 : Nat) : Statement (.ctxUnbindHall x0) := by
  intro h; refine ⟨fun _ e => ?_, fun _ e => ?_, fun _ e => ?_⟩ <;> cases e <;> delta Instr.wf at h <;> simp at h <;> omega
theorem queueCreate (x0 : Nat) : Statement (.queueCreate x0) := by
  intro h; refine ⟨fun _ e => ?_, fun _ e => ?_, fun _ e => ?_⟩ <;> cases e <;> delta Instr.wf at h <;> simp at h <;> omega
theorem queueDestroy (x0 : Nat) : Statement (.queueDestroy x0) := by
  intro h; refine ⟨fun _ e => ?_, fun _ e => ?_, fun _ e => ?_⟩ <;> cases e <;> delta Instr.wf at h <;> simp at h <;> omega
theorem queueQuery (x0 : Nat) : Statement (.queueQuery x0) := by
  intro h; refine ⟨fun _ e => ?_, fun _ e => ?_, fun _ e => ?_⟩ <;> cases e <;> delta Instr.wf at h <;> simp at h <;> omega
theorem queueSet (x0 : Nat) : Statement (.queueSet x0) := by
  intro h; refine ⟨fun _ e => ?_, fun _ e => ?_, fun _ e => ?_⟩ <;> cases e <;> delta Instr.wf at h <;> simp at h <;> omega
theorem rxwinSet (x0 : Nat) : Statement (.rxwinSet x0) := by
  intro h; refine ⟨fun _ e => ?_, fun _ e => ?_, fun _ e => ?_⟩ <;> cases e <;> delta Instr.wf at h <;> simp at h <;> omega
theorem lastLoad (x0 : Nat) : Statement (.lastLoad x0) := by
  intro h; refine ⟨fun _ e => ?_, fun _ e => ?_, fun _ e => ?_⟩ <;> cases e <;> delta Instr.wf at h <;> simp at h <;> omega
theorem lastUnload (x0 : Nat) : Statement (.lastUnload x0) := by
  intro h; refine ⟨fun _ e => ?_, fun _ e => ?_, fun _ e => ?_⟩ <;> cases e <;> delta Instr.wf at h <;> simp at h <;> omega
theorem lastStop (x0 : Nat) : Statement (.lastStop x0) := by
  intro h; refine ⟨fun _ e => ?_, fun _ e => ?_, fun _ e => ?_⟩ <;> cases e <;> delta Instr.wf at h <;> simp at h <;> omega
theorem lastQuery (x0 : Nat) : Statement (.lastQuery x0) := by
  intro h; refine ⟨fun _ e => ?_, fun _ e => ?_, fun _ e => ?_⟩ <;> cases e <;> delta Instr.wf at h <;> simp at h <;> omega
theorem flightLoad (x0 : Nat) : Statement (.flightLoad x0) := by
  intro h; refine ⟨fun _ e => ?_, fun _ e => ?_, fun _ e => ?_⟩ <;> cases e <;> delta Instr.wf at h <;> simp at h <;> omega
theorem flightCancel (x0 : Nat) : Statement (.flightCancel x0) := by
  intro h; refine ⟨fun _ e => ?_, fun _ e => ?_, fun _ e => ?_⟩ <;> cases e <;> delta Instr.wf at h <;> simp at h <;> omega
theorem flightQuery (x0 : Nat) : Statement (.flightQuery x0) := by
  intro h; refine ⟨fun _ e => ?_, fun _ e => ?_, fun _ e => ?_⟩ <;> cases e <;> delta Instr.wf at h <;> simp at h <;> omega
theorem flightRead (x0 : Nat) : Statement (.flightRead x0) := by
  intro h; refine ⟨fun _ e => ?_, fun _ e => ?_, fun _ e => ?_⟩ <;> cases e <;> delta Instr.wf at h <;> simp at h <;> omega
theorem shaperSet (x0 : Nat) : Statement (.shaperSet x0) := by
  intro h; refine ⟨fun _ e => ?_, fun _ e => ?_, fun _ e => ?_⟩ <;> cases e <;> delta Instr.wf at h <;> simp at h <;> omega
theorem shaperQuery (x0 : Nat) : Statement (.shaperQuery x0) := by
  intro h; refine ⟨fun _ e => ?_, fun _ e => ?_, fun _ e => ?_⟩ <;> cases e <;> delta Instr.wf at h <;> simp at h <;> omega
theorem tierHallQuery (x0 : Nat) : Statement (.tierHallQuery x0) := by
  intro h; refine ⟨fun _ e => ?_, fun _ e => ?_, fun _ e => ?_⟩ <;> cases e <;> delta Instr.wf at h <;> simp at h <;> omega
theorem tierHallSet (x0 : Nat) : Statement (.tierHallSet x0) := by
  intro h; refine ⟨fun _ e => ?_, fun _ e => ?_, fun _ e => ?_⟩ <;> cases e <;> delta Instr.wf at h <;> simp at h <;> omega
theorem tierHint (x0 : Nat) : Statement (.tierHint x0) := by
  intro h; refine ⟨fun _ e => ?_, fun _ e => ?_, fun _ e => ?_⟩ <;> cases e <;> delta Instr.wf at h <;> simp at h <;> omega
theorem tierQuery (x0 : Nat) : Statement (.tierQuery x0) := by
  intro h; refine ⟨fun _ e => ?_, fun _ e => ?_, fun _ e => ?_⟩ <;> cases e <;> delta Instr.wf at h <;> simp at h <;> omega
theorem tierDriveAdopt (x0 : Nat) : Statement (.tierDriveAdopt x0) := by
  intro h; refine ⟨fun _ e => ?_, fun _ e => ?_, fun _ e => ?_⟩ <;> cases e <;> delta Instr.wf at h <;> simp at h <;> omega
theorem dramQuery (x0 : Nat) : Statement (.dramQuery x0) := by
  intro h; refine ⟨fun _ e => ?_, fun _ e => ?_, fun _ e => ?_⟩ <;> cases e <;> delta Instr.wf at h <;> simp at h <;> omega
theorem dramSet (x0 : Nat) : Statement (.dramSet x0) := by
  intro h; refine ⟨fun _ e => ?_, fun _ e => ?_, fun _ e => ?_⟩ <;> cases e <;> delta Instr.wf at h <;> simp at h <;> omega
theorem dramDiagWrite (x0 : Nat) : Statement (.dramDiagWrite x0) := by
  intro h; refine ⟨fun _ e => ?_, fun _ e => ?_, fun _ e => ?_⟩ <;> cases e <;> delta Instr.wf at h <;> simp at h <;> omega
theorem dramDiagRead (x0 : Nat) : Statement (.dramDiagRead x0) := by
  intro h; refine ⟨fun _ e => ?_, fun _ e => ?_, fun _ e => ?_⟩ <;> cases e <;> delta Instr.wf at h <;> simp at h <;> omega
theorem fenceQuery (x0 : Nat) : Statement (.fenceQuery x0) := by
  intro h; refine ⟨fun _ e => ?_, fun _ e => ?_, fun _ e => ?_⟩ <;> cases e <;> delta Instr.wf at h <;> simp at h <;> omega
theorem fenceClear (x0 : Nat) : Statement (.fenceClear x0) := by
  intro h; refine ⟨fun _ e => ?_, fun _ e => ?_, fun _ e => ?_⟩ <;> cases e <;> delta Instr.wf at h <;> simp at h <;> omega
theorem scanRun (x0 : Nat) (x1 : ScanResult) : Statement (.scanRun x0 x1) := by
  intro h; refine ⟨fun _ e => ?_, fun _ e => ?_, fun _ e => ?_⟩ <;> cases e <;> delta Instr.wf at h <;> simp at h <;> omega
theorem recTriggerSet (x0 : Nat) : Statement (.recTriggerSet x0) := by
  intro h; refine ⟨fun _ e => ?_, fun _ e => ?_, fun _ e => ?_⟩ <;> cases e <;> delta Instr.wf at h <;> simp at h <;> omega
theorem recQuery (x0 : Nat) : Statement (.recQuery x0) := by
  intro h; refine ⟨fun _ e => ?_, fun _ e => ?_, fun _ e => ?_⟩ <;> cases e <;> delta Instr.wf at h <;> simp at h <;> omega
theorem recRead (x0 : Nat) (x1 : List Nat) : Statement (.recRead x0 x1) := by
  intro h; refine ⟨fun _ e => ?_, fun _ e => ?_, fun _ e => ?_⟩ <;> cases e <;> delta Instr.wf at h <;> simp at h <;> omega
theorem dumpQuery (x0 : Nat) : Statement (.dumpQuery x0) := by
  intro h; refine ⟨fun _ e => ?_, fun _ e => ?_, fun _ e => ?_⟩ <;> cases e <;> delta Instr.wf at h <;> simp at h <;> omega
theorem dumpRead (x0 : Nat) : Statement (.dumpRead x0) := by
  intro h; refine ⟨fun _ e => ?_, fun _ e => ?_, fun _ e => ?_⟩ <;> cases e <;> delta Instr.wf at h <;> simp at h <;> omega
theorem dumpClear (x0 : Nat) : Statement (.dumpClear x0) := by
  intro h; refine ⟨fun _ e => ?_, fun _ e => ?_, fun _ e => ?_⟩ <;> cases e <;> delta Instr.wf at h <;> simp at h <;> omega
theorem pairSet (x0 : Nat) : Statement (.pairSet x0) := by
  intro h; refine ⟨fun _ e => ?_, fun _ e => ?_, fun _ e => ?_⟩ <;> cases e <;> delta Instr.wf at h <;> simp at h <;> omega
theorem pairQuery (x0 : Nat) : Statement (.pairQuery x0) := by
  intro h; refine ⟨fun _ e => ?_, fun _ e => ?_, fun _ e => ?_⟩ <;> cases e <;> delta Instr.wf at h <;> simp at h <;> omega
theorem pairSwap (x0 : Nat) : Statement (.pairSwap x0) := by
  intro h; refine ⟨fun _ e => ?_, fun _ e => ?_, fun _ e => ?_⟩ <;> cases e <;> delta Instr.wf at h <;> simp at h <;> omega
theorem leaseQuery (x0 : Nat) : Statement (.leaseQuery x0) := by
  intro h; refine ⟨fun _ e => ?_, fun _ e => ?_, fun _ e => ?_⟩ <;> cases e <;> delta Instr.wf at h <;> simp at h <;> omega
theorem peerSync (x0 : Nat) (x1 : List MirrorRec) : Statement (.peerSync x0 x1) := by
  intro h; refine ⟨fun _ e => ?_, fun _ e => ?_, fun _ e => ?_⟩ <;> cases e <;> delta Instr.wf at h <;> simp at h <;> omega
theorem fwQuery (x0 : Nat) : Statement (.fwQuery x0) := by
  intro h; refine ⟨fun _ e => ?_, fun _ e => ?_, fun _ e => ?_⟩ <;> cases e <;> delta Instr.wf at h <;> simp at h <;> omega
theorem fwWrite (x0 : Nat) : Statement (.fwWrite x0) := by
  intro h; refine ⟨fun _ e => ?_, fun _ e => ?_, fun _ e => ?_⟩ <;> cases e <;> delta Instr.wf at h <;> simp at h <;> omega
theorem fwActivate (x0 : Nat) : Statement (.fwActivate x0) := by
  intro h; refine ⟨fun _ e => ?_, fun _ e => ?_, fun _ e => ?_⟩ <;> cases e <;> delta Instr.wf at h <;> simp at h <;> omega
theorem fwSvnCommit (x0 : Nat) : Statement (.fwSvnCommit x0) := by
  intro h; refine ⟨fun _ e => ?_, fun _ e => ?_, fun _ e => ?_⟩ <;> cases e <;> delta Instr.wf at h <;> simp at h <;> omega
theorem storeQuery (x0 : Nat) : Statement (.storeQuery x0) := by
  intro h; refine ⟨fun _ e => ?_, fun _ e => ?_, fun _ e => ?_⟩ <;> cases e <;> delta Instr.wf at h <;> simp at h <;> omega
theorem storeBare (x0 : Nat) : Statement (.storeBare x0) := by
  intro h; refine ⟨fun _ e => ?_, fun _ e => ?_, fun _ e => ?_⟩ <;> cases e <;> delta Instr.wf at h <;> simp at h <;> omega
theorem resetCmd (x0 : Nat) : Statement (.resetCmd x0) := by
  intro h; refine ⟨fun _ e => ?_, fun _ e => ?_, fun _ e => ?_⟩ <;> cases e <;> delta Instr.wf at h <;> simp at h <;> omega
theorem consoleUnlock (x0 : Nat) : Statement (.consoleUnlock x0) := by
  intro h; refine ⟨fun _ e => ?_, fun _ e => ?_, fun _ e => ?_⟩ <;> cases e <;> delta Instr.wf at h <;> simp at h <;> omega
theorem consoleUnlockExpiry : Statement (.consoleUnlockExpiry) := by
  intro h; refine ⟨fun _ e => ?_, fun _ e => ?_, fun _ e => ?_⟩ <;> cases e <;> delta Instr.wf at h <;> simp at h <;> omega
theorem ringWrite (x0 : Nat) : Statement (.ringWrite x0) := by
  intro h; refine ⟨fun _ e => ?_, fun _ e => ?_, fun _ e => ?_⟩ <;> cases e <;> delta Instr.wf at h <;> simp at h <;> omega
theorem ringTake (x0 : Nat) : Statement (.ringTake x0) := by
  intro h; refine ⟨fun _ e => ?_, fun _ e => ?_, fun _ e => ?_⟩ <;> cases e <;> delta Instr.wf at h <;> simp at h <;> omega
theorem commandDispatch (x0 : Nat) : Statement (.commandDispatch x0) := by
  intro h; refine ⟨fun _ e => ?_, fun _ e => ?_, fun _ e => ?_⟩ <;> cases e <;> delta Instr.wf at h <;> simp at h <;> omega
theorem commandBoundExpiry (x0 : Nat) : Statement (.commandBoundExpiry x0) := by
  intro h; refine ⟨fun _ e => ?_, fun _ e => ?_, fun _ e => ?_⟩ <;> cases e <;> delta Instr.wf at h <;> simp at h <;> omega
theorem alertStatusClear (x0 : Nat) (x1 : BitVec 8) : Statement (.alertStatusClear x0 x1) := by
  intro h; refine ⟨fun _ e => ?_, fun _ e => ?_, fun _ e => ?_⟩ <;> cases e <;> delta Instr.wf at h <;> simp at h <;> omega
theorem windowRegisterWrite (x0 : Nat) (x1 : Nat) (x2 : Byte) : Statement (.windowRegisterWrite x0 x1 x2) := by
  intro h; refine ⟨fun _ e => ?_, fun _ e => ?_, fun _ e => ?_⟩ <;> cases e <;> delta Instr.wf at h <;> simp at h <;> omega
theorem feltiTick : Statement (.feltiTick) := by
  intro h; refine ⟨fun _ e => ?_, fun _ e => ?_, fun _ e => ?_⟩ <;> cases e <;> delta Instr.wf at h <;> simp at h <;> omega
theorem alertHoldoffExpiry (x0 : Nat) (x1 : Nat) : Statement (.alertHoldoffExpiry x0 x1) := by
  intro h; refine ⟨fun _ e => ?_, fun _ e => ?_, fun _ e => ?_⟩ <;> cases e <;> delta Instr.wf at h <;> simp at h <;> omega
theorem mbxOpen (x0 : MgtMsg) : Statement (.mbxOpen x0) := by
  intro h; refine ⟨fun _ e => ?_, fun _ e => ?_, fun _ e => ?_⟩ <;> cases e <;> delta Instr.wf at h <;> simp at h <;> omega
theorem mbxWrite (x0 : Path) (x1 : List Byte) : Statement (.mbxWrite x0 x1) := by
  intro h; refine ⟨fun _ e => ?_, fun _ e => ?_, fun _ e => ?_⟩ <;> cases e <;> delta Instr.wf at h <;> simp at h <;> omega
theorem mbxRead (x0 : Path) (x1 : List Byte) : Statement (.mbxRead x0 x1) := by
  intro h; refine ⟨fun _ e => ?_, fun _ e => ?_, fun _ e => ?_⟩ <;> cases e <;> delta Instr.wf at h <;> simp at h <;> omega
theorem mbxClose (x0 : Path) (x1 : List Byte) : Statement (.mbxClose x0 x1) := by
  intro h; refine ⟨fun _ e => ?_, fun _ e => ?_, fun _ e => ?_⟩ <;> cases e <;> delta Instr.wf at h <;> simp at h <;> omega
theorem budgetAck (x0 : MgtMsg) : Statement (.budgetAck x0) := by
  intro h; refine ⟨fun _ e => ?_, fun _ e => ?_, fun _ e => ?_⟩ <;> cases e <;> delta Instr.wf at h <;> simp at h <;> omega
theorem budgetDecreaseTimeout (x0 : Nat) (x1 : Nat) : Statement (.budgetDecreaseTimeout x0 x1) := by
  intro h; refine ⟨fun _ e => ?_, fun _ e => ?_, fun _ e => ?_⟩ <;> cases e <;> delta Instr.wf at h <;> simp at h <;> omega
theorem epState (x0 : MgtMsg) : Statement (.epState x0) := by
  intro h; refine ⟨fun _ e => ?_, fun _ e => ?_, fun _ e => ?_⟩ <;> cases e <;> delta Instr.wf at h <;> simp at h <;> omega
theorem linkRekey (x0 : MgtMsg) : Statement (.linkRekey x0) := by
  intro h; refine ⟨fun _ e => ?_, fun _ e => ?_, fun _ e => ?_⟩ <;> cases e <;> delta Instr.wf at h <;> simp at h <;> omega
theorem linkRekeyDue (x0 : Nat) : Statement (.linkRekeyDue x0) := by
  intro h; refine ⟨fun _ e => ?_, fun _ e => ?_, fun _ e => ?_⟩ <;> cases e <;> delta Instr.wf at h <;> simp at h <;> omega
theorem spdmFrag (x0 : MgtMsg) : Statement (.spdmFrag x0) := by
  intro h; refine ⟨fun _ e => ?_, fun _ e => ?_, fun _ e => ?_⟩ <;> cases e <;> delta Instr.wf at h <;> simp at h <;> omega
theorem qdb (x0 : MgtMsg) : Statement (.qdb x0) := by
  intro h; refine ⟨fun _ e => ?_, fun _ e => ?_, fun _ e => ?_⟩ <;> cases e <;> delta Instr.wf at h <;> simp at h <;> omega
theorem getVersion (x0 : Nat) : Statement (.getVersion x0) := by
  intro h; refine ⟨fun _ e => ?_, fun _ e => ?_, fun _ e => ?_⟩ <;> cases e <;> delta Instr.wf at h <;> simp at h <;> omega
theorem getCapabilities (x0 : Nat) : Statement (.getCapabilities x0) := by
  intro h; refine ⟨fun _ e => ?_, fun _ e => ?_, fun _ e => ?_⟩ <;> cases e <;> delta Instr.wf at h <;> simp at h <;> omega
theorem negotiateAlgorithms (x0 : Nat) (x1 : Bool) : Statement (.negotiateAlgorithms x0 x1) := by
  intro h; refine ⟨fun _ e => ?_, fun _ e => ?_, fun _ e => ?_⟩ <;> cases e <;> delta Instr.wf at h <;> simp at h <;> omega
theorem getDigests (x0 : Nat) : Statement (.getDigests x0) := by
  intro h; refine ⟨fun _ e => ?_, fun _ e => ?_, fun _ e => ?_⟩ <;> cases e <;> delta Instr.wf at h <;> simp at h <;> omega
theorem getCertificate (x0 : Nat) (x1 : Nat) (x2 : Nat) (x3 : Nat) : Statement (.getCertificate x0 x1 x2 x3) := by
  intro h; refine ⟨fun _ e => ?_, fun _ e => ?_, fun _ e => ?_⟩ <;> cases e <;> delta Instr.wf at h <;> simp at h <;> omega
theorem challenge (x0 : Nat) (x1 : Nat) (x2 : List Byte) : Statement (.challenge x0 x1 x2) := by
  intro h; refine ⟨fun _ e => ?_, fun _ e => ?_, fun _ e => ?_⟩ <;> cases e <;> delta Instr.wf at h <;> simp at h <;> omega
theorem getMeasurements (x0 : Nat) (x1 : Nat) (x2 : Bool) (x3 : List Byte) : Statement (.getMeasurements x0 x1 x2 x3) := by
  intro h; refine ⟨fun _ e => ?_, fun _ e => ?_, fun _ e => ?_⟩ <;> cases e <;> delta Instr.wf at h <;> simp at h <;> omega
theorem keyExchange (x0 : Nat) (x1 : Bool) : Statement (.keyExchange x0 x1) := by
  intro h; refine ⟨fun _ e => ?_, fun _ e => ?_, fun _ e => ?_⟩ <;> cases e <;> delta Instr.wf at h <;> simp at h <;> omega
theorem finish (x0 : Nat) (x1 : ChainEnd) (x2 : Bool) : Statement (.finish x0 x1 x2) := by
  intro h; refine ⟨fun _ e => ?_, fun _ e => ?_, fun _ e => ?_⟩ <;> cases e <;> delta Instr.wf at h <;> simp at h <;> omega
theorem keyUpdate (x0 : Nat) : Statement (.keyUpdate x0) := by
  intro h; refine ⟨fun _ e => ?_, fun _ e => ?_, fun _ e => ?_⟩ <;> cases e <;> delta Instr.wf at h <;> simp at h <;> omega
theorem heartbeat (x0 : Nat) : Statement (.heartbeat x0) := by
  intro h; refine ⟨fun _ e => ?_, fun _ e => ?_, fun _ e => ?_⟩ <;> cases e <;> delta Instr.wf at h <;> simp at h <;> omega
theorem endSession (x0 : Nat) : Statement (.endSession x0) := by
  intro h; refine ⟨fun _ e => ?_, fun _ e => ?_, fun _ e => ?_⟩ <;> cases e <;> delta Instr.wf at h <;> simp at h <;> omega
theorem chunkSend (x0 : Nat) (x1 : Nat) (x2 : Nat) (x3 : Bool) (x4 : List Byte) : Statement (.chunkSend x0 x1 x2 x3 x4) := by
  intro h; refine ⟨fun _ e => ?_, fun _ e => ?_, fun _ e => ?_⟩ <;> cases e <;> delta Instr.wf at h <;> simp at h <;> omega
theorem chunkGet (x0 : Nat) (x1 : Nat) (x2 : Nat) : Statement (.chunkGet x0 x1 x2) := by
  intro h; refine ⟨fun _ e => ?_, fun _ e => ?_, fun _ e => ?_⟩ <;> cases e <;> delta Instr.wf at h <;> simp at h <;> omega
theorem spdmSessionExpiry (x0 : Nat) : Statement (.spdmSessionExpiry x0) := by
  intro h; refine ⟨fun _ e => ?_, fun _ e => ?_, fun _ e => ?_⟩ <;> cases e <;> delta Instr.wf at h <;> simp at h <;> omega
theorem linkKeyingResponse (x0 : Nat) (x1 : KeyingStep) : Statement (.linkKeyingResponse x0 x1) := by
  intro h; refine ⟨fun _ e => ?_, fun _ e => ?_, fun _ e => ?_⟩ <;> cases e <;> delta Instr.wf at h <;> simp at h <;> omega
theorem keyingRetry (x0 : Nat) : Statement (.keyingRetry x0) := by
  intro h; refine ⟨fun _ e => ?_, fun _ e => ?_, fun _ e => ?_⟩ <;> cases e <;> delta Instr.wf at h <;> simp at h <;> omega
theorem smbusBlockWrite (x0 : Nat) (x1 : List Byte) (x2 : Bool) : Statement (.smbusBlockWrite x0 x1 x2) := by
  intro h; refine ⟨fun _ e => ?_, fun _ e => ?_, fun _ e => ?_⟩ <;> cases e <;> delta Instr.wf at h <;> simp at h <;> omega
theorem smbusSetReadPointer (x0 : Nat) (x1 : Bool) : Statement (.smbusSetReadPointer x0 x1) := by
  intro h; refine ⟨fun _ e => ?_, fun _ e => ?_, fun _ e => ?_⟩ <;> cases e <;> delta Instr.wf at h <;> simp at h <;> omega
theorem smbusBlockRead (x0 : Nat) : Statement (.smbusBlockRead x0) := by
  intro h; refine ⟨fun _ e => ?_, fun _ e => ?_, fun _ e => ?_⟩ <;> cases e <;> delta Instr.wf at h <;> simp at h <;> omega
theorem smbusAlertResponse : Statement (.smbusAlertResponse) := by
  intro h; refine ⟨fun _ e => ?_, fun _ e => ?_, fun _ e => ?_⟩ <;> cases e <;> delta Instr.wf at h <;> simp at h <;> omega
theorem smbusClockTimeout : Statement (.smbusClockTimeout) := by
  intro h; refine ⟨fun _ e => ?_, fun _ e => ?_, fun _ e => ?_⟩ <;> cases e <;> delta Instr.wf at h <;> simp at h <;> omega
theorem smbalertStuckCheck (x0 : Bool) : Statement (.smbalertStuckCheck x0) := by
  intro h; refine ⟨fun _ e => ?_, fun _ e => ?_, fun _ e => ?_⟩ <;> cases e <;> delta Instr.wf at h <;> simp at h <;> omega
theorem phyTrainingDone (x0 : Nat) (x1 : Bool) (x2 : Bool) (x3 : Nat) (x4 : Nat) : Statement (.phyTrainingDone x0 x1 x2 x3 x4) := by
  intro h; refine ⟨fun _ e => ?_, fun _ e => ?_, fun _ e => ?_⟩ <;> cases e <;> delta Instr.wf at h <;> simp at h <;> omega
theorem negotiateResend (x0 : Nat) : Statement (.negotiateResend x0) := by
  intro h; refine ⟨fun _ e => ?_, fun _ e => ?_, fun _ e => ?_⟩ <;> cases e <;> delta Instr.wf at h <;> simp at h <;> omega
theorem negotiate (x0 : Nat) (x1 : List Byte) : Statement (.negotiate x0 x1) := by
  intro h; refine ⟨fun _ e => ?_, fun _ e => ?_, fun _ e => ?_⟩ <;> cases e <;> delta Instr.wf at h <;> simp [flitWf] at h <;> omega
theorem seqFlitReceive (x0 : Nat) (x1 : List Byte) : Statement (.seqFlitReceive x0 x1) := by
  intro h; refine ⟨fun _ e => ?_, fun _ e => ?_, fun _ e => ?_⟩ <;> cases e <;> delta Instr.wf at h <;> simp [flitWf] at h <;> omega
theorem idleFlitReceive (x0 : Nat) (x1 : List Byte) : Statement (.idleFlitReceive x0 x1) := by
  intro h; refine ⟨fun _ e => ?_, fun _ e => ?_, fun _ e => ?_⟩ <;> cases e <;> delta Instr.wf at h <;> simp [flitWf] at h <;> omega
theorem nakReceive (x0 : Nat) (x1 : List Byte) : Statement (.nakReceive x0 x1) := by
  intro h; refine ⟨fun _ e => ?_, fun _ e => ?_, fun _ e => ?_⟩ <;> cases e <;> delta Instr.wf at h <;> simp [flitWf] at h <;> omega
theorem laneSwapReceive (x0 : Nat) (x1 : List Byte) : Statement (.laneSwapReceive x0 x1) := by
  intro h; refine ⟨fun _ e => ?_, fun _ e => ?_, fun _ e => ?_⟩ <;> cases e <;> delta Instr.wf at h <;> simp [flitWf] at h <;> omega
theorem flitCrcError (x0 : Nat) : Statement (.flitCrcError x0) := by
  intro h; refine ⟨fun _ e => ?_, fun _ e => ?_, fun _ e => ?_⟩ <;> cases e <;> delta Instr.wf at h <;> simp at h <;> omega
theorem nakRepeat (x0 : Nat) (x1 : Nat) : Statement (.nakRepeat x0 x1) := by
  intro h; refine ⟨fun _ e => ?_, fun _ e => ?_, fun _ e => ?_⟩ <;> cases e <;> delta Instr.wf at h <;> simp at h <;> omega
theorem replayTimeout (x0 : Nat) (x1 : Nat) : Statement (.replayTimeout x0 x1) := by
  intro h; refine ⟨fun _ e => ?_, fun _ e => ?_, fun _ e => ?_⟩ <;> cases e <;> delta Instr.wf at h <;> simp at h <;> omega
theorem phyRecoveryDone (x0 : Nat) : Statement (.phyRecoveryDone x0) := by
  intro h; refine ⟨fun _ e => ?_, fun _ e => ?_, fun _ e => ?_⟩ <;> cases e <;> delta Instr.wf at h <;> simp at h <;> omega
theorem keepAlive (x0 : Nat) : Statement (.keepAlive x0) := by
  intro h; refine ⟨fun _ e => ?_, fun _ e => ?_, fun _ e => ?_⟩ <;> cases e <;> delta Instr.wf at h <;> simp at h <;> omega
theorem downTimeout (x0 : Nat) : Statement (.downTimeout x0) := by
  intro h; refine ⟨fun _ e => ?_, fun _ e => ?_, fun _ e => ?_⟩ <;> cases e <;> delta Instr.wf at h <;> simp at h <;> omega
theorem failBackHoldExpiry (x0 : Nat) : Statement (.failBackHoldExpiry x0) := by
  intro h; refine ⟨fun _ e => ?_, fun _ e => ?_, fun _ e => ?_⟩ <;> cases e <;> delta Instr.wf at h <;> simp at h <;> omega
theorem laneErrorInterval (x0 : Nat) (x1 : List Nat) : Statement (.laneErrorInterval x0 x1) := by
  intro h; refine ⟨fun _ e => ?_, fun _ e => ?_, fun _ e => ?_⟩ <;> cases e <;> delta Instr.wf at h <;> simp at h <;> omega
theorem laneSwapRequestTimeout (x0 : Nat) : Statement (.laneSwapRequestTimeout x0) := by
  intro h; refine ⟨fun _ e => ?_, fun _ e => ?_, fun _ e => ?_⟩ <;> cases e <;> delta Instr.wf at h <;> simp at h <;> omega
theorem laneSwapQuietStart (x0 : Nat) : Statement (.laneSwapQuietStart x0) := by
  intro h; refine ⟨fun _ e => ?_, fun _ e => ?_, fun _ e => ?_⟩ <;> cases e <;> delta Instr.wf at h <;> simp at h <;> omega
theorem laneSwapQuietEnd (x0 : Nat) : Statement (.laneSwapQuietEnd x0) := by
  intro h; refine ⟨fun _ e => ?_, fun _ e => ?_, fun _ e => ?_⟩ <;> cases e <;> delta Instr.wf at h <;> simp at h <;> omega
theorem rdS (x0 : ReqMsg) : Statement (.rdS x0) := by
  intro h; refine ⟨fun _ e => ?_, fun _ e => ?_, fun _ e => ?_⟩ <;> cases e <;> delta Instr.wf at h <;> simp at h <;> omega
theorem rdX (x0 : ReqMsg) : Statement (.rdX x0) := by
  intro h; refine ⟨fun _ e => ?_, fun _ e => ?_, fun _ e => ?_⟩ <;> cases e <;> delta Instr.wf at h <;> simp at h <;> omega
theorem rdNa (x0 : ReqMsg) : Statement (.rdNa x0) := by
  intro h; refine ⟨fun _ e => ?_, fun _ e => ?_, fun _ e => ?_⟩ <;> cases e <;> delta Instr.wf at h <;> simp at h <;> omega
theorem upg (x0 : ReqMsg) : Statement (.upg x0) := by
  intro h; refine ⟨fun _ e => ?_, fun _ e => ?_, fun _ e => ?_⟩ <;> cases e <;> delta Instr.wf at h <;> simp at h <;> omega
theorem wrFull (x0 : ReqMsg) : Statement (.wrFull x0) := by
  intro h; refine ⟨fun _ e => ?_, fun _ e => ?_, fun _ e => ?_⟩ <;> cases e <;> delta Instr.wf at h <;> simp at h <;> omega
theorem wrPart (x0 : ReqMsg) : Statement (.wrPart x0) := by
  intro h; refine ⟨fun _ e => ?_, fun _ e => ?_, fun _ e => ?_⟩ <;> cases e <;> delta Instr.wf at h <;> simp at h <;> omega
theorem wbM (x0 : ReqMsg) : Statement (.wbM x0) := by
  intro h; refine ⟨fun _ e => ?_, fun _ e => ?_, fun _ e => ?_⟩ <;> cases e <;> delta Instr.wf at h <;> simp at h <;> omega
theorem amo (x0 : ReqMsg) : Statement (.amo x0) := by
  intro h; refine ⟨fun _ e => ?_, fun _ e => ?_, fun _ e => ?_⟩ <;> cases e <;> delta Instr.wf at h <;> simp at h <;> omega
theorem wltRd (x0 : ReqMsg) : Statement (.wltRd x0) := by
  intro h; refine ⟨fun _ e => ?_, fun _ e => ?_, fun _ e => ?_⟩ <;> cases e <;> delta Instr.wf at h <;> simp at h <;> omega
theorem wltWr (x0 : ReqMsg) : Statement (.wltWr x0) := by
  intro h; refine ⟨fun _ e => ?_, fun _ e => ?_, fun _ e => ?_⟩ <;> cases e <;> delta Instr.wf at h <;> simp at h <;> omega
theorem wltOpen (x0 : WltMsg) : Statement (.wltOpen x0) := by
  intro h; refine ⟨fun _ e => ?_, fun _ e => ?_, fun _ e => ?_⟩ <;> cases e <;> delta Instr.wf at h <;> simp at h <;> omega
theorem wltCommit (x0 : WltMsg) (x1 : List (Nat × Nat)) : Statement (.wltCommit x0 x1) := by
  intro h; refine ⟨fun _ e => ?_, fun _ e => ?_, fun _ e => ?_⟩ <;> cases e <;> delta Instr.wf at h <;> simp at h <;> omega
theorem wltAbort (x0 : WltMsg) : Statement (.wltAbort x0) := by
  intro h; refine ⟨fun _ e => ?_, fun _ e => ?_, fun _ e => ?_⟩ <;> cases e <;> delta Instr.wf at h <;> simp at h <;> omega
theorem orderingPointReached (x0 : Nat) : Statement (.orderingPointReached x0) := by
  intro h; refine ⟨fun _ e => ?_, fun _ e => ?_, fun _ e => ?_⟩ <;> cases e <;> delta Instr.wf at h <;> simp at h <;> omega
theorem rspI (x0 : RspMsg) : Statement (.rspI x0) := by
  intro h; refine ⟨fun _ e => ?_, fun _ e => ?_, fun _ e => ?_⟩ <;> cases e <;> delta Instr.wf at h <;> simp at h <;> omega
theorem rspS (x0 : RspMsg) : Statement (.rspS x0) := by
  intro h; refine ⟨fun _ e => ?_, fun _ e => ?_, fun _ e => ?_⟩ <;> cases e <;> delta Instr.wf at h <;> simp at h <;> omega
theorem rspFwdS (x0 : RspMsg) : Statement (.rspFwdS x0) := by
  intro h; refine ⟨fun _ e => ?_, fun _ e => ?_, fun _ e => ?_⟩ <;> cases e <;> delta Instr.wf at h <;> simp at h <;> omega
theorem rspFwdI (x0 : RspMsg) : Statement (.rspFwdI x0) := by
  intro h; refine ⟨fun _ e => ?_, fun _ e => ?_, fun _ e => ?_⟩ <;> cases e <;> delta Instr.wf at h <;> simp at h <;> omega
theorem rspWbPend (x0 : RspMsg) : Statement (.rspWbPend x0) := by
  intro h; refine ⟨fun _ e => ?_, fun _ e => ?_, fun _ e => ?_⟩ <;> cases e <;> delta Instr.wf at h <;> simp at h <;> omega
theorem dataWb (x0 : RspMsg) : Statement (.dataWb x0) := by
  intro h; refine ⟨fun _ e => ?_, fun _ e => ?_, fun _ e => ?_⟩ <;> cases e <;> delta Instr.wf at h <;> simp at h <;> omega
theorem snoopTimeout (x0 : Nat) (x1 : Nat) : Statement (.snoopTimeout x0 x1) := by
  intro h; refine ⟨fun _ e => ?_, fun _ e => ?_, fun _ e => ?_⟩ <;> cases e <;> delta Instr.wf at h <;> simp at h <;> omega
theorem orphanWalk (x0 : Nat) : Statement (.orphanWalk x0) := by
  intro h; refine ⟨fun _ e => ?_, fun _ e => ?_, fun _ e => ?_⟩ <;> cases e <;> delta Instr.wf at h <;> simp at h <;> omega
theorem orderingBoundExpiry (x0 : Nat) (x1 : Nat) (x2 : Nat) : Statement (.orderingBoundExpiry x0 x1 x2) := by
  intro h; refine ⟨fun _ e => ?_, fun _ e => ?_, fun _ e => ?_⟩ <;> cases e <;> delta Instr.wf at h <;> simp at h <;> omega
theorem tierBoundExpiry (x0 : Nat) : Statement (.tierBoundExpiry x0) := by
  intro h; refine ⟨fun _ e => ?_, fun _ e => ?_, fun _ e => ?_⟩ <;> cases e <;> delta Instr.wf at h <;> simp at h <;> omega
theorem trackerHoldExpiry (x0 : Nat) (x1 : Nat) : Statement (.trackerHoldExpiry x0 x1) := by
  intro h; refine ⟨fun _ e => ?_, fun _ e => ?_, fun _ e => ?_⟩ <;> cases e <;> delta Instr.wf at h <;> simp at h <;> omega
theorem weltTimeout (x0 : Nat) : Statement (.weltTimeout x0) := by
  intro h; refine ⟨fun _ e => ?_, fun _ e => ?_, fun _ e => ?_⟩ <;> cases e <;> delta Instr.wf at h <;> simp at h <;> omega
theorem commitCollectionTimeout (x0 : Nat) : Statement (.commitCollectionTimeout x0) := by
  intro h; refine ⟨fun _ e => ?_, fun _ e => ?_, fun _ e => ?_⟩ <;> cases e <;> delta Instr.wf at h <;> simp at h <;> omega
theorem journalRecordDurable (x0 : Nat) : Statement (.journalRecordDurable x0) := by
  intro h; refine ⟨fun _ e => ?_, fun _ e => ?_, fun _ e => ?_⟩ <;> cases e <;> delta Instr.wf at h <;> simp at h <;> omega
theorem journalDurableTimeout (x0 : Nat) : Statement (.journalDurableTimeout x0) := by
  intro h; refine ⟨fun _ e => ?_, fun _ e => ?_, fun _ e => ?_⟩ <;> cases e <;> delta Instr.wf at h <;> simp at h <;> omega
theorem ageLimitCommit (x0 : Bool) : Statement (.ageLimitCommit x0) := by
  intro h; refine ⟨fun _ e => ?_, fun _ e => ?_, fun _ e => ?_⟩ <;> cases e <;> delta Instr.wf at h <;> simp at h <;> omega
theorem ageLimitRetry (x0 : Bool) : Statement (.ageLimitRetry x0) := by
  intro h; refine ⟨fun _ e => ?_, fun _ e => ?_, fun _ e => ?_⟩ <;> cases e <;> delta Instr.wf at h <;> simp at h <;> omega
theorem landingReadDone (x0 : Nat) (x1 : Nat) (x2 : List (Nat × Nat)) : Statement (.landingReadDone x0 x1 x2) := by
  intro h; refine ⟨fun _ e => ?_, fun _ e => ?_, fun _ e => ?_⟩ <;> cases e <;> delta Instr.wf at h <;> simp at h <;> omega
theorem writebackDone (x0 : Nat) (x1 : Nat) : Statement (.writebackDone x0 x1) := by
  intro h; refine ⟨fun _ e => ?_, fun _ e => ?_, fun _ e => ?_⟩ <;> cases e <;> delta Instr.wf at h <;> simp at h <;> omega
theorem superblockWriteDone (x0 : Nat) : Statement (.superblockWriteDone x0) := by
  intro h; refine ⟨fun _ e => ?_, fun _ e => ?_, fun _ e => ?_⟩ <;> cases e <;> delta Instr.wf at h <;> simp at h <;> omega
theorem maxDirtyExpiry (x0 : Nat) (x1 : Nat) : Statement (.maxDirtyExpiry x0 x1) := by
  intro h; refine ⟨fun _ e => ?_, fun _ e => ?_, fun _ e => ?_⟩ <;> cases e <;> delta Instr.wf at h <;> simp at h <;> omega
theorem decayPeriodExpiry (x0 : Nat) : Statement (.decayPeriodExpiry x0) := by
  intro h; refine ⟨fun _ e => ?_, fun _ e => ?_, fun _ e => ?_⟩ <;> cases e <;> delta Instr.wf at h <;> simp at h <;> omega
theorem tierPolicyPass : Statement (.tierPolicyPass) := by
  intro h; refine ⟨fun _ e => ?_, fun _ e => ?_, fun _ e => ?_⟩ <;> cases e <;> delta Instr.wf at h <;> simp at h <;> omega
theorem decayAdaptPass : Statement (.decayAdaptPass) := by
  intro h; refine ⟨fun _ e => ?_, fun _ e => ?_, fun _ e => ?_⟩ <;> cases e <;> delta Instr.wf at h <;> simp at h <;> omega
theorem keepExpiry (x0 : Nat) (x1 : Nat) : Statement (.keepExpiry x0 x1) := by
  intro h; refine ⟨fun _ e => ?_, fun _ e => ?_, fun _ e => ?_⟩ <;> cases e <;> delta Instr.wf at h <;> simp at h <;> omega
theorem hintTimeout (x0 : Nat) : Statement (.hintTimeout x0) := by
  intro h; refine ⟨fun _ e => ?_, fun _ e => ?_, fun _ e => ?_⟩ <;> cases e <;> delta Instr.wf at h <;> simp at h <;> omega
theorem orderDeadlinePassed (x0 : Nat) : Statement (.orderDeadlinePassed x0) := by
  intro h; refine ⟨fun _ e => ?_, fun _ e => ?_, fun _ e => ?_⟩ <;> cases e <;> delta Instr.wf at h <;> simp at h <;> omega
theorem orderHoldExpiry (x0 : Nat) (x1 : Nat) : Statement (.orderHoldExpiry x0 x1) := by
  intro h; refine ⟨fun _ e => ?_, fun _ e => ?_, fun _ e => ?_⟩ <;> cases e <;> delta Instr.wf at h <;> simp at h <;> omega
theorem nvmeIoTimeout (x0 : Nat) (x1 : Nat) : Statement (.nvmeIoTimeout x0 x1) := by
  intro h; refine ⟨fun _ e => ?_, fun _ e => ?_, fun _ e => ?_⟩ <;> cases e <;> delta Instr.wf at h <;> simp at h <;> omega
theorem nvmeAdminTimeout (x0 : Nat) : Statement (.nvmeAdminTimeout x0) := by
  intro h; refine ⟨fun _ e => ?_, fun _ e => ?_, fun _ e => ?_⟩ <;> cases e <;> delta Instr.wf at h <;> simp at h <;> omega
theorem nvmeAdminComplete (x0 : Nat) : Statement (.nvmeAdminComplete x0) := by
  intro h; refine ⟨fun _ e => ?_, fun _ e => ?_, fun _ e => ?_⟩ <;> cases e <;> delta Instr.wf at h <;> simp at h <;> omega
theorem nvmeWriteError (x0 : Nat) (x1 : Nat) : Statement (.nvmeWriteError x0 x1) := by
  intro h; refine ⟨fun _ e => ?_, fun _ e => ?_, fun _ e => ?_⟩ <;> cases e <;> delta Instr.wf at h <;> simp at h <;> omega
theorem nvmeAsyncEvent (x0 : Nat) (x1 : DriveEvent) : Statement (.nvmeAsyncEvent x0 x1) := by
  intro h; refine ⟨fun _ e => ?_, fun _ e => ?_, fun _ e => ?_⟩ <;> cases e <;> delta Instr.wf at h <;> simp at h <;> omega
theorem nvmeLogPoll (x0 : Nat) (x1 : DriveEvent) : Statement (.nvmeLogPoll x0 x1) := by
  intro h; refine ⟨fun _ e => ?_, fun _ e => ?_, fun _ e => ?_⟩ <;> cases e <;> delta Instr.wf at h <;> simp at h <;> omega
theorem nvmeControllerFatal (x0 : Nat) : Statement (.nvmeControllerFatal x0) := by
  intro h; refine ⟨fun _ e => ?_, fun _ e => ?_, fun _ e => ?_⟩ <;> cases e <;> delta Instr.wf at h <;> simp at h <;> omega
theorem nvmeReadyTimeout (x0 : Nat) : Statement (.nvmeReadyTimeout x0) := by
  intro h; refine ⟨fun _ e => ?_, fun _ e => ?_, fun _ e => ?_⟩ <;> cases e <;> delta Instr.wf at h <;> simp at h <;> omega
theorem driveRemoved (x0 : Nat) : Statement (.driveRemoved x0) := by
  intro h; refine ⟨fun _ e => ?_, fun _ e => ?_, fun _ e => ?_⟩ <;> cases e <;> delta Instr.wf at h <;> simp at h <;> omega
theorem reservationConflict (x0 : Nat) : Statement (.reservationConflict x0) := by
  intro h; refine ⟨fun _ e => ?_, fun _ e => ?_, fun _ e => ?_⟩ <;> cases e <;> delta Instr.wf at h <;> simp at h <;> omega
theorem intentBitClear (x0 : Nat) : Statement (.intentBitClear x0) := by
  intro h; refine ⟨fun _ e => ?_, fun _ e => ?_, fun _ e => ?_⟩ <;> cases e <;> delta Instr.wf at h <;> simp at h <;> omega
theorem intentResyncStep : Statement (.intentResyncStep) := by
  intro h; refine ⟨fun _ e => ?_, fun _ e => ?_, fun _ e => ?_⟩ <;> cases e <;> delta Instr.wf at h <;> simp at h <;> omega
theorem rebuildRow : Statement (.rebuildRow) := by
  intro h; refine ⟨fun _ e => ?_, fun _ e => ?_, fun _ e => ?_⟩ <;> cases e <;> delta Instr.wf at h <;> simp at h <;> omega
theorem descriptorFetch (x0 : Nat) : Statement (.descriptorFetch x0) := by
  intro h; refine ⟨fun _ e => ?_, fun _ e => ?_, fun _ e => ?_⟩ <;> cases e <;> delta Instr.wf at h <;> simp at h <;> omega
theorem lastStart (x0 : Nat) : Statement (.lastStart x0) := by
  intro h; refine ⟨fun _ e => ?_, fun _ e => ?_, fun _ e => ?_⟩ <;> cases e <;> delta Instr.wf at h <;> simp at h <;> omega
theorem map (x0 : Nat) : Statement (.map x0) := by
  intro h; refine ⟨fun _ e => ?_, fun _ e => ?_, fun _ e => ?_⟩ <;> cases e <;> delta Instr.wf at h <;> simp at h <;> omega
theorem unmap (x0 : Nat) : Statement (.unmap x0) := by
  intro h; refine ⟨fun _ e => ?_, fun _ e => ?_, fun _ e => ?_⟩ <;> cases e <;> delta Instr.wf at h <;> simp at h <;> omega
theorem sync (x0 : Nat) : Statement (.sync x0) := by
  intro h; refine ⟨fun _ e => ?_, fun _ e => ?_, fun _ e => ?_⟩ <;> cases e <;> delta Instr.wf at h <;> simp at h <;> omega
theorem resume (x0 : Nat) : Statement (.resume x0) := by
  intro h; refine ⟨fun _ e => ?_, fun _ e => ?_, fun _ e => ?_⟩ <;> cases e <;> delta Instr.wf at h <;> simp at h <;> omega
theorem epochDrainDone (x0 : Nat) : Statement (.epochDrainDone x0) := by
  intro h; refine ⟨fun _ e => ?_, fun _ e => ?_, fun _ e => ?_⟩ <;> cases e <;> delta Instr.wf at h <;> simp at h <;> omega
theorem epochDrainTimeout (x0 : Nat) : Statement (.epochDrainTimeout x0) := by
  intro h; refine ⟨fun _ e => ?_, fun _ e => ?_, fun _ e => ?_⟩ <;> cases e <;> delta Instr.wf at h <;> simp at h <;> omega
theorem ringAccessDone (x0 : Nat) (x1 : Nat) : Statement (.ringAccessDone x0 x1) := by
  intro h; refine ⟨fun _ e => ?_, fun _ e => ?_, fun _ e => ?_⟩ <;> cases e <;> delta Instr.wf at h <;> simp at h <;> omega
theorem lastStartTimeReached (x0 : Nat) : Statement (.lastStartTimeReached x0) := by
  intro h; refine ⟨fun _ e => ?_, fun _ e => ?_, fun _ e => ?_⟩ <;> cases e <;> delta Instr.wf at h <;> simp at h <;> omega
theorem translationWalkDone (x0 : Nat) (x1 : Nat) : Statement (.translationWalkDone x0 x1) := by
  intro h; refine ⟨fun _ e => ?_, fun _ e => ?_, fun _ e => ?_⟩ <;> cases e <;> delta Instr.wf at h <;> simp at h <;> omega
theorem faultTmoExpiry (x0 : Nat) (x1 : Nat) : Statement (.faultTmoExpiry x0 x1) := by
  intro h; refine ⟨fun _ e => ?_, fun _ e => ?_, fun _ e => ?_⟩ <;> cases e <;> delta Instr.wf at h <;> simp at h <;> omega
theorem engineRequestComplete (x0 : Nat) (x1 : Nat) : Statement (.engineRequestComplete x0 x1) := by
  intro h; refine ⟨fun _ e => ?_, fun _ e => ?_, fun _ e => ?_⟩ <;> cases e <;> delta Instr.wf at h <;> simp at h <;> omega
theorem tileOverrun (x0 : Nat) (x1 : Nat) (x2 : Nat) : Statement (.tileOverrun x0 x1 x2) := by
  intro h; refine ⟨fun _ e => ?_, fun _ e => ?_, fun _ e => ?_⟩ <;> cases e <;> delta Instr.wf at h <;> simp at h <;> omega
theorem positionEnd (x0 : Nat) (x1 : Nat) (x2 : BenchErrors) : Statement (.positionEnd x0 x1 x2) := by
  intro h; refine ⟨fun _ e => ?_, fun _ e => ?_, fun _ e => ?_⟩ <;> cases e <;> delta Instr.wf at h <;> simp at h <;> omega
theorem thirdRunEnd (x0 : Nat) (x1 : Nat) (x2 : Nat) : Statement (.thirdRunEnd x0 x1 x2) := by
  intro h; refine ⟨fun _ e => ?_, fun _ e => ?_, fun _ e => ?_⟩ <;> cases e <;> delta Instr.wf at h <;> simp at h <;> omega
theorem benchClearDone (x0 : Nat) : Statement (.benchClearDone x0) := by
  intro h; refine ⟨fun _ e => ?_, fun _ e => ?_, fun _ e => ?_⟩ <;> cases e <;> delta Instr.wf at h <;> simp at h <;> omega
theorem sentinelReplay (x0 : Nat) (x1 : Nat) (x2 : Bool) : Statement (.sentinelReplay x0 x1 x2) := by
  intro h; refine ⟨fun _ e => ?_, fun _ e => ?_, fun _ e => ?_⟩ <;> cases e <;> delta Instr.wf at h <;> simp at h <;> omega
theorem infieldScan (x0 : ScanResult) (x1 : List ArrayHit) : Statement (.infieldScan x0 x1) := by
  intro h; refine ⟨fun _ e => ?_, fun _ e => ?_, fun _ e => ?_⟩ <;> cases e <;> delta Instr.wf at h <;> simp at h <;> omega
theorem thermalThreshold (x0 : Nat) (x1 : Int) : Statement (.thermalThreshold x0 x1) := by
  intro h; refine ⟨fun _ e => ?_, fun _ e => ?_, fun _ e => ?_⟩ <;> cases e <;> delta Instr.wf at h <;> simp at h <;> omega
theorem gateResume (x0 : Nat) : Statement (.gateResume x0) := by
  intro h; refine ⟨fun _ e => ?_, fun _ e => ?_, fun _ e => ?_⟩ <;> cases e <;> delta Instr.wf at h <;> simp at h <;> omega
theorem tripCooldownRestart : Statement (.tripCooldownRestart) := by
  intro h; refine ⟨fun _ e => ?_, fun _ e => ?_, fun _ e => ?_⟩ <;> cases e <;> delta Instr.wf at h <;> simp at h <;> omega
theorem flightTakeover (x0 : Nat) : Statement (.flightTakeover x0) := by
  intro h; refine ⟨fun _ e => ?_, fun _ e => ?_, fun _ e => ?_⟩ <;> cases e <;> delta Instr.wf at h <;> simp at h <;> omega
theorem treadBoundary (x0 : Nat) : Statement (.treadBoundary x0) := by
  intro h; refine ⟨fun _ e => ?_, fun _ e => ?_, fun _ e => ?_⟩ <;> cases e <;> delta Instr.wf at h <;> simp at h <;> omega
theorem arbitrationGrant (x0 : Nat) : Statement (.arbitrationGrant x0) := by
  intro h; refine ⟨fun _ e => ?_, fun _ e => ?_, fun _ e => ?_⟩ <;> cases e <;> delta Instr.wf at h <;> simp at h <;> omega
theorem refreshDue (x0 : Nat) (x1 : Nat) : Statement (.refreshDue x0 x1) := by
  intro h; refine ⟨fun _ e => ?_, fun _ e => ?_, fun _ e => ?_⟩ <;> cases e <;> delta Instr.wf at h <;> simp at h <;> omega
theorem retrainPause (x0 : Nat) (x1 : Nat) : Statement (.retrainPause x0 x1) := by
  intro h; refine ⟨fun _ e => ?_, fun _ e => ?_, fun _ e => ?_⟩ <;> cases e <;> delta Instr.wf at h <;> simp at h <;> omega
theorem retrainDeferExpiry (x0 : Nat) (x1 : Nat) : Statement (.retrainDeferExpiry x0 x1) := by
  intro h; refine ⟨fun _ e => ?_, fun _ e => ?_, fun _ e => ?_⟩ <;> cases e <;> delta Instr.wf at h <;> simp at h <;> omega
theorem scrubStep (x0 : Nat) : Statement (.scrubStep x0) := by
  intro h; refine ⟨fun _ e => ?_, fun _ e => ?_, fun _ e => ?_⟩ <;> cases e <;> delta Instr.wf at h <;> simp at h <;> omega
theorem spprRepair (x0 : Nat) (x1 : Nat) (x2 : Nat) (x3 : Nat) (x4 : Nat) (x5 : Nat) : Statement (.spprRepair x0 x1 x2 x3 x4 x5) := by
  intro h; refine ⟨fun _ e => ?_, fun _ e => ?_, fun _ e => ?_⟩ <;> cases e <;> delta Instr.wf at h <;> simp at h <;> omega
theorem writtenClearDone (x0 : Nat) : Statement (.writtenClearDone x0) := by
  intro h; refine ⟨fun _ e => ?_, fun _ e => ?_, fun _ e => ?_⟩ <;> cases e <;> delta Instr.wf at h <;> simp at h <;> omega
theorem revocationDrainDone (x0 : Nat) : Statement (.revocationDrainDone x0) := by
  intro h; refine ⟨fun _ e => ?_, fun _ e => ?_, fun _ e => ?_⟩ <;> cases e <;> delta Instr.wf at h <;> simp at h <;> omega
theorem revocationDrainTimeout (x0 : Nat) : Statement (.revocationDrainTimeout x0) := by
  intro h; refine ⟨fun _ e => ?_, fun _ e => ?_, fun _ e => ?_⟩ <;> cases e <;> delta Instr.wf at h <;> simp at h <;> omega
theorem keyCopyAck (x0 : Nat) : Statement (.keyCopyAck x0) := by
  intro h; refine ⟨fun _ e => ?_, fun _ e => ?_, fun _ e => ?_⟩ <;> cases e <;> delta Instr.wf at h <;> simp at h <;> omega
theorem sweepStep (x0 : Nat) : Statement (.sweepStep x0) := by
  intro h; refine ⟨fun _ e => ?_, fun _ e => ?_, fun _ e => ?_⟩ <;> cases e <;> delta Instr.wf at h <;> simp at h <;> omega
theorem sweepEnd (x0 : Nat) : Statement (.sweepEnd x0) := by
  intro h; refine ⟨fun _ e => ?_, fun _ e => ?_, fun _ e => ?_⟩ <;> cases e <;> delta Instr.wf at h <;> simp at h <;> omega
theorem keyTrafficDrained (x0 : Nat) : Statement (.keyTrafficDrained x0) := by
  intro h; refine ⟨fun _ e => ?_, fun _ e => ?_, fun _ e => ?_⟩ <;> cases e <;> delta Instr.wf at h <;> simp at h <;> omega
theorem tenantDrainTimeout (x0 : Nat) : Statement (.tenantDrainTimeout x0) := by
  intro h; refine ⟨fun _ e => ?_, fun _ e => ?_, fun _ e => ?_⟩ <;> cases e <;> delta Instr.wf at h <;> simp at h <;> omega
theorem pfailNAssert : Statement (.pfailNAssert) := by
  intro h; refine ⟨fun _ e => ?_, fun _ e => ?_, fun _ e => ?_⟩ <;> cases e <;> delta Instr.wf at h <;> simp at h <;> omega
theorem pfailNRelease : Statement (.pfailNRelease) := by
  intro h; refine ⟨fun _ e => ?_, fun _ e => ?_, fun _ e => ?_⟩ <;> cases e <;> delta Instr.wf at h <;> simp at h <;> omega
theorem inputUndervoltage (x0 : Nat) : Statement (.inputUndervoltage x0) := by
  intro h; refine ⟨fun _ e => ?_, fun _ e => ?_, fun _ e => ?_⟩ <;> cases e <;> delta Instr.wf at h <;> simp at h <;> omega
theorem inputOvervoltage (x0 : Nat) : Statement (.inputOvervoltage x0) := by
  intro h; refine ⟨fun _ e => ?_, fun _ e => ?_, fun _ e => ?_⟩ <;> cases e <;> delta Instr.wf at h <;> simp at h <;> omega
theorem bus12vFault : Statement (.bus12vFault) := by
  intro h; refine ⟨fun _ e => ?_, fun _ e => ?_, fun _ e => ?_⟩ <;> cases e <;> delta Instr.wf at h <;> simp at h <;> omega
theorem powerLossRailsDown : Statement (.powerLossRailsDown) := by
  intro h; refine ⟨fun _ e => ?_, fun _ e => ?_, fun _ e => ?_⟩ <;> cases e <;> delta Instr.wf at h <;> simp at h <;> omega
theorem powerLossRestart : Statement (.powerLossRestart) := by
  intro h; refine ⟨fun _ e => ?_, fun _ e => ?_, fun _ e => ?_⟩ <;> cases e <;> delta Instr.wf at h <;> simp at h <;> omega
theorem overvoltageRestart : Statement (.overvoltageRestart) := by
  intro h; refine ⟨fun _ e => ?_, fun _ e => ?_, fun _ e => ?_⟩ <;> cases e <;> delta Instr.wf at h <;> simp at h <;> omega
theorem inputLow (x0 : Nat) : Statement (.inputLow x0) := by
  intro h; refine ⟨fun _ e => ?_, fun _ e => ?_, fun _ e => ?_⟩ <;> cases e <;> delta Instr.wf at h <;> simp at h <;> omega
theorem prechargeEnd : Statement (.prechargeEnd) := by
  intro h; refine ⟨fun _ e => ?_, fun _ e => ?_, fun _ e => ?_⟩ <;> cases e <;> delta Instr.wf at h <;> simp at h <;> omega
theorem railInRegulation (x0 : Nat) : Statement (.railInRegulation x0) := by
  intro h; refine ⟨fun _ e => ?_, fun _ e => ?_, fun _ e => ?_⟩ <;> cases e <;> delta Instr.wf at h <;> simp at h <;> omega
theorem railTimeout : Statement (.railTimeout) := by
  intro h; refine ⟨fun _ e => ?_, fun _ e => ?_, fun _ e => ?_⟩ <;> cases e <;> delta Instr.wf at h <;> simp at h <;> omega
theorem railRetry : Statement (.railRetry) := by
  intro h; refine ⟨fun _ e => ?_, fun _ e => ?_, fun _ e => ?_⟩ <;> cases e <;> delta Instr.wf at h <;> simp at h <;> omega
theorem resetNAssert : Statement (.resetNAssert) := by
  intro h; refine ⟨fun _ e => ?_, fun _ e => ?_, fun _ e => ?_⟩ <;> cases e <;> delta Instr.wf at h <;> simp at h <;> omega
theorem resetNRelease : Statement (.resetNRelease) := by
  intro h; refine ⟨fun _ e => ?_, fun _ e => ?_, fun _ e => ?_⟩ <;> cases e <;> delta Instr.wf at h <;> simp at h <;> omega
theorem prsntNChange (x0 : Bool) : Statement (.prsntNChange x0) := by
  intro h; refine ⟨fun _ e => ?_, fun _ e => ?_, fun _ e => ?_⟩ <;> cases e <;> delta Instr.wf at h <;> simp at h <;> omega
theorem resetDelayExpiry : Statement (.resetDelayExpiry) := by
  intro h; refine ⟨fun _ e => ?_, fun _ e => ?_, fun _ e => ?_⟩ <;> cases e <;> delta Instr.wf at h <;> simp at h <;> omega
theorem quiesceTimeout : Statement (.quiesceTimeout) := by
  intro h; refine ⟨fun _ e => ?_, fun _ e => ?_, fun _ e => ?_⟩ <;> cases e <;> delta Instr.wf at h <;> simp at h <;> omega
theorem readyReached : Statement (.readyReached) := by
  intro h; refine ⟨fun _ e => ?_, fun _ e => ?_, fun _ e => ?_⟩ <;> cases e <;> delta Instr.wf at h <;> simp at h <;> omega
theorem startBoundFail : Statement (.startBoundFail) := by
  intro h; refine ⟨fun _ e => ?_, fun _ e => ?_, fun _ e => ?_⟩ <;> cases e <;> delta Instr.wf at h <;> simp at h <;> omega
theorem poolTimeCheck : Statement (.poolTimeCheck) := by
  intro h; refine ⟨fun _ e => ?_, fun _ e => ?_, fun _ e => ?_⟩ <;> cases e <;> delta Instr.wf at h <;> simp at h <;> omega
theorem rootPllUnlock : Statement (.rootPllUnlock) := by
  intro h; refine ⟨fun _ e => ?_, fun _ e => ?_, fun _ e => ?_⟩ <;> cases e <;> delta Instr.wf at h <;> simp at h <;> omega
theorem renewTimer : Statement (.renewTimer) := by
  intro h; refine ⟨fun _ e => ?_, fun _ e => ?_, fun _ e => ?_⟩ <;> cases e <;> delta Instr.wf at h <;> simp at h <;> omega
theorem renew (x0 : MgtMsg) : Statement (.renew x0) := by
  intro h; refine ⟨fun _ e => ?_, fun _ e => ?_, fun _ e => ?_⟩ <;> cases e <;> delta Instr.wf at h <;> simp at h <;> omega
theorem ack (x0 : MgtMsg) : Statement (.ack x0) := by
  intro h; refine ⟨fun _ e => ?_, fun _ e => ?_, fun _ e => ?_⟩ <;> cases e <;> delta Instr.wf at h <;> simp at h <;> omega
theorem release (x0 : MgtMsg) : Statement (.release x0) := by
  intro h; refine ⟨fun _ e => ?_, fun _ e => ?_, fun _ e => ?_⟩ <;> cases e <;> delta Instr.wf at h <;> simp at h <;> omega
theorem timeSyncTimer : Statement (.timeSyncTimer) := by
  intro h; refine ⟨fun _ e => ?_, fun _ e => ?_, fun _ e => ?_⟩ <;> cases e <;> delta Instr.wf at h <;> simp at h <;> omega
theorem timeReq (x0 : MgtMsg) : Statement (.timeReq x0) := by
  intro h; refine ⟨fun _ e => ?_, fun _ e => ?_, fun _ e => ?_⟩ <;> cases e <;> delta Instr.wf at h <;> simp at h <;> omega
theorem timeRsp (x0 : MgtMsg) : Statement (.timeRsp x0) := by
  intro h; refine ⟨fun _ e => ?_, fun _ e => ?_, fun _ e => ?_⟩ <;> cases e <;> delta Instr.wf at h <;> simp at h <;> omega
theorem offsetSlewTick : Statement (.offsetSlewTick) := by
  intro h; refine ⟨fun _ e => ?_, fun _ e => ?_, fun _ e => ?_⟩ <;> cases e <;> delta Instr.wf at h <;> simp at h <;> omega
theorem alignedLossTimeout : Statement (.alignedLossTimeout) := by
  intro h; refine ⟨fun _ e => ?_, fun _ e => ?_, fun _ e => ?_⟩ <;> cases e <;> delta Instr.wf at h <;> simp at h <;> omega
theorem wireFrame (x0 : BitVec 72) : Statement (.wireFrame x0) := by
  intro h; refine ⟨fun _ e => ?_, fun _ e => ?_, fun _ e => ?_⟩ <;> cases e <;> delta Instr.wf at h <;> simp at h <;> omega
theorem wireIdleTimeout : Statement (.wireIdleTimeout) := by
  intro h; refine ⟨fun _ e => ?_, fun _ e => ?_, fun _ e => ?_⟩ <;> cases e <;> delta Instr.wf at h <;> simp at h <;> omega
theorem wireChatter : Statement (.wireChatter) := by
  intro h; refine ⟨fun _ e => ?_, fun _ e => ?_, fun _ e => ?_⟩ <;> cases e <;> delta Instr.wf at h <;> simp at h <;> omega
theorem wireChatterClear : Statement (.wireChatterClear) := by
  intro h; refine ⟨fun _ e => ?_, fun _ e => ?_, fun _ e => ?_⟩ <;> cases e <;> delta Instr.wf at h <;> simp at h <;> omega
theorem leaseActiveExpiry : Statement (.leaseActiveExpiry) := by
  intro h; refine ⟨fun _ e => ?_, fun _ e => ?_, fun _ e => ?_⟩ <;> cases e <;> delta Instr.wf at h <;> simp at h <;> omega
theorem leaseStandbyExpiry (x0 : List Bool) : Statement (.leaseStandbyExpiry x0) := by
  intro h; refine ⟨fun _ e => ?_, fun _ e => ?_, fun _ e => ?_⟩ <;> cases e <;> delta Instr.wf at h <;> simp at h <;> omega
theorem preemptDeadline : Statement (.preemptDeadline) := by
  intro h; refine ⟨fun _ e => ?_, fun _ e => ?_, fun _ e => ?_⟩ <;> cases e <;> delta Instr.wf at h <;> simp at h <;> omega
theorem selfResumeCheck (x0 : List (Option Nat)) : Statement (.selfResumeCheck x0) := by
  intro h; refine ⟨fun _ e => ?_, fun _ e => ?_, fun _ e => ?_⟩ <;> cases e <;> delta Instr.wf at h <;> simp at h <;> omega
theorem mirrorAck (x0 : Nat) : Statement (.mirrorAck x0) := by
  intro h; refine ⟨fun _ e => ?_, fun _ e => ?_, fun _ e => ?_⟩ <;> cases e <;> delta Instr.wf at h <;> simp at h <;> omega
theorem mirrorAckTimeout : Statement (.mirrorAckTimeout) := by
  intro h; refine ⟨fun _ e => ?_, fun _ e => ?_, fun _ e => ?_⟩ <;> cases e <;> delta Instr.wf at h <;> simp at h <;> omega
theorem resyncStart : Statement (.resyncStart) := by
  intro h; refine ⟨fun _ e => ?_, fun _ e => ?_, fun _ e => ?_⟩ <;> cases e <;> delta Instr.wf at h <;> simp at h <;> omega
theorem resyncStep : Statement (.resyncStep) := by
  intro h; refine ⟨fun _ e => ?_, fun _ e => ?_, fun _ e => ?_⟩ <;> cases e <;> delta Instr.wf at h <;> simp at h <;> omega
theorem recoveryWindowEnd : Statement (.recoveryWindowEnd) := by
  intro h; refine ⟨fun _ e => ?_, fun _ e => ?_, fun _ e => ?_⟩ <;> cases e <;> delta Instr.wf at h <;> simp at h <;> omega
theorem poisonedHallClearStep (x0 : Nat) : Statement (.poisonedHallClearStep x0) := by
  intro h; refine ⟨fun _ e => ?_, fun _ e => ?_, fun _ e => ?_⟩ <;> cases e <;> delta Instr.wf at h <;> simp at h <;> omega
theorem swapAtReached : Statement (.swapAtReached) := by
  intro h; refine ⟨fun _ e => ?_, fun _ e => ?_, fun _ e => ?_⟩ <;> cases e <;> delta Instr.wf at h <;> simp at h <;> omega
theorem fatalFault (x0 : FatalArray) (x1 : Nat) (x2 : Nat) : Statement (.fatalFault x0 x1 x2) := by
  intro h; refine ⟨fun _ e => ?_, fun _ e => ?_, fun _ e => ?_⟩ <;> cases e <;> delta Instr.wf at h <;> simp at h <;> omega
theorem fatalReset : Statement (.fatalReset) := by
  intro h; refine ⟨fun _ e => ?_, fun _ e => ?_, fun _ e => ?_⟩ <;> cases e <;> delta Instr.wf at h <;> simp at h <;> omega
theorem runClose (x0 : Nat) (x1 : Nat) (x2 : Nat) : Statement (.runClose x0 x1 x2) := by
  intro h; refine ⟨fun _ e => ?_, fun _ e => ?_, fun _ e => ?_⟩ <;> cases e <;> delta Instr.wf at h <;> simp at h <;> omega
theorem segmentCopy : Statement (.segmentCopy) := by
  intro h; refine ⟨fun _ e => ?_, fun _ e => ?_, fun _ e => ?_⟩ <;> cases e <;> delta Instr.wf at h <;> simp at h <;> omega
theorem managementCoresStop : Statement (.managementCoresStop) := by
  intro h; refine ⟨fun _ e => ?_, fun _ e => ?_, fun _ e => ?_⟩ <;> cases e <;> delta Instr.wf at h <;> simp at h <;> omega
theorem railOutOfRegulation (x0 : Nat) : Statement (.railOutOfRegulation x0) := by
  intro h; refine ⟨fun _ e => ?_, fun _ e => ?_, fun _ e => ?_⟩ <;> cases e <;> delta Instr.wf at h <;> simp at h <;> omega
theorem testPortUse : Statement (.testPortUse) := by
  intro h; refine ⟨fun _ e => ?_, fun _ e => ?_, fun _ e => ?_⟩ <;> cases e <;> delta Instr.wf at h <;> simp at h <;> omega
theorem nvmeControllerReady (x0 : Nat) : Statement (.nvmeControllerReady x0) := by
  intro h; refine ⟨fun _ e => ?_, fun _ e => ?_, fun _ e => ?_⟩ <;> cases e <;> delta Instr.wf at h <;> simp at h <;> omega
theorem nvmeIoComplete (x0 : Nat) (x1 : Nat) : Statement (.nvmeIoComplete x0 x1) := by
  intro h; refine ⟨fun _ e => ?_, fun _ e => ?_, fun _ e => ?_⟩ <;> cases e <;> delta Instr.wf at h <;> simp at h <;> omega
theorem partnerReadyReport (x0 : Bool) (x1 : Nat) (x2 : Nat) : Statement (.partnerReadyReport x0 x1 x2) := by
  intro h; refine ⟨fun _ e => ?_, fun _ e => ?_, fun _ e => ?_⟩ <;> cases e <;> delta Instr.wf at h <;> simp at h <;> omega
theorem roleDecisionTimeout : Statement (.roleDecisionTimeout) := by
  intro h; refine ⟨fun _ e => ?_, fun _ e => ?_, fun _ e => ?_⟩ <;> cases e <;> delta Instr.wf at h <;> simp at h <;> omega
theorem smbalertHoldoffExpiry : Statement (.smbalertHoldoffExpiry) := by
  intro h; refine ⟨fun _ e => ?_, fun _ e => ?_, fun _ e => ?_⟩ <;> cases e <;> delta Instr.wf at h <;> simp at h <;> omega

end Sys2Proof.Laws.Fields
end

