-- ==== Sys2Proof/Laws/State.lean ====
section
/-! SUPPORT. What each record update of the state leaves and what it writes: one lemma per field, true by rfl. -/

namespace Sys2Proof.Laws
open Sys2Proof.Machine

@[simp] theorem State_tickFree_pending (s : State) : (State.tickFree s).pending = s.pending := rfl
@[simp] theorem State_tickFree_clk (s : State) : (State.tickFree s).clk = s.clk := rfl
@[simp] theorem State_tickFree_hw (s : State) : (State.tickFree s).hw = s.hw := rfl
@[simp] theorem State_tickFree_pwr (s : State) : (State.tickFree s).pwr = s.pwr := rfl
@[simp] theorem State_tickFree_win (s : State) : (State.tickFree s).win = s.win := rfl
@[simp] theorem State_tickFree_cmdSeq (s : State) : (State.tickFree s).cmdSeq = s.cmdSeq := rfl
@[simp] theorem State_tickFree_halls (s : State) : (State.tickFree s).halls = s.halls := rfl
@[simp] theorem State_tickFree_acl (s : State) : (State.tickFree s).acl = s.acl := rfl
@[simp] theorem State_tickFree_drains (s : State) : (State.tickFree s).drains = s.drains := rfl
@[simp] theorem State_tickFree_clears (s : State) : (State.tickFree s).clears = s.clears := rfl
@[simp] theorem State_tickFree_route (s : State) : (State.tickFree s).route = s.route := rfl
@[simp] theorem State_tickFree_leaf (s : State) : (State.tickFree s).leaf = s.leaf := rfl
@[simp] theorem State_tickFree_dist (s : State) : (State.tickFree s).dist = s.dist := rfl
@[simp] theorem State_tickFree_ports (s : State) : (State.tickFree s).ports = s.ports := rfl
@[simp] theorem State_tickFree_eps (s : State) : (State.tickFree s).eps = s.eps := rfl
@[simp] theorem State_tickFree_home (s : State) : (State.tickFree s).home = s.home := rfl
@[simp] theorem State_tickFree_welt (s : State) : (State.tickFree s).welt = s.welt := rfl
@[simp] theorem State_tickFree_jrn (s : State) : (State.tickFree s).jrn = s.jrn := rfl
@[simp] theorem State_tickFree_tier (s : State) : (State.tickFree s).tier = s.tier := rfl
@[simp] theorem State_tickFree_flash (s : State) : (State.tickFree s).flash = s.flash := rfl
@[simp] theorem State_tickFree_dram (s : State) : (State.tickFree s).dram = s.dram := rfl
@[simp] theorem State_tickFree_ten (s : State) : (State.tickFree s).ten = s.ten := rfl
@[simp] theorem State_tickFree_trust (s : State) : (State.tickFree s).trust = s.trust := rfl
@[simp] theorem State_tickFree_spdm (s : State) : (State.tickFree s).spdm = s.spdm := rfl
@[simp] theorem State_tickFree_eng (s : State) : (State.tickFree s).eng = s.eng := rfl
@[simp] theorem State_tickFree_flt (s : State) : (State.tickFree s).flt = s.flt := rfl
@[simp] theorem State_tickFree_fence (s : State) : (State.tickFree s).fence = s.fence := rfl
@[simp] theorem State_tickFree_evr (s : State) : (State.tickFree s).evr = s.evr := rfl
@[simp] theorem State_tickFree_dump (s : State) : (State.tickFree s).dump = s.dump := rfl
@[simp] theorem State_tickFree_pair (s : State) : (State.tickFree s).pair = s.pair := rfl
@[simp] theorem State_tickFree_store (s : State) : (State.tickFree s).store = s.store := rfl
@[simp] theorem State_tickFree_fw (s : State) : (State.tickFree s).fw = s.fw := rfl
@[simp] theorem State_tickFree_out (s : State) : (State.tickFree s).out = s.out := rfl
@[simp] theorem State_tickFree_free (s : State) : (State.tickFree s).free = s.free + 1 := rfl

@[simp] theorem putGran_pending (s : State) (c ca : Nat) (g : Granule) : (putGran s c ca g).pending = s.pending := rfl
@[simp] theorem putGran_clk (s : State) (c ca : Nat) (g : Granule) : (putGran s c ca g).clk = s.clk := rfl
@[simp] theorem putGran_hw (s : State) (c ca : Nat) (g : Granule) : (putGran s c ca g).hw = s.hw := rfl
@[simp] theorem putGran_pwr (s : State) (c ca : Nat) (g : Granule) : (putGran s c ca g).pwr = s.pwr := rfl
@[simp] theorem putGran_win (s : State) (c ca : Nat) (g : Granule) : (putGran s c ca g).win = s.win := rfl
@[simp] theorem putGran_cmdSeq (s : State) (c ca : Nat) (g : Granule) : (putGran s c ca g).cmdSeq = s.cmdSeq := rfl
@[simp] theorem putGran_halls (s : State) (c ca : Nat) (g : Granule) : (putGran s c ca g).halls = s.halls := rfl
@[simp] theorem putGran_acl (s : State) (c ca : Nat) (g : Granule) : (putGran s c ca g).acl = s.acl := rfl
@[simp] theorem putGran_drains (s : State) (c ca : Nat) (g : Granule) : (putGran s c ca g).drains = s.drains := rfl
@[simp] theorem putGran_clears (s : State) (c ca : Nat) (g : Granule) : (putGran s c ca g).clears = s.clears := rfl
@[simp] theorem putGran_route (s : State) (c ca : Nat) (g : Granule) : (putGran s c ca g).route = s.route := rfl
@[simp] theorem putGran_leaf (s : State) (c ca : Nat) (g : Granule) : (putGran s c ca g).leaf = s.leaf := rfl
@[simp] theorem putGran_dist (s : State) (c ca : Nat) (g : Granule) : (putGran s c ca g).dist = s.dist := rfl
@[simp] theorem putGran_ports (s : State) (c ca : Nat) (g : Granule) : (putGran s c ca g).ports = s.ports := rfl
@[simp] theorem putGran_eps (s : State) (c ca : Nat) (g : Granule) : (putGran s c ca g).eps = s.eps := rfl
@[simp] theorem putGran_home (s : State) (c ca : Nat) (g : Granule) : (putGran s c ca g).home = s.home := rfl
@[simp] theorem putGran_welt (s : State) (c ca : Nat) (g : Granule) : (putGran s c ca g).welt = s.welt := rfl
@[simp] theorem putGran_jrn (s : State) (c ca : Nat) (g : Granule) : (putGran s c ca g).jrn = s.jrn := rfl
@[simp] theorem putGran_tier (s : State) (c ca : Nat) (g : Granule) : (putGran s c ca g).tier = s.tier := rfl
@[simp] theorem putGran_flash (s : State) (c ca : Nat) (g : Granule) : (putGran s c ca g).flash = s.flash := rfl
@[simp] theorem putGran_dram (s : State) (c ca : Nat) (g : Granule) : (putGran s c ca g).dram = { s.dram with mem := s.dram.mem.put (granKey c ca) g zeroGranule } := rfl
@[simp] theorem putGran_ten (s : State) (c ca : Nat) (g : Granule) : (putGran s c ca g).ten = s.ten := rfl
@[simp] theorem putGran_trust (s : State) (c ca : Nat) (g : Granule) : (putGran s c ca g).trust = s.trust := rfl
@[simp] theorem putGran_spdm (s : State) (c ca : Nat) (g : Granule) : (putGran s c ca g).spdm = s.spdm := rfl
@[simp] theorem putGran_eng (s : State) (c ca : Nat) (g : Granule) : (putGran s c ca g).eng = s.eng := rfl
@[simp] theorem putGran_flt (s : State) (c ca : Nat) (g : Granule) : (putGran s c ca g).flt = s.flt := rfl
@[simp] theorem putGran_fence (s : State) (c ca : Nat) (g : Granule) : (putGran s c ca g).fence = s.fence := rfl
@[simp] theorem putGran_evr (s : State) (c ca : Nat) (g : Granule) : (putGran s c ca g).evr = s.evr := rfl
@[simp] theorem putGran_dump (s : State) (c ca : Nat) (g : Granule) : (putGran s c ca g).dump = s.dump := rfl
@[simp] theorem putGran_pair (s : State) (c ca : Nat) (g : Granule) : (putGran s c ca g).pair = s.pair := rfl
@[simp] theorem putGran_store (s : State) (c ca : Nat) (g : Granule) : (putGran s c ca g).store = s.store := rfl
@[simp] theorem putGran_fw (s : State) (c ca : Nat) (g : Granule) : (putGran s c ca g).fw = s.fw := rfl
@[simp] theorem putGran_out (s : State) (c ca : Nat) (g : Granule) : (putGran s c ca g).out = s.out := rfl
@[simp] theorem putGran_free (s : State) (c ca : Nat) (g : Granule) : (putGran s c ca g).free = s.free := rfl

@[simp] theorem modChan_pending (s : State) (c : Nat) (f : Chan → Chan) : (modChan s c f).pending = s.pending := rfl
@[simp] theorem modChan_clk (s : State) (c : Nat) (f : Chan → Chan) : (modChan s c f).clk = s.clk := rfl
@[simp] theorem modChan_hw (s : State) (c : Nat) (f : Chan → Chan) : (modChan s c f).hw = s.hw := rfl
@[simp] theorem modChan_pwr (s : State) (c : Nat) (f : Chan → Chan) : (modChan s c f).pwr = s.pwr := rfl
@[simp] theorem modChan_win (s : State) (c : Nat) (f : Chan → Chan) : (modChan s c f).win = s.win := rfl
@[simp] theorem modChan_cmdSeq (s : State) (c : Nat) (f : Chan → Chan) : (modChan s c f).cmdSeq = s.cmdSeq := rfl
@[simp] theorem modChan_halls (s : State) (c : Nat) (f : Chan → Chan) : (modChan s c f).halls = s.halls := rfl
@[simp] theorem modChan_acl (s : State) (c : Nat) (f : Chan → Chan) : (modChan s c f).acl = s.acl := rfl
@[simp] theorem modChan_drains (s : State) (c : Nat) (f : Chan → Chan) : (modChan s c f).drains = s.drains := rfl
@[simp] theorem modChan_clears (s : State) (c : Nat) (f : Chan → Chan) : (modChan s c f).clears = s.clears := rfl
@[simp] theorem modChan_route (s : State) (c : Nat) (f : Chan → Chan) : (modChan s c f).route = s.route := rfl
@[simp] theorem modChan_leaf (s : State) (c : Nat) (f : Chan → Chan) : (modChan s c f).leaf = s.leaf := rfl
@[simp] theorem modChan_dist (s : State) (c : Nat) (f : Chan → Chan) : (modChan s c f).dist = s.dist := rfl
@[simp] theorem modChan_ports (s : State) (c : Nat) (f : Chan → Chan) : (modChan s c f).ports = s.ports := rfl
@[simp] theorem modChan_eps (s : State) (c : Nat) (f : Chan → Chan) : (modChan s c f).eps = s.eps := rfl
@[simp] theorem modChan_home (s : State) (c : Nat) (f : Chan → Chan) : (modChan s c f).home = s.home := rfl
@[simp] theorem modChan_welt (s : State) (c : Nat) (f : Chan → Chan) : (modChan s c f).welt = s.welt := rfl
@[simp] theorem modChan_jrn (s : State) (c : Nat) (f : Chan → Chan) : (modChan s c f).jrn = s.jrn := rfl
@[simp] theorem modChan_tier (s : State) (c : Nat) (f : Chan → Chan) : (modChan s c f).tier = s.tier := rfl
@[simp] theorem modChan_flash (s : State) (c : Nat) (f : Chan → Chan) : (modChan s c f).flash = s.flash := rfl
@[simp] theorem modChan_dram (s : State) (c : Nat) (f : Chan → Chan) : (modChan s c f).dram = { s.dram with chans := s.dram.chans.modify c f } := rfl
@[simp] theorem modChan_ten (s : State) (c : Nat) (f : Chan → Chan) : (modChan s c f).ten = s.ten := rfl
@[simp] theorem modChan_trust (s : State) (c : Nat) (f : Chan → Chan) : (modChan s c f).trust = s.trust := rfl
@[simp] theorem modChan_spdm (s : State) (c : Nat) (f : Chan → Chan) : (modChan s c f).spdm = s.spdm := rfl
@[simp] theorem modChan_eng (s : State) (c : Nat) (f : Chan → Chan) : (modChan s c f).eng = s.eng := rfl
@[simp] theorem modChan_flt (s : State) (c : Nat) (f : Chan → Chan) : (modChan s c f).flt = s.flt := rfl
@[simp] theorem modChan_fence (s : State) (c : Nat) (f : Chan → Chan) : (modChan s c f).fence = s.fence := rfl
@[simp] theorem modChan_evr (s : State) (c : Nat) (f : Chan → Chan) : (modChan s c f).evr = s.evr := rfl
@[simp] theorem modChan_dump (s : State) (c : Nat) (f : Chan → Chan) : (modChan s c f).dump = s.dump := rfl
@[simp] theorem modChan_pair (s : State) (c : Nat) (f : Chan → Chan) : (modChan s c f).pair = s.pair := rfl
@[simp] theorem modChan_store (s : State) (c : Nat) (f : Chan → Chan) : (modChan s c f).store = s.store := rfl
@[simp] theorem modChan_fw (s : State) (c : Nat) (f : Chan → Chan) : (modChan s c f).fw = s.fw := rfl
@[simp] theorem modChan_out (s : State) (c : Nat) (f : Chan → Chan) : (modChan s c f).out = s.out := rfl
@[simp] theorem modChan_free (s : State) (c : Nat) (f : Chan → Chan) : (modChan s c f).free = s.free := rfl

@[simp] theorem clearRange_pending (s : State) (c lo hi : Nat) : (clearRange s c lo hi).pending = s.pending := rfl
@[simp] theorem clearRange_clk (s : State) (c lo hi : Nat) : (clearRange s c lo hi).clk = s.clk := rfl
@[simp] theorem clearRange_hw (s : State) (c lo hi : Nat) : (clearRange s c lo hi).hw = s.hw := rfl
@[simp] theorem clearRange_pwr (s : State) (c lo hi : Nat) : (clearRange s c lo hi).pwr = s.pwr := rfl
@[simp] theorem clearRange_win (s : State) (c lo hi : Nat) : (clearRange s c lo hi).win = s.win := rfl
@[simp] theorem clearRange_cmdSeq (s : State) (c lo hi : Nat) : (clearRange s c lo hi).cmdSeq = s.cmdSeq := rfl
@[simp] theorem clearRange_halls (s : State) (c lo hi : Nat) : (clearRange s c lo hi).halls = s.halls := rfl
@[simp] theorem clearRange_acl (s : State) (c lo hi : Nat) : (clearRange s c lo hi).acl = s.acl := rfl
@[simp] theorem clearRange_drains (s : State) (c lo hi : Nat) : (clearRange s c lo hi).drains = s.drains := rfl
@[simp] theorem clearRange_clears (s : State) (c lo hi : Nat) : (clearRange s c lo hi).clears = s.clears := rfl
@[simp] theorem clearRange_route (s : State) (c lo hi : Nat) : (clearRange s c lo hi).route = s.route := rfl
@[simp] theorem clearRange_leaf (s : State) (c lo hi : Nat) : (clearRange s c lo hi).leaf = s.leaf := rfl
@[simp] theorem clearRange_dist (s : State) (c lo hi : Nat) : (clearRange s c lo hi).dist = s.dist := rfl
@[simp] theorem clearRange_ports (s : State) (c lo hi : Nat) : (clearRange s c lo hi).ports = s.ports := rfl
@[simp] theorem clearRange_eps (s : State) (c lo hi : Nat) : (clearRange s c lo hi).eps = s.eps := rfl
@[simp] theorem clearRange_home (s : State) (c lo hi : Nat) : (clearRange s c lo hi).home = s.home := rfl
@[simp] theorem clearRange_welt (s : State) (c lo hi : Nat) : (clearRange s c lo hi).welt = s.welt := rfl
@[simp] theorem clearRange_jrn (s : State) (c lo hi : Nat) : (clearRange s c lo hi).jrn = s.jrn := rfl
@[simp] theorem clearRange_tier (s : State) (c lo hi : Nat) : (clearRange s c lo hi).tier = s.tier := rfl
@[simp] theorem clearRange_flash (s : State) (c lo hi : Nat) : (clearRange s c lo hi).flash = s.flash := rfl
@[simp] theorem clearRange_dram (s : State) (c lo hi : Nat) : (clearRange s c lo hi).dram = { s.dram with mem := s.dram.mem.clear (granKey c lo) (granKey c hi) } := rfl
@[simp] theorem clearRange_ten (s : State) (c lo hi : Nat) : (clearRange s c lo hi).ten = s.ten := rfl
@[simp] theorem clearRange_trust (s : State) (c lo hi : Nat) : (clearRange s c lo hi).trust = s.trust := rfl
@[simp] theorem clearRange_spdm (s : State) (c lo hi : Nat) : (clearRange s c lo hi).spdm = s.spdm := rfl
@[simp] theorem clearRange_eng (s : State) (c lo hi : Nat) : (clearRange s c lo hi).eng = s.eng := rfl
@[simp] theorem clearRange_flt (s : State) (c lo hi : Nat) : (clearRange s c lo hi).flt = s.flt := rfl
@[simp] theorem clearRange_fence (s : State) (c lo hi : Nat) : (clearRange s c lo hi).fence = s.fence := rfl
@[simp] theorem clearRange_evr (s : State) (c lo hi : Nat) : (clearRange s c lo hi).evr = s.evr := rfl
@[simp] theorem clearRange_dump (s : State) (c lo hi : Nat) : (clearRange s c lo hi).dump = s.dump := rfl
@[simp] theorem clearRange_pair (s : State) (c lo hi : Nat) : (clearRange s c lo hi).pair = s.pair := rfl
@[simp] theorem clearRange_store (s : State) (c lo hi : Nat) : (clearRange s c lo hi).store = s.store := rfl
@[simp] theorem clearRange_fw (s : State) (c lo hi : Nat) : (clearRange s c lo hi).fw = s.fw := rfl
@[simp] theorem clearRange_out (s : State) (c lo hi : Nat) : (clearRange s c lo hi).out = s.out := rfl
@[simp] theorem clearRange_free (s : State) (c lo hi : Nat) : (clearRange s c lo hi).free = s.free := rfl

@[simp] theorem modWin_pending (s : State) (n : Nat) (f : Win → Win) : (modWin s n f).pending = s.pending := rfl
@[simp] theorem modWin_clk (s : State) (n : Nat) (f : Win → Win) : (modWin s n f).clk = s.clk := rfl
@[simp] theorem modWin_hw (s : State) (n : Nat) (f : Win → Win) : (modWin s n f).hw = s.hw := rfl
@[simp] theorem modWin_pwr (s : State) (n : Nat) (f : Win → Win) : (modWin s n f).pwr = s.pwr := rfl
@[simp] theorem modWin_win (s : State) (n : Nat) (f : Win → Win) : (modWin s n f).win = s.win.modify n f := rfl
@[simp] theorem modWin_cmdSeq (s : State) (n : Nat) (f : Win → Win) : (modWin s n f).cmdSeq = s.cmdSeq := rfl
@[simp] theorem modWin_halls (s : State) (n : Nat) (f : Win → Win) : (modWin s n f).halls = s.halls := rfl
@[simp] theorem modWin_acl (s : State) (n : Nat) (f : Win → Win) : (modWin s n f).acl = s.acl := rfl
@[simp] theorem modWin_drains (s : State) (n : Nat) (f : Win → Win) : (modWin s n f).drains = s.drains := rfl
@[simp] theorem modWin_clears (s : State) (n : Nat) (f : Win → Win) : (modWin s n f).clears = s.clears := rfl
@[simp] theorem modWin_route (s : State) (n : Nat) (f : Win → Win) : (modWin s n f).route = s.route := rfl
@[simp] theorem modWin_leaf (s : State) (n : Nat) (f : Win → Win) : (modWin s n f).leaf = s.leaf := rfl
@[simp] theorem modWin_dist (s : State) (n : Nat) (f : Win → Win) : (modWin s n f).dist = s.dist := rfl
@[simp] theorem modWin_ports (s : State) (n : Nat) (f : Win → Win) : (modWin s n f).ports = s.ports := rfl
@[simp] theorem modWin_eps (s : State) (n : Nat) (f : Win → Win) : (modWin s n f).eps = s.eps := rfl
@[simp] theorem modWin_home (s : State) (n : Nat) (f : Win → Win) : (modWin s n f).home = s.home := rfl
@[simp] theorem modWin_welt (s : State) (n : Nat) (f : Win → Win) : (modWin s n f).welt = s.welt := rfl
@[simp] theorem modWin_jrn (s : State) (n : Nat) (f : Win → Win) : (modWin s n f).jrn = s.jrn := rfl
@[simp] theorem modWin_tier (s : State) (n : Nat) (f : Win → Win) : (modWin s n f).tier = s.tier := rfl
@[simp] theorem modWin_flash (s : State) (n : Nat) (f : Win → Win) : (modWin s n f).flash = s.flash := rfl
@[simp] theorem modWin_dram (s : State) (n : Nat) (f : Win → Win) : (modWin s n f).dram = s.dram := rfl
@[simp] theorem modWin_ten (s : State) (n : Nat) (f : Win → Win) : (modWin s n f).ten = s.ten := rfl
@[simp] theorem modWin_trust (s : State) (n : Nat) (f : Win → Win) : (modWin s n f).trust = s.trust := rfl
@[simp] theorem modWin_spdm (s : State) (n : Nat) (f : Win → Win) : (modWin s n f).spdm = s.spdm := rfl
@[simp] theorem modWin_eng (s : State) (n : Nat) (f : Win → Win) : (modWin s n f).eng = s.eng := rfl
@[simp] theorem modWin_flt (s : State) (n : Nat) (f : Win → Win) : (modWin s n f).flt = s.flt := rfl
@[simp] theorem modWin_fence (s : State) (n : Nat) (f : Win → Win) : (modWin s n f).fence = s.fence := rfl
@[simp] theorem modWin_evr (s : State) (n : Nat) (f : Win → Win) : (modWin s n f).evr = s.evr := rfl
@[simp] theorem modWin_dump (s : State) (n : Nat) (f : Win → Win) : (modWin s n f).dump = s.dump := rfl
@[simp] theorem modWin_pair (s : State) (n : Nat) (f : Win → Win) : (modWin s n f).pair = s.pair := rfl
@[simp] theorem modWin_store (s : State) (n : Nat) (f : Win → Win) : (modWin s n f).store = s.store := rfl
@[simp] theorem modWin_fw (s : State) (n : Nat) (f : Win → Win) : (modWin s n f).fw = s.fw := rfl
@[simp] theorem modWin_out (s : State) (n : Nat) (f : Win → Win) : (modWin s n f).out = s.out := rfl
@[simp] theorem modWin_free (s : State) (n : Nat) (f : Win → Win) : (modWin s n f).free = s.free := rfl

@[simp] theorem markBegun_pending (s : State) (w : Nat) : (markBegun s w).pending = s.pending := rfl
@[simp] theorem markBegun_clk (s : State) (w : Nat) : (markBegun s w).clk = s.clk := rfl
@[simp] theorem markBegun_hw (s : State) (w : Nat) : (markBegun s w).hw = s.hw := rfl
@[simp] theorem markBegun_pwr (s : State) (w : Nat) : (markBegun s w).pwr = s.pwr := rfl
@[simp] theorem markBegun_win (s : State) (w : Nat) : (markBegun s w).win = s.win.modify w fun x => { x with cmd := x.cmd.map fun c => { c with begun := true } } := rfl
@[simp] theorem markBegun_cmdSeq (s : State) (w : Nat) : (markBegun s w).cmdSeq = s.cmdSeq := rfl
@[simp] theorem markBegun_halls (s : State) (w : Nat) : (markBegun s w).halls = s.halls := rfl
@[simp] theorem markBegun_acl (s : State) (w : Nat) : (markBegun s w).acl = s.acl := rfl
@[simp] theorem markBegun_drains (s : State) (w : Nat) : (markBegun s w).drains = s.drains := rfl
@[simp] theorem markBegun_clears (s : State) (w : Nat) : (markBegun s w).clears = s.clears := rfl
@[simp] theorem markBegun_route (s : State) (w : Nat) : (markBegun s w).route = s.route := rfl
@[simp] theorem markBegun_leaf (s : State) (w : Nat) : (markBegun s w).leaf = s.leaf := rfl
@[simp] theorem markBegun_dist (s : State) (w : Nat) : (markBegun s w).dist = s.dist := rfl
@[simp] theorem markBegun_ports (s : State) (w : Nat) : (markBegun s w).ports = s.ports := rfl
@[simp] theorem markBegun_eps (s : State) (w : Nat) : (markBegun s w).eps = s.eps := rfl
@[simp] theorem markBegun_home (s : State) (w : Nat) : (markBegun s w).home = s.home := rfl
@[simp] theorem markBegun_welt (s : State) (w : Nat) : (markBegun s w).welt = s.welt := rfl
@[simp] theorem markBegun_jrn (s : State) (w : Nat) : (markBegun s w).jrn = s.jrn := rfl
@[simp] theorem markBegun_tier (s : State) (w : Nat) : (markBegun s w).tier = s.tier := rfl
@[simp] theorem markBegun_flash (s : State) (w : Nat) : (markBegun s w).flash = s.flash := rfl
@[simp] theorem markBegun_dram (s : State) (w : Nat) : (markBegun s w).dram = s.dram := rfl
@[simp] theorem markBegun_ten (s : State) (w : Nat) : (markBegun s w).ten = s.ten := rfl
@[simp] theorem markBegun_trust (s : State) (w : Nat) : (markBegun s w).trust = s.trust := rfl
@[simp] theorem markBegun_spdm (s : State) (w : Nat) : (markBegun s w).spdm = s.spdm := rfl
@[simp] theorem markBegun_eng (s : State) (w : Nat) : (markBegun s w).eng = s.eng := rfl
@[simp] theorem markBegun_flt (s : State) (w : Nat) : (markBegun s w).flt = s.flt := rfl
@[simp] theorem markBegun_fence (s : State) (w : Nat) : (markBegun s w).fence = s.fence := rfl
@[simp] theorem markBegun_evr (s : State) (w : Nat) : (markBegun s w).evr = s.evr := rfl
@[simp] theorem markBegun_dump (s : State) (w : Nat) : (markBegun s w).dump = s.dump := rfl
@[simp] theorem markBegun_pair (s : State) (w : Nat) : (markBegun s w).pair = s.pair := rfl
@[simp] theorem markBegun_store (s : State) (w : Nat) : (markBegun s w).store = s.store := rfl
@[simp] theorem markBegun_fw (s : State) (w : Nat) : (markBegun s w).fw = s.fw := rfl
@[simp] theorem markBegun_out (s : State) (w : Nat) : (markBegun s w).out = s.out := rfl
@[simp] theorem markBegun_free (s : State) (w : Nat) : (markBegun s w).free = s.free := rfl

@[simp] theorem modPort_pending (s : State) (p : Nat) (f : Port → Port) : (modPort s p f).pending = s.pending := rfl
@[simp] theorem modPort_clk (s : State) (p : Nat) (f : Port → Port) : (modPort s p f).clk = s.clk := rfl
@[simp] theorem modPort_hw (s : State) (p : Nat) (f : Port → Port) : (modPort s p f).hw = s.hw := rfl
@[simp] theorem modPort_pwr (s : State) (p : Nat) (f : Port → Port) : (modPort s p f).pwr = s.pwr := rfl
@[simp] theorem modPort_win (s : State) (p : Nat) (f : Port → Port) : (modPort s p f).win = s.win := rfl
@[simp] theorem modPort_cmdSeq (s : State) (p : Nat) (f : Port → Port) : (modPort s p f).cmdSeq = s.cmdSeq := rfl
@[simp] theorem modPort_halls (s : State) (p : Nat) (f : Port → Port) : (modPort s p f).halls = s.halls := rfl
@[simp] theorem modPort_acl (s : State) (p : Nat) (f : Port → Port) : (modPort s p f).acl = s.acl := rfl
@[simp] theorem modPort_drains (s : State) (p : Nat) (f : Port → Port) : (modPort s p f).drains = s.drains := rfl
@[simp] theorem modPort_clears (s : State) (p : Nat) (f : Port → Port) : (modPort s p f).clears = s.clears := rfl
@[simp] theorem modPort_route (s : State) (p : Nat) (f : Port → Port) : (modPort s p f).route = s.route := rfl
@[simp] theorem modPort_leaf (s : State) (p : Nat) (f : Port → Port) : (modPort s p f).leaf = s.leaf := rfl
@[simp] theorem modPort_dist (s : State) (p : Nat) (f : Port → Port) : (modPort s p f).dist = s.dist := rfl
@[simp] theorem modPort_ports (s : State) (p : Nat) (f : Port → Port) : (modPort s p f).ports = s.ports.modify p f := rfl
@[simp] theorem modPort_eps (s : State) (p : Nat) (f : Port → Port) : (modPort s p f).eps = s.eps := rfl
@[simp] theorem modPort_home (s : State) (p : Nat) (f : Port → Port) : (modPort s p f).home = s.home := rfl
@[simp] theorem modPort_welt (s : State) (p : Nat) (f : Port → Port) : (modPort s p f).welt = s.welt := rfl
@[simp] theorem modPort_jrn (s : State) (p : Nat) (f : Port → Port) : (modPort s p f).jrn = s.jrn := rfl
@[simp] theorem modPort_tier (s : State) (p : Nat) (f : Port → Port) : (modPort s p f).tier = s.tier := rfl
@[simp] theorem modPort_flash (s : State) (p : Nat) (f : Port → Port) : (modPort s p f).flash = s.flash := rfl
@[simp] theorem modPort_dram (s : State) (p : Nat) (f : Port → Port) : (modPort s p f).dram = s.dram := rfl
@[simp] theorem modPort_ten (s : State) (p : Nat) (f : Port → Port) : (modPort s p f).ten = s.ten := rfl
@[simp] theorem modPort_trust (s : State) (p : Nat) (f : Port → Port) : (modPort s p f).trust = s.trust := rfl
@[simp] theorem modPort_spdm (s : State) (p : Nat) (f : Port → Port) : (modPort s p f).spdm = s.spdm := rfl
@[simp] theorem modPort_eng (s : State) (p : Nat) (f : Port → Port) : (modPort s p f).eng = s.eng := rfl
@[simp] theorem modPort_flt (s : State) (p : Nat) (f : Port → Port) : (modPort s p f).flt = s.flt := rfl
@[simp] theorem modPort_fence (s : State) (p : Nat) (f : Port → Port) : (modPort s p f).fence = s.fence := rfl
@[simp] theorem modPort_evr (s : State) (p : Nat) (f : Port → Port) : (modPort s p f).evr = s.evr := rfl
@[simp] theorem modPort_dump (s : State) (p : Nat) (f : Port → Port) : (modPort s p f).dump = s.dump := rfl
@[simp] theorem modPort_pair (s : State) (p : Nat) (f : Port → Port) : (modPort s p f).pair = s.pair := rfl
@[simp] theorem modPort_store (s : State) (p : Nat) (f : Port → Port) : (modPort s p f).store = s.store := rfl
@[simp] theorem modPort_fw (s : State) (p : Nat) (f : Port → Port) : (modPort s p f).fw = s.fw := rfl
@[simp] theorem modPort_out (s : State) (p : Nat) (f : Port → Port) : (modPort s p f).out = s.out := rfl
@[simp] theorem modPort_free (s : State) (p : Nat) (f : Port → Port) : (modPort s p f).free = s.free := rfl

@[simp] theorem modPair_pending (s : State) (f : Pair → Pair) : (modPair s f).pending = s.pending := rfl
@[simp] theorem modPair_clk (s : State) (f : Pair → Pair) : (modPair s f).clk = s.clk := rfl
@[simp] theorem modPair_hw (s : State) (f : Pair → Pair) : (modPair s f).hw = s.hw := rfl
@[simp] theorem modPair_pwr (s : State) (f : Pair → Pair) : (modPair s f).pwr = s.pwr := rfl
@[simp] theorem modPair_win (s : State) (f : Pair → Pair) : (modPair s f).win = s.win := rfl
@[simp] theorem modPair_cmdSeq (s : State) (f : Pair → Pair) : (modPair s f).cmdSeq = s.cmdSeq := rfl
@[simp] theorem modPair_halls (s : State) (f : Pair → Pair) : (modPair s f).halls = s.halls := rfl
@[simp] theorem modPair_acl (s : State) (f : Pair → Pair) : (modPair s f).acl = s.acl := rfl
@[simp] theorem modPair_drains (s : State) (f : Pair → Pair) : (modPair s f).drains = s.drains := rfl
@[simp] theorem modPair_clears (s : State) (f : Pair → Pair) : (modPair s f).clears = s.clears := rfl
@[simp] theorem modPair_route (s : State) (f : Pair → Pair) : (modPair s f).route = s.route := rfl
@[simp] theorem modPair_leaf (s : State) (f : Pair → Pair) : (modPair s f).leaf = s.leaf := rfl
@[simp] theorem modPair_dist (s : State) (f : Pair → Pair) : (modPair s f).dist = s.dist := rfl
@[simp] theorem modPair_ports (s : State) (f : Pair → Pair) : (modPair s f).ports = s.ports := rfl
@[simp] theorem modPair_eps (s : State) (f : Pair → Pair) : (modPair s f).eps = s.eps := rfl
@[simp] theorem modPair_home (s : State) (f : Pair → Pair) : (modPair s f).home = s.home := rfl
@[simp] theorem modPair_welt (s : State) (f : Pair → Pair) : (modPair s f).welt = s.welt := rfl
@[simp] theorem modPair_jrn (s : State) (f : Pair → Pair) : (modPair s f).jrn = s.jrn := rfl
@[simp] theorem modPair_tier (s : State) (f : Pair → Pair) : (modPair s f).tier = s.tier := rfl
@[simp] theorem modPair_flash (s : State) (f : Pair → Pair) : (modPair s f).flash = s.flash := rfl
@[simp] theorem modPair_dram (s : State) (f : Pair → Pair) : (modPair s f).dram = s.dram := rfl
@[simp] theorem modPair_ten (s : State) (f : Pair → Pair) : (modPair s f).ten = s.ten := rfl
@[simp] theorem modPair_trust (s : State) (f : Pair → Pair) : (modPair s f).trust = s.trust := rfl
@[simp] theorem modPair_spdm (s : State) (f : Pair → Pair) : (modPair s f).spdm = s.spdm := rfl
@[simp] theorem modPair_eng (s : State) (f : Pair → Pair) : (modPair s f).eng = s.eng := rfl
@[simp] theorem modPair_flt (s : State) (f : Pair → Pair) : (modPair s f).flt = s.flt := rfl
@[simp] theorem modPair_fence (s : State) (f : Pair → Pair) : (modPair s f).fence = s.fence := rfl
@[simp] theorem modPair_evr (s : State) (f : Pair → Pair) : (modPair s f).evr = s.evr := rfl
@[simp] theorem modPair_dump (s : State) (f : Pair → Pair) : (modPair s f).dump = s.dump := rfl
@[simp] theorem modPair_pair (s : State) (f : Pair → Pair) : (modPair s f).pair = f s.pair := rfl
@[simp] theorem modPair_store (s : State) (f : Pair → Pair) : (modPair s f).store = s.store := rfl
@[simp] theorem modPair_fw (s : State) (f : Pair → Pair) : (modPair s f).fw = s.fw := rfl
@[simp] theorem modPair_out (s : State) (f : Pair → Pair) : (modPair s f).out = s.out := rfl
@[simp] theorem modPair_free (s : State) (f : Pair → Pair) : (modPair s f).free = s.free := rfl

@[simp] theorem modPwr_pending (s : State) (f : Power → Power) : (modPwr s f).pending = s.pending := rfl
@[simp] theorem modPwr_clk (s : State) (f : Power → Power) : (modPwr s f).clk = s.clk := rfl
@[simp] theorem modPwr_hw (s : State) (f : Power → Power) : (modPwr s f).hw = s.hw := rfl
@[simp] theorem modPwr_pwr (s : State) (f : Power → Power) : (modPwr s f).pwr = f s.pwr := rfl
@[simp] theorem modPwr_win (s : State) (f : Power → Power) : (modPwr s f).win = s.win := rfl
@[simp] theorem modPwr_cmdSeq (s : State) (f : Power → Power) : (modPwr s f).cmdSeq = s.cmdSeq := rfl
@[simp] theorem modPwr_halls (s : State) (f : Power → Power) : (modPwr s f).halls = s.halls := rfl
@[simp] theorem modPwr_acl (s : State) (f : Power → Power) : (modPwr s f).acl = s.acl := rfl
@[simp] theorem modPwr_drains (s : State) (f : Power → Power) : (modPwr s f).drains = s.drains := rfl
@[simp] theorem modPwr_clears (s : State) (f : Power → Power) : (modPwr s f).clears = s.clears := rfl
@[simp] theorem modPwr_route (s : State) (f : Power → Power) : (modPwr s f).route = s.route := rfl
@[simp] theorem modPwr_leaf (s : State) (f : Power → Power) : (modPwr s f).leaf = s.leaf := rfl
@[simp] theorem modPwr_dist (s : State) (f : Power → Power) : (modPwr s f).dist = s.dist := rfl
@[simp] theorem modPwr_ports (s : State) (f : Power → Power) : (modPwr s f).ports = s.ports := rfl
@[simp] theorem modPwr_eps (s : State) (f : Power → Power) : (modPwr s f).eps = s.eps := rfl
@[simp] theorem modPwr_home (s : State) (f : Power → Power) : (modPwr s f).home = s.home := rfl
@[simp] theorem modPwr_welt (s : State) (f : Power → Power) : (modPwr s f).welt = s.welt := rfl
@[simp] theorem modPwr_jrn (s : State) (f : Power → Power) : (modPwr s f).jrn = s.jrn := rfl
@[simp] theorem modPwr_tier (s : State) (f : Power → Power) : (modPwr s f).tier = s.tier := rfl
@[simp] theorem modPwr_flash (s : State) (f : Power → Power) : (modPwr s f).flash = s.flash := rfl
@[simp] theorem modPwr_dram (s : State) (f : Power → Power) : (modPwr s f).dram = s.dram := rfl
@[simp] theorem modPwr_ten (s : State) (f : Power → Power) : (modPwr s f).ten = s.ten := rfl
@[simp] theorem modPwr_trust (s : State) (f : Power → Power) : (modPwr s f).trust = s.trust := rfl
@[simp] theorem modPwr_spdm (s : State) (f : Power → Power) : (modPwr s f).spdm = s.spdm := rfl
@[simp] theorem modPwr_eng (s : State) (f : Power → Power) : (modPwr s f).eng = s.eng := rfl
@[simp] theorem modPwr_flt (s : State) (f : Power → Power) : (modPwr s f).flt = s.flt := rfl
@[simp] theorem modPwr_fence (s : State) (f : Power → Power) : (modPwr s f).fence = s.fence := rfl
@[simp] theorem modPwr_evr (s : State) (f : Power → Power) : (modPwr s f).evr = s.evr := rfl
@[simp] theorem modPwr_dump (s : State) (f : Power → Power) : (modPwr s f).dump = s.dump := rfl
@[simp] theorem modPwr_pair (s : State) (f : Power → Power) : (modPwr s f).pair = s.pair := rfl
@[simp] theorem modPwr_store (s : State) (f : Power → Power) : (modPwr s f).store = s.store := rfl
@[simp] theorem modPwr_fw (s : State) (f : Power → Power) : (modPwr s f).fw = s.fw := rfl
@[simp] theorem modPwr_out (s : State) (f : Power → Power) : (modPwr s f).out = s.out := rfl
@[simp] theorem modPwr_free (s : State) (f : Power → Power) : (modPwr s f).free = s.free := rfl

@[simp] theorem modQueue_pending (s : State) (qid : Nat) (f : Queue → Queue) : (modQueue s qid f).pending = s.pending := rfl
@[simp] theorem modQueue_clk (s : State) (qid : Nat) (f : Queue → Queue) : (modQueue s qid f).clk = s.clk := rfl
@[simp] theorem modQueue_hw (s : State) (qid : Nat) (f : Queue → Queue) : (modQueue s qid f).hw = s.hw := rfl
@[simp] theorem modQueue_pwr (s : State) (qid : Nat) (f : Queue → Queue) : (modQueue s qid f).pwr = s.pwr := rfl
@[simp] theorem modQueue_win (s : State) (qid : Nat) (f : Queue → Queue) : (modQueue s qid f).win = s.win := rfl
@[simp] theorem modQueue_cmdSeq (s : State) (qid : Nat) (f : Queue → Queue) : (modQueue s qid f).cmdSeq = s.cmdSeq := rfl
@[simp] theorem modQueue_halls (s : State) (qid : Nat) (f : Queue → Queue) : (modQueue s qid f).halls = s.halls := rfl
@[simp] theorem modQueue_acl (s : State) (qid : Nat) (f : Queue → Queue) : (modQueue s qid f).acl = s.acl := rfl
@[simp] theorem modQueue_drains (s : State) (qid : Nat) (f : Queue → Queue) : (modQueue s qid f).drains = s.drains := rfl
@[simp] theorem modQueue_clears (s : State) (qid : Nat) (f : Queue → Queue) : (modQueue s qid f).clears = s.clears := rfl
@[simp] theorem modQueue_route (s : State) (qid : Nat) (f : Queue → Queue) : (modQueue s qid f).route = s.route := rfl
@[simp] theorem modQueue_leaf (s : State) (qid : Nat) (f : Queue → Queue) : (modQueue s qid f).leaf = s.leaf := rfl
@[simp] theorem modQueue_dist (s : State) (qid : Nat) (f : Queue → Queue) : (modQueue s qid f).dist = s.dist := rfl
@[simp] theorem modQueue_ports (s : State) (qid : Nat) (f : Queue → Queue) : (modQueue s qid f).ports = s.ports := rfl
@[simp] theorem modQueue_eps (s : State) (qid : Nat) (f : Queue → Queue) : (modQueue s qid f).eps = s.eps := rfl
@[simp] theorem modQueue_home (s : State) (qid : Nat) (f : Queue → Queue) : (modQueue s qid f).home = s.home := rfl
@[simp] theorem modQueue_welt (s : State) (qid : Nat) (f : Queue → Queue) : (modQueue s qid f).welt = s.welt := rfl
@[simp] theorem modQueue_jrn (s : State) (qid : Nat) (f : Queue → Queue) : (modQueue s qid f).jrn = s.jrn := rfl
@[simp] theorem modQueue_tier (s : State) (qid : Nat) (f : Queue → Queue) : (modQueue s qid f).tier = s.tier := rfl
@[simp] theorem modQueue_flash (s : State) (qid : Nat) (f : Queue → Queue) : (modQueue s qid f).flash = s.flash := rfl
@[simp] theorem modQueue_dram (s : State) (qid : Nat) (f : Queue → Queue) : (modQueue s qid f).dram = s.dram := rfl
@[simp] theorem modQueue_ten (s : State) (qid : Nat) (f : Queue → Queue) : (modQueue s qid f).ten = s.ten := rfl
@[simp] theorem modQueue_trust (s : State) (qid : Nat) (f : Queue → Queue) : (modQueue s qid f).trust = s.trust := rfl
@[simp] theorem modQueue_spdm (s : State) (qid : Nat) (f : Queue → Queue) : (modQueue s qid f).spdm = s.spdm := rfl
@[simp] theorem modQueue_eng (s : State) (qid : Nat) (f : Queue → Queue) : (modQueue s qid f).eng = { s.eng with queues := s.eng.queues.modify qid f } := rfl
@[simp] theorem modQueue_flt (s : State) (qid : Nat) (f : Queue → Queue) : (modQueue s qid f).flt = s.flt := rfl
@[simp] theorem modQueue_fence (s : State) (qid : Nat) (f : Queue → Queue) : (modQueue s qid f).fence = s.fence := rfl
@[simp] theorem modQueue_evr (s : State) (qid : Nat) (f : Queue → Queue) : (modQueue s qid f).evr = s.evr := rfl
@[simp] theorem modQueue_dump (s : State) (qid : Nat) (f : Queue → Queue) : (modQueue s qid f).dump = s.dump := rfl
@[simp] theorem modQueue_pair (s : State) (qid : Nat) (f : Queue → Queue) : (modQueue s qid f).pair = s.pair := rfl
@[simp] theorem modQueue_store (s : State) (qid : Nat) (f : Queue → Queue) : (modQueue s qid f).store = s.store := rfl
@[simp] theorem modQueue_fw (s : State) (qid : Nat) (f : Queue → Queue) : (modQueue s qid f).fw = s.fw := rfl
@[simp] theorem modQueue_out (s : State) (qid : Nat) (f : Queue → Queue) : (modQueue s qid f).out = s.out := rfl
@[simp] theorem modQueue_free (s : State) (qid : Nat) (f : Queue → Queue) : (modQueue s qid f).free = s.free := rfl

@[simp] theorem modCtx_pending (s : State) (c : Nat) (f : Ctx → Ctx) : (modCtx s c f).pending = s.pending := rfl
@[simp] theorem modCtx_clk (s : State) (c : Nat) (f : Ctx → Ctx) : (modCtx s c f).clk = s.clk := rfl
@[simp] theorem modCtx_hw (s : State) (c : Nat) (f : Ctx → Ctx) : (modCtx s c f).hw = s.hw := rfl
@[simp] theorem modCtx_pwr (s : State) (c : Nat) (f : Ctx → Ctx) : (modCtx s c f).pwr = s.pwr := rfl
@[simp] theorem modCtx_win (s : State) (c : Nat) (f : Ctx → Ctx) : (modCtx s c f).win = s.win := rfl
@[simp] theorem modCtx_cmdSeq (s : State) (c : Nat) (f : Ctx → Ctx) : (modCtx s c f).cmdSeq = s.cmdSeq := rfl
@[simp] theorem modCtx_halls (s : State) (c : Nat) (f : Ctx → Ctx) : (modCtx s c f).halls = s.halls := rfl
@[simp] theorem modCtx_acl (s : State) (c : Nat) (f : Ctx → Ctx) : (modCtx s c f).acl = s.acl := rfl
@[simp] theorem modCtx_drains (s : State) (c : Nat) (f : Ctx → Ctx) : (modCtx s c f).drains = s.drains := rfl
@[simp] theorem modCtx_clears (s : State) (c : Nat) (f : Ctx → Ctx) : (modCtx s c f).clears = s.clears := rfl
@[simp] theorem modCtx_route (s : State) (c : Nat) (f : Ctx → Ctx) : (modCtx s c f).route = s.route := rfl
@[simp] theorem modCtx_leaf (s : State) (c : Nat) (f : Ctx → Ctx) : (modCtx s c f).leaf = s.leaf := rfl
@[simp] theorem modCtx_dist (s : State) (c : Nat) (f : Ctx → Ctx) : (modCtx s c f).dist = s.dist := rfl
@[simp] theorem modCtx_ports (s : State) (c : Nat) (f : Ctx → Ctx) : (modCtx s c f).ports = s.ports := rfl
@[simp] theorem modCtx_eps (s : State) (c : Nat) (f : Ctx → Ctx) : (modCtx s c f).eps = s.eps := rfl
@[simp] theorem modCtx_home (s : State) (c : Nat) (f : Ctx → Ctx) : (modCtx s c f).home = s.home := rfl
@[simp] theorem modCtx_welt (s : State) (c : Nat) (f : Ctx → Ctx) : (modCtx s c f).welt = s.welt := rfl
@[simp] theorem modCtx_jrn (s : State) (c : Nat) (f : Ctx → Ctx) : (modCtx s c f).jrn = s.jrn := rfl
@[simp] theorem modCtx_tier (s : State) (c : Nat) (f : Ctx → Ctx) : (modCtx s c f).tier = s.tier := rfl
@[simp] theorem modCtx_flash (s : State) (c : Nat) (f : Ctx → Ctx) : (modCtx s c f).flash = s.flash := rfl
@[simp] theorem modCtx_dram (s : State) (c : Nat) (f : Ctx → Ctx) : (modCtx s c f).dram = s.dram := rfl
@[simp] theorem modCtx_ten (s : State) (c : Nat) (f : Ctx → Ctx) : (modCtx s c f).ten = s.ten := rfl
@[simp] theorem modCtx_trust (s : State) (c : Nat) (f : Ctx → Ctx) : (modCtx s c f).trust = s.trust := rfl
@[simp] theorem modCtx_spdm (s : State) (c : Nat) (f : Ctx → Ctx) : (modCtx s c f).spdm = s.spdm := rfl
@[simp] theorem modCtx_eng (s : State) (c : Nat) (f : Ctx → Ctx) : (modCtx s c f).eng = { s.eng with ctxs := s.eng.ctxs.modify c f } := rfl
@[simp] theorem modCtx_flt (s : State) (c : Nat) (f : Ctx → Ctx) : (modCtx s c f).flt = s.flt := rfl
@[simp] theorem modCtx_fence (s : State) (c : Nat) (f : Ctx → Ctx) : (modCtx s c f).fence = s.fence := rfl
@[simp] theorem modCtx_evr (s : State) (c : Nat) (f : Ctx → Ctx) : (modCtx s c f).evr = s.evr := rfl
@[simp] theorem modCtx_dump (s : State) (c : Nat) (f : Ctx → Ctx) : (modCtx s c f).dump = s.dump := rfl
@[simp] theorem modCtx_pair (s : State) (c : Nat) (f : Ctx → Ctx) : (modCtx s c f).pair = s.pair := rfl
@[simp] theorem modCtx_store (s : State) (c : Nat) (f : Ctx → Ctx) : (modCtx s c f).store = s.store := rfl
@[simp] theorem modCtx_fw (s : State) (c : Nat) (f : Ctx → Ctx) : (modCtx s c f).fw = s.fw := rfl
@[simp] theorem modCtx_out (s : State) (c : Nat) (f : Ctx → Ctx) : (modCtx s c f).out = s.out := rfl
@[simp] theorem modCtx_free (s : State) (c : Nat) (f : Ctx → Ctx) : (modCtx s c f).free = s.free := rfl

@[simp] theorem modLast_pending (s : State) (lid : Nat) (f : Last → Last) : (modLast s lid f).pending = s.pending := rfl
@[simp] theorem modLast_clk (s : State) (lid : Nat) (f : Last → Last) : (modLast s lid f).clk = s.clk := rfl
@[simp] theorem modLast_hw (s : State) (lid : Nat) (f : Last → Last) : (modLast s lid f).hw = s.hw := rfl
@[simp] theorem modLast_pwr (s : State) (lid : Nat) (f : Last → Last) : (modLast s lid f).pwr = s.pwr := rfl
@[simp] theorem modLast_win (s : State) (lid : Nat) (f : Last → Last) : (modLast s lid f).win = s.win := rfl
@[simp] theorem modLast_cmdSeq (s : State) (lid : Nat) (f : Last → Last) : (modLast s lid f).cmdSeq = s.cmdSeq := rfl
@[simp] theorem modLast_halls (s : State) (lid : Nat) (f : Last → Last) : (modLast s lid f).halls = s.halls := rfl
@[simp] theorem modLast_acl (s : State) (lid : Nat) (f : Last → Last) : (modLast s lid f).acl = s.acl := rfl
@[simp] theorem modLast_drains (s : State) (lid : Nat) (f : Last → Last) : (modLast s lid f).drains = s.drains := rfl
@[simp] theorem modLast_clears (s : State) (lid : Nat) (f : Last → Last) : (modLast s lid f).clears = s.clears := rfl
@[simp] theorem modLast_route (s : State) (lid : Nat) (f : Last → Last) : (modLast s lid f).route = s.route := rfl
@[simp] theorem modLast_leaf (s : State) (lid : Nat) (f : Last → Last) : (modLast s lid f).leaf = s.leaf := rfl
@[simp] theorem modLast_dist (s : State) (lid : Nat) (f : Last → Last) : (modLast s lid f).dist = s.dist := rfl
@[simp] theorem modLast_ports (s : State) (lid : Nat) (f : Last → Last) : (modLast s lid f).ports = s.ports := rfl
@[simp] theorem modLast_eps (s : State) (lid : Nat) (f : Last → Last) : (modLast s lid f).eps = s.eps := rfl
@[simp] theorem modLast_home (s : State) (lid : Nat) (f : Last → Last) : (modLast s lid f).home = s.home := rfl
@[simp] theorem modLast_welt (s : State) (lid : Nat) (f : Last → Last) : (modLast s lid f).welt = s.welt := rfl
@[simp] theorem modLast_jrn (s : State) (lid : Nat) (f : Last → Last) : (modLast s lid f).jrn = s.jrn := rfl
@[simp] theorem modLast_tier (s : State) (lid : Nat) (f : Last → Last) : (modLast s lid f).tier = s.tier := rfl
@[simp] theorem modLast_flash (s : State) (lid : Nat) (f : Last → Last) : (modLast s lid f).flash = s.flash := rfl
@[simp] theorem modLast_dram (s : State) (lid : Nat) (f : Last → Last) : (modLast s lid f).dram = s.dram := rfl
@[simp] theorem modLast_ten (s : State) (lid : Nat) (f : Last → Last) : (modLast s lid f).ten = s.ten := rfl
@[simp] theorem modLast_trust (s : State) (lid : Nat) (f : Last → Last) : (modLast s lid f).trust = s.trust := rfl
@[simp] theorem modLast_spdm (s : State) (lid : Nat) (f : Last → Last) : (modLast s lid f).spdm = s.spdm := rfl
@[simp] theorem modLast_eng (s : State) (lid : Nat) (f : Last → Last) : (modLast s lid f).eng = { s.eng with lasts := s.eng.lasts.modify lid f } := rfl
@[simp] theorem modLast_flt (s : State) (lid : Nat) (f : Last → Last) : (modLast s lid f).flt = s.flt := rfl
@[simp] theorem modLast_fence (s : State) (lid : Nat) (f : Last → Last) : (modLast s lid f).fence = s.fence := rfl
@[simp] theorem modLast_evr (s : State) (lid : Nat) (f : Last → Last) : (modLast s lid f).evr = s.evr := rfl
@[simp] theorem modLast_dump (s : State) (lid : Nat) (f : Last → Last) : (modLast s lid f).dump = s.dump := rfl
@[simp] theorem modLast_pair (s : State) (lid : Nat) (f : Last → Last) : (modLast s lid f).pair = s.pair := rfl
@[simp] theorem modLast_store (s : State) (lid : Nat) (f : Last → Last) : (modLast s lid f).store = s.store := rfl
@[simp] theorem modLast_fw (s : State) (lid : Nat) (f : Last → Last) : (modLast s lid f).fw = s.fw := rfl
@[simp] theorem modLast_out (s : State) (lid : Nat) (f : Last → Last) : (modLast s lid f).out = s.out := rfl
@[simp] theorem modLast_free (s : State) (lid : Nat) (f : Last → Last) : (modLast s lid f).free = s.free := rfl

@[simp] theorem setCore_pending (s : State) (p : Nat) (c : CoreSt) : (setCore s p c).pending = s.pending := rfl
@[simp] theorem setCore_clk (s : State) (p : Nat) (c : CoreSt) : (setCore s p c).clk = s.clk := rfl
@[simp] theorem setCore_hw (s : State) (p : Nat) (c : CoreSt) : (setCore s p c).hw = s.hw := rfl
@[simp] theorem setCore_pwr (s : State) (p : Nat) (c : CoreSt) : (setCore s p c).pwr = s.pwr := rfl
@[simp] theorem setCore_win (s : State) (p : Nat) (c : CoreSt) : (setCore s p c).win = s.win := rfl
@[simp] theorem setCore_cmdSeq (s : State) (p : Nat) (c : CoreSt) : (setCore s p c).cmdSeq = s.cmdSeq := rfl
@[simp] theorem setCore_halls (s : State) (p : Nat) (c : CoreSt) : (setCore s p c).halls = s.halls := rfl
@[simp] theorem setCore_acl (s : State) (p : Nat) (c : CoreSt) : (setCore s p c).acl = s.acl := rfl
@[simp] theorem setCore_drains (s : State) (p : Nat) (c : CoreSt) : (setCore s p c).drains = s.drains := rfl
@[simp] theorem setCore_clears (s : State) (p : Nat) (c : CoreSt) : (setCore s p c).clears = s.clears := rfl
@[simp] theorem setCore_route (s : State) (p : Nat) (c : CoreSt) : (setCore s p c).route = s.route := rfl
@[simp] theorem setCore_leaf (s : State) (p : Nat) (c : CoreSt) : (setCore s p c).leaf = s.leaf := rfl
@[simp] theorem setCore_dist (s : State) (p : Nat) (c : CoreSt) : (setCore s p c).dist = s.dist := rfl
@[simp] theorem setCore_ports (s : State) (p : Nat) (c : CoreSt) : (setCore s p c).ports = s.ports := rfl
@[simp] theorem setCore_eps (s : State) (p : Nat) (c : CoreSt) : (setCore s p c).eps = s.eps := rfl
@[simp] theorem setCore_home (s : State) (p : Nat) (c : CoreSt) : (setCore s p c).home = s.home := rfl
@[simp] theorem setCore_welt (s : State) (p : Nat) (c : CoreSt) : (setCore s p c).welt = s.welt := rfl
@[simp] theorem setCore_jrn (s : State) (p : Nat) (c : CoreSt) : (setCore s p c).jrn = s.jrn := rfl
@[simp] theorem setCore_tier (s : State) (p : Nat) (c : CoreSt) : (setCore s p c).tier = s.tier := rfl
@[simp] theorem setCore_flash (s : State) (p : Nat) (c : CoreSt) : (setCore s p c).flash = s.flash := rfl
@[simp] theorem setCore_dram (s : State) (p : Nat) (c : CoreSt) : (setCore s p c).dram = s.dram := rfl
@[simp] theorem setCore_ten (s : State) (p : Nat) (c : CoreSt) : (setCore s p c).ten = s.ten := rfl
@[simp] theorem setCore_trust (s : State) (p : Nat) (c : CoreSt) : (setCore s p c).trust = s.trust := rfl
@[simp] theorem setCore_spdm (s : State) (p : Nat) (c : CoreSt) : (setCore s p c).spdm = s.spdm := rfl
@[simp] theorem setCore_eng (s : State) (p : Nat) (c : CoreSt) : (setCore s p c).eng = { s.eng with cores := s.eng.cores.put p c {} } := rfl
@[simp] theorem setCore_flt (s : State) (p : Nat) (c : CoreSt) : (setCore s p c).flt = s.flt := rfl
@[simp] theorem setCore_fence (s : State) (p : Nat) (c : CoreSt) : (setCore s p c).fence = s.fence := rfl
@[simp] theorem setCore_evr (s : State) (p : Nat) (c : CoreSt) : (setCore s p c).evr = s.evr := rfl
@[simp] theorem setCore_dump (s : State) (p : Nat) (c : CoreSt) : (setCore s p c).dump = s.dump := rfl
@[simp] theorem setCore_pair (s : State) (p : Nat) (c : CoreSt) : (setCore s p c).pair = s.pair := rfl
@[simp] theorem setCore_store (s : State) (p : Nat) (c : CoreSt) : (setCore s p c).store = s.store := rfl
@[simp] theorem setCore_fw (s : State) (p : Nat) (c : CoreSt) : (setCore s p c).fw = s.fw := rfl
@[simp] theorem setCore_out (s : State) (p : Nat) (c : CoreSt) : (setCore s p c).out = s.out := rfl
@[simp] theorem setCore_free (s : State) (p : Nat) (c : CoreSt) : (setCore s p c).free = s.free := rfl

@[simp] theorem setDir_pending (s : State) (line : Nat) (e : DirEntry) : (setDir s line e).pending = s.pending := rfl
@[simp] theorem setDir_clk (s : State) (line : Nat) (e : DirEntry) : (setDir s line e).clk = s.clk := rfl
@[simp] theorem setDir_hw (s : State) (line : Nat) (e : DirEntry) : (setDir s line e).hw = s.hw := rfl
@[simp] theorem setDir_pwr (s : State) (line : Nat) (e : DirEntry) : (setDir s line e).pwr = s.pwr := rfl
@[simp] theorem setDir_win (s : State) (line : Nat) (e : DirEntry) : (setDir s line e).win = s.win := rfl
@[simp] theorem setDir_cmdSeq (s : State) (line : Nat) (e : DirEntry) : (setDir s line e).cmdSeq = s.cmdSeq := rfl
@[simp] theorem setDir_halls (s : State) (line : Nat) (e : DirEntry) : (setDir s line e).halls = s.halls := rfl
@[simp] theorem setDir_acl (s : State) (line : Nat) (e : DirEntry) : (setDir s line e).acl = s.acl := rfl
@[simp] theorem setDir_drains (s : State) (line : Nat) (e : DirEntry) : (setDir s line e).drains = s.drains := rfl
@[simp] theorem setDir_clears (s : State) (line : Nat) (e : DirEntry) : (setDir s line e).clears = s.clears := rfl
@[simp] theorem setDir_route (s : State) (line : Nat) (e : DirEntry) : (setDir s line e).route = s.route := rfl
@[simp] theorem setDir_leaf (s : State) (line : Nat) (e : DirEntry) : (setDir s line e).leaf = s.leaf := rfl
@[simp] theorem setDir_dist (s : State) (line : Nat) (e : DirEntry) : (setDir s line e).dist = s.dist := rfl
@[simp] theorem setDir_ports (s : State) (line : Nat) (e : DirEntry) : (setDir s line e).ports = s.ports := rfl
@[simp] theorem setDir_eps (s : State) (line : Nat) (e : DirEntry) : (setDir s line e).eps = s.eps := rfl
@[simp] theorem setDir_home (s : State) (line : Nat) (e : DirEntry) : (setDir s line e).home = { s.home with lruSeq := s.home.lruSeq + 1, dir := s.home.dir.set line { e with lru := s.home.lruSeq } } := rfl
@[simp] theorem setDir_welt (s : State) (line : Nat) (e : DirEntry) : (setDir s line e).welt = s.welt := rfl
@[simp] theorem setDir_jrn (s : State) (line : Nat) (e : DirEntry) : (setDir s line e).jrn = s.jrn := rfl
@[simp] theorem setDir_tier (s : State) (line : Nat) (e : DirEntry) : (setDir s line e).tier = s.tier := rfl
@[simp] theorem setDir_flash (s : State) (line : Nat) (e : DirEntry) : (setDir s line e).flash = s.flash := rfl
@[simp] theorem setDir_dram (s : State) (line : Nat) (e : DirEntry) : (setDir s line e).dram = s.dram := rfl
@[simp] theorem setDir_ten (s : State) (line : Nat) (e : DirEntry) : (setDir s line e).ten = s.ten := rfl
@[simp] theorem setDir_trust (s : State) (line : Nat) (e : DirEntry) : (setDir s line e).trust = s.trust := rfl
@[simp] theorem setDir_spdm (s : State) (line : Nat) (e : DirEntry) : (setDir s line e).spdm = s.spdm := rfl
@[simp] theorem setDir_eng (s : State) (line : Nat) (e : DirEntry) : (setDir s line e).eng = s.eng := rfl
@[simp] theorem setDir_flt (s : State) (line : Nat) (e : DirEntry) : (setDir s line e).flt = s.flt := rfl
@[simp] theorem setDir_fence (s : State) (line : Nat) (e : DirEntry) : (setDir s line e).fence = s.fence := rfl
@[simp] theorem setDir_evr (s : State) (line : Nat) (e : DirEntry) : (setDir s line e).evr = s.evr := rfl
@[simp] theorem setDir_dump (s : State) (line : Nat) (e : DirEntry) : (setDir s line e).dump = s.dump := rfl
@[simp] theorem setDir_pair (s : State) (line : Nat) (e : DirEntry) : (setDir s line e).pair = s.pair := rfl
@[simp] theorem setDir_store (s : State) (line : Nat) (e : DirEntry) : (setDir s line e).store = s.store := rfl
@[simp] theorem setDir_fw (s : State) (line : Nat) (e : DirEntry) : (setDir s line e).fw = s.fw := rfl
@[simp] theorem setDir_out (s : State) (line : Nat) (e : DirEntry) : (setDir s line e).out = s.out := rfl
@[simp] theorem setDir_free (s : State) (line : Nat) (e : DirEntry) : (setDir s line e).free = s.free := rfl

@[simp] theorem freeDir_pending (s : State) (line : Nat) : (freeDir s line).pending = s.pending := rfl
@[simp] theorem freeDir_clk (s : State) (line : Nat) : (freeDir s line).clk = s.clk := rfl
@[simp] theorem freeDir_hw (s : State) (line : Nat) : (freeDir s line).hw = s.hw := rfl
@[simp] theorem freeDir_pwr (s : State) (line : Nat) : (freeDir s line).pwr = s.pwr := rfl
@[simp] theorem freeDir_win (s : State) (line : Nat) : (freeDir s line).win = s.win := rfl
@[simp] theorem freeDir_cmdSeq (s : State) (line : Nat) : (freeDir s line).cmdSeq = s.cmdSeq := rfl
@[simp] theorem freeDir_halls (s : State) (line : Nat) : (freeDir s line).halls = s.halls := rfl
@[simp] theorem freeDir_acl (s : State) (line : Nat) : (freeDir s line).acl = s.acl := rfl
@[simp] theorem freeDir_drains (s : State) (line : Nat) : (freeDir s line).drains = s.drains := rfl
@[simp] theorem freeDir_clears (s : State) (line : Nat) : (freeDir s line).clears = s.clears := rfl
@[simp] theorem freeDir_route (s : State) (line : Nat) : (freeDir s line).route = s.route := rfl
@[simp] theorem freeDir_leaf (s : State) (line : Nat) : (freeDir s line).leaf = s.leaf := rfl
@[simp] theorem freeDir_dist (s : State) (line : Nat) : (freeDir s line).dist = s.dist := rfl
@[simp] theorem freeDir_ports (s : State) (line : Nat) : (freeDir s line).ports = s.ports := rfl
@[simp] theorem freeDir_eps (s : State) (line : Nat) : (freeDir s line).eps = s.eps := rfl
@[simp] theorem freeDir_home (s : State) (line : Nat) : (freeDir s line).home = { s.home with dir := s.home.dir.erase line } := rfl
@[simp] theorem freeDir_welt (s : State) (line : Nat) : (freeDir s line).welt = s.welt := rfl
@[simp] theorem freeDir_jrn (s : State) (line : Nat) : (freeDir s line).jrn = s.jrn := rfl
@[simp] theorem freeDir_tier (s : State) (line : Nat) : (freeDir s line).tier = s.tier := rfl
@[simp] theorem freeDir_flash (s : State) (line : Nat) : (freeDir s line).flash = s.flash := rfl
@[simp] theorem freeDir_dram (s : State) (line : Nat) : (freeDir s line).dram = s.dram := rfl
@[simp] theorem freeDir_ten (s : State) (line : Nat) : (freeDir s line).ten = s.ten := rfl
@[simp] theorem freeDir_trust (s : State) (line : Nat) : (freeDir s line).trust = s.trust := rfl
@[simp] theorem freeDir_spdm (s : State) (line : Nat) : (freeDir s line).spdm = s.spdm := rfl
@[simp] theorem freeDir_eng (s : State) (line : Nat) : (freeDir s line).eng = s.eng := rfl
@[simp] theorem freeDir_flt (s : State) (line : Nat) : (freeDir s line).flt = s.flt := rfl
@[simp] theorem freeDir_fence (s : State) (line : Nat) : (freeDir s line).fence = s.fence := rfl
@[simp] theorem freeDir_evr (s : State) (line : Nat) : (freeDir s line).evr = s.evr := rfl
@[simp] theorem freeDir_dump (s : State) (line : Nat) : (freeDir s line).dump = s.dump := rfl
@[simp] theorem freeDir_pair (s : State) (line : Nat) : (freeDir s line).pair = s.pair := rfl
@[simp] theorem freeDir_store (s : State) (line : Nat) : (freeDir s line).store = s.store := rfl
@[simp] theorem freeDir_fw (s : State) (line : Nat) : (freeDir s line).fw = s.fw := rfl
@[simp] theorem freeDir_out (s : State) (line : Nat) : (freeDir s line).out = s.out := rfl
@[simp] theorem freeDir_free (s : State) (line : Nat) : (freeDir s line).free = s.free := rfl

@[simp] theorem setLine_pending (s : State) (line : Nat) (c : LineCtl) : (setLine s line c).pending = s.pending := rfl
@[simp] theorem setLine_clk (s : State) (line : Nat) (c : LineCtl) : (setLine s line c).clk = s.clk := rfl
@[simp] theorem setLine_hw (s : State) (line : Nat) (c : LineCtl) : (setLine s line c).hw = s.hw := rfl
@[simp] theorem setLine_pwr (s : State) (line : Nat) (c : LineCtl) : (setLine s line c).pwr = s.pwr := rfl
@[simp] theorem setLine_win (s : State) (line : Nat) (c : LineCtl) : (setLine s line c).win = s.win := rfl
@[simp] theorem setLine_cmdSeq (s : State) (line : Nat) (c : LineCtl) : (setLine s line c).cmdSeq = s.cmdSeq := rfl
@[simp] theorem setLine_halls (s : State) (line : Nat) (c : LineCtl) : (setLine s line c).halls = s.halls := rfl
@[simp] theorem setLine_acl (s : State) (line : Nat) (c : LineCtl) : (setLine s line c).acl = s.acl := rfl
@[simp] theorem setLine_drains (s : State) (line : Nat) (c : LineCtl) : (setLine s line c).drains = s.drains := rfl
@[simp] theorem setLine_clears (s : State) (line : Nat) (c : LineCtl) : (setLine s line c).clears = s.clears := rfl
@[simp] theorem setLine_route (s : State) (line : Nat) (c : LineCtl) : (setLine s line c).route = s.route := rfl
@[simp] theorem setLine_leaf (s : State) (line : Nat) (c : LineCtl) : (setLine s line c).leaf = s.leaf := rfl
@[simp] theorem setLine_dist (s : State) (line : Nat) (c : LineCtl) : (setLine s line c).dist = s.dist := rfl
@[simp] theorem setLine_ports (s : State) (line : Nat) (c : LineCtl) : (setLine s line c).ports = s.ports := rfl
@[simp] theorem setLine_eps (s : State) (line : Nat) (c : LineCtl) : (setLine s line c).eps = s.eps := rfl
@[simp] theorem setLine_home (s : State) (line : Nat) (c : LineCtl) : (setLine s line c).home = { s.home with lines := s.home.lines.put line c {} } := rfl
@[simp] theorem setLine_welt (s : State) (line : Nat) (c : LineCtl) : (setLine s line c).welt = s.welt := rfl
@[simp] theorem setLine_jrn (s : State) (line : Nat) (c : LineCtl) : (setLine s line c).jrn = s.jrn := rfl
@[simp] theorem setLine_tier (s : State) (line : Nat) (c : LineCtl) : (setLine s line c).tier = s.tier := rfl
@[simp] theorem setLine_flash (s : State) (line : Nat) (c : LineCtl) : (setLine s line c).flash = s.flash := rfl
@[simp] theorem setLine_dram (s : State) (line : Nat) (c : LineCtl) : (setLine s line c).dram = s.dram := rfl
@[simp] theorem setLine_ten (s : State) (line : Nat) (c : LineCtl) : (setLine s line c).ten = s.ten := rfl
@[simp] theorem setLine_trust (s : State) (line : Nat) (c : LineCtl) : (setLine s line c).trust = s.trust := rfl
@[simp] theorem setLine_spdm (s : State) (line : Nat) (c : LineCtl) : (setLine s line c).spdm = s.spdm := rfl
@[simp] theorem setLine_eng (s : State) (line : Nat) (c : LineCtl) : (setLine s line c).eng = s.eng := rfl
@[simp] theorem setLine_flt (s : State) (line : Nat) (c : LineCtl) : (setLine s line c).flt = s.flt := rfl
@[simp] theorem setLine_fence (s : State) (line : Nat) (c : LineCtl) : (setLine s line c).fence = s.fence := rfl
@[simp] theorem setLine_evr (s : State) (line : Nat) (c : LineCtl) : (setLine s line c).evr = s.evr := rfl
@[simp] theorem setLine_dump (s : State) (line : Nat) (c : LineCtl) : (setLine s line c).dump = s.dump := rfl
@[simp] theorem setLine_pair (s : State) (line : Nat) (c : LineCtl) : (setLine s line c).pair = s.pair := rfl
@[simp] theorem setLine_store (s : State) (line : Nat) (c : LineCtl) : (setLine s line c).store = s.store := rfl
@[simp] theorem setLine_fw (s : State) (line : Nat) (c : LineCtl) : (setLine s line c).fw = s.fw := rfl
@[simp] theorem setLine_out (s : State) (line : Nat) (c : LineCtl) : (setLine s line c).out = s.out := rfl
@[simp] theorem setLine_free (s : State) (line : Nat) (c : LineCtl) : (setLine s line c).free = s.free := rfl

@[simp] theorem setWelt_pending (s : State) (slot : Nat) (w : Welt) : (setWelt s slot w).pending = s.pending := rfl
@[simp] theorem setWelt_clk (s : State) (slot : Nat) (w : Welt) : (setWelt s slot w).clk = s.clk := rfl
@[simp] theorem setWelt_hw (s : State) (slot : Nat) (w : Welt) : (setWelt s slot w).hw = s.hw := rfl
@[simp] theorem setWelt_pwr (s : State) (slot : Nat) (w : Welt) : (setWelt s slot w).pwr = s.pwr := rfl
@[simp] theorem setWelt_win (s : State) (slot : Nat) (w : Welt) : (setWelt s slot w).win = s.win := rfl
@[simp] theorem setWelt_cmdSeq (s : State) (slot : Nat) (w : Welt) : (setWelt s slot w).cmdSeq = s.cmdSeq := rfl
@[simp] theorem setWelt_halls (s : State) (slot : Nat) (w : Welt) : (setWelt s slot w).halls = s.halls := rfl
@[simp] theorem setWelt_acl (s : State) (slot : Nat) (w : Welt) : (setWelt s slot w).acl = s.acl := rfl
@[simp] theorem setWelt_drains (s : State) (slot : Nat) (w : Welt) : (setWelt s slot w).drains = s.drains := rfl
@[simp] theorem setWelt_clears (s : State) (slot : Nat) (w : Welt) : (setWelt s slot w).clears = s.clears := rfl
@[simp] theorem setWelt_route (s : State) (slot : Nat) (w : Welt) : (setWelt s slot w).route = s.route := rfl
@[simp] theorem setWelt_leaf (s : State) (slot : Nat) (w : Welt) : (setWelt s slot w).leaf = s.leaf := rfl
@[simp] theorem setWelt_dist (s : State) (slot : Nat) (w : Welt) : (setWelt s slot w).dist = s.dist := rfl
@[simp] theorem setWelt_ports (s : State) (slot : Nat) (w : Welt) : (setWelt s slot w).ports = s.ports := rfl
@[simp] theorem setWelt_eps (s : State) (slot : Nat) (w : Welt) : (setWelt s slot w).eps = s.eps := rfl
@[simp] theorem setWelt_home (s : State) (slot : Nat) (w : Welt) : (setWelt s slot w).home = s.home := rfl
@[simp] theorem setWelt_welt (s : State) (slot : Nat) (w : Welt) : (setWelt s slot w).welt = { s.welt with slots := s.welt.slots.set slot w } := rfl
@[simp] theorem setWelt_jrn (s : State) (slot : Nat) (w : Welt) : (setWelt s slot w).jrn = s.jrn := rfl
@[simp] theorem setWelt_tier (s : State) (slot : Nat) (w : Welt) : (setWelt s slot w).tier = s.tier := rfl
@[simp] theorem setWelt_flash (s : State) (slot : Nat) (w : Welt) : (setWelt s slot w).flash = s.flash := rfl
@[simp] theorem setWelt_dram (s : State) (slot : Nat) (w : Welt) : (setWelt s slot w).dram = s.dram := rfl
@[simp] theorem setWelt_ten (s : State) (slot : Nat) (w : Welt) : (setWelt s slot w).ten = s.ten := rfl
@[simp] theorem setWelt_trust (s : State) (slot : Nat) (w : Welt) : (setWelt s slot w).trust = s.trust := rfl
@[simp] theorem setWelt_spdm (s : State) (slot : Nat) (w : Welt) : (setWelt s slot w).spdm = s.spdm := rfl
@[simp] theorem setWelt_eng (s : State) (slot : Nat) (w : Welt) : (setWelt s slot w).eng = s.eng := rfl
@[simp] theorem setWelt_flt (s : State) (slot : Nat) (w : Welt) : (setWelt s slot w).flt = s.flt := rfl
@[simp] theorem setWelt_fence (s : State) (slot : Nat) (w : Welt) : (setWelt s slot w).fence = s.fence := rfl
@[simp] theorem setWelt_evr (s : State) (slot : Nat) (w : Welt) : (setWelt s slot w).evr = s.evr := rfl
@[simp] theorem setWelt_dump (s : State) (slot : Nat) (w : Welt) : (setWelt s slot w).dump = s.dump := rfl
@[simp] theorem setWelt_pair (s : State) (slot : Nat) (w : Welt) : (setWelt s slot w).pair = s.pair := rfl
@[simp] theorem setWelt_store (s : State) (slot : Nat) (w : Welt) : (setWelt s slot w).store = s.store := rfl
@[simp] theorem setWelt_fw (s : State) (slot : Nat) (w : Welt) : (setWelt s slot w).fw = s.fw := rfl
@[simp] theorem setWelt_out (s : State) (slot : Nat) (w : Welt) : (setWelt s slot w).out = s.out := rfl
@[simp] theorem setWelt_free (s : State) (slot : Nat) (w : Welt) : (setWelt s slot w).free = s.free := rfl

@[simp] theorem unpin_pending (s : State) (line : Nat) : (unpin s line).pending = s.pending := rfl
@[simp] theorem unpin_clk (s : State) (line : Nat) : (unpin s line).clk = s.clk := rfl
@[simp] theorem unpin_hw (s : State) (line : Nat) : (unpin s line).hw = s.hw := rfl
@[simp] theorem unpin_pwr (s : State) (line : Nat) : (unpin s line).pwr = s.pwr := rfl
@[simp] theorem unpin_win (s : State) (line : Nat) : (unpin s line).win = s.win := rfl
@[simp] theorem unpin_cmdSeq (s : State) (line : Nat) : (unpin s line).cmdSeq = s.cmdSeq := rfl
@[simp] theorem unpin_halls (s : State) (line : Nat) : (unpin s line).halls = s.halls := rfl
@[simp] theorem unpin_acl (s : State) (line : Nat) : (unpin s line).acl = s.acl := rfl
@[simp] theorem unpin_drains (s : State) (line : Nat) : (unpin s line).drains = s.drains := rfl
@[simp] theorem unpin_clears (s : State) (line : Nat) : (unpin s line).clears = s.clears := rfl
@[simp] theorem unpin_route (s : State) (line : Nat) : (unpin s line).route = s.route := rfl
@[simp] theorem unpin_leaf (s : State) (line : Nat) : (unpin s line).leaf = s.leaf := rfl
@[simp] theorem unpin_dist (s : State) (line : Nat) : (unpin s line).dist = s.dist := rfl
@[simp] theorem unpin_ports (s : State) (line : Nat) : (unpin s line).ports = s.ports := rfl
@[simp] theorem unpin_eps (s : State) (line : Nat) : (unpin s line).eps = s.eps := rfl
@[simp] theorem unpin_home (s : State) (line : Nat) : (unpin s line).home = { s.home with dir := s.home.dir.modify line fun e => { e with pin := none } } := rfl
@[simp] theorem unpin_welt (s : State) (line : Nat) : (unpin s line).welt = s.welt := rfl
@[simp] theorem unpin_jrn (s : State) (line : Nat) : (unpin s line).jrn = s.jrn := rfl
@[simp] theorem unpin_tier (s : State) (line : Nat) : (unpin s line).tier = s.tier := rfl
@[simp] theorem unpin_flash (s : State) (line : Nat) : (unpin s line).flash = s.flash := rfl
@[simp] theorem unpin_dram (s : State) (line : Nat) : (unpin s line).dram = s.dram := rfl
@[simp] theorem unpin_ten (s : State) (line : Nat) : (unpin s line).ten = s.ten := rfl
@[simp] theorem unpin_trust (s : State) (line : Nat) : (unpin s line).trust = s.trust := rfl
@[simp] theorem unpin_spdm (s : State) (line : Nat) : (unpin s line).spdm = s.spdm := rfl
@[simp] theorem unpin_eng (s : State) (line : Nat) : (unpin s line).eng = s.eng := rfl
@[simp] theorem unpin_flt (s : State) (line : Nat) : (unpin s line).flt = s.flt := rfl
@[simp] theorem unpin_fence (s : State) (line : Nat) : (unpin s line).fence = s.fence := rfl
@[simp] theorem unpin_evr (s : State) (line : Nat) : (unpin s line).evr = s.evr := rfl
@[simp] theorem unpin_dump (s : State) (line : Nat) : (unpin s line).dump = s.dump := rfl
@[simp] theorem unpin_pair (s : State) (line : Nat) : (unpin s line).pair = s.pair := rfl
@[simp] theorem unpin_store (s : State) (line : Nat) : (unpin s line).store = s.store := rfl
@[simp] theorem unpin_fw (s : State) (line : Nat) : (unpin s line).fw = s.fw := rfl
@[simp] theorem unpin_out (s : State) (line : Nat) : (unpin s line).out = s.out := rfl
@[simp] theorem unpin_free (s : State) (line : Nat) : (unpin s line).free = s.free := rfl

@[simp] theorem modTier_pending (s : State) (hid : Nat) (f : TierRec → TierRec) : (modTier s hid f).pending = s.pending := rfl
@[simp] theorem modTier_clk (s : State) (hid : Nat) (f : TierRec → TierRec) : (modTier s hid f).clk = s.clk := rfl
@[simp] theorem modTier_hw (s : State) (hid : Nat) (f : TierRec → TierRec) : (modTier s hid f).hw = s.hw := rfl
@[simp] theorem modTier_pwr (s : State) (hid : Nat) (f : TierRec → TierRec) : (modTier s hid f).pwr = s.pwr := rfl
@[simp] theorem modTier_win (s : State) (hid : Nat) (f : TierRec → TierRec) : (modTier s hid f).win = s.win := rfl
@[simp] theorem modTier_cmdSeq (s : State) (hid : Nat) (f : TierRec → TierRec) : (modTier s hid f).cmdSeq = s.cmdSeq := rfl
@[simp] theorem modTier_halls (s : State) (hid : Nat) (f : TierRec → TierRec) : (modTier s hid f).halls = s.halls := rfl
@[simp] theorem modTier_acl (s : State) (hid : Nat) (f : TierRec → TierRec) : (modTier s hid f).acl = s.acl := rfl
@[simp] theorem modTier_drains (s : State) (hid : Nat) (f : TierRec → TierRec) : (modTier s hid f).drains = s.drains := rfl
@[simp] theorem modTier_clears (s : State) (hid : Nat) (f : TierRec → TierRec) : (modTier s hid f).clears = s.clears := rfl
@[simp] theorem modTier_route (s : State) (hid : Nat) (f : TierRec → TierRec) : (modTier s hid f).route = s.route := rfl
@[simp] theorem modTier_leaf (s : State) (hid : Nat) (f : TierRec → TierRec) : (modTier s hid f).leaf = s.leaf := rfl
@[simp] theorem modTier_dist (s : State) (hid : Nat) (f : TierRec → TierRec) : (modTier s hid f).dist = s.dist := rfl
@[simp] theorem modTier_ports (s : State) (hid : Nat) (f : TierRec → TierRec) : (modTier s hid f).ports = s.ports := rfl
@[simp] theorem modTier_eps (s : State) (hid : Nat) (f : TierRec → TierRec) : (modTier s hid f).eps = s.eps := rfl
@[simp] theorem modTier_home (s : State) (hid : Nat) (f : TierRec → TierRec) : (modTier s hid f).home = s.home := rfl
@[simp] theorem modTier_welt (s : State) (hid : Nat) (f : TierRec → TierRec) : (modTier s hid f).welt = s.welt := rfl
@[simp] theorem modTier_jrn (s : State) (hid : Nat) (f : TierRec → TierRec) : (modTier s hid f).jrn = s.jrn := rfl
@[simp] theorem modTier_tier (s : State) (hid : Nat) (f : TierRec → TierRec) : (modTier s hid f).tier = { s.tier with halls := s.tier.halls.set hid (f (tierRec s hid)) } := rfl
@[simp] theorem modTier_flash (s : State) (hid : Nat) (f : TierRec → TierRec) : (modTier s hid f).flash = s.flash := rfl
@[simp] theorem modTier_dram (s : State) (hid : Nat) (f : TierRec → TierRec) : (modTier s hid f).dram = s.dram := rfl
@[simp] theorem modTier_ten (s : State) (hid : Nat) (f : TierRec → TierRec) : (modTier s hid f).ten = s.ten := rfl
@[simp] theorem modTier_trust (s : State) (hid : Nat) (f : TierRec → TierRec) : (modTier s hid f).trust = s.trust := rfl
@[simp] theorem modTier_spdm (s : State) (hid : Nat) (f : TierRec → TierRec) : (modTier s hid f).spdm = s.spdm := rfl
@[simp] theorem modTier_eng (s : State) (hid : Nat) (f : TierRec → TierRec) : (modTier s hid f).eng = s.eng := rfl
@[simp] theorem modTier_flt (s : State) (hid : Nat) (f : TierRec → TierRec) : (modTier s hid f).flt = s.flt := rfl
@[simp] theorem modTier_fence (s : State) (hid : Nat) (f : TierRec → TierRec) : (modTier s hid f).fence = s.fence := rfl
@[simp] theorem modTier_evr (s : State) (hid : Nat) (f : TierRec → TierRec) : (modTier s hid f).evr = s.evr := rfl
@[simp] theorem modTier_dump (s : State) (hid : Nat) (f : TierRec → TierRec) : (modTier s hid f).dump = s.dump := rfl
@[simp] theorem modTier_pair (s : State) (hid : Nat) (f : TierRec → TierRec) : (modTier s hid f).pair = s.pair := rfl
@[simp] theorem modTier_store (s : State) (hid : Nat) (f : TierRec → TierRec) : (modTier s hid f).store = s.store := rfl
@[simp] theorem modTier_fw (s : State) (hid : Nat) (f : TierRec → TierRec) : (modTier s hid f).fw = s.fw := rfl
@[simp] theorem modTier_out (s : State) (hid : Nat) (f : TierRec → TierRec) : (modTier s hid f).out = s.out := rfl
@[simp] theorem modTier_free (s : State) (hid : Nat) (f : TierRec → TierRec) : (modTier s hid f).free = s.free := rfl

@[simp] theorem modBlock_pending (s : State) (hid b : Nat) (f : Block → Block) : (modBlock s hid b f).pending = s.pending := rfl
@[simp] theorem modBlock_clk (s : State) (hid b : Nat) (f : Block → Block) : (modBlock s hid b f).clk = s.clk := rfl
@[simp] theorem modBlock_hw (s : State) (hid b : Nat) (f : Block → Block) : (modBlock s hid b f).hw = s.hw := rfl
@[simp] theorem modBlock_pwr (s : State) (hid b : Nat) (f : Block → Block) : (modBlock s hid b f).pwr = s.pwr := rfl
@[simp] theorem modBlock_win (s : State) (hid b : Nat) (f : Block → Block) : (modBlock s hid b f).win = s.win := rfl
@[simp] theorem modBlock_cmdSeq (s : State) (hid b : Nat) (f : Block → Block) : (modBlock s hid b f).cmdSeq = s.cmdSeq := rfl
@[simp] theorem modBlock_halls (s : State) (hid b : Nat) (f : Block → Block) : (modBlock s hid b f).halls = s.halls := rfl
@[simp] theorem modBlock_acl (s : State) (hid b : Nat) (f : Block → Block) : (modBlock s hid b f).acl = s.acl := rfl
@[simp] theorem modBlock_drains (s : State) (hid b : Nat) (f : Block → Block) : (modBlock s hid b f).drains = s.drains := rfl
@[simp] theorem modBlock_clears (s : State) (hid b : Nat) (f : Block → Block) : (modBlock s hid b f).clears = s.clears := rfl
@[simp] theorem modBlock_route (s : State) (hid b : Nat) (f : Block → Block) : (modBlock s hid b f).route = s.route := rfl
@[simp] theorem modBlock_leaf (s : State) (hid b : Nat) (f : Block → Block) : (modBlock s hid b f).leaf = s.leaf := rfl
@[simp] theorem modBlock_dist (s : State) (hid b : Nat) (f : Block → Block) : (modBlock s hid b f).dist = s.dist := rfl
@[simp] theorem modBlock_ports (s : State) (hid b : Nat) (f : Block → Block) : (modBlock s hid b f).ports = s.ports := rfl
@[simp] theorem modBlock_eps (s : State) (hid b : Nat) (f : Block → Block) : (modBlock s hid b f).eps = s.eps := rfl
@[simp] theorem modBlock_home (s : State) (hid b : Nat) (f : Block → Block) : (modBlock s hid b f).home = s.home := rfl
@[simp] theorem modBlock_welt (s : State) (hid b : Nat) (f : Block → Block) : (modBlock s hid b f).welt = s.welt := rfl
@[simp] theorem modBlock_jrn (s : State) (hid b : Nat) (f : Block → Block) : (modBlock s hid b f).jrn = s.jrn := rfl
@[simp] theorem modBlock_tier (s : State) (hid b : Nat) (f : Block → Block) : (modBlock s hid b f).tier = { s.tier with blocks := s.tier.blocks.modify (blkKey hid b) f } := rfl
@[simp] theorem modBlock_flash (s : State) (hid b : Nat) (f : Block → Block) : (modBlock s hid b f).flash = s.flash := rfl
@[simp] theorem modBlock_dram (s : State) (hid b : Nat) (f : Block → Block) : (modBlock s hid b f).dram = s.dram := rfl
@[simp] theorem modBlock_ten (s : State) (hid b : Nat) (f : Block → Block) : (modBlock s hid b f).ten = s.ten := rfl
@[simp] theorem modBlock_trust (s : State) (hid b : Nat) (f : Block → Block) : (modBlock s hid b f).trust = s.trust := rfl
@[simp] theorem modBlock_spdm (s : State) (hid b : Nat) (f : Block → Block) : (modBlock s hid b f).spdm = s.spdm := rfl
@[simp] theorem modBlock_eng (s : State) (hid b : Nat) (f : Block → Block) : (modBlock s hid b f).eng = s.eng := rfl
@[simp] theorem modBlock_flt (s : State) (hid b : Nat) (f : Block → Block) : (modBlock s hid b f).flt = s.flt := rfl
@[simp] theorem modBlock_fence (s : State) (hid b : Nat) (f : Block → Block) : (modBlock s hid b f).fence = s.fence := rfl
@[simp] theorem modBlock_evr (s : State) (hid b : Nat) (f : Block → Block) : (modBlock s hid b f).evr = s.evr := rfl
@[simp] theorem modBlock_dump (s : State) (hid b : Nat) (f : Block → Block) : (modBlock s hid b f).dump = s.dump := rfl
@[simp] theorem modBlock_pair (s : State) (hid b : Nat) (f : Block → Block) : (modBlock s hid b f).pair = s.pair := rfl
@[simp] theorem modBlock_store (s : State) (hid b : Nat) (f : Block → Block) : (modBlock s hid b f).store = s.store := rfl
@[simp] theorem modBlock_fw (s : State) (hid b : Nat) (f : Block → Block) : (modBlock s hid b f).fw = s.fw := rfl
@[simp] theorem modBlock_out (s : State) (hid b : Nat) (f : Block → Block) : (modBlock s hid b f).out = s.out := rfl
@[simp] theorem modBlock_free (s : State) (hid b : Nat) (f : Block → Block) : (modBlock s hid b f).free = s.free := rfl

@[simp] theorem modDrive_pending (s : State) (p : Nat) (f : Drive → Drive) : (modDrive s p f).pending = s.pending := rfl
@[simp] theorem modDrive_clk (s : State) (p : Nat) (f : Drive → Drive) : (modDrive s p f).clk = s.clk := rfl
@[simp] theorem modDrive_hw (s : State) (p : Nat) (f : Drive → Drive) : (modDrive s p f).hw = s.hw := rfl
@[simp] theorem modDrive_pwr (s : State) (p : Nat) (f : Drive → Drive) : (modDrive s p f).pwr = s.pwr := rfl
@[simp] theorem modDrive_win (s : State) (p : Nat) (f : Drive → Drive) : (modDrive s p f).win = s.win := rfl
@[simp] theorem modDrive_cmdSeq (s : State) (p : Nat) (f : Drive → Drive) : (modDrive s p f).cmdSeq = s.cmdSeq := rfl
@[simp] theorem modDrive_halls (s : State) (p : Nat) (f : Drive → Drive) : (modDrive s p f).halls = s.halls := rfl
@[simp] theorem modDrive_acl (s : State) (p : Nat) (f : Drive → Drive) : (modDrive s p f).acl = s.acl := rfl
@[simp] theorem modDrive_drains (s : State) (p : Nat) (f : Drive → Drive) : (modDrive s p f).drains = s.drains := rfl
@[simp] theorem modDrive_clears (s : State) (p : Nat) (f : Drive → Drive) : (modDrive s p f).clears = s.clears := rfl
@[simp] theorem modDrive_route (s : State) (p : Nat) (f : Drive → Drive) : (modDrive s p f).route = s.route := rfl
@[simp] theorem modDrive_leaf (s : State) (p : Nat) (f : Drive → Drive) : (modDrive s p f).leaf = s.leaf := rfl
@[simp] theorem modDrive_dist (s : State) (p : Nat) (f : Drive → Drive) : (modDrive s p f).dist = s.dist := rfl
@[simp] theorem modDrive_ports (s : State) (p : Nat) (f : Drive → Drive) : (modDrive s p f).ports = s.ports := rfl
@[simp] theorem modDrive_eps (s : State) (p : Nat) (f : Drive → Drive) : (modDrive s p f).eps = s.eps := rfl
@[simp] theorem modDrive_home (s : State) (p : Nat) (f : Drive → Drive) : (modDrive s p f).home = s.home := rfl
@[simp] theorem modDrive_welt (s : State) (p : Nat) (f : Drive → Drive) : (modDrive s p f).welt = s.welt := rfl
@[simp] theorem modDrive_jrn (s : State) (p : Nat) (f : Drive → Drive) : (modDrive s p f).jrn = s.jrn := rfl
@[simp] theorem modDrive_tier (s : State) (p : Nat) (f : Drive → Drive) : (modDrive s p f).tier = s.tier := rfl
@[simp] theorem modDrive_flash (s : State) (p : Nat) (f : Drive → Drive) : (modDrive s p f).flash = { s.flash with drives := s.flash.drives.modify p f } := rfl
@[simp] theorem modDrive_dram (s : State) (p : Nat) (f : Drive → Drive) : (modDrive s p f).dram = s.dram := rfl
@[simp] theorem modDrive_ten (s : State) (p : Nat) (f : Drive → Drive) : (modDrive s p f).ten = s.ten := rfl
@[simp] theorem modDrive_trust (s : State) (p : Nat) (f : Drive → Drive) : (modDrive s p f).trust = s.trust := rfl
@[simp] theorem modDrive_spdm (s : State) (p : Nat) (f : Drive → Drive) : (modDrive s p f).spdm = s.spdm := rfl
@[simp] theorem modDrive_eng (s : State) (p : Nat) (f : Drive → Drive) : (modDrive s p f).eng = s.eng := rfl
@[simp] theorem modDrive_flt (s : State) (p : Nat) (f : Drive → Drive) : (modDrive s p f).flt = s.flt := rfl
@[simp] theorem modDrive_fence (s : State) (p : Nat) (f : Drive → Drive) : (modDrive s p f).fence = s.fence := rfl
@[simp] theorem modDrive_evr (s : State) (p : Nat) (f : Drive → Drive) : (modDrive s p f).evr = s.evr := rfl
@[simp] theorem modDrive_dump (s : State) (p : Nat) (f : Drive → Drive) : (modDrive s p f).dump = s.dump := rfl
@[simp] theorem modDrive_pair (s : State) (p : Nat) (f : Drive → Drive) : (modDrive s p f).pair = s.pair := rfl
@[simp] theorem modDrive_store (s : State) (p : Nat) (f : Drive → Drive) : (modDrive s p f).store = s.store := rfl
@[simp] theorem modDrive_fw (s : State) (p : Nat) (f : Drive → Drive) : (modDrive s p f).fw = s.fw := rfl
@[simp] theorem modDrive_out (s : State) (p : Nat) (f : Drive → Drive) : (modDrive s p f).out = s.out := rfl
@[simp] theorem modDrive_free (s : State) (p : Nat) (f : Drive → Drive) : (modDrive s p f).free = s.free := rfl

@[simp] theorem modTenant_pending (s : State) (t : Nat) (f : Tenant → Tenant) : (modTenant s t f).pending = s.pending := rfl
@[simp] theorem modTenant_clk (s : State) (t : Nat) (f : Tenant → Tenant) : (modTenant s t f).clk = s.clk := rfl
@[simp] theorem modTenant_hw (s : State) (t : Nat) (f : Tenant → Tenant) : (modTenant s t f).hw = s.hw := rfl
@[simp] theorem modTenant_pwr (s : State) (t : Nat) (f : Tenant → Tenant) : (modTenant s t f).pwr = s.pwr := rfl
@[simp] theorem modTenant_win (s : State) (t : Nat) (f : Tenant → Tenant) : (modTenant s t f).win = s.win := rfl
@[simp] theorem modTenant_cmdSeq (s : State) (t : Nat) (f : Tenant → Tenant) : (modTenant s t f).cmdSeq = s.cmdSeq := rfl
@[simp] theorem modTenant_halls (s : State) (t : Nat) (f : Tenant → Tenant) : (modTenant s t f).halls = s.halls := rfl
@[simp] theorem modTenant_acl (s : State) (t : Nat) (f : Tenant → Tenant) : (modTenant s t f).acl = s.acl := rfl
@[simp] theorem modTenant_drains (s : State) (t : Nat) (f : Tenant → Tenant) : (modTenant s t f).drains = s.drains := rfl
@[simp] theorem modTenant_clears (s : State) (t : Nat) (f : Tenant → Tenant) : (modTenant s t f).clears = s.clears := rfl
@[simp] theorem modTenant_route (s : State) (t : Nat) (f : Tenant → Tenant) : (modTenant s t f).route = s.route := rfl
@[simp] theorem modTenant_leaf (s : State) (t : Nat) (f : Tenant → Tenant) : (modTenant s t f).leaf = s.leaf := rfl
@[simp] theorem modTenant_dist (s : State) (t : Nat) (f : Tenant → Tenant) : (modTenant s t f).dist = s.dist := rfl
@[simp] theorem modTenant_ports (s : State) (t : Nat) (f : Tenant → Tenant) : (modTenant s t f).ports = s.ports := rfl
@[simp] theorem modTenant_eps (s : State) (t : Nat) (f : Tenant → Tenant) : (modTenant s t f).eps = s.eps := rfl
@[simp] theorem modTenant_home (s : State) (t : Nat) (f : Tenant → Tenant) : (modTenant s t f).home = s.home := rfl
@[simp] theorem modTenant_welt (s : State) (t : Nat) (f : Tenant → Tenant) : (modTenant s t f).welt = s.welt := rfl
@[simp] theorem modTenant_jrn (s : State) (t : Nat) (f : Tenant → Tenant) : (modTenant s t f).jrn = s.jrn := rfl
@[simp] theorem modTenant_tier (s : State) (t : Nat) (f : Tenant → Tenant) : (modTenant s t f).tier = s.tier := rfl
@[simp] theorem modTenant_flash (s : State) (t : Nat) (f : Tenant → Tenant) : (modTenant s t f).flash = s.flash := rfl
@[simp] theorem modTenant_dram (s : State) (t : Nat) (f : Tenant → Tenant) : (modTenant s t f).dram = s.dram := rfl
@[simp] theorem modTenant_ten (s : State) (t : Nat) (f : Tenant → Tenant) : (modTenant s t f).ten = { s.ten with recs := s.ten.recs.modify t f } := rfl
@[simp] theorem modTenant_trust (s : State) (t : Nat) (f : Tenant → Tenant) : (modTenant s t f).trust = s.trust := rfl
@[simp] theorem modTenant_spdm (s : State) (t : Nat) (f : Tenant → Tenant) : (modTenant s t f).spdm = s.spdm := rfl
@[simp] theorem modTenant_eng (s : State) (t : Nat) (f : Tenant → Tenant) : (modTenant s t f).eng = s.eng := rfl
@[simp] theorem modTenant_flt (s : State) (t : Nat) (f : Tenant → Tenant) : (modTenant s t f).flt = s.flt := rfl
@[simp] theorem modTenant_fence (s : State) (t : Nat) (f : Tenant → Tenant) : (modTenant s t f).fence = s.fence := rfl
@[simp] theorem modTenant_evr (s : State) (t : Nat) (f : Tenant → Tenant) : (modTenant s t f).evr = s.evr := rfl
@[simp] theorem modTenant_dump (s : State) (t : Nat) (f : Tenant → Tenant) : (modTenant s t f).dump = s.dump := rfl
@[simp] theorem modTenant_pair (s : State) (t : Nat) (f : Tenant → Tenant) : (modTenant s t f).pair = s.pair := rfl
@[simp] theorem modTenant_store (s : State) (t : Nat) (f : Tenant → Tenant) : (modTenant s t f).store = s.store := rfl
@[simp] theorem modTenant_fw (s : State) (t : Nat) (f : Tenant → Tenant) : (modTenant s t f).fw = s.fw := rfl
@[simp] theorem modTenant_out (s : State) (t : Nat) (f : Tenant → Tenant) : (modTenant s t f).out = s.out := rfl
@[simp] theorem modTenant_free (s : State) (t : Nat) (f : Tenant → Tenant) : (modTenant s t f).free = s.free := rfl

@[simp] theorem setConn_pending (s : State) (c : Nat) (x : Conn) : (setConn s c x).pending = s.pending := rfl
@[simp] theorem setConn_clk (s : State) (c : Nat) (x : Conn) : (setConn s c x).clk = s.clk := rfl
@[simp] theorem setConn_hw (s : State) (c : Nat) (x : Conn) : (setConn s c x).hw = s.hw := rfl
@[simp] theorem setConn_pwr (s : State) (c : Nat) (x : Conn) : (setConn s c x).pwr = s.pwr := rfl
@[simp] theorem setConn_win (s : State) (c : Nat) (x : Conn) : (setConn s c x).win = s.win := rfl
@[simp] theorem setConn_cmdSeq (s : State) (c : Nat) (x : Conn) : (setConn s c x).cmdSeq = s.cmdSeq := rfl
@[simp] theorem setConn_halls (s : State) (c : Nat) (x : Conn) : (setConn s c x).halls = s.halls := rfl
@[simp] theorem setConn_acl (s : State) (c : Nat) (x : Conn) : (setConn s c x).acl = s.acl := rfl
@[simp] theorem setConn_drains (s : State) (c : Nat) (x : Conn) : (setConn s c x).drains = s.drains := rfl
@[simp] theorem setConn_clears (s : State) (c : Nat) (x : Conn) : (setConn s c x).clears = s.clears := rfl
@[simp] theorem setConn_route (s : State) (c : Nat) (x : Conn) : (setConn s c x).route = s.route := rfl
@[simp] theorem setConn_leaf (s : State) (c : Nat) (x : Conn) : (setConn s c x).leaf = s.leaf := rfl
@[simp] theorem setConn_dist (s : State) (c : Nat) (x : Conn) : (setConn s c x).dist = s.dist := rfl
@[simp] theorem setConn_ports (s : State) (c : Nat) (x : Conn) : (setConn s c x).ports = s.ports := rfl
@[simp] theorem setConn_eps (s : State) (c : Nat) (x : Conn) : (setConn s c x).eps = s.eps := rfl
@[simp] theorem setConn_home (s : State) (c : Nat) (x : Conn) : (setConn s c x).home = s.home := rfl
@[simp] theorem setConn_welt (s : State) (c : Nat) (x : Conn) : (setConn s c x).welt = s.welt := rfl
@[simp] theorem setConn_jrn (s : State) (c : Nat) (x : Conn) : (setConn s c x).jrn = s.jrn := rfl
@[simp] theorem setConn_tier (s : State) (c : Nat) (x : Conn) : (setConn s c x).tier = s.tier := rfl
@[simp] theorem setConn_flash (s : State) (c : Nat) (x : Conn) : (setConn s c x).flash = s.flash := rfl
@[simp] theorem setConn_dram (s : State) (c : Nat) (x : Conn) : (setConn s c x).dram = s.dram := rfl
@[simp] theorem setConn_ten (s : State) (c : Nat) (x : Conn) : (setConn s c x).ten = s.ten := rfl
@[simp] theorem setConn_trust (s : State) (c : Nat) (x : Conn) : (setConn s c x).trust = s.trust := rfl
@[simp] theorem setConn_spdm (s : State) (c : Nat) (x : Conn) : (setConn s c x).spdm = { s.spdm with conns := s.spdm.conns.set c x } := rfl
@[simp] theorem setConn_eng (s : State) (c : Nat) (x : Conn) : (setConn s c x).eng = s.eng := rfl
@[simp] theorem setConn_flt (s : State) (c : Nat) (x : Conn) : (setConn s c x).flt = s.flt := rfl
@[simp] theorem setConn_fence (s : State) (c : Nat) (x : Conn) : (setConn s c x).fence = s.fence := rfl
@[simp] theorem setConn_evr (s : State) (c : Nat) (x : Conn) : (setConn s c x).evr = s.evr := rfl
@[simp] theorem setConn_dump (s : State) (c : Nat) (x : Conn) : (setConn s c x).dump = s.dump := rfl
@[simp] theorem setConn_pair (s : State) (c : Nat) (x : Conn) : (setConn s c x).pair = s.pair := rfl
@[simp] theorem setConn_store (s : State) (c : Nat) (x : Conn) : (setConn s c x).store = s.store := rfl
@[simp] theorem setConn_fw (s : State) (c : Nat) (x : Conn) : (setConn s c x).fw = s.fw := rfl
@[simp] theorem setConn_out (s : State) (c : Nat) (x : Conn) : (setConn s c x).out = s.out := rfl
@[simp] theorem setConn_free (s : State) (c : Nat) (x : Conn) : (setConn s c x).free = s.free := rfl

@[simp] theorem xfer_pending (s : State) (r sub svc bytes addr : Nat) : (xfer s r sub svc bytes addr).pending = s.pending := rfl
@[simp] theorem xfer_clk (s : State) (r sub svc bytes addr : Nat) : (xfer s r sub svc bytes addr).clk = s.clk := rfl
@[simp] theorem xfer_hw (s : State) (r sub svc bytes addr : Nat) : (xfer s r sub svc bytes addr).hw = s.hw := rfl
@[simp] theorem xfer_pwr (s : State) (r sub svc bytes addr : Nat) : (xfer s r sub svc bytes addr).pwr = s.pwr := rfl
@[simp] theorem xfer_win (s : State) (r sub svc bytes addr : Nat) : (xfer s r sub svc bytes addr).win = s.win := rfl
@[simp] theorem xfer_cmdSeq (s : State) (r sub svc bytes addr : Nat) : (xfer s r sub svc bytes addr).cmdSeq = s.cmdSeq := rfl
@[simp] theorem xfer_halls (s : State) (r sub svc bytes addr : Nat) : (xfer s r sub svc bytes addr).halls = s.halls := rfl
@[simp] theorem xfer_acl (s : State) (r sub svc bytes addr : Nat) : (xfer s r sub svc bytes addr).acl = s.acl := rfl
@[simp] theorem xfer_drains (s : State) (r sub svc bytes addr : Nat) : (xfer s r sub svc bytes addr).drains = s.drains := rfl
@[simp] theorem xfer_clears (s : State) (r sub svc bytes addr : Nat) : (xfer s r sub svc bytes addr).clears = s.clears := rfl
@[simp] theorem xfer_route (s : State) (r sub svc bytes addr : Nat) : (xfer s r sub svc bytes addr).route = s.route := rfl
@[simp] theorem xfer_leaf (s : State) (r sub svc bytes addr : Nat) : (xfer s r sub svc bytes addr).leaf = s.leaf := rfl
@[simp] theorem xfer_dist (s : State) (r sub svc bytes addr : Nat) : (xfer s r sub svc bytes addr).dist = s.dist := rfl
@[simp] theorem xfer_ports (s : State) (r sub svc bytes addr : Nat) : (xfer s r sub svc bytes addr).ports = s.ports := rfl
@[simp] theorem xfer_eps (s : State) (r sub svc bytes addr : Nat) : (xfer s r sub svc bytes addr).eps = s.eps := rfl
@[simp] theorem xfer_home (s : State) (r sub svc bytes addr : Nat) : (xfer s r sub svc bytes addr).home = s.home := rfl
@[simp] theorem xfer_welt (s : State) (r sub svc bytes addr : Nat) : (xfer s r sub svc bytes addr).welt = s.welt := rfl
@[simp] theorem xfer_jrn (s : State) (r sub svc bytes addr : Nat) : (xfer s r sub svc bytes addr).jrn = s.jrn := rfl
@[simp] theorem xfer_tier (s : State) (r sub svc bytes addr : Nat) : (xfer s r sub svc bytes addr).tier = s.tier := rfl
@[simp] theorem xfer_flash (s : State) (r sub svc bytes addr : Nat) : (xfer s r sub svc bytes addr).flash = s.flash := rfl
@[simp] theorem xfer_dram (s : State) (r sub svc bytes addr : Nat) : (xfer s r sub svc bytes addr).dram = s.dram := rfl
@[simp] theorem xfer_ten (s : State) (r sub svc bytes addr : Nat) : (xfer s r sub svc bytes addr).ten = s.ten := rfl
@[simp] theorem xfer_trust (s : State) (r sub svc bytes addr : Nat) : (xfer s r sub svc bytes addr).trust = s.trust := rfl
@[simp] theorem xfer_spdm (s : State) (r sub svc bytes addr : Nat) : (xfer s r sub svc bytes addr).spdm = s.spdm := rfl
@[simp] theorem xfer_eng (s : State) (r sub svc bytes addr : Nat) : (xfer s r sub svc bytes addr).eng = s.eng := rfl
@[simp] theorem xfer_flt (s : State) (r sub svc bytes addr : Nat) : (xfer s r sub svc bytes addr).flt = s.flt.modify r fun q => { q with wait := q.wait ++ [{ sub := sub, svc := countedSvc r svc, bytes := bytes, at_ := s.now, addr := addr }] } := rfl
@[simp] theorem xfer_fence (s : State) (r sub svc bytes addr : Nat) : (xfer s r sub svc bytes addr).fence = s.fence := rfl
@[simp] theorem xfer_evr (s : State) (r sub svc bytes addr : Nat) : (xfer s r sub svc bytes addr).evr = s.evr := rfl
@[simp] theorem xfer_dump (s : State) (r sub svc bytes addr : Nat) : (xfer s r sub svc bytes addr).dump = s.dump := rfl
@[simp] theorem xfer_pair (s : State) (r sub svc bytes addr : Nat) : (xfer s r sub svc bytes addr).pair = s.pair := rfl
@[simp] theorem xfer_store (s : State) (r sub svc bytes addr : Nat) : (xfer s r sub svc bytes addr).store = s.store := rfl
@[simp] theorem xfer_fw (s : State) (r sub svc bytes addr : Nat) : (xfer s r sub svc bytes addr).fw = s.fw := rfl
@[simp] theorem xfer_out (s : State) (r sub svc bytes addr : Nat) : (xfer s r sub svc bytes addr).out = s.out := rfl
@[simp] theorem xfer_free (s : State) (r sub svc bytes addr : Nat) : (xfer s r sub svc bytes addr).free = s.free := rfl

@[simp] theorem takeToken_pending (s : State) (src : Nat) : (takeToken s src).pending = s.pending := rfl
@[simp] theorem takeToken_clk (s : State) (src : Nat) : (takeToken s src).clk = s.clk := rfl
@[simp] theorem takeToken_hw (s : State) (src : Nat) : (takeToken s src).hw = s.hw := rfl
@[simp] theorem takeToken_pwr (s : State) (src : Nat) : (takeToken s src).pwr = s.pwr := rfl
@[simp] theorem takeToken_win (s : State) (src : Nat) : (takeToken s src).win = s.win := rfl
@[simp] theorem takeToken_cmdSeq (s : State) (src : Nat) : (takeToken s src).cmdSeq = s.cmdSeq := rfl
@[simp] theorem takeToken_halls (s : State) (src : Nat) : (takeToken s src).halls = s.halls := rfl
@[simp] theorem takeToken_acl (s : State) (src : Nat) : (takeToken s src).acl = s.acl := rfl
@[simp] theorem takeToken_drains (s : State) (src : Nat) : (takeToken s src).drains = s.drains := rfl
@[simp] theorem takeToken_clears (s : State) (src : Nat) : (takeToken s src).clears = s.clears := rfl
@[simp] theorem takeToken_route (s : State) (src : Nat) : (takeToken s src).route = s.route := rfl
@[simp] theorem takeToken_leaf (s : State) (src : Nat) : (takeToken s src).leaf = s.leaf := rfl
@[simp] theorem takeToken_dist (s : State) (src : Nat) : (takeToken s src).dist = s.dist := rfl
@[simp] theorem takeToken_ports (s : State) (src : Nat) : (takeToken s src).ports = s.ports := rfl
@[simp] theorem takeToken_eps (s : State) (src : Nat) : (takeToken s src).eps = s.eps := rfl
@[simp] theorem takeToken_home (s : State) (src : Nat) : (takeToken s src).home = s.home := rfl
@[simp] theorem takeToken_welt (s : State) (src : Nat) : (takeToken s src).welt = s.welt := rfl
@[simp] theorem takeToken_jrn (s : State) (src : Nat) : (takeToken s src).jrn = s.jrn := rfl
@[simp] theorem takeToken_tier (s : State) (src : Nat) : (takeToken s src).tier = s.tier := rfl
@[simp] theorem takeToken_flash (s : State) (src : Nat) : (takeToken s src).flash = s.flash := rfl
@[simp] theorem takeToken_dram (s : State) (src : Nat) : (takeToken s src).dram = s.dram := rfl
@[simp] theorem takeToken_ten (s : State) (src : Nat) : (takeToken s src).ten = s.ten := rfl
@[simp] theorem takeToken_trust (s : State) (src : Nat) : (takeToken s src).trust = s.trust := rfl
@[simp] theorem takeToken_spdm (s : State) (src : Nat) : (takeToken s src).spdm = s.spdm := rfl
@[simp] theorem takeToken_eng (s : State) (src : Nat) : (takeToken s src).eng = s.eng := rfl
@[simp] theorem takeToken_flt (s : State) (src : Nat) : (takeToken s src).flt = s.flt := rfl
@[simp] theorem takeToken_fence (s : State) (src : Nat) : (takeToken s src).fence = s.fence := rfl
@[simp] theorem takeToken_evr (s : State) (src : Nat) : (takeToken s src).evr = { s.evr with buckets := s.evr.buckets.set src (bucketAt s src - sec 1, s.now) } := rfl
@[simp] theorem takeToken_dump (s : State) (src : Nat) : (takeToken s src).dump = s.dump := rfl
@[simp] theorem takeToken_pair (s : State) (src : Nat) : (takeToken s src).pair = s.pair := rfl
@[simp] theorem takeToken_store (s : State) (src : Nat) : (takeToken s src).store = s.store := rfl
@[simp] theorem takeToken_fw (s : State) (src : Nat) : (takeToken s src).fw = s.fw := rfl
@[simp] theorem takeToken_out (s : State) (src : Nat) : (takeToken s src).out = s.out := rfl
@[simp] theorem takeToken_free (s : State) (src : Nat) : (takeToken s src).free = s.free := rfl

@[simp] theorem addTicks_pending (s : State) (n : Nat) : (addTicks s n).pending = s.pending := rfl
@[simp] theorem addTicks_clk (s : State) (n : Nat) : (addTicks s n).clk = { s.clk with master := s.clk.master + n, core := s.clk.core + n, fab0 := s.clk.fab0 + n, fab1 := s.clk.fab1 + n } := rfl
@[simp] theorem addTicks_hw (s : State) (n : Nat) : (addTicks s n).hw = s.hw := rfl
@[simp] theorem addTicks_pwr (s : State) (n : Nat) : (addTicks s n).pwr = s.pwr := rfl
@[simp] theorem addTicks_win (s : State) (n : Nat) : (addTicks s n).win = s.win := rfl
@[simp] theorem addTicks_cmdSeq (s : State) (n : Nat) : (addTicks s n).cmdSeq = s.cmdSeq := rfl
@[simp] theorem addTicks_halls (s : State) (n : Nat) : (addTicks s n).halls = s.halls := rfl
@[simp] theorem addTicks_acl (s : State) (n : Nat) : (addTicks s n).acl = s.acl := rfl
@[simp] theorem addTicks_drains (s : State) (n : Nat) : (addTicks s n).drains = s.drains := rfl
@[simp] theorem addTicks_clears (s : State) (n : Nat) : (addTicks s n).clears = s.clears := rfl
@[simp] theorem addTicks_route (s : State) (n : Nat) : (addTicks s n).route = s.route := rfl
@[simp] theorem addTicks_leaf (s : State) (n : Nat) : (addTicks s n).leaf = s.leaf := rfl
@[simp] theorem addTicks_dist (s : State) (n : Nat) : (addTicks s n).dist = s.dist := rfl
@[simp] theorem addTicks_ports (s : State) (n : Nat) : (addTicks s n).ports = s.ports := rfl
@[simp] theorem addTicks_eps (s : State) (n : Nat) : (addTicks s n).eps = s.eps := rfl
@[simp] theorem addTicks_home (s : State) (n : Nat) : (addTicks s n).home = s.home := rfl
@[simp] theorem addTicks_welt (s : State) (n : Nat) : (addTicks s n).welt = s.welt := rfl
@[simp] theorem addTicks_jrn (s : State) (n : Nat) : (addTicks s n).jrn = s.jrn := rfl
@[simp] theorem addTicks_tier (s : State) (n : Nat) : (addTicks s n).tier = s.tier := rfl
@[simp] theorem addTicks_flash (s : State) (n : Nat) : (addTicks s n).flash = s.flash := rfl
@[simp] theorem addTicks_dram (s : State) (n : Nat) : (addTicks s n).dram = s.dram := rfl
@[simp] theorem addTicks_ten (s : State) (n : Nat) : (addTicks s n).ten = s.ten := rfl
@[simp] theorem addTicks_trust (s : State) (n : Nat) : (addTicks s n).trust = s.trust := rfl
@[simp] theorem addTicks_spdm (s : State) (n : Nat) : (addTicks s n).spdm = s.spdm := rfl
@[simp] theorem addTicks_eng (s : State) (n : Nat) : (addTicks s n).eng = s.eng := rfl
@[simp] theorem addTicks_flt (s : State) (n : Nat) : (addTicks s n).flt = s.flt := rfl
@[simp] theorem addTicks_fence (s : State) (n : Nat) : (addTicks s n).fence = s.fence := rfl
@[simp] theorem addTicks_evr (s : State) (n : Nat) : (addTicks s n).evr = s.evr := rfl
@[simp] theorem addTicks_dump (s : State) (n : Nat) : (addTicks s n).dump = s.dump := rfl
@[simp] theorem addTicks_pair (s : State) (n : Nat) : (addTicks s n).pair = s.pair := rfl
@[simp] theorem addTicks_store (s : State) (n : Nat) : (addTicks s n).store = s.store := rfl
@[simp] theorem addTicks_fw (s : State) (n : Nat) : (addTicks s n).fw = s.fw := rfl
@[simp] theorem addTicks_out (s : State) (n : Nat) : (addTicks s n).out = s.out := rfl
@[simp] theorem addTicks_free (s : State) (n : Nat) : (addTicks s n).free = s.free := rfl

@[simp] theorem setInput_pending (s : State) (dv : Nat) : (setInput s dv).pending = s.pending := rfl
@[simp] theorem setInput_clk (s : State) (dv : Nat) : (setInput s dv).clk = s.clk := rfl
@[simp] theorem setInput_hw (s : State) (dv : Nat) : (setInput s dv).hw = { s.hw with inputDv := dv } := rfl
@[simp] theorem setInput_pwr (s : State) (dv : Nat) : (setInput s dv).pwr = s.pwr := rfl
@[simp] theorem setInput_win (s : State) (dv : Nat) : (setInput s dv).win = s.win := rfl
@[simp] theorem setInput_cmdSeq (s : State) (dv : Nat) : (setInput s dv).cmdSeq = s.cmdSeq := rfl
@[simp] theorem setInput_halls (s : State) (dv : Nat) : (setInput s dv).halls = s.halls := rfl
@[simp] theorem setInput_acl (s : State) (dv : Nat) : (setInput s dv).acl = s.acl := rfl
@[simp] theorem setInput_drains (s : State) (dv : Nat) : (setInput s dv).drains = s.drains := rfl
@[simp] theorem setInput_clears (s : State) (dv : Nat) : (setInput s dv).clears = s.clears := rfl
@[simp] theorem setInput_route (s : State) (dv : Nat) : (setInput s dv).route = s.route := rfl
@[simp] theorem setInput_leaf (s : State) (dv : Nat) : (setInput s dv).leaf = s.leaf := rfl
@[simp] theorem setInput_dist (s : State) (dv : Nat) : (setInput s dv).dist = s.dist := rfl
@[simp] theorem setInput_ports (s : State) (dv : Nat) : (setInput s dv).ports = s.ports := rfl
@[simp] theorem setInput_eps (s : State) (dv : Nat) : (setInput s dv).eps = s.eps := rfl
@[simp] theorem setInput_home (s : State) (dv : Nat) : (setInput s dv).home = s.home := rfl
@[simp] theorem setInput_welt (s : State) (dv : Nat) : (setInput s dv).welt = s.welt := rfl
@[simp] theorem setInput_jrn (s : State) (dv : Nat) : (setInput s dv).jrn = s.jrn := rfl
@[simp] theorem setInput_tier (s : State) (dv : Nat) : (setInput s dv).tier = s.tier := rfl
@[simp] theorem setInput_flash (s : State) (dv : Nat) : (setInput s dv).flash = s.flash := rfl
@[simp] theorem setInput_dram (s : State) (dv : Nat) : (setInput s dv).dram = s.dram := rfl
@[simp] theorem setInput_ten (s : State) (dv : Nat) : (setInput s dv).ten = s.ten := rfl
@[simp] theorem setInput_trust (s : State) (dv : Nat) : (setInput s dv).trust = s.trust := rfl
@[simp] theorem setInput_spdm (s : State) (dv : Nat) : (setInput s dv).spdm = s.spdm := rfl
@[simp] theorem setInput_eng (s : State) (dv : Nat) : (setInput s dv).eng = s.eng := rfl
@[simp] theorem setInput_flt (s : State) (dv : Nat) : (setInput s dv).flt = s.flt := rfl
@[simp] theorem setInput_fence (s : State) (dv : Nat) : (setInput s dv).fence = s.fence := rfl
@[simp] theorem setInput_evr (s : State) (dv : Nat) : (setInput s dv).evr = s.evr := rfl
@[simp] theorem setInput_dump (s : State) (dv : Nat) : (setInput s dv).dump = s.dump := rfl
@[simp] theorem setInput_pair (s : State) (dv : Nat) : (setInput s dv).pair = s.pair := rfl
@[simp] theorem setInput_store (s : State) (dv : Nat) : (setInput s dv).store = s.store := rfl
@[simp] theorem setInput_fw (s : State) (dv : Nat) : (setInput s dv).fw = s.fw := rfl
@[simp] theorem setInput_out (s : State) (dv : Nat) : (setInput s dv).out = s.out := rfl
@[simp] theorem setInput_free (s : State) (dv : Nat) : (setInput s dv).free = s.free := rfl

end Sys2Proof.Laws
end

