-- ==== Sys2Proof/Laws/Steady.lean ====
section
/-! SUPPORT. What a command leaves as it was, said once: the queue behind it, the identity fuses, a minimum version that never
falls, the canonical form of the DRAM's table and a pool time that never steps back. -/

namespace Sys2Proof.Laws

set_option linter.unusedSimpArgs false

open Sys2Proof.Machine

/-- What one run of a command holds on to: the queue behind it, the identity fuses, the least minimum version, the time it began, whether it may power the part up, and whether the DRAM's table was canonical. -/
structure Kept where
  queue : List Instr
  gradeD1 : Bool
  lifecycle : Nat
  fuses : BitVec 16
  minSvn : Nat
  now : Nat
  cold : Bool
  tidy : Bool
/-- A state that still holds it, its DRAM's table in canonical form. -/
structure Steady (v : Kept) (s : State) : Prop where
  queue : s.pending = v.queue
  gradeD1 : s.hw.gradeD1 = v.gradeD1
  lifecycle : s.hw.lifecycle = v.lifecycle
  fuses : s.hw.fuses = v.fuses
  minSvn : v.minSvn ≤ s.hw.fusedMinSvn
  canon : v.tidy = true → s.dram.mem.canon zeroGranule
  now : v.cold = true ∨ v.now ≤ s.clk.master
variable {v : Kept}
theorem steady_mk {s : State} {a3 a4 a5 a6 a7 a8 a9 a10 a11 a12 a13 a14 a15 a16 a17 a18 a19 a21 a22 a23 a24 a25 a26 a27 a28 a29 a30 a31 a32 a33} : Steady v (State.mk s.pending s.clk s.hw a3 a4 a5 a6 a7 a8 a9 a10 a11 a12 a13 a14 a15 a16 a17 a18 a19 s.dram a21 a22 a23 a24 a25 a26 a27 a28 a29 a30 a31 a32 a33) = Steady v s :=
  propext ⟨fun h => ⟨h.1, h.2, h.3, h.4, h.5, h.6, h.7⟩, fun h => ⟨h.1, h.2, h.3, h.4, h.5, h.6, h.7⟩⟩
theorem steady_mk_hw {s : State} {a3 a4 a5 a6 a7 a8 a9 a10 a11 a12 a13 a14 a15 a16 a17 a18 a19 a21 a22 a23 a24 a25 a26 a27 a28 a29 a30 a31 a32 a33 b3 b5 b6 b7 b8 b9 b10 b11} : Steady v (State.mk s.pending s.clk (Hw.mk s.hw.gradeD1 s.hw.lifecycle s.hw.fuses b3 s.hw.fusedMinSvn b5 b6 b7 b8 b9 b10 b11) a3 a4 a5 a6 a7 a8 a9 a10 a11 a12 a13 a14 a15 a16 a17 a18 a19 s.dram a21 a22 a23 a24 a25 a26 a27 a28 a29 a30 a31 a32 a33) = Steady v s :=
  propext ⟨fun h => ⟨h.1, h.2, h.3, h.4, h.5, h.6, h.7⟩, fun h => ⟨h.1, h.2, h.3, h.4, h.5, h.6, h.7⟩⟩
theorem steady_mk_dram {s : State} {a3 a4 a5 a6 a7 a8 a9 a10 a11 a12 a13 a14 a15 a16 a17 a18 a19 a21 a22 a23 a24 a25 a26 a27 a28 a29 a30 a31 a32 a33 c0 c2 c3 c4 c5 c6} : Steady v (State.mk s.pending s.clk s.hw a3 a4 a5 a6 a7 a8 a9 a10 a11 a12 a13 a14 a15 a16 a17 a18 a19 (Dram.mk c0 s.dram.mem c2 c3 c4 c5 c6) a21 a22 a23 a24 a25 a26 a27 a28 a29 a30 a31 a32 a33) = Steady v s :=
  propext ⟨fun h => ⟨h.1, h.2, h.3, h.4, h.5, h.6, h.7⟩, fun h => ⟨h.1, h.2, h.3, h.4, h.5, h.6, h.7⟩⟩
theorem steady_mk_hw_dram {s : State} {a3 a4 a5 a6 a7 a8 a9 a10 a11 a12 a13 a14 a15 a16 a17 a18 a19 a21 a22 a23 a24 a25 a26 a27 a28 a29 a30 a31 a32 a33 b3 b5 b6 b7 b8 b9 b10 b11 c0 c2 c3 c4 c5 c6} : Steady v (State.mk s.pending s.clk (Hw.mk s.hw.gradeD1 s.hw.lifecycle s.hw.fuses b3 s.hw.fusedMinSvn b5 b6 b7 b8 b9 b10 b11) a3 a4 a5 a6 a7 a8 a9 a10 a11 a12 a13 a14 a15 a16 a17 a18 a19 (Dram.mk c0 s.dram.mem c2 c3 c4 c5 c6) a21 a22 a23 a24 a25 a26 a27 a28 a29 a30 a31 a32 a33) = Steady v s :=
  propext ⟨fun h => ⟨h.1, h.2, h.3, h.4, h.5, h.6, h.7⟩, fun h => ⟨h.1, h.2, h.3, h.4, h.5, h.6, h.7⟩⟩
theorem steady_mk_clk {s : State} {a3 a4 a5 a6 a7 a8 a9 a10 a11 a12 a13 a14 a15 a16 a17 a18 a19 a21 a22 a23 a24 a25 a26 a27 a28 a29 a30 a31 a32 a33 d1 d2 d3 d4 d5} : Steady v (State.mk s.pending (Clock.mk s.clk.master d1 d2 d3 d4 d5) s.hw a3 a4 a5 a6 a7 a8 a9 a10 a11 a12 a13 a14 a15 a16 a17 a18 a19 s.dram a21 a22 a23 a24 a25 a26 a27 a28 a29 a30 a31 a32 a33) = Steady v s :=
  propext ⟨fun h => ⟨h.1, h.2, h.3, h.4, h.5, h.6, h.7⟩, fun h => ⟨h.1, h.2, h.3, h.4, h.5, h.6, h.7⟩⟩
theorem steady_mk_clk_dram {s : State} {a3 a4 a5 a6 a7 a8 a9 a10 a11 a12 a13 a14 a15 a16 a17 a18 a19 a21 a22 a23 a24 a25 a26 a27 a28 a29 a30 a31 a32 a33 c0 c2 c3 c4 c5 c6 d1 d2 d3 d4 d5} : Steady v (State.mk s.pending (Clock.mk s.clk.master d1 d2 d3 d4 d5) s.hw a3 a4 a5 a6 a7 a8 a9 a10 a11 a12 a13 a14 a15 a16 a17 a18 a19 (Dram.mk c0 s.dram.mem c2 c3 c4 c5 c6) a21 a22 a23 a24 a25 a26 a27 a28 a29 a30 a31 a32 a33) = Steady v s :=
  propext ⟨fun h => ⟨h.1, h.2, h.3, h.4, h.5, h.6, h.7⟩, fun h => ⟨h.1, h.2, h.3, h.4, h.5, h.6, h.7⟩⟩
theorem steady_up {s t : State} (h : Steady v s) (e1 : t.pending = s.pending) (e2 : t.hw.gradeD1 = s.hw.gradeD1) (e3 : t.hw.lifecycle = s.hw.lifecycle)
    (e4 : t.hw.fuses = s.hw.fuses) (e5 : s.hw.fusedMinSvn ≤ t.hw.fusedMinSvn) (e6 : v.tidy = true → t.dram.mem.canon zeroGranule)
    (e7 : v.cold = true ∨ s.clk.master ≤ t.clk.master) : Steady v t :=
  ⟨e1.trans h.queue, e2.trans h.gradeD1, e3.trans h.lifecycle, e4.trans h.fuses, Nat.le_trans h.minSvn e5, e6,
    e7.elim .inl fun k => h.now.imp id fun j => Nat.le_trans j k⟩
theorem steady_foldl {α : Type} {f : State → α → State} {l : List α} {s : State} (h : Steady v s) (hf : ∀ s a, Steady v s → Steady v (f s a)) :
    Steady v (l.foldl f s) := by
  induction l generalizing s with
  | nil => exact h
  | cons a l ih => exact ih (hf _ _ h)
theorem steady_foldl_fst {α β : Type} {f : State × β → α → State × β} {l : List α} {s : State × β} (h : Steady v s.1)
    (hf : ∀ s a, Steady v s.1 → Steady v (f s a).1) : Steady v (l.foldl f s).1 := by
  induction l generalizing s with
  | nil => exact h
  | cons a l ih => exact ih (hf _ _ h)
theorem steady_of_fst {β : Type} {p : State × β} {t : State} {b : β} (e : p = (t, b)) (h : Steady v p.1) : Steady v t := by
  rw [e] at h; exact h
theorem steady_fst_ite {β : Type} {c : Prop} [Decidable c] {a b : State × β} (h : c → Steady v a.1) (k : ¬c → Steady v b.1) :
    Steady v (if c then a else b).1 := by
  split
  · exact h ‹_›
  · exact k ‹_›
theorem steady_elim {α : Type} {o : Option α} {s : State} {f : α → State} (h : Steady v s) (k : ∀ a, Steady v (f a)) : Steady v (o.elim s f) := by
  cases o
  · exact h
  · exact k _
theorem steady_ite {c : Prop} [Decidable c] {a b : State} (h : c → Steady v a) (k : ¬c → Steady v b) : Steady v (if c then a else b) := by
  by_cases q : c
  · rw [if_pos q]; exact h q
  · rw [if_neg q]; exact k q
/-- A chain of steps that may fail keeps what each of them keeps. -/
theorem steady_bind {α : Type} {f : State → α → Option State} (hf : ∀ s a t, Steady v s → f s a = some t → Steady v t) (l : List α) :
    ∀ (s t : State), Steady v s → l.foldl (fun o e => o.bind fun s => f s e) (some s) = some t → Steady v t := by
  induction l with
  | nil => intro s t h e; injection e with e; rw [← e]; exact h
  | cons a l ih =>
    intro s t h e
    simp only [List.foldl_cons, Option.bind_some] at e
    cases q : f s a with
    | none =>
      rw [q] at e
      have : ∀ l : List α, l.foldl (fun o e => o.bind fun s => f s e) (none : Option State) = none := by
        intro l; induction l with
        | nil => rfl
        | cons b l ih => simpa using ih
      rw [this] at e; cases e
    | some u => rw [q] at e; exact ih u t (hf _ _ _ h q) e

end Sys2Proof.Laws
end

