-- ==== Sys2Proof/Laws/SteadyLink.lean ====
section
/-! SUPPORT. Every operation on events, ports, flights, flash jobs, identity, SPDM and mailboxes keeps what `Steady` says. -/

namespace Sys2Proof.Laws

set_option linter.unusedSimpArgs false

open Sys2Proof.Machine

variable {hv : Kept}

theorem steady_xfer (s : State) (r sub svc bytes addr : Nat) (h0 : Steady hv s) : Steady hv (xfer s r sub svc bytes addr) := by
  unfold xfer
  with_reducible repeat' (first | assumption | simp only [steady_mk])
theorem steady_sendControl (s : State) (p typ space seq : Nat) (content : List Byte) (m : Emit) (h0 : Steady hv s) : Steady hv (sendControl s p typ space seq content m) := by
  unfold sendControl
  with_reducible repeat' (first | assumption | simp only [steady_mk] | intro _ | apply steady_ite | split)
theorem steady_sendFlit (s : State) (p : Nat) (c : Cargo) (m : Emit) (h0 : Steady hv s) : Steady hv (sendFlit s p c m) := by
  unfold sendFlit
  with_reducible repeat' (first | assumption | apply steady_xfer | simp only [steady_mk] | split)
theorem steady_send (s : State) (p : Nat) (c : Cargo) (m : Emit) (h0 : Steady hv s) : Steady hv (send s p c m) := by
  unfold send
  with_reducible repeat' (first | assumption | apply steady_sendFlit | split)
theorem steady_modPort (s : State) (p : Nat) (f : Port → Port) (h0 : Steady hv s) : Steady hv (modPort s p f) := by
  unfold modPort
  with_reducible repeat' (first | assumption | simp only [steady_mk])
theorem steady_sendEp (s : State) (ep : Nat) (c : Cargo) (m : Nat → Emit) (h0 : Steady hv s) : Steady hv (sendEp s ep c m) := by
  unfold sendEp
  with_reducible repeat' (first | assumption | apply steady_modPort | apply steady_send | simp only [steady_mk] | split)
theorem steady_sendMgt (s : State) (ep : Nat) (m : Nat → Emit) (h0 : Steady hv s) : Steady hv (sendMgt s ep m) := by
  unfold sendMgt
  with_reducible repeat' (first | assumption | apply steady_sendEp)
theorem steady_noteRoute (s : State) (ep port : Nat) (h0 : Steady hv s) : Steady hv (noteRoute s ep port) := by
  unfold noteRoute
  with_reducible repeat' (first | assumption | simp only [steady_mk] | intro _)
theorem steady_countBad (s : State) (p : Nat) (h0 : Steady hv s) : Steady hv (countBad s p) := by
  unfold countBad
  with_reducible repeat' (first | assumption | apply steady_modPort)
theorem steady_setConn (s : State) (c : Nat) (x : Conn) (h0 : Steady hv s) : Steady hv (setConn s c x) := by
  unfold setConn
  with_reducible repeat' (first | assumption | simp only [steady_mk])
theorem steady_sendHere (s : State) (p : Nat) (c : Cargo) (m : Emit) (h0 : Steady hv s) : Steady hv (sendHere s p c m) := by
  unfold sendHere
  with_reducible repeat' (first | assumption | apply steady_sendFlit | simp only [steady_mk] | intro _ | apply steady_ite | split)
theorem steady_sendSpdm (s : State) (c : Nat) (secured : Bool) (b : List Byte) (cargo : Cargo) (h0 : Steady hv s) : Steady hv (sendSpdm s c secured b cargo) := by
  unfold sendSpdm
  with_reducible repeat' (first | assumption | apply steady_sendHere | apply steady_sendMgt | apply steady_setConn | simp only [steady_mk] | apply steady_foldl | intro _ | apply steady_ite | split)
theorem steady_saySecured (s : State) (c : Nat) (b : List Byte) (cargo : Cargo) (h0 : Steady hv s) : Steady hv (saySecured s c b cargo) := by
  unfold saySecured
  with_reducible repeat' (first | assumption | apply steady_sendSpdm | apply steady_setConn | simp only [steady_mk] | intro _)
theorem steady_winSay (s : State) (n : Nat) (w : Win) (m : Emit) (h0 : Steady hv s) : Steady hv (winSay s n w m) := by
  unfold winSay
  with_reducible repeat' (first | assumption | apply steady_saySecured | apply steady_sendMgt | simp only [steady_mk] | intro _ | apply steady_ite | split)

theorem steady_smbUpdate (s : State) (h0 : Steady hv s) : Steady hv (smbUpdate s) := by
  unfold smbUpdate
  with_reducible repeat' (first | assumption | simp only [steady_mk, steady_mk_hw, steady_mk_dram, steady_mk_hw_dram, steady_mk_clk, steady_mk_clk_dram] | apply steady_foldl | apply steady_foldl_fst | apply steady_elim | intro _ | apply steady_ite | split | exact steady_of_fst (by assumption) (by assumption) | refine steady_of_fst (by assumption) ?_ | dsimp only)
theorem steady_alertWin (s : State) (n : Nat) (w : Win) (cls time event cursor : Nat) (h0 : Steady hv s) : Steady hv (alertWin s n w cls time event cursor) := by
  unfold alertWin
  with_reducible repeat' (first | assumption | apply steady_winSay | simp only [steady_mk, steady_mk_hw, steady_mk_dram, steady_mk_hw_dram, steady_mk_clk, steady_mk_clk_dram] | apply steady_foldl | apply steady_foldl_fst | apply steady_elim | intro _ | apply steady_ite | split | exact steady_of_fst (by assumption) (by assumption) | refine steady_of_fst (by assumption) ?_ | dsimp only)
theorem steady_raiseAlert (s : State) (cls : Nat) (tenant hall : Option Nat) (time event cursor : Nat) (h0 : Steady hv s) : Steady hv (raiseAlert s cls tenant hall time event cursor) := by
  unfold raiseAlert
  with_reducible repeat' (first | assumption | apply steady_alertWin | apply steady_smbUpdate | simp only [steady_mk, steady_mk_hw, steady_mk_dram, steady_mk_hw_dram, steady_mk_clk, steady_mk_clk_dram] | apply steady_foldl | apply steady_foldl_fst | apply steady_elim | intro _ | apply steady_ite | split | exact steady_of_fst (by assumption) (by assumption) | refine steady_of_fst (by assumption) ?_ | dsimp only)
theorem steady_takeToken (s : State) (src : Nat) (h0 : Steady hv s) : Steady hv (takeToken s src) := by
  unfold takeToken
  with_reducible repeat' (first | assumption | simp only [steady_mk, steady_mk_hw, steady_mk_dram, steady_mk_hw_dram, steady_mk_clk, steady_mk_clk_dram] | apply steady_foldl | apply steady_foldl_fst | apply steady_elim | intro _ | apply steady_ite | split | exact steady_of_fst (by assumption) (by assumption) | refine steady_of_fst (by assumption) ?_ | dsimp only)
theorem steady_putRecord (s : State) (r : Record) (h0 : Steady hv s) : Steady hv (putRecord s r) := by
  unfold putRecord
  with_reducible repeat' (first | assumption | simp only [steady_mk, steady_mk_hw, steady_mk_dram, steady_mk_hw_dram, steady_mk_clk, steady_mk_clk_dram] | apply steady_foldl | apply steady_foldl_fst | apply steady_elim | intro _ | apply steady_ite | split | exact steady_of_fst (by assumption) (by assumption) | refine steady_of_fst (by assumption) ?_ | dsimp only)
theorem steady_closeRun (s : State) (r : Run) (h0 : Steady hv s) : Steady hv (closeRun s r) := by
  unfold closeRun
  with_reducible repeat' (first | assumption | apply steady_putRecord | apply steady_takeToken | simp only [steady_mk, steady_mk_hw, steady_mk_dram, steady_mk_hw_dram, steady_mk_clk, steady_mk_clk_dram] | apply steady_foldl | apply steady_foldl_fst | apply steady_elim | intro _ | apply steady_ite | split | exact steady_of_fst (by assumption) (by assumption) | refine steady_of_fst (by assumption) ?_ | dsimp only)
theorem steady_runTriggers (s : State) (ev cls src : Nat) (tenant hall : Option Nat) (addr : Nat) (h0 : Steady hv s) : Steady hv (runTriggers s ev cls src tenant hall addr).1 := by
  unfold runTriggers
  with_reducible repeat' (first | assumption | simp only [steady_mk, steady_mk_hw, steady_mk_dram, steady_mk_hw_dram, steady_mk_clk, steady_mk_clk_dram] | apply steady_foldl | apply steady_foldl_fst | apply steady_elim | intro _ | apply steady_ite | split | exact steady_of_fst (by assumption) (by assumption) | refine steady_of_fst (by assumption) ?_ | dsimp only)
theorem steady_writeSingle (s : State) (r : Record) (fired : List Trigger) (h0 : Steady hv s) : Steady hv (writeSingle s r fired) := by
  unfold writeSingle
  with_reducible repeat' (first | assumption | apply steady_putRecord | simp only [steady_mk, steady_mk_hw, steady_mk_dram, steady_mk_hw_dram, steady_mk_clk, steady_mk_clk_dram] | apply steady_foldl | apply steady_foldl_fst | apply steady_elim | intro _ | apply steady_ite | split | exact steady_of_fst (by assumption) (by assumption) | refine steady_of_fst (by assumption) ?_ | dsimp only)
theorem steady_closeOver (s : State) (r : Record) (h0 : Steady hv s) : Steady hv (closeOver s r) := by
  unfold closeOver
  with_reducible repeat' (first | assumption | apply steady_closeRun | simp only [steady_mk, steady_mk_hw, steady_mk_dram, steady_mk_hw_dram, steady_mk_clk, steady_mk_clk_dram] | apply steady_foldl | apply steady_foldl_fst | apply steady_elim | intro _ | apply steady_ite | split | exact steady_of_fst (by assumption) (by assumption) | refine steady_of_fst (by assumption) ?_ | dsimp only)
theorem steady_noteOcc (s : State) (r : Record) (first : Nat) (h0 : Steady hv s) : Steady hv (noteOcc s r first) := by
  unfold noteOcc
  with_reducible repeat' (first | assumption | simp only [steady_mk, steady_mk_hw, steady_mk_dram, steady_mk_hw_dram, steady_mk_clk, steady_mk_clk_dram] | apply steady_foldl | apply steady_foldl_fst | apply steady_elim | intro _ | apply steady_ite | split | exact steady_of_fst (by assumption) (by assumption) | refine steady_of_fst (by assumption) ?_ | dsimp only)
theorem steady_coalesce (s : State) (r : Record) (first : Nat) (runs : List Run) (h0 : Steady hv s) : Steady hv (coalesce s r first runs) := by
  unfold coalesce
  with_reducible repeat' (first | assumption | apply steady_noteOcc | simp only [steady_mk, steady_mk_hw, steady_mk_dram, steady_mk_hw_dram, steady_mk_clk, steady_mk_clk_dram] | apply steady_foldl | apply steady_foldl_fst | apply steady_elim | intro _ | apply steady_ite | split | exact steady_of_fst (by assumption) (by assumption) | refine steady_of_fst (by assumption) ?_ | dsimp only)
theorem steady_logEvent (s : State) (r : Record) (fired : List Trigger) (h0 : Steady hv s) : Steady hv (logEvent s r fired).1 := by
  unfold logEvent
  with_reducible repeat' (first | assumption | apply steady_closeOver | apply steady_coalesce | apply steady_noteOcc | apply steady_takeToken | apply steady_writeSingle | simp only [steady_mk, steady_mk_hw, steady_mk_dram, steady_mk_hw_dram, steady_mk_clk, steady_mk_clk_dram] | apply steady_foldl | apply steady_foldl_fst | apply steady_elim | intro _ | apply steady_ite | split | exact steady_of_fst (by assumption) (by assumption) | refine steady_of_fst (by assumption) ?_ | dsimp only)
theorem steady_alertEvent (s : State) (r : Record) (fired : List Trigger) (cursor : Nat) (h0 : Steady hv s) : Steady hv (alertEvent s r fired cursor) := by
  unfold alertEvent
  with_reducible repeat' (first | assumption | apply steady_raiseAlert | simp only [steady_mk, steady_mk_hw, steady_mk_dram, steady_mk_hw_dram, steady_mk_clk, steady_mk_clk_dram] | apply steady_foldl | apply steady_foldl_fst | apply steady_elim | intro _ | apply steady_ite | split | exact steady_of_fst (by assumption) (by assumption) | refine steady_of_fst (by assumption) ?_ | dsimp only)
theorem steady_uartSay (s : State) (kind value source : Nat) (h0 : Steady hv s) : Steady hv (uartSay s kind value source) := by
  unfold uartSay
  with_reducible repeat' (first | assumption | simp only [steady_mk] | intro _ | apply steady_ite | split)
theorem steady_event (s : State) (e : Ev) (src : Nat) (tenant hall : Option Nat) (addr : Nat) (detail : List (Nat × Nat × Nat)) (h0 : Steady hv s) : Steady hv (event s e src tenant hall addr detail) := by
  unfold event
  with_reducible repeat' (first | assumption | apply steady_alertEvent | apply steady_logEvent | apply steady_runTriggers | apply steady_uartSay | simp only [steady_mk] | intro _)

theorem steady_State_tickFree (s : State) (h0 : Steady hv s) : Steady hv (State.tickFree s) := by
  unfold State.tickFree
  with_reducible repeat' (first | assumption | simp only [steady_mk])
theorem steady_putGran (s : State) (c ca : Nat) (g : Granule) (h0 : Steady hv s) : Steady hv (putGran s c ca g) := by
  exact steady_up h0 rfl rfl rfl rfl (Nat.le_refl _) (fun k => canon_put _ _ _ _ (h0.canon k)) (.inr (Nat.le_refl _))
theorem steady_modChan (s : State) (c : Nat) (f : Chan → Chan) (h0 : Steady hv s) : Steady hv (modChan s c f) := by
  unfold modChan
  with_reducible repeat' (first | assumption | simp only [steady_mk_dram])
theorem steady_noteError (s : State) (c ca : Nat) (light : Bool) (mask place : Nat) (poison : Bool) (hall tenant : Option Nat) (h0 : Steady hv s) : Steady hv (noteError s c ca light mask place poison hall tenant) := by
  unfold noteError
  with_reducible repeat' (first | assumption | apply steady_event | apply steady_modChan | simp only [steady_mk] | split)
theorem steady_noteLight (s : State) (hid : Nat) (h : Hall) (c ca : Nat) (outs : Nat → Decode) (h0 : Steady hv s) : Steady hv (noteLight s hid h c ca outs) := by
  unfold noteLight
  with_reducible repeat' (first | assumption | apply steady_noteError | apply steady_foldl | intro _ | split)
theorem steady_notePair (s : State) (hid : Nat) (h : Hall) (c base : Nat) (gs : Nat → Granule) (out : Decode) (h0 : Steady hv s) : Steady hv (notePair s hid h c base gs out) := by
  unfold notePair
  with_reducible repeat' (first | assumption | apply steady_noteError | split)
theorem steady_noteSeen (s : State) (hid : Nat) (h : Hall) (x c ca : Nat) (gs : Nat → Granule) (used : Nat → Bool) (h0 : Steady hv s) : Steady hv (noteSeen s hid h x c ca gs used) := by
  unfold noteSeen
  with_reducible repeat' (first | assumption | apply steady_event | apply steady_modChan | simp only [steady_mk] | intro _ | apply steady_ite | split)
theorem steady_deliverLine (s : State) (hid : Nat) (h : Hall) (x c ca : Nat) (gs : Nat → Granule) (h0 : Steady hv s) : Steady hv (deliverLine s hid h x c ca gs).1 := by
  unfold deliverLine
  with_reducible repeat' (first | assumption | apply steady_State_tickFree | apply steady_noteSeen | simp only [steady_mk] | intro _)
theorem steady_readLight (s : State) (hid : Nat) (h : Hall) (x c ca : Nat) (h0 : Steady hv s) : Steady hv (readLight s hid h x c ca).1 := by
  unfold readLight
  with_reducible repeat' (first | assumption | apply steady_deliverLine | apply steady_noteLight)
theorem steady_readPair (s : State) (hid : Nat) (h : Hall) (x c ca : Nat) (h0 : Steady hv s) : Steady hv (readPair s hid h x c ca).1 := by
  unfold readPair
  with_reducible repeat' (first | assumption | apply steady_deliverLine | apply steady_notePair)
theorem steady_readLine (s : State) (hid : Nat) (h : Hall) (x : Nat) (h0 : Steady hv s) : Steady hv (readLine s hid h x).1 := by
  unfold readLine
  with_reducible repeat' (first | assumption | apply steady_readLight | apply steady_readPair | simp only [steady_mk] | split)
theorem steady_dirtyBlock (s : State) (hid : Nat) (h : Hall) (x : Nat) (h0 : Steady hv s) : Steady hv (dirtyBlock s hid h x) := by
  unfold dirtyBlock
  with_reducible repeat' (first | assumption | simp only [steady_mk] | split)
theorem steady_touchBlock (s : State) (hid : Nat) (h : Hall) (x : Nat) (engine : Bool) (h0 : Steady hv s) : Steady hv (touchBlock s hid h x engine) := by
  unfold touchBlock
  with_reducible repeat' (first | assumption | simp only [steady_mk] | split)
theorem steady_noteWritten (s : State) (hid : Nat) (h : Hall) (hl : Nat) (h0 : Steady hv s) : Steady hv (noteWritten s hid h hl) := by
  unfold noteWritten
  with_reducible repeat' (first | assumption | simp only [steady_mk] | split)
theorem steady_storeGrans (s : State) (c b n : Nat) (p : Nat → Bool) (f : Nat → Granule) (h0 : Steady hv s) : Steady hv (storeGrans s c b n p f) := by
  unfold storeGrans
  with_reducible repeat' (first | assumption | apply steady_putGran | apply steady_foldl | intro _ | split)
theorem steady_writeLight (s : State) (hid : Nat) (h : Hall) (x c ca : Nat) (d : LineData) (mask : BitVec 64) (h0 : Steady hv s) : Steady hv (writeLight s hid h x c ca d mask) := by
  unfold writeLight
  with_reducible repeat' (first | assumption | apply steady_modChan | apply steady_noteLight | apply steady_noteSeen | apply steady_storeGrans | simp only [steady_mk] | intro _ | apply steady_ite | split)
theorem steady_writePair (s : State) (hid : Nat) (h : Hall) (x c ca : Nat) (d : LineData) (mask : BitVec 64) (h0 : Steady hv s) : Steady hv (writePair s hid h x c ca d mask) := by
  unfold writePair
  with_reducible repeat' (first | assumption | apply steady_modChan | apply steady_notePair | apply steady_noteSeen | apply steady_storeGrans | simp only [steady_mk] | intro _ | apply steady_ite | split)
theorem steady_writeLine (s : State) (hid : Nat) (h : Hall) (x : Nat) (d : LineData) (mask : BitVec 64) (h0 : Steady hv s) : Steady hv (writeLine s hid h x d mask).1 := by
  unfold writeLine
  with_reducible repeat' (first | assumption | apply steady_State_tickFree | apply steady_dirtyBlock | apply steady_event | apply steady_noteWritten | apply steady_writeLight | apply steady_writePair | simp only [steady_mk] | split)
theorem steady_poisonLine (s : State) (hid : Nat) (h : Hall) (x : Nat) (h0 : Steady hv s) : Steady hv (poisonLine s hid h x) := by
  unfold poisonLine
  with_reducible repeat' (first | assumption | apply steady_writeLine)
theorem steady_clearRange (s : State) (c lo hi : Nat) (h0 : Steady hv s) : Steady hv (clearRange s c lo hi) := by
  exact steady_up h0 rfl rfl rfl rfl (Nat.le_refl _) (fun k => canon_clear _ _ _ _ (h0.canon k)) (.inr (Nat.le_refl _))
theorem steady_mbxDone (s : State) (n : Nat) (w : Win) (status resLen : Nat) (h0 : Steady hv s) : Steady hv (mbxDone s n w status resLen) := by
  unfold mbxDone
  with_reducible repeat' (first | assumption | apply steady_winSay | split)
theorem steady_finishCmd (s : State) (n status detail : Nat) (result : List Byte) (h0 : Steady hv s) : Steady hv (finishCmd s n status detail result) := by
  unfold finishCmd
  with_reducible repeat' (first | assumption | apply steady_mbxDone | simp only [steady_mk] | split)
theorem steady_closeWin (s : State) (n : Nat) (h0 : Steady hv s) : Steady hv (closeWin s n) := by
  unfold closeWin
  with_reducible repeat' (first | assumption | simp only [steady_mk] | split)
theorem steady_sendMirror (s : State) (b : MirrorBody) (h0 : Steady hv s) : Steady hv (sendMirror s b).1 := by
  unfold sendMirror
  with_reducible repeat' (first | assumption | apply steady_sendFlit | simp only [steady_mk] | intro _ | split)
theorem steady_mirrorNote (s : State) (b : MirrorBody) (h0 : Steady hv s) : Steady hv (mirrorNote s b) := by
  unfold mirrorNote
  with_reducible repeat' (first | assumption | apply steady_sendMirror | simp only [steady_mk])
theorem steady_commitWith (s : State) (erase : Bool) (h0 : Steady hv s) : Steady hv (commitWith s erase).1 := by
  unfold commitWith
  with_reducible repeat' (first | assumption | simp only [steady_mk] | intro _ | apply steady_ite | split)
theorem steady_commit (s : State) (h0 : Steady hv s) : Steady hv (commit s).1 := by
  unfold commit
  with_reducible repeat' (first | assumption | apply steady_commitWith | simp only [steady_mk] | intro _)
theorem steady_commitSelf (s : State) (h0 : Steady hv s) : Steady hv (commitSelf s) := by
  unfold commitSelf
  with_reducible repeat' (first | assumption | apply steady_commit | apply steady_mirrorNote | simp only [steady_mk] | split)
theorem steady_commitErase (s : State) (h0 : Steady hv s) : Steady hv (commitErase s) := by
  unfold commitErase
  with_reducible repeat' (first | assumption | apply steady_commitWith | apply steady_mirrorNote | simp only [steady_mk] | intro _ | apply steady_ite | split)

theorem steady_markBegun (s : State) (w : Nat) (h0 : Steady hv s) : Steady hv (markBegun s w) := by
  unfold markBegun
  with_reducible repeat' (first | assumption | simp only [steady_mk])
theorem steady_fail (s : State) (status : Nat) (detail : Nat) (h0 : Steady hv s) : Steady hv (fail s status detail).1 := by
  unfold fail
  with_reducible repeat' (first | assumption)
theorem steady_good (s : State) (res : List Byte) (h0 : Steady hv s) : Steady hv (good s res).1 := by
  unfold good
  with_reducible repeat' (first | assumption)
theorem steady_goesOn (s : State) (h0 : Steady hv s) : Steady hv (goesOn s).1 := by
  unfold goesOn
  with_reducible repeat' (first | assumption)
theorem steady_settle (w : Nat) (a : Answer) (h0 : Steady hv a.1) : Steady hv (settle w a) := by
  unfold settle
  with_reducible repeat' (first | assumption | apply steady_finishCmd | apply steady_markBegun | split)
theorem steady_runCmd (s : State) (w op : Nat) (body : State → Win → Answer) (h0 : Steady hv s) (k0 : ∀ (x0 : State) (x1 : Win), Steady hv x0 → Steady hv (body x0 x1).1) : Steady hv (runCmd s w op body) := by
  unfold runCmd
  with_reducible repeat' (first | assumption | apply steady_settle | apply k0 | split)
theorem steady_runRetained (s : State) (w op : Nat) (body : State → Win → Answer) (h0 : Steady hv s) (k0 : ∀ (x0 : State) (x1 : Win), Steady hv x0 → Steady hv (body x0 x1).1) : Steady hv (runRetained s w op body) := by
  unfold runRetained
  with_reducible repeat' (first | assumption | apply steady_runCmd | apply steady_sendMirror | apply k0 | simp only [steady_mk] | intro _ | split)
theorem steady_retain (old new : State) (k : State → Answer) (h0 : Steady hv old) (h1 : Steady hv new) (k0 : ∀ (x0 : State), Steady hv x0 → Steady hv (k x0).1) : Steady hv (retain old new k).1 := by
  unfold retain
  with_reducible repeat' (first | assumption | apply steady_commit | apply steady_fail | apply k0 | split | refine steady_of_fst (by assumption) ?_)
theorem steady_guardArg (s : State) (c : Option (Nat × Nat)) (k : Unit → Answer) (h0 : Steady hv s) (k0 : ∀ x, Steady hv (k x).1) : Steady hv (guardArg s c k).1 := by
  unfold guardArg
  with_reducible repeat' (first | assumption | apply steady_fail | apply k0 | split)

theorem steady_recomputeLevels (s : State) (h0 : Steady hv s) : Steady hv (recomputeLevels s) := by
  unfold recomputeLevels
  with_reducible repeat' (first | assumption | simp only [steady_mk])
theorem steady_learn (s : State) (ep port : Nat) (h0 : Steady hv s) : Steady hv (learn s ep port) := by
  unfold learn
  with_reducible repeat' (first | assumption | apply steady_noteRoute | apply steady_recomputeLevels | simp only [steady_mk] | intro _ | apply steady_ite | split)
theorem steady_sendEpoch (s : State) (ep : Nat) (h0 : Steady hv s) : Steady hv (sendEpoch s ep) := by
  unfold sendEpoch
  with_reducible repeat' (first | assumption | apply steady_sendMgt | split)
theorem steady_sendEpochs (s : State) (eps : List Nat) (h0 : Steady hv s) : Steady hv (sendEpochs s eps) := by
  unfold sendEpochs
  with_reducible repeat' (first | assumption | apply steady_sendEpoch | apply steady_foldl)
theorem steady_checkPeerPath (s : State) (port : Nat) (h0 : Steady hv s) : Steady hv (checkPeerPath s port) := by
  unfold checkPeerPath
  with_reducible repeat' (first | assumption | apply steady_event | simp only [steady_mk] | split)

theorem steady_nvIssue (s : State) (p : Nat) (op : NvOp) (row n : Nat) (for_ : NvFor) (cmd : Emit) (h0 : Steady hv s) : Steady hv (nvIssue s p op row n for_ cmd) := by
  unfold nvIssue
  with_reducible repeat' (first | assumption | simp only [steady_mk] | intro _ | apply steady_ite | split)
theorem steady_nvEnd (s : State) (f : NvFor) (h0 : Steady hv s) : Steady hv (nvEnd s f) := by
  unfold nvEnd
  with_reducible repeat' (first | assumption | simp only [steady_mk])
theorem steady_readRows (s : State) (l : List (Nat × Nat)) (for_ : NvFor) (sub svc : Nat) (h0 : Steady hv s) : Steady hv (readRows s l for_ sub svc) := by
  unfold readRows
  with_reducible repeat' (first | assumption | apply steady_nvIssue | apply steady_xfer | simp only [steady_mk] | apply steady_foldl | intro _ | split)
theorem steady_writeRows (s : State) (new : NMap (UnitMeta × List Line)) (l : List (Nat × Nat)) (op : NvOp) (for_ : NvFor) (sub svc : Nat) (h0 : Steady hv s) : Steady hv (writeRows s new l op for_ sub svc) := by
  unfold writeRows
  with_reducible repeat' (first | assumption | apply steady_nvIssue | apply steady_xfer | simp only [steady_mk] | apply steady_foldl | intro _ | split)
theorem steady_setIntent (s : State) (us : List Nat) (h0 : Steady hv s) : Steady hv (setIntent s us) := by
  unfold setIntent
  with_reducible repeat' (first | assumption | simp only [steady_mk])
theorem steady_setBitsFor (s : State) (us : List Nat) (h0 : Steady hv s) : Steady hv (setBitsFor s us) := by
  unfold setBitsFor
  with_reducible repeat' (first | assumption | apply steady_setIntent | simp only [steady_mk] | apply steady_foldl | intro _)
theorem steady_ctlWrite (s : State) (h0 : Steady hv s) : Steady hv (ctlWrite s).1 := by
  unfold ctlWrite
  with_reducible repeat' (first | assumption | apply steady_nvIssue | simp only [steady_mk] | apply steady_foldl | intro _)
theorem steady_settleRow (us : List Nat) (s : State) (r : Nat) (h0 : Steady hv s) : Steady hv (settleRow us s r) := by
  unfold settleRow
  with_reducible repeat' (first | assumption | simp only [steady_mk])
theorem steady_putUnits (s : State) (new : NMap (UnitMeta × List Line)) (h0 : Steady hv s) : Steady hv (putUnits s new) := by
  unfold putUnits
  with_reducible repeat' (first | assumption | apply steady_settleRow | simp only [steady_mk] | apply steady_foldl | intro _)
theorem steady_modJob (s : State) (id : Nat) (f : FlashJob → FlashJob) (h0 : Steady hv s) : Steady hv (modJob s id f) := by
  unfold modJob
  with_reducible repeat' (first | assumption | simp only [steady_mk] | intro _ | apply steady_ite | split)
theorem steady_jobGo (s : State) (j : FlashJob) (h0 : Steady hv s) : Steady hv (jobGo s j) := by
  unfold jobGo
  with_reducible repeat' (first | assumption | apply steady_modJob | apply steady_nvIssue | apply steady_readRows | apply steady_setIntent | apply steady_settleRow | apply steady_writeRows | simp only [steady_mk] | apply steady_foldl | intro _ | apply steady_ite | split)
theorem steady_freeOver (s : State) (j : FlashJob) (h0 : Steady hv s) : Steady hv (freeOver s j) := by
  unfold freeOver
  with_reducible repeat' (first | assumption | simp only [steady_mk] | intro _ | apply steady_ite | split)
theorem steady_jobNext (s : State) (j : FlashJob) (h0 : Steady hv s) : Steady hv (jobNext s j) := by
  unfold jobNext
  with_reducible repeat' (first | assumption | apply steady_freeOver | apply steady_jobGo | simp only [steady_mk] | intro _ | split)
theorem steady_ctlSettle (s : State) (h0 : Steady hv s) : Steady hv (ctlSettle s) := by
  unfold ctlSettle
  with_reducible repeat' (first | assumption | apply steady_jobNext | simp only [steady_mk] | apply steady_foldl | intro _ | split)
theorem steady_jobStart (s : State) (j : FlashJob) (h0 : Steady hv s) : Steady hv (jobStart s j) := by
  unfold jobStart
  with_reducible repeat' (first | assumption | apply steady_ctlSettle | apply steady_ctlWrite | apply steady_jobNext | apply steady_modJob | apply steady_setBitsFor | simp only [steady_mk] | intro _ | apply steady_ite | split)
theorem steady_runJobs (s : State) (h0 : Steady hv s) : Steady hv (runJobs s) := by
  unfold runJobs
  with_reducible repeat' (first | assumption | apply steady_jobStart | simp only [steady_mk, steady_mk_hw, steady_mk_dram, steady_mk_hw_dram, steady_mk_clk, steady_mk_clk_dram] | apply steady_foldl | apply steady_foldl_fst | apply steady_elim | intro _ | apply steady_ite | split | exact steady_of_fst (by assumption) (by assumption) | refine steady_of_fst (by assumption) ?_ | dsimp only)
theorem steady_addJob (s : State) (kind : JobKind) (units : List Nat) (sub svc : Nat) (h0 : Steady hv s) : Steady hv (addJob s kind units sub svc) := by
  unfold addJob
  with_reducible repeat' (first | assumption | apply steady_runJobs | simp only [steady_mk] | intro _)
theorem steady_endJob (s : State) (j : FlashJob) (keep : Bool) (h0 : Steady hv s) : Steady hv (endJob s j keep) := by
  unfold endJob
  with_reducible repeat' (first | assumption | apply steady_nvEnd | apply steady_putUnits | apply steady_setIntent | simp only [steady_mk] | intro _ | apply steady_ite | split)
theorem steady_dropJobs (s : State) (p : JobKind → Bool) (h0 : Steady hv s) : Steady hv (dropJobs s p) := by
  unfold dropJobs
  with_reducible repeat' (first | assumption | simp only [steady_mk] | intro _)
theorem steady_deallocate (s : State) (lo hi : Nat) (h0 : Steady hv s) : Steady hv (deallocate s lo hi) := by
  unfold deallocate
  with_reducible repeat' (first | assumption | apply steady_addJob | simp only [steady_mk] | intro _ | apply steady_ite | split)

theorem steady_markLost (s : State) (ls : List (Nat × Last)) (h0 : Steady hv s) : Steady hv (markLost s ls) := by
  unfold markLost
  with_reducible repeat' (first | assumption | simp only [steady_mk])
theorem steady_takeOver (s : State) (r : Nat) (h0 : Steady hv s) : Steady hv (takeOver s r) := by
  unfold takeOver
  with_reducible repeat' (first | assumption | apply steady_event | apply steady_markLost | simp only [steady_mk] | apply steady_foldl | intro _ | split)
theorem steady_derateFlight (s : State) (r oldLimit newLimit : Nat) (restore : Bool) (h0 : Steady hv s) : Steady hv (derateFlight s r oldLimit newLimit restore) := by
  unfold derateFlight
  with_reducible repeat' (first | assumption | simp only [steady_mk])
theorem steady_settleTakeover (s : State) (r accept : Nat) (h0 : Steady hv s) : Steady hv (settleTakeover s r accept) := by
  unfold settleTakeover
  with_reducible repeat' (first | assumption | apply steady_takeOver | split)
theorem steady_flightLoadBody (s : State) (x : Win) (h0 : Steady hv s) : Steady hv (flightLoadBody s x).1 := by
  unfold flightLoadBody
  with_reducible repeat' (first | assumption | apply steady_fail | apply steady_good | apply steady_guardArg | apply steady_retain | apply steady_settleTakeover | simp only [steady_mk] | intro _ | split)
theorem steady_execFlightLoad (w : Nat) (s : State) (h0 : Steady hv s) : ∀ t, execFlightLoad w s = .next t → Steady hv t := by
  intro t ht
  unfold execFlightLoad at ht
  injection ht with ht; subst ht
  with_reducible repeat' (first | assumption | apply steady_flightLoadBody | apply steady_runRetained)
theorem steady_flightCancelBody (s : State) (x : Win) (h0 : Steady hv s) : Steady hv (flightCancelBody s x).1 := by
  unfold flightCancelBody
  with_reducible repeat' (first | assumption | apply steady_fail | apply steady_good | apply steady_guardArg | apply steady_retain | apply steady_settleTakeover | simp only [steady_mk] | intro _ | split)
theorem steady_execFlightCancel (w : Nat) (s : State) (h0 : Steady hv s) : ∀ t, execFlightCancel w s = .next t → Steady hv t := by
  intro t ht
  unfold execFlightCancel at ht
  injection ht with ht; subst ht
  with_reducible repeat' (first | assumption | apply steady_flightCancelBody | apply steady_runRetained)
theorem steady_flightQueryBody (s : State) (x : Win) (h0 : Steady hv s) : Steady hv (flightQueryBody s x).1 := by
  unfold flightQueryBody
  with_reducible repeat' (first | assumption | apply steady_good | apply steady_guardArg | simp only [steady_mk] | intro _)
theorem steady_execFlightQuery (w : Nat) (s : State) (h0 : Steady hv s) : ∀ t, execFlightQuery w s = .next t → Steady hv t := by
  intro t ht
  unfold execFlightQuery at ht
  injection ht with ht; subst ht
  with_reducible repeat' (first | assumption | apply steady_flightQueryBody | apply steady_runCmd)
theorem steady_flightReadBody (s : State) (x : Win) (h0 : Steady hv s) : Steady hv (flightReadBody s x).1 := by
  unfold flightReadBody
  with_reducible repeat' (first | assumption | apply steady_fail | apply steady_good | apply steady_guardArg | simp only [steady_mk] | intro _ | apply steady_ite | split)
theorem steady_execFlightRead (w : Nat) (s : State) (h0 : Steady hv s) : ∀ t, execFlightRead w s = .next t → Steady hv t := by
  intro t ht
  unfold execFlightRead at ht
  injection ht with ht; subst ht
  with_reducible repeat' (first | assumption | apply steady_flightReadBody | apply steady_runCmd)
theorem steady_shaperSetBody (s : State) (x : Win) (h0 : Steady hv s) : Steady hv (shaperSetBody s x).1 := by
  unfold shaperSetBody
  with_reducible repeat' (first | assumption | apply steady_fail | apply steady_good | apply steady_guardArg | apply steady_retain | simp only [steady_mk] | intro _ | split)
theorem steady_execShaperSet (w : Nat) (s : State) (h0 : Steady hv s) : ∀ t, execShaperSet w s = .next t → Steady hv t := by
  intro t ht
  unfold execShaperSet at ht
  injection ht with ht; subst ht
  with_reducible repeat' (first | assumption | apply steady_runRetained | apply steady_shaperSetBody)
theorem steady_shaperQueryBody (s : State) (x : Win) (h0 : Steady hv s) : Steady hv (shaperQueryBody s x).1 := by
  unfold shaperQueryBody
  with_reducible repeat' (first | assumption | apply steady_fail | apply steady_good | apply steady_guardArg | intro _ | split)
theorem steady_execShaperQuery (w : Nat) (s : State) (h0 : Steady hv s) : ∀ t, execShaperQuery w s = .next t → Steady hv t := by
  intro t ht
  unfold execShaperQuery at ht
  injection ht with ht; subst ht
  with_reducible repeat' (first | assumption | apply steady_runCmd | apply steady_shaperQueryBody)
theorem steady_execFlightTakeover (res : Nat) (s : State) (h0 : Steady hv s) : ∀ t, execFlightTakeover res s = .next t → Steady hv t := by
  intro t ht
  unfold execFlightTakeover at ht
  injection ht with ht; subst ht
  with_reducible repeat' (first | assumption | apply steady_settleTakeover)
theorem steady_execTreadBoundary (res : Nat) (s : State) (h0 : Steady hv s) : ∀ t, execTreadBoundary res s = .next t → Steady hv t := by
  intro t ht
  unfold execTreadBoundary at ht
  injection ht with ht; subst ht
  with_reducible repeat' (first | assumption | simp only [steady_mk])
theorem steady_issueRewrite (s : State) (c key : Nat) (h0 : Steady hv s) : Steady hv (issueRewrite s c key) := by
  unfold issueRewrite
  with_reducible repeat' (first | assumption | apply steady_modChan | apply steady_putGran | simp only [steady_mk] | apply steady_foldl | intro _ | split)
theorem steady_arbitrate (s : State) (r : Nat) (h0 : Steady hv s) : Steady hv (arbitrate s r) := by
  unfold arbitrate
  with_reducible repeat' (first | assumption | apply steady_issueRewrite | simp only [steady_mk] | split)

theorem steady_identityGetBody (s : State) (_x : Win) (h0 : Steady hv s) : Steady hv (identityGetBody s _x).1 := by
  unfold identityGetBody
  with_reducible repeat' (first | assumption | apply steady_good)
theorem steady_execIdentityGet (w : Nat) (s : State) (h0 : Steady hv s) : ∀ t, execIdentityGet w s = .next t → Steady hv t := by
  intro t ht
  unfold execIdentityGet at ht
  injection ht with ht; subst ht
  with_reducible repeat' (first | assumption | apply steady_identityGetBody | apply steady_runCmd)
theorem steady_attestGetBody (s : State) (x : Win) (h0 : Steady hv s) : Steady hv (attestGetBody s x).1 := by
  unfold attestGetBody
  with_reducible repeat' (first | assumption | apply steady_good)
theorem steady_execAttestGet (w : Nat) (s : State) (h0 : Steady hv s) : ∀ t, execAttestGet w s = .next t → Steady hv t := by
  intro t ht
  unfold execAttestGet at ht
  injection ht with ht; subst ht
  with_reducible repeat' (first | assumption | apply steady_attestGetBody | apply steady_runCmd)
theorem steady_trustSetBody (s : State) (x : Win) (h0 : Steady hv s) : Steady hv (trustSetBody s x).1 := by
  unfold trustSetBody
  with_reducible repeat' (first | assumption | apply steady_good | apply steady_guardArg | apply steady_retain | simp only [steady_mk] | intro _ | split)
theorem steady_execTrustSet (w : Nat) (s : State) (h0 : Steady hv s) : ∀ t, execTrustSet w s = .next t → Steady hv t := by
  intro t ht
  unfold execTrustSet at ht
  injection ht with ht; subst ht
  with_reducible repeat' (first | assumption | apply steady_runRetained | apply steady_trustSetBody)
theorem steady_bmcKeySetBody (w : Nat) (s : State) (x : Win) (h0 : Steady hv s) : Steady hv (bmcKeySetBody w s x).1 := by
  unfold bmcKeySetBody
  with_reducible repeat' (first | assumption | apply steady_fail | apply steady_good | apply steady_guardArg | apply steady_retain | simp only [steady_mk] | intro _ | split)
theorem steady_execBmcKeySet (w : Nat) (s : State) (h0 : Steady hv s) : ∀ t, execBmcKeySet w s = .next t → Steady hv t := by
  intro t ht
  unfold execBmcKeySet at ht
  injection ht with ht; subst ht
  with_reducible repeat' (first | assumption | apply steady_bmcKeySetBody | apply steady_runRetained)
theorem steady_timeGetBody (s : State) (_x : Win) (h0 : Steady hv s) : Steady hv (timeGetBody s _x).1 := by
  unfold timeGetBody
  with_reducible repeat' (first | assumption | apply steady_good)
theorem steady_execTimeGet (w : Nat) (s : State) (h0 : Steady hv s) : ∀ t, execTimeGet w s = .next t → Steady hv t := by
  intro t ht
  unfold execTimeGet at ht
  injection ht with ht; subst ht
  with_reducible repeat' (first | assumption | apply steady_runCmd | apply steady_timeGetBody)

theorem steady_sendIdle (s : State) (p : Nat) (h0 : Steady hv s) : Steady hv (sendIdle s p) := by
  unfold sendIdle
  with_reducible repeat' (first | assumption | apply steady_sendControl | simp only [steady_mk] | intro _ | split)
theorem steady_sendNak (s : State) (p : Nat) (priv : Bool) (h0 : Steady hv s) : Steady hv (sendNak s p priv) := by
  unfold sendNak
  with_reducible repeat' (first | assumption | apply steady_sendControl | simp only [steady_mk] | intro _ | split)
theorem steady_ackCargo (s : State) (c : Cargo) (h0 : Steady hv s) : Steady hv (ackCargo s c) := by
  unfold ackCargo
  with_reducible repeat' (first | assumption | apply steady_modPort | simp only [steady_mk] | split)
theorem steady_sendWaiting (s : State) (p : Nat) (priv : Bool) (h0 : Steady hv s) : Steady hv (sendWaiting s p priv) := by
  unfold sendWaiting
  with_reducible repeat' (first | assumption | apply steady_sendFlit | simp only [steady_mk] | apply steady_foldl | intro _ | split)
theorem steady_resumeBack (s : State) (p : Nat) (h0 : Steady hv s) : Steady hv (resumeBack s p) := by
  unfold resumeBack
  with_reducible repeat' (first | assumption | apply steady_send | simp only [steady_mk] | apply steady_foldl | intro _ | split)
theorem steady_freeUpTo (s : State) (p : Nat) (priv : Bool) (upTo : Nat) (h0 : Steady hv s) : Steady hv (freeUpTo s p priv upTo) := by
  unfold freeUpTo
  with_reducible repeat' (first | assumption | apply steady_ackCargo | apply steady_resumeBack | apply steady_sendWaiting | simp only [steady_mk] | apply steady_foldl | intro _ | split)
theorem steady_sendPush (s : State) (ep : Nat) (c : Cargo) (m : Emit) (h0 : Steady hv s) : Steady hv (sendPush s ep c m) := by
  unfold sendPush
  with_reducible repeat' (first | assumption | apply steady_sendFlit | simp only [steady_mk] | intro _ | apply steady_ite | split)
theorem steady_rerouteCargo (s : State) (p : Nat) (c : Cargo) (m : Emit) (h0 : Steady hv s) : Steady hv (rerouteCargo s p c m) := by
  unfold rerouteCargo
  with_reducible repeat' (first | assumption | apply steady_send | apply steady_sendPush | simp only [steady_mk] | intro _ | split)
theorem steady_rerouteUnsent (s : State) (p : Nat) (c : Cargo) (m : Emit) (h0 : Steady hv s) : Steady hv (rerouteUnsent s p c m) := by
  unfold rerouteUnsent
  with_reducible repeat' (first | assumption | apply steady_rerouteCargo | apply steady_send | split)
theorem steady_closePeerWindow (s : State) (h0 : Steady hv s) : Steady hv (closePeerWindow s) := by
  unfold closePeerWindow
  with_reducible repeat' (first | assumption | apply steady_closeWin | split)
theorem steady_linkDown (s : State) (p cause : Nat) (h0 : Steady hv s) : Steady hv (linkDown s p cause) := by
  unfold linkDown
  with_reducible repeat' (first | assumption | apply steady_checkPeerPath | apply steady_closePeerWindow | apply steady_event | apply steady_recomputeLevels | apply steady_rerouteCargo | apply steady_rerouteUnsent | apply steady_resumeBack | simp only [steady_mk] | apply steady_foldl | intro _ | apply steady_ite | split)
theorem steady_integrityFail (s : State) (p : Nat) (h0 : Steady hv s) : Steady hv (integrityFail s p) := by
  unfold integrityFail
  with_reducible repeat' (first | assumption | apply steady_linkDown | simp only [steady_mk] | split)
theorem steady_takeAcks (s : State) (p : Nat) (f : List Byte) (h0 : Steady hv s) : Steady hv (takeAcks s p f) := by
  unfold takeAcks
  with_reducible repeat' (first | assumption | apply steady_freeUpTo | apply steady_linkDown | split)
theorem steady_seqAccept (s : State) (p : Nat) (f : List Byte) (mgtOnly : Bool) (h0 : Steady hv s) : Steady hv (seqAccept s p f mgtOnly) := by
  unfold seqAccept
  with_reducible repeat' (first | assumption | apply steady_linkDown | apply steady_sendIdle | apply steady_sendNak | simp only [steady_mk] | split)
theorem steady_seqFlit (s : State) (p : Nat) (f : List Byte) (h0 : Steady hv s) : Steady hv (seqFlit s p f) := by
  unfold seqFlit
  with_reducible repeat' (first | assumption | apply steady_integrityFail | apply steady_linkDown | apply steady_modPort | apply steady_seqAccept | apply steady_takeAcks | simp only [steady_mk] | intro _ | apply steady_ite | split)
theorem steady_controlFlit (s : State) (p typ : Nat) (f : List Byte) (k : State → State) (h0 : Steady hv s) (k0 : ∀ (x0 : State), Steady hv x0 → Steady hv (k x0)) : Steady hv (controlFlit s p typ f k) := by
  unfold controlFlit
  with_reducible repeat' (first | assumption | apply steady_integrityFail | apply steady_linkDown | apply steady_modPort | apply steady_takeAcks | apply k0 | simp only [steady_mk] | intro _ | apply steady_ite | split)
theorem steady_execFlitCrcError (_port : Nat) (s : State) (h0 : Steady hv s) : ∀ t, execFlitCrcError _port s = .next t → Steady hv t := by
  intro t ht
  unfold execFlitCrcError at ht
  injection ht with ht; subst ht
  with_reducible repeat' (first | assumption)
theorem steady_replayFrom (s : State) (p : Nat) (priv : Bool) (from_ : Nat) (count : Bool) (h0 : Steady hv s) : Steady hv (replayFrom s p priv from_ count) := by
  unfold replayFrom
  with_reducible repeat' (first | assumption | simp only [steady_mk] | split)
theorem steady_nakTake (f : List Byte) (p : Nat) (s : State) (h0 : Steady hv s) : Steady hv (nakTake f p s) := by
  unfold nakTake
  with_reducible repeat' (first | assumption | apply steady_linkDown | apply steady_replayFrom | simp only [steady_mk] | split)
theorem steady_execNakRepeat (port space : Nat) (s : State) (h0 : Steady hv s) : ∀ t, execNakRepeat port space s = .next t → Steady hv t := by
  intro t ht
  unfold execNakRepeat at ht
  repeat' (first | (injection ht with ht; subst ht) | (cases ht; done) | split at ht | dsimp only at ht)
  all_goals with_reducible repeat' (first | assumption | apply steady_sendNak | split)
theorem steady_execReplayTimeout (port space : Nat) (s : State) (h0 : Steady hv s) : ∀ t, execReplayTimeout port space s = .next t → Steady hv t := by
  intro t ht
  unfold execReplayTimeout at ht
  repeat' (first | (injection ht with ht; subst ht) | (cases ht; done) | split at ht | dsimp only at ht)
  all_goals with_reducible repeat' (first | assumption | apply steady_replayFrom | split)
theorem steady_linkResumes (s : State) (p : Nat) (h0 : Steady hv s) : Steady hv (linkResumes s p) := by
  unfold linkResumes
  with_reducible repeat' (first | assumption | apply steady_sendIdle | apply steady_sendWaiting | simp only [steady_mk] | intro _)
theorem steady_recoveryDone (s : State) (p : Nat) (h0 : Steady hv s) : Steady hv (recoveryDone s p) := by
  unfold recoveryDone
  with_reducible repeat' (first | assumption | apply steady_linkResumes | apply steady_replayFrom | simp only [steady_mk] | intro _ | apply steady_ite | split)
theorem steady_execPhyRecoveryDone (port : Nat) (s : State) (h0 : Steady hv s) : ∀ t, execPhyRecoveryDone port s = .next t → Steady hv t := by
  intro t ht
  unfold execPhyRecoveryDone at ht
  injection ht with ht; subst ht
  with_reducible repeat' (first | assumption | apply steady_recoveryDone)
theorem steady_execKeepAlive (port : Nat) (s : State) (h0 : Steady hv s) : ∀ t, execKeepAlive port s = .next t → Steady hv t := by
  intro t ht
  unfold execKeepAlive at ht
  repeat' (first | (injection ht with ht; subst ht) | (cases ht; done) | split at ht | dsimp only at ht)
  all_goals with_reducible repeat' (first | assumption | apply steady_sendIdle | split)
theorem steady_execDownTimeout (port : Nat) (s : State) (h0 : Steady hv s) : ∀ t, execDownTimeout port s = .next t → Steady hv t := by
  intro t ht
  unfold execDownTimeout at ht
  repeat' (first | (injection ht with ht; subst ht) | (cases ht; done) | split at ht | dsimp only at ht)
  all_goals with_reducible repeat' (first | assumption | apply steady_linkDown | split)
theorem steady_failBack (s : State) (p : Nat) (h0 : Steady hv s) : Steady hv (failBack s p) := by
  unfold failBack
  with_reducible repeat' (first | assumption | apply steady_recomputeLevels | simp only [steady_mk] | intro _ | apply steady_ite | split)
theorem steady_execFailBackHoldExpiry (port : Nat) (s : State) (h0 : Steady hv s) : ∀ t, execFailBackHoldExpiry port s = .next t → Steady hv t := by
  intro t ht
  unfold execFailBackHoldExpiry at ht
  injection ht with ht; subst ht
  with_reducible repeat' (first | assumption | apply steady_failBack)
theorem steady_widthChange (s : State) (p : Nat) (was now_ : Bool) (oldLimit : Nat) (h0 : Steady hv s) : Steady hv (widthChange s p was now_ oldLimit) := by
  unfold widthChange
  with_reducible repeat' (first | assumption | apply steady_derateFlight | split)
theorem steady_sendNegotiate (s : State) (p : Nat) (h0 : Steady hv s) : Steady hv (sendNegotiate s p) := by
  unfold sendNegotiate
  with_reducible repeat' (first | assumption | apply steady_modPort | apply steady_sendControl | simp only [steady_mk] | intro _ | apply steady_ite | split)
theorem steady_trainingDone (s : State) (p : Nat) (rate32 trained : Bool) (lanes highest : Nat) (h0 : Steady hv s) : Steady hv (trainingDone s p rate32 trained lanes highest) := by
  unfold trainingDone
  with_reducible repeat' (first | assumption | apply steady_event | apply steady_sendNegotiate | apply steady_widthChange | simp only [steady_mk] | intro _ | apply steady_ite | split)
theorem steady_execPhyTrainingDone (port : Nat) (rate32 trained : Bool) (lanes highest : Nat) (s : State) (h0 : Steady hv s) : ∀ t, execPhyTrainingDone port rate32 trained lanes highest s = .next t → Steady hv t := by
  intro t ht
  unfold execPhyTrainingDone at ht
  injection ht with ht; subst ht
  with_reducible repeat' (first | assumption | apply steady_trainingDone)
theorem steady_execNegotiateResend (port : Nat) (s : State) (h0 : Steady hv s) : ∀ t, execNegotiateResend port s = .next t → Steady hv t := by
  intro t ht
  unfold execNegotiateResend at ht
  repeat' (first | (injection ht with ht; subst ht) | (cases ht; done) | split at ht | dsimp only at ht)
  all_goals with_reducible repeat' (first | assumption | apply steady_sendNegotiate | simp only [steady_mk, steady_mk_hw, steady_mk_dram, steady_mk_hw_dram, steady_mk_clk, steady_mk_clk_dram] | apply steady_foldl | apply steady_foldl_fst | apply steady_elim | intro _ | apply steady_ite | split | exact steady_of_fst (by assumption) (by assumption) | refine steady_of_fst (by assumption) ?_ | dsimp only)
theorem steady_pushesGo (s : State) (h0 : Steady hv s) : Steady hv (pushesGo s) := by
  unfold pushesGo
  with_reducible repeat' (first | assumption | apply steady_sendPush | simp only [steady_mk] | apply steady_foldl | intro _)
theorem steady_portComesUp (s : State) (p : Nat) (h0 : Steady hv s) : Steady hv (portComesUp s p) := by
  unfold portComesUp
  with_reducible repeat' (first | assumption | apply steady_checkPeerPath | apply steady_modPort | apply steady_pushesGo | apply steady_sendEpochs | simp only [steady_mk] | intro _ | apply steady_ite | split)
theorem steady_askVersion (s : State) (p : Nat) (h0 : Steady hv s) : Steady hv (askVersion s p) := by
  unfold askVersion
  with_reducible repeat' (first | assumption | apply steady_sendSpdm | simp only [steady_mk] | intro _ | apply steady_ite | split)
theorem steady_negotiated (s : State) (p revMax revMin downTmo caps : Nat) (h0 : Steady hv s) : Steady hv (negotiated s p revMax revMin downTmo caps) := by
  unfold negotiated
  with_reducible repeat' (first | assumption | apply steady_askVersion | apply steady_event | apply steady_portComesUp | apply steady_recomputeLevels | simp only [steady_mk] | intro _ | apply steady_ite | split)
theorem steady_negotiateTake (s : State) (p : Nat) (f : List Byte) (h0 : Steady hv s) : Steady hv (negotiateTake s p f) := by
  unfold negotiateTake
  with_reducible repeat' (first | assumption | apply steady_integrityFail | apply steady_linkDown | apply steady_modPort | apply steady_negotiated | apply steady_takeAcks | simp only [steady_mk] | intro _ | apply steady_ite | split)
theorem steady_execNegotiate (port : Nat) (flit : List Byte) (s : State) (h0 : Steady hv s) : ∀ t, execNegotiate port flit s = .next t → Steady hv t := by
  intro t ht
  unfold execNegotiate at ht
  injection ht with ht; subst ht
  with_reducible repeat' (first | assumption | apply steady_negotiateTake)
theorem steady_laneCrossing (s : State) (p lane kind count : Nat) (h0 : Steady hv s) : Steady hv (laneCrossing s p lane kind count) := by
  unfold laneCrossing
  with_reducible repeat' (first | assumption | apply steady_event)
theorem steady_sendLaneSwap (s : State) (p kind lane id : Nat) (h0 : Steady hv s) : Steady hv (sendLaneSwap s p kind lane id) := by
  unfold sendLaneSwap
  with_reducible repeat' (first | assumption | apply steady_sendControl | simp only [steady_mk] | intro _ | apply steady_ite | split)
theorem steady_requestSwap (s : State) (p lane count : Nat) (q : Port) (h0 : Steady hv s) : Steady hv (requestSwap s p lane count q) := by
  unfold requestSwap
  with_reducible repeat' (first | assumption | apply steady_sendLaneSwap | simp only [steady_mk] | intro _)
theorem steady_laneInterval (s : State) (p : Nat) (counts : List Nat) (h0 : Steady hv s) : Steady hv (laneInterval s p counts) := by
  unfold laneInterval
  with_reducible repeat' (first | assumption | apply steady_laneCrossing | apply steady_linkDown | apply steady_requestSwap | simp only [steady_mk] | split)
theorem steady_execLaneErrorInterval (port : Nat) (counts : List Nat) (s : State) (h0 : Steady hv s) : ∀ t, execLaneErrorInterval port counts s = .next t → Steady hv t := by
  intro t ht
  unfold execLaneErrorInterval at ht
  injection ht with ht; subst ht
  with_reducible repeat' (first | assumption | apply steady_laneInterval)
theorem steady_swapTake (s : State) (p kind lane id : Nat) (h0 : Steady hv s) : Steady hv (swapTake s p kind lane id) := by
  unfold swapTake
  with_reducible repeat' (first | assumption | apply steady_laneCrossing | apply steady_sendLaneSwap | simp only [steady_mk] | intro _ | apply steady_ite | split)
theorem steady_execLaneSwapReceive (port : Nat) (flit : List Byte) (s : State) (h0 : Steady hv s) : ∀ t, execLaneSwapReceive port flit s = .next t → Steady hv t := by
  intro t ht
  unfold execLaneSwapReceive at ht
  injection ht with ht; subst ht
  with_reducible repeat' (first | assumption | apply steady_controlFlit | apply steady_swapTake | simp only [steady_mk] | intro _)
theorem steady_execLaneSwapRequestTimeout (port : Nat) (s : State) (h0 : Steady hv s) : ∀ t, execLaneSwapRequestTimeout port s = .next t → Steady hv t := by
  intro t ht
  unfold execLaneSwapRequestTimeout at ht
  repeat' (first | (injection ht with ht; subst ht) | (cases ht; done) | split at ht | dsimp only at ht)
  all_goals with_reducible repeat' (first | assumption | apply steady_laneCrossing | apply steady_sendLaneSwap | simp only [steady_mk, steady_mk_hw, steady_mk_dram, steady_mk_hw_dram, steady_mk_clk, steady_mk_clk_dram] | apply steady_foldl | apply steady_foldl_fst | apply steady_elim | intro _ | apply steady_ite | split | exact steady_of_fst (by assumption) (by assumption) | refine steady_of_fst (by assumption) ?_ | dsimp only)
theorem steady_execLaneSwapQuietStart (port : Nat) (s : State) (h0 : Steady hv s) : ∀ t, execLaneSwapQuietStart port s = .next t → Steady hv t := by
  intro t ht
  unfold execLaneSwapQuietStart at ht
  repeat' (first | (injection ht with ht; subst ht) | (cases ht; done) | split at ht | dsimp only at ht)
  all_goals with_reducible repeat' (first | assumption | simp only [steady_mk] | split)
theorem steady_execLaneSwapQuietEnd (port : Nat) (s : State) (h0 : Steady hv s) : ∀ t, execLaneSwapQuietEnd port s = .next t → Steady hv t := by
  intro t ht
  unfold execLaneSwapQuietEnd at ht
  repeat' (first | (injection ht with ht; subst ht) | (cases ht; done) | split at ht | dsimp only at ht)
  all_goals with_reducible repeat' (first | assumption | apply steady_event | apply steady_linkResumes | simp only [steady_mk, steady_mk_hw, steady_mk_dram, steady_mk_hw_dram, steady_mk_clk, steady_mk_clk_dram] | apply steady_foldl | apply steady_foldl_fst | apply steady_elim | intro _ | apply steady_ite | split | exact steady_of_fst (by assumption) (by assumption) | refine steady_of_fst (by assumption) ?_ | dsimp only)

theorem steady_spdmSay (s : State) (c code : Nat) (data : List Byte) (h0 : Steady hv s) : Steady hv (spdmSay s c code data) := by
  unfold spdmSay
  with_reducible repeat' (first | assumption | apply steady_sendSpdm | simp only [steady_mk] | intro _)
theorem steady_spdmError (s : State) (c code : Nat) (h0 : Steady hv s) : Steady hv (spdmError s c code) := by
  unfold spdmError
  with_reducible repeat' (first | assumption | apply steady_spdmSay)
theorem steady_spdmAnswer (s : State) (c code : Nat) (data : List Byte) (h0 : Steady hv s) : Steady hv (spdmAnswer s c code data) := by
  unfold spdmAnswer
  with_reducible repeat' (first | assumption | apply steady_setConn | apply steady_spdmError | apply steady_spdmSay | split)
theorem steady_execGetVersion (conn : Nat) (s : State) (h0 : Steady hv s) : ∀ t, execGetVersion conn s = .next t → Steady hv t := by
  intro t ht
  unfold execGetVersion at ht
  injection ht with ht; subst ht
  with_reducible repeat' (first | assumption | apply steady_setConn | apply steady_spdmSay)
theorem steady_execGetCapabilities (conn : Nat) (s : State) (h0 : Steady hv s) : ∀ t, execGetCapabilities conn s = .next t → Steady hv t := by
  intro t ht
  unfold execGetCapabilities at ht
  injection ht with ht; subst ht
  with_reducible repeat' (first | assumption | apply steady_setConn | apply steady_spdmError | apply steady_spdmSay | split)
theorem steady_execNegotiateAlgorithms (conn : Nat) (supported : Bool) (s : State) (h0 : Steady hv s) : ∀ t, execNegotiateAlgorithms conn supported s = .next t → Steady hv t := by
  intro t ht
  unfold execNegotiateAlgorithms at ht
  injection ht with ht; subst ht
  with_reducible repeat' (first | assumption | apply steady_setConn | apply steady_spdmError | apply steady_spdmSay | split)
theorem steady_execGetDigests (conn : Nat) (s : State) (h0 : Steady hv s) : ∀ t, execGetDigests conn s = .next t → Steady hv t := by
  intro t ht
  unfold execGetDigests at ht
  injection ht with ht; subst ht
  with_reducible repeat' (first | assumption | apply steady_spdmError | apply steady_spdmSay | split)
theorem steady_execGetCertificate (conn slot off len : Nat) (s : State) (h0 : Steady hv s) : ∀ t, execGetCertificate conn slot off len s = .next t → Steady hv t := by
  intro t ht
  unfold execGetCertificate at ht
  injection ht with ht; subst ht
  with_reducible repeat' (first | assumption | apply steady_spdmAnswer | apply steady_spdmError | split)
theorem steady_execChallenge (conn slot : Nat) (nonce : List Byte) (s : State) (h0 : Steady hv s) : ∀ t, execChallenge conn slot nonce s = .next t → Steady hv t := by
  intro t ht
  unfold execChallenge at ht
  injection ht with ht; subst ht
  with_reducible repeat' (first | assumption | apply steady_spdmError | apply steady_spdmSay | split)
theorem steady_execGetMeasurements (conn index : Nat) (signed : Bool) (nonce : List Byte) (s : State) (h0 : Steady hv s) : ∀ t, execGetMeasurements conn index signed nonce s = .next t → Steady hv t := by
  intro t ht
  unfold execGetMeasurements at ht
  injection ht with ht; subst ht
  with_reducible repeat' (first | assumption | apply steady_spdmAnswer | apply steady_spdmError | split)
theorem steady_execKeyExchange (conn : Nat) (mutAuth : Bool) (s : State) (h0 : Steady hv s) : ∀ t, execKeyExchange conn mutAuth s = .next t → Steady hv t := by
  intro t ht
  unfold execKeyExchange at ht
  injection ht with ht; subst ht
  with_reducible repeat' (first | assumption | apply steady_setConn | apply steady_spdmError | apply steady_spdmSay | split)
theorem steady_peerSession (s : State) (h0 : Steady hv s) : Steady hv (peerSession s) := by
  unfold peerSession
  with_reducible repeat' (first | assumption | apply steady_sendMirror | simp only [steady_mk] | apply steady_foldl | intro _ | split)
theorem steady_installKeys (s : State) (p : Nat) (h0 : Steady hv s) : Steady hv (installKeys s p) := by
  unfold installKeys
  with_reducible repeat' (first | assumption | apply steady_State_tickFree | apply steady_modPort | apply steady_peerSession | apply steady_portComesUp | simp only [steady_mk] | intro _ | apply steady_ite | split)
theorem steady_finishSession (s : State) (conn : Nat) (chain : ChainEnd) (sigOk : Bool) (h0 : Steady hv s) : Steady hv (finishSession s conn chain sigOk) := by
  unfold finishSession
  with_reducible repeat' (first | assumption | apply steady_installKeys | apply steady_setConn | apply steady_spdmError | apply steady_spdmSay | simp only [steady_mk] | split)
theorem steady_execFinish (conn : Nat) (chain : ChainEnd) (sigOk : Bool) (s : State) (h0 : Steady hv s) : ∀ t, execFinish conn chain sigOk s = .next t → Steady hv t := by
  intro t ht
  unfold execFinish at ht
  injection ht with ht; subst ht
  with_reducible repeat' (first | assumption | apply steady_finishSession)
theorem steady_dropSession (s : State) (sid : Nat) (h0 : Steady hv s) : Steady hv (dropSession s sid) := by
  unfold dropSession
  with_reducible repeat' (first | assumption | apply steady_closeWin | simp only [steady_mk] | split)
theorem steady_execKeyUpdate (sid : Nat) (s : State) (h0 : Steady hv s) : ∀ t, execKeyUpdate sid s = .next t → Steady hv t := by
  intro t ht
  unfold execKeyUpdate at ht
  repeat' (first | (injection ht with ht; subst ht) | (cases ht; done) | split at ht | dsimp only at ht)
  all_goals with_reducible repeat' (first | assumption | apply steady_spdmSay | simp only [steady_mk])
theorem steady_execHeartbeat (sid : Nat) (s : State) (h0 : Steady hv s) : ∀ t, execHeartbeat sid s = .next t → Steady hv t := by
  intro t ht
  unfold execHeartbeat at ht
  repeat' (first | (injection ht with ht; subst ht) | (cases ht; done) | split at ht | dsimp only at ht)
  all_goals with_reducible repeat' (first | assumption | apply steady_spdmSay | simp only [steady_mk])
theorem steady_execEndSession (sid : Nat) (s : State) (h0 : Steady hv s) : ∀ t, execEndSession sid s = .next t → Steady hv t := by
  intro t ht
  unfold execEndSession at ht
  repeat' (first | (injection ht with ht; subst ht) | (cases ht; done) | split at ht | dsimp only at ht)
  all_goals with_reducible repeat' (first | assumption | apply steady_dropSession | apply steady_spdmSay)
theorem steady_execSpdmSessionExpiry (sid : Nat) (s : State) (h0 : Steady hv s) : ∀ t, execSpdmSessionExpiry sid s = .next t → Steady hv t := by
  intro t ht
  unfold execSpdmSessionExpiry at ht
  repeat' (first | (injection ht with ht; subst ht) | (cases ht; done) | split at ht | dsimp only at ht)
  all_goals with_reducible repeat' (first | assumption | apply steady_dropSession | split)
theorem steady_execChunkSend (conn handle seq : Nat) (last : Bool) (data : List Byte) (s : State) (h0 : Steady hv s) : ∀ t, execChunkSend conn handle seq last data s = .next t → Steady hv t := by
  intro t ht
  unfold execChunkSend at ht
  injection ht with ht; subst ht
  with_reducible repeat' (first | assumption | apply steady_setConn | apply steady_spdmError | apply steady_spdmSay | split)
theorem steady_execChunkGet (conn handle seq : Nat) (s : State) (h0 : Steady hv s) : ∀ t, execChunkGet conn handle seq s = .next t → Steady hv t := by
  intro t ht
  unfold execChunkGet at ht
  injection ht with ht; subst ht
  with_reducible repeat' (first | assumption | apply steady_spdmError | apply steady_spdmSay | split)
theorem steady_execSpdmFrag (m : MgtMsg) (s : State) (h0 : Steady hv s) : ∀ t, execSpdmFrag m s = .next t → Steady hv t := by
  intro t ht
  unfold execSpdmFrag at ht
  repeat' (first | (injection ht with ht; subst ht) | (cases ht; done) | split at ht | dsimp only at ht)
  all_goals with_reducible repeat' (first | assumption | apply steady_countBad | apply steady_learn | apply steady_setConn | simp only [steady_mk] | split)
theorem steady_keyingFailed (s : State) (p code kind : Nat) (h0 : Steady hv s) : Steady hv (keyingFailed s p code kind) := by
  unfold keyingFailed
  with_reducible repeat' (first | assumption | apply steady_event | apply steady_modPort)
theorem steady_execLinkKeyingResponse (port : Nat) (k : KeyingStep) (s : State) (h0 : Steady hv s) : ∀ t, execLinkKeyingResponse port k s = .next t → Steady hv t := by
  intro t ht
  unfold execLinkKeyingResponse at ht
  repeat' (first | (injection ht with ht; subst ht) | (cases ht; done) | split at ht | dsimp only at ht)
  all_goals with_reducible repeat' (first | assumption | apply steady_installKeys | apply steady_keyingFailed | apply steady_modPort | split)
theorem steady_execKeyingRetry (port : Nat) (s : State) (h0 : Steady hv s) : ∀ t, execKeyingRetry port s = .next t → Steady hv t := by
  intro t ht
  unfold execKeyingRetry at ht
  repeat' (first | (injection ht with ht; subst ht) | (cases ht; done) | split at ht | dsimp only at ht)
  all_goals with_reducible repeat' (first | assumption | apply steady_askVersion | apply steady_modPort | simp only [steady_mk, steady_mk_hw, steady_mk_dram, steady_mk_hw_dram, steady_mk_clk, steady_mk_clk_dram] | apply steady_foldl | apply steady_foldl_fst | apply steady_elim | intro _ | apply steady_ite | split | exact steady_of_fst (by assumption) (by assumption) | refine steady_of_fst (by assumption) ?_ | dsimp only)
theorem steady_execLinkRekeyDue (port : Nat) (s : State) (h0 : Steady hv s) : ∀ t, execLinkRekeyDue port s = .next t → Steady hv t := by
  intro t ht
  unfold execLinkRekeyDue at ht
  repeat' (first | (injection ht with ht; subst ht) | (cases ht; done) | split at ht | dsimp only at ht)
  all_goals with_reducible repeat' (first | assumption | apply steady_sendHere | simp only [steady_mk, steady_mk_hw, steady_mk_dram, steady_mk_hw_dram, steady_mk_clk, steady_mk_clk_dram] | apply steady_foldl | apply steady_foldl_fst | apply steady_elim | intro _ | apply steady_ite | split | exact steady_of_fst (by assumption) (by assumption) | refine steady_of_fst (by assumption) ?_ | dsimp only)
theorem steady_execLinkRekey (m : MgtMsg) (s : State) (h0 : Steady hv s) : ∀ t, execLinkRekey m s = .next t → Steady hv t := by
  intro t ht
  unfold execLinkRekey at ht
  repeat' (first | (injection ht with ht; subst ht) | (cases ht; done) | split at ht | dsimp only at ht)
  all_goals with_reducible repeat' (first | assumption | apply steady_countBad | simp only [steady_mk] | split)

theorem steady_modWin (s : State) (n : Nat) (f : Win → Win) (h0 : Steady hv s) : Steady hv (modWin s n f) := by
  unfold modWin
  with_reducible repeat' (first | assumption | simp only [steady_mk])
theorem steady_retainWin (s : State) (n : Nat) (h0 : Steady hv s) : Steady hv (retainWin s n) := by
  unfold retainWin
  with_reducible repeat' (first | assumption | apply steady_commit | split)
theorem steady_clearAlerts (s : State) (n : Nat) (bits : BitVec 8) (h0 : Steady hv s) : Steady hv (clearAlerts s n bits) := by
  unfold clearAlerts
  with_reducible repeat' (first | assumption | apply steady_modWin | apply steady_smbUpdate)
theorem steady_regWrite (s : State) (n off : Nat) (v : Byte) (h0 : Steady hv s) : Steady hv (regWrite s n off v) := by
  unfold regWrite
  with_reducible repeat' (first | assumption | apply steady_clearAlerts | apply steady_modWin | apply steady_retainWin | apply steady_smbUpdate | split)
theorem steady_winWrite (s : State) (n off : Nat) (v : Byte) (h0 : Steady hv s) : Steady hv (winWrite s n off v) := by
  unfold winWrite
  with_reducible repeat' (first | assumption | apply steady_modWin | apply steady_regWrite | split)
theorem steady_winWrites (s : State) (n off : Nat) (d : List Byte) (h0 : Steady hv s) : Steady hv (winWrites s n off d) := by
  induction d generalizing s off with
  | nil => exact h0
  | cons b t ih => exact ih _ _ (steady_winWrite _ _ _ _ h0)
theorem steady_execRingWrite (w : Nat) (s : State) (h0 : Steady hv s) : ∀ t, execRingWrite w s = .next t → Steady hv t := by
  intro t ht
  unfold execRingWrite at ht
  injection ht with ht; subst ht
  with_reducible repeat' (first | assumption | apply steady_modWin)
theorem steady_acceptRing (s : State) (n : Nat) (x : Win) (h0 : Steady hv s) : Steady hv (acceptRing s n x) := by
  unfold acceptRing
  with_reducible repeat' (first | assumption | apply steady_finishCmd | apply steady_retainWin | simp only [steady_mk] | split)
theorem steady_ringTake (s : State) (n : Nat) (h0 : Steady hv s) : Steady hv (ringTake s n) := by
  unfold ringTake
  with_reducible repeat' (first | assumption | apply steady_acceptRing | apply steady_modWin | simp only [steady_mk] | split)
theorem steady_execRingTake (w : Nat) (s : State) (h0 : Steady hv s) : ∀ t, execRingTake w s = .next t → Steady hv t := by
  intro t ht
  unfold execRingTake at ht
  injection ht with ht; subst ht
  with_reducible repeat' (first | assumption | apply steady_ringTake)
theorem steady_commandDispatch (s : State) (n : Nat) (h0 : Steady hv s) : Steady hv (commandDispatch s n) := by
  unfold commandDispatch
  with_reducible repeat' (first | assumption | apply steady_modWin | simp only [steady_mk] | split)
theorem steady_execCommandDispatch (w : Nat) (s : State) (h0 : Steady hv s) : ∀ t, execCommandDispatch w s = .next t → Steady hv t := by
  intro t ht
  unfold execCommandDispatch at ht
  injection ht with ht; subst ht
  with_reducible repeat' (first | assumption | apply steady_commandDispatch)
theorem steady_dropWindow (s : State) (n : Nat) (h0 : Steady hv s) : Steady hv (dropWindow s n) := by
  unfold dropWindow
  with_reducible repeat' (first | assumption | simp only [steady_mk])
theorem steady_commandBound (s : State) (n : Nat) (h0 : Steady hv s) : Steady hv (commandBound s n) := by
  unfold commandBound
  with_reducible repeat' (first | assumption | apply steady_dropWindow | apply steady_finishCmd | simp only [steady_mk] | split)
theorem steady_execCommandBoundExpiry (w : Nat) (s : State) (h0 : Steady hv s) : ∀ t, execCommandBoundExpiry w s = .next t → Steady hv t := by
  intro t ht
  unfold execCommandBoundExpiry at ht
  injection ht with ht; subst ht
  with_reducible repeat' (first | assumption | apply steady_commandBound)
theorem steady_execAlertStatusClear (w : Nat) (bits : BitVec 8) (s : State) (h0 : Steady hv s) : ∀ t, execAlertStatusClear w bits s = .next t → Steady hv t := by
  intro t ht
  unfold execAlertStatusClear at ht
  injection ht with ht; subst ht
  with_reducible repeat' (first | assumption | apply steady_clearAlerts)
theorem steady_execWindowRegisterWrite (w off : Nat) (v : Byte) (s : State) (h0 : Steady hv s) : ∀ t, execWindowRegisterWrite w off v s = .next t → Steady hv t := by
  intro t ht
  unfold execWindowRegisterWrite at ht
  injection ht with ht; subst ht
  with_reducible repeat' (first | assumption | apply steady_regWrite | split)
theorem steady_execFeltiTick (s : State) (h0 : Steady hv s) : ∀ t, execFeltiTick s = .next t → Steady hv t := by
  intro t ht
  unfold execFeltiTick at ht
  injection ht with ht; subst ht
  with_reducible repeat' (first | assumption | simp only [steady_mk_clk] | split)
theorem steady_alertHoldoff (s : State) (n cls : Nat) (h0 : Steady hv s) : Steady hv (alertHoldoff s n cls) := by
  unfold alertHoldoff
  with_reducible repeat' (first | assumption | apply steady_winSay | simp only [steady_mk] | split)
theorem steady_execAlertHoldoffExpiry (w cls : Nat) (s : State) (h0 : Steady hv s) : ∀ t, execAlertHoldoffExpiry w cls s = .next t → Steady hv t := by
  intro t ht
  unfold execAlertHoldoffExpiry at ht
  injection ht with ht; subst ht
  with_reducible repeat' (first | assumption | apply steady_alertHoldoff)
theorem steady_learnPath (s : State) (path : Path) (src : Nat) (h0 : Steady hv s) : Steady hv (learnPath s path src) := by
  unfold learnPath
  with_reducible repeat' (first | assumption | apply steady_learn | simp only [steady_mk] | intro _ | split)
theorem steady_mbxTake (s : State) (path : Path) (src : Nat) (bad : Bool) (k : State → State) (h0 : Steady hv s) (k0 : ∀ (x0 : State), Steady hv x0 → Steady hv (k x0)) : Steady hv (mbxTake s path src bad k) := by
  unfold mbxTake
  exact steady_ite (fun _ => h0) fun _ => steady_ite (fun _ => steady_elim h0 fun _ => steady_countBad _ _ h0) fun _ =>
    steady_ite (fun _ => h0) fun _ => k0 _ (steady_learnPath _ _ _ h0)
theorem steady_mbxOpen (s : State) (src : Nat) (h0 : Steady hv s) : Steady hv (mbxOpen s src) := by
  unfold mbxOpen
  with_reducible repeat' (first | assumption | apply steady_learn | apply steady_sendMgt | simp only [steady_mk] | split)
theorem steady_execMbxOpen (m : MgtMsg) (s : State) (h0 : Steady hv s) : ∀ t, execMbxOpen m s = .next t → Steady hv t := by
  intro t ht
  unfold execMbxOpen at ht
  injection ht with ht; subst ht
  with_reducible repeat' (first | assumption | apply steady_mbxOpen | apply steady_mbxTake | simp only [steady_mk] | intro _)
theorem steady_execMbxWrite (path : Path) (bytes : List Byte) (s : State) (h0 : Steady hv s) : ∀ t, execMbxWrite path bytes s = .next t → Steady hv t := by
  intro t ht
  unfold execMbxWrite at ht
  injection ht with ht; subst ht
  with_reducible repeat' (first | assumption | apply steady_mbxTake | apply steady_winWrites | simp only [steady_mk] | intro _ | apply steady_ite | split)
theorem steady_readPieces (s : State) (n : Nat) (w : Win) (off len rtag : Nat) (h0 : Steady hv s) : Steady hv (readPieces s n w off len rtag) := by
  unfold readPieces
  with_reducible repeat' (first | assumption | apply steady_winSay | apply steady_foldl | intro _)
theorem steady_execMbxRead (path : Path) (bytes : List Byte) (s : State) (h0 : Steady hv s) : ∀ t, execMbxRead path bytes s = .next t → Steady hv t := by
  intro t ht
  unfold execMbxRead at ht
  injection ht with ht; subst ht
  with_reducible repeat' (first | assumption | apply steady_mbxTake | apply steady_readPieces | simp only [steady_mk] | intro _ | apply steady_ite | split)
theorem steady_execMbxClose (path : Path) (bytes : List Byte) (s : State) (h0 : Steady hv s) : ∀ t, execMbxClose path bytes s = .next t → Steady hv t := by
  intro t ht
  unfold execMbxClose at ht
  injection ht with ht; subst ht
  with_reducible repeat' (first | assumption | apply steady_closeWin | apply steady_mbxTake | simp only [steady_mk] | intro _ | apply steady_ite | split)
theorem steady_budgetInForce (s : State) (ep hall : Nat) (h0 : Steady hv s) : Steady hv (budgetInForce s ep hall) := by
  unfold budgetInForce
  with_reducible repeat' (first | assumption | simp only [steady_mk])
theorem steady_execBudgetAck (m : MgtMsg) (s : State) (h0 : Steady hv s) : ∀ t, execBudgetAck m s = .next t → Steady hv t := by
  intro t ht
  unfold execBudgetAck at ht
  injection ht with ht; subst ht
  with_reducible repeat' (first | assumption | apply steady_budgetInForce | apply steady_mbxTake | simp only [steady_mk] | intro _ | apply steady_ite | split)
theorem steady_execBudgetDecreaseTimeout (ep hall : Nat) (s : State) (h0 : Steady hv s) : ∀ t, execBudgetDecreaseTimeout ep hall s = .next t → Steady hv t := by
  intro t ht
  unfold execBudgetDecreaseTimeout at ht
  injection ht with ht; subst ht
  with_reducible repeat' (first | assumption | apply steady_budgetInForce | split)
theorem steady_execConsoleUnlockExpiry (s : State) (h0 : Steady hv s) : ∀ t, execConsoleUnlockExpiry s = .next t → Steady hv t := by
  intro t ht
  unfold execConsoleUnlockExpiry at ht
  injection ht with ht; subst ht
  with_reducible repeat' (first | assumption | simp only [steady_mk] | split)
theorem steady_execSmbusBlockWrite (off : Nat) (data : List Byte) (pecOk : Bool) (s : State) (h0 : Steady hv s) : ∀ t, execSmbusBlockWrite off data pecOk s = .next t → Steady hv t := by
  intro t ht
  unfold execSmbusBlockWrite at ht
  injection ht with ht; subst ht
  with_reducible repeat' (first | assumption | apply steady_winWrites | split)
theorem steady_execSmbusSetReadPointer (ptr : Nat) (pecOk : Bool) (s : State) (h0 : Steady hv s) : ∀ t, execSmbusSetReadPointer ptr pecOk s = .next t → Steady hv t := by
  intro t ht
  unfold execSmbusSetReadPointer at ht
  injection ht with ht; subst ht
  with_reducible repeat' (first | assumption | simp only [steady_mk] | split)
theorem steady_execSmbusBlockRead (len : Nat) (s : State) (h0 : Steady hv s) : ∀ t, execSmbusBlockRead len s = .next t → Steady hv t := by
  intro t ht
  unfold execSmbusBlockRead at ht
  repeat' (first | (injection ht with ht; subst ht) | (cases ht; done) | split at ht | dsimp only at ht)
  all_goals with_reducible repeat' (first | assumption | simp only [steady_mk])
theorem steady_execSmbusAlertResponse (s : State) (h0 : Steady hv s) : ∀ t, execSmbusAlertResponse s = .next t → Steady hv t := by
  intro t ht
  unfold execSmbusAlertResponse at ht
  injection ht with ht; subst ht
  with_reducible repeat' (first | assumption | simp only [steady_mk])
theorem steady_execSmbusClockTimeout (s : State) (h0 : Steady hv s) : ∀ t, execSmbusClockTimeout s = .next t → Steady hv t := by
  intro t ht
  unfold execSmbusClockTimeout at ht
  injection ht with ht; subst ht
  with_reducible repeat' (first | assumption)
theorem steady_execSmbalertStuckCheck (lineLow : Bool) (s : State) (h0 : Steady hv s) : ∀ t, execSmbalertStuckCheck lineLow s = .next t → Steady hv t := by
  intro t ht
  unfold execSmbalertStuckCheck at ht
  injection ht with ht; subst ht
  with_reducible repeat' (first | assumption | apply steady_event | simp only [steady_mk] | split)
theorem steady_execSmbalertHoldoffExpiry (s : State) (h0 : Steady hv s) : ∀ t, execSmbalertHoldoffExpiry s = .next t → Steady hv t := by
  intro t ht
  unfold execSmbalertHoldoffExpiry at ht
  injection ht with ht; subst ht
  with_reducible repeat' (first | assumption | apply steady_smbUpdate | simp only [steady_mk] | split)

end Sys2Proof.Laws
end

