-- ==== Sys2Proof/Laws/SteadyHome.lean ====
section
/-! SUPPORT. Every operation on the tier, the home, welts and drives keeps what `Steady` says. -/

namespace Sys2Proof.Laws

set_option linter.unusedSimpArgs false

open Sys2Proof.Machine

variable {hv : Kept}

theorem steady_modBlock (s : State) (hid b : Nat) (f : Block → Block) (h0 : Steady hv s) : Steady hv (modBlock s hid b f) := by
  unfold modBlock
  with_reducible repeat' (first | assumption | simp only [steady_mk])
theorem steady_clearSlots (s : State) (h : Hall) (slots : List (Nat × Nat)) (h0 : Steady hv s) : Steady hv (clearSlots s h slots) := by
  unfold clearSlots
  with_reducible repeat' (first | assumption | apply steady_clearRange | apply steady_foldl | intro _)
theorem steady_dropBlock (s : State) (hid b : Nat) (h0 : Steady hv s) : Steady hv (dropBlock s hid b) := by
  unfold dropBlock
  with_reducible repeat' (first | assumption | apply steady_clearSlots | simp only [steady_mk] | intro _ | split)
theorem steady_evictBlock (s : State) (hid b : Nat) (h0 : Steady hv s) : Steady hv (evictBlock s hid b) := by
  unfold evictBlock
  with_reducible repeat' (first | assumption | apply steady_dropBlock | simp only [steady_mk] | intro _)
theorem steady_fillLine (s : State) (hid : Nat) (h : Hall) (x : Nat) (d : LineData) (h0 : Steady hv s) : Steady hv (fillLine s hid h x d) := by
  unfold fillLine
  with_reducible repeat' (first | assumption | apply steady_putGran | apply steady_foldl | intro _ | split)
theorem steady_unitEvent (s : State) (e : Ev) (hid : Nat) (h : Hall) (u : Nat) (h0 : Steady hv s) : Steady hv (unitEvent s e hid h u) := by
  unfold unitEvent
  with_reducible repeat' (first | assumption | apply steady_event)
theorem steady_landUnit (s : State) (hid : Nat) (h : Hall) (b : Nat) (bad late : List (Nat × Nat)) (i : Nat) (h0 : Steady hv s) : Steady hv (landUnit s hid h b bad late i) := by
  unfold landUnit
  with_reducible repeat' (first | assumption | apply steady_State_tickFree | apply steady_event | apply steady_fillLine | apply steady_unitEvent | apply steady_writeRows | simp only [steady_mk] | apply steady_foldl | intro _ | apply steady_ite | split)
theorem steady_landEnd (s : State) (hid b : Nat) (h0 : Steady hv s) : Steady hv (landEnd s hid b) := by
  unfold landEnd
  with_reducible repeat' (first | assumption | apply steady_modBlock)
theorem steady_landReads (s : State) (hid : Nat) (h : Hall) (b : Nat) (h0 : Steady hv s) : Steady hv (landReads s hid h b) := by
  unfold landReads
  with_reducible repeat' (first | assumption | apply steady_modBlock | apply steady_readRows | simp only [steady_mk] | intro _ | split)
theorem steady_landBegin (s : State) (hid : Nat) (h : Hall) (b : Nat) (w : Want) (h0 : Steady hv s) : Steady hv (landBegin s hid h b w) := by
  unfold landBegin
  with_reducible repeat' (first | assumption | apply steady_clearSlots | apply steady_fillLine | apply steady_landEnd | apply steady_landReads | apply steady_modBlock | simp only [steady_mk] | apply steady_foldl | intro _ | apply steady_ite | split)
theorem steady_stageCopy (s : State) (hid : Nat) (h : Hall) (b : Nat) (h0 : Steady hv s) : Steady hv (stageCopy s hid h b).1 := by
  unfold stageCopy
  with_reducible repeat' (first | assumption | apply steady_readLine | apply steady_foldl_fst | intro _)
theorem steady_startWriteback (s : State) (hid : Nat) (h : Hall) (b : Nat) (evict : Bool) (h0 : Steady hv s) : Steady hv (startWriteback s hid h b evict) := by
  unfold startWriteback
  with_reducible repeat' (first | assumption | apply steady_addJob | apply steady_modBlock | apply steady_stageCopy | simp only [steady_mk] | intro _ | apply steady_ite | split)
theorem steady_writebackEnd (s : State) (hid : Nat) (h : Hall) (b : Nat) (j : FlashJob) (h0 : Steady hv s) : Steady hv (writebackEnd s hid h b j) := by
  unfold writebackEnd
  with_reducible repeat' (first | assumption | apply steady_endJob | apply steady_event | apply steady_evictBlock | apply steady_modBlock | simp only [steady_mk] | intro _ | apply steady_ite | split)
theorem steady_writeSupers (s : State) (hid : Nat) (l : List (Super × Bool)) (h0 : Steady hv s) : Steady hv (writeSupers s hid l) := by
  unfold writeSupers
  with_reducible repeat' (first | assumption | apply steady_addJob | simp only [steady_mk] | intro _)
theorem steady_newJournal (s : State) (hid : Nat) (h0 : Steady hv s) : Steady hv (newJournal s hid) := by
  unfold newJournal
  with_reducible repeat' (first | assumption | apply steady_writeSupers | simp only [steady_mk] | intro _)
theorem steady_seekCheckpoint (s : State) (hid : Nat) (h0 : Steady hv s) : Steady hv (seekCheckpoint s hid) := by
  unfold seekCheckpoint
  with_reducible repeat' (first | assumption | apply steady_writeSupers | simp only [steady_mk] | intro _ | split)
theorem steady_writeBack (s : State) (hid : Nat) (h : Hall) (b : Nat) (evict : Bool) (h0 : Steady hv s) : Steady hv (writeBack s hid h b evict) := by
  unfold writeBack
  with_reducible repeat' (first | assumption | apply steady_seekCheckpoint | apply steady_startWriteback | simp only [steady_mk] | apply steady_foldl | intro _ | split)
theorem steady_goalDone (s : State) (hid : Nat) (h : Hall) (b : Nat) (h0 : Steady hv s) : Steady hv (goalDone s hid h b) := by
  unfold goalDone
  with_reducible repeat' (first | assumption | apply steady_seekCheckpoint | apply steady_writeBack | simp only [steady_mk] | intro _ | apply steady_ite | split)
theorem steady_goalTick (s : State) (hid : Nat) (h0 : Steady hv s) : Steady hv (goalTick s hid) := by
  unfold goalTick
  with_reducible repeat' (first | assumption | apply steady_seekCheckpoint | apply steady_startWriteback | simp only [steady_mk] | apply steady_foldl | intro _ | apply steady_ite | split)
theorem steady_replayLine (s : State) (hid : Nat) (x : Nat × LineData) (h0 : Steady hv s) : Steady hv (replayLine s hid x) := by
  unfold replayLine
  with_reducible repeat' (first | assumption | apply steady_nvEnd | apply steady_putUnits | apply steady_readRows | apply steady_setBitsFor | apply steady_writeRows | simp only [steady_mk] | intro _)
theorem steady_replayJournal (s : State) (hid : Nat) (h0 : Steady hv s) : Steady hv (replayJournal s hid) := by
  unfold replayJournal
  with_reducible repeat' (first | assumption | apply steady_ctlWrite | apply steady_event | apply steady_replayLine | apply steady_writeSupers | simp only [steady_mk] | apply steady_foldl | intro _ | apply steady_ite | split)
theorem steady_replaySkipped (s : State) (h0 : Steady hv s) : Steady hv (replaySkipped s) := by
  unfold replaySkipped
  with_reducible repeat' (first | assumption | apply steady_dropBlock | apply steady_replayJournal | simp only [steady_mk] | apply steady_foldl | intro _ | apply steady_ite | split)
theorem steady_stopJobs (s : State) (h0 : Steady hv s) : Steady hv (stopJobs s) := by
  unfold stopJobs
  with_reducible repeat' (first | assumption | apply steady_nvEnd | simp only [steady_mk] | apply steady_foldl | intro _)
theorem steady_driveTo (s : State) (p : Nat) (st : DrvSt) (cause : Nat) (h0 : Steady hv s) : Steady hv (driveTo s p st cause) := by
  unfold driveTo
  with_reducible repeat' (first | assumption | apply steady_ctlSettle | apply steady_event | apply steady_freeOver | apply steady_replaySkipped | apply steady_runJobs | apply steady_stopJobs | simp only [steady_mk] | apply steady_foldl | intro _ | apply steady_ite | split)
theorem steady_makeRoom (s : State) (hid : Nat) (h : Hall) (b : Nat) (fuel : Nat) (h0 : Steady hv s) : Steady hv (makeRoom s hid  h  b  fuel).1 := by
  induction fuel generalizing s with
  | zero => exact h0
  | succ fuel ih =>
    unfold makeRoom
    repeat' (first | (with_reducible assumption) | (with_reducible apply ih) | (with_reducible apply steady_evictBlock) | (with_reducible apply steady_writeBack) | (with_reducible apply steady_modBlock) | (simp only [steady_mk, steady_mk_hw, steady_mk_dram, steady_mk_hw_dram, steady_mk_clk]) | (with_reducible apply steady_foldl) | (with_reducible apply steady_elim) | (intro _) | (with_reducible apply steady_ite) | split | dsimp only)
theorem steady_waitLand (s : State) (hid b : Nat) (w : Want) (h0 : Steady hv s) : Steady hv (waitLand s hid b w) := by
  unfold waitLand
  with_reducible repeat' (first | assumption | simp only [steady_mk] | intro _ | apply steady_ite | split)
theorem steady_land (s : State) (hid : Nat) (h : Hall) (b : Nat) (by_ : LandBy) (sub : Nat) (h0 : Steady hv s) : Steady hv (land s hid h b by_ sub) := by
  unfold land
  with_reducible repeat' (first | assumption | apply steady_landBegin | apply steady_makeRoom | apply steady_modBlock | apply steady_waitLand | simp only [steady_mk] | intro _ | apply steady_ite | split)
theorem steady_landAgain (s : State) (hid : Nat) (h : Hall) (b : Nat) (w : Want) (h0 : Steady hv s) : Steady hv (landAgain s hid h b w) := by
  unfold landAgain
  with_reducible repeat' (first | assumption | apply steady_landBegin | apply steady_makeRoom | simp only [steady_mk, steady_mk_hw, steady_mk_dram, steady_mk_hw_dram, steady_mk_clk, steady_mk_clk_dram] | apply steady_foldl | apply steady_foldl_fst | apply steady_elim | intro _ | apply steady_ite | split | exact steady_of_fst (by assumption) (by assumption) | refine steady_of_fst (by assumption) ?_ | dsimp only)
theorem steady_landFinish (s : State) (hid : Nat) (h : Hall) (b : Nat) (x : Block) (h0 : Steady hv s) : Steady hv (landFinish s hid h b x) := by
  unfold landFinish
  with_reducible repeat' (first | assumption | apply steady_fillLine | apply steady_landEnd | apply steady_landUnit | apply steady_modBlock | apply steady_nvEnd | apply steady_xfer | apply steady_foldl | intro _ | split)
theorem steady_blockDirtied (s : State) (hid : Nat) (h : Hall) (b : Nat) (h0 : Steady hv s) : Steady hv (blockDirtied s hid h b) := by
  unfold blockDirtied
  with_reducible repeat' (first | assumption | apply steady_startWriteback | simp only [steady_mk] | intro _ | apply steady_ite | split)

theorem steady_trackDone (s : State) (ep tag : Nat) (code : CmpCode) (grant : Nat) (data : Bool) (v : Option (BitVec 128)) (lost : Bool) (h0 : Steady hv s) : Steady hv (trackDone s ep tag code grant data v lost) := by
  unfold trackDone
  with_reducible repeat' (first | assumption | simp only [steady_mk])
theorem steady_holdFor (s : State) (q port : Nat) (c : Cargo) (m : Emit) (h0 : Steady hv s) : Steady hv (holdFor s q port c m) := by
  unfold holdFor
  with_reducible repeat' (first | assumption | apply steady_send | simp only [steady_mk] | split)
theorem steady_sendRsp (s : State) (port ep tag slots sub svc : Nat) (mir : Option Nat) (m : Emit) (h0 : Steady hv s) : Steady hv (sendRsp s port ep tag slots sub svc mir m) := by
  unfold sendRsp
  with_reducible repeat' (first | assumption | apply steady_holdFor | apply steady_send | apply steady_xfer | simp only [steady_mk] | split)
theorem steady_diagEnd (s : State) (order half : Nat) (code : CmpCode) (h0 : Steady hv s) : Steady hv (diagEnd s order half code) := by
  unfold diagEnd
  with_reducible repeat' (first | assumption | apply steady_finishCmd | simp only [steady_mk] | split)
theorem steady_xorLine (s : State) (hid : Nat) (h : Hall) (x : Nat) (mask : BitVec 640) (h0 : Steady hv s) : Steady hv (xorLine s hid h x mask) := by
  unfold xorLine
  with_reducible repeat' (first | assumption | apply steady_putGran | apply steady_foldl | intro _ | split)
theorem steady_complete (s : State) (r : Req) (code : CmpCode) (grant : Nat) (data : Option LineData) (short : Option (BitVec 128 × BitVec 4)) (fwd : Bool) (mir : Option Nat) (h0 : Steady hv s) : Steady hv (complete s r code grant data short fwd mir) := by
  unfold complete
  with_reducible repeat' (first | assumption | apply steady_diagEnd | apply steady_sendRsp | apply steady_trackDone | simp only [steady_mk] | split)
theorem steady_completeCode (s : State) (r : Req) (code : CmpCode) (h0 : Steady hv s) : Steady hv (completeCode s r code) := by
  unfold completeCode
  with_reducible repeat' (first | assumption | apply steady_complete)
theorem steady_sendSnoop (s : State) (ep : Nat) (op : SnpOp) (hid : Nat) (h : Hall) (line : Nat) (use : SnoopUse) (reqEp reqTag grant : Nat) (sub svc : Nat) (h0 : Steady hv s) : Steady hv (sendSnoop s ep op hid h line use reqEp reqTag grant sub svc) := by
  unfold sendSnoop
  with_reducible repeat' (first | assumption | apply steady_sendEp | apply steady_xfer | simp only [steady_mk])
theorem steady_setDir (s : State) (line : Nat) (e : DirEntry) (h0 : Steady hv s) : Steady hv (setDir s line e) := by
  unfold setDir
  with_reducible repeat' (first | assumption | simp only [steady_mk])
theorem steady_freeDir (s : State) (line : Nat) (h0 : Steady hv s) : Steady hv (freeDir s line) := by
  unfold freeDir
  with_reducible repeat' (first | assumption | simp only [steady_mk])
theorem steady_dropFrom (s : State) (line ep : Nat) (h0 : Steady hv s) : Steady hv (dropFrom s line ep) := by
  unfold dropFrom
  with_reducible repeat' (first | assumption | apply steady_freeDir | simp only [steady_mk] | split)
theorem steady_mirrorLines (s : State) (hid : Nat) (h : Hall) (hls : List Nat) (h0 : Steady hv s) : Steady hv (mirrorLines s hid h hls).1 := by
  unfold mirrorLines
  with_reducible repeat' (first | assumption | apply steady_readLine | apply steady_sendMirror | apply steady_xfer | simp only [steady_mk] | apply steady_foldl_fst | intro _ | split)
theorem steady_dramXfer (s : State) (hid : Nat) (h : Hall) (x sub svc : Nat) (h0 : Steady hv s) : Steady hv (dramXfer s hid h x sub svc) := by
  unfold dramXfer
  with_reducible repeat' (first | assumption | apply steady_xfer | split)
theorem steady_flushMerge (s : State) (hid : Nat) (h : Hall) (x : Nat) (h0 : Steady hv s) : Steady hv (flushMerge s hid h x) := by
  unfold flushMerge
  with_reducible repeat' (first | assumption | apply steady_mirrorLines | apply steady_touchBlock | apply steady_writeLine | simp only [steady_mk] | intro _ | split)
theorem steady_storeNow (s : State) (hid : Nat) (h : Hall) (x : Nat) (d : LineData) (mask : BitVec 64) (sub svc : Nat) (h0 : Steady hv s) : Steady hv (storeNow s hid h x d mask sub svc).1 := by
  unfold storeNow
  with_reducible repeat' (first | assumption | apply steady_dramXfer | apply steady_flushMerge | apply steady_mirrorLines | apply steady_writeLine)
theorem steady_storeLine (s : State) (hid : Nat) (h : Hall) (line : Nat) (d : LineData) (sub svc : Nat) (h0 : Steady hv s) : Steady hv (storeLine s hid h line d sub svc) := by
  unfold storeLine
  with_reducible repeat' (first | assumption | apply steady_land | apply steady_storeNow | apply steady_touchBlock | simp only [steady_mk] | intro _ | apply steady_ite | split)
theorem steady_loadLine (s : State) (hid : Nat) (h : Hall) (x : Nat) (engine : Bool) (sub svc : Nat) (h0 : Steady hv s) : Steady hv (loadLine s hid h x engine sub svc).1 := by
  unfold loadLine
  with_reducible repeat' (first | assumption | apply steady_dramXfer | apply steady_flushMerge | apply steady_readLine | apply steady_touchBlock)
theorem steady_amoRun (s : State) (r : Req) (h : Hall) (h0 : Steady hv s) : Steady hv (amoRun s r h).1 := by
  unfold amoRun
  with_reducible repeat' (first | assumption | apply steady_loadLine | apply steady_storeNow | simp only [steady_mk] | split)

theorem steady_setWelt (s : State) (slot : Nat) (w : Welt) (h0 : Steady hv s) : Steady hv (setWelt s slot w) := by
  unfold setWelt
  with_reducible repeat' (first | assumption | simp only [steady_mk])
theorem steady_modWelt (s : State) (slot : Nat) (f : Welt → Welt) (h0 : Steady hv s) : Steady hv (modWelt s slot f) := by
  unfold modWelt
  with_reducible repeat' (first | assumption | apply steady_setWelt)
theorem steady_wltAnswerAfter (mir : Option Nat) (s : State) (port0 ep tag : Nat) (m : Nat → Emit) (h0 : Steady hv s) : Steady hv (wltAnswerAfter mir s port0 ep tag m) := by
  unfold wltAnswerAfter
  with_reducible repeat' (first | assumption | apply steady_holdFor | apply steady_send | apply steady_trackDone | apply steady_xfer | simp only [steady_mk] | split)
theorem steady_wltAnswer (s : State) (port0 ep tag : Nat) (m : Nat → Emit) (h0 : Steady hv s) : Steady hv (wltAnswer s port0 ep tag m) := by
  unfold wltAnswer
  with_reducible repeat' (first | assumption | apply steady_wltAnswerAfter | simp only [steady_mk])
theorem steady_weltEndTo (mir : Option Nat) (s : State) (slot : Nat) (w : Welt) (port tag : Nat) (status : Nat) (committed : Bool) (lines : Nat) (h0 : Steady hv s) : Steady hv (weltEndTo mir s slot w port tag status committed lines) := by
  unfold weltEndTo
  with_reducible repeat' (first | assumption | apply steady_wltAnswerAfter | simp only [steady_mk])
theorem steady_endWelt (mir : Option Nat) (s : State) (slot status : Nat) (committed : Bool) (lines : Nat) (h0 : Steady hv s) : Steady hv (endWelt mir s slot status committed lines) := by
  unfold endWelt
  with_reducible repeat' (first | assumption | apply steady_send | apply steady_weltEndTo | apply steady_xfer | simp only [steady_mk] | apply steady_foldl | intro _ | split)
theorem steady_unpin (s : State) (line : Nat) (h0 : Steady hv s) : Steady hv (unpin s line) := by
  unfold unpin
  with_reducible repeat' (first | assumption | simp only [steady_mk])
theorem steady_askOwner (s : State) (slot : Nat) (h : Hall) (line : Nat) (use : SnoopUse) (h0 : Steady hv s) : Steady hv (askOwner s slot h line use) := by
  unfold askOwner
  with_reducible repeat' (first | assumption | apply steady_sendSnoop | simp only [steady_mk] | split)
theorem steady_releaseLine (s : State) (slot : Nat) (line : Nat) (h0 : Steady hv s) : Steady hv (releaseLine s slot line) := by
  unfold releaseLine
  with_reducible repeat' (first | assumption | apply steady_askOwner | apply steady_freeDir | simp only [steady_mk] | split)
theorem steady_abortGo (s : State) (slot : Nat) (h0 : Steady hv s) : Steady hv (abortGo s slot) := by
  unfold abortGo
  with_reducible repeat' (first | assumption | apply steady_endWelt | apply steady_releaseLine | apply steady_unpin | simp only [steady_mk] | apply steady_foldl | intro _ | split)
theorem steady_abortWelt (s : State) (slot status : Nat) (silent : Bool) (h0 : Steady hv s) : Steady hv (abortWelt s slot status silent) := by
  unfold abortWelt
  with_reducible repeat' (first | assumption | apply steady_abortGo | apply steady_setWelt | simp only [steady_mk] | split)
theorem steady_jrnIssue (s : State) (hid : Nat) (h0 : Steady hv s) : Steady hv (jrnIssue s hid) := by
  unfold jrnIssue
  with_reducible repeat' (first | assumption | apply steady_abortWelt | apply steady_addJob | apply steady_modWelt | apply steady_writeBack | simp only [steady_mk] | apply steady_foldl | apply steady_elim | intro _ | apply steady_ite | split)
theorem steady_applyLine (s : State) (slot : Nat) (hid : Nat) (h : Hall) (line : Nat) (h0 : Steady hv s) : Steady hv (applyLine s slot hid h line) := by
  unfold applyLine
  with_reducible repeat' (first | assumption | apply steady_blockDirtied | apply steady_dramXfer | apply steady_flushMerge | apply steady_freeDir | apply steady_modWelt | apply steady_touchBlock | apply steady_writeLine | simp only [steady_mk] | intro _)
theorem steady_applyGo (s : State) (slot : Nat) (h0 : Steady hv s) : Steady hv (applyGo s slot) := by
  unfold applyGo
  with_reducible repeat' (first | assumption | apply steady_applyLine | apply steady_endWelt | apply steady_land | simp only [steady_mk] | apply steady_foldl | intro _ | apply steady_ite | split)
theorem steady_commitPoint (s : State) (slot : Nat) (h0 : Steady hv s) : Steady hv (commitPoint s slot) := by
  unfold commitPoint
  with_reducible repeat' (first | assumption | apply steady_applyGo | apply steady_setWelt | apply steady_unpin | simp only [steady_mk] | apply steady_foldl | intro _)
theorem steady_durableGo (s : State) (slot : Nat) (h0 : Steady hv s) : Steady hv (durableGo s slot) := by
  unfold durableGo
  with_reducible repeat' (first | assumption | apply steady_commitPoint | simp only [steady_mk] | intro _ | apply steady_ite | split)
theorem steady_collectLines (s : State) (slot : Nat) (h0 : Steady hv s) : Steady hv (collectLines s slot) := by
  unfold collectLines
  with_reducible repeat' (first | assumption | apply steady_askOwner | apply steady_setWelt | simp only [steady_mk] | apply steady_foldl | intro _ | split)
theorem steady_spoilBuf (s : State) (slot : Nat) (h0 : Steady hv s) : Steady hv (spoilBuf s slot) := by
  unfold spoilBuf
  with_reducible repeat' (first | assumption | apply steady_event | apply steady_setWelt | simp only [steady_mk] | apply steady_foldl | intro _)
theorem steady_commitNext (s : State) (slot : Nat) (h0 : Steady hv s) : Steady hv (commitNext s slot) := by
  unfold commitNext
  with_reducible repeat' (first | assumption | apply steady_abortWelt | apply steady_commitPoint | apply steady_durableGo | apply steady_jrnIssue | apply steady_land | apply steady_loadLine | apply steady_modWelt | apply steady_sendMirror | apply steady_setWelt | apply steady_spoilBuf | apply steady_xfer | simp only [steady_mk] | apply steady_foldl | intro _ | apply steady_ite | split)
theorem steady_commitStep (s : State) (slot : Nat) (h0 : Steady hv s) : Steady hv (commitStep s slot) := by
  unfold commitStep
  with_reducible repeat' (first | assumption | apply steady_collectLines | apply steady_commitNext | simp only [steady_mk] | split)
theorem steady_commitStart (s : State) (slot : Nat) (h0 : Steady hv s) : Steady hv (commitStart s slot) := by
  unfold commitStart
  with_reducible repeat' (first | assumption | apply steady_commitStep | apply steady_modWelt | simp only [steady_mk])
theorem steady_accessEnded (s : State) (slot : Nat) (h0 : Steady hv s) : Steady hv (accessEnded s slot) := by
  unfold accessEnded
  with_reducible repeat' (first | assumption | apply steady_abortGo | apply steady_applyGo | apply steady_commitStep | simp only [steady_mk] | intro _ | apply steady_ite | split)
theorem steady_openWelt (s : State) (m : WltMsg) (h0 : Steady hv s) : Steady hv (openWelt s m) := by
  unfold openWelt
  with_reducible repeat' (first | assumption | apply steady_mirrorNote | apply steady_setWelt | apply steady_wltAnswer | simp only [steady_mk] | split)
theorem steady_openWaiting (s : State) (h0 : Steady hv s) : Steady hv (openWaiting s) := by
  unfold openWaiting
  with_reducible repeat' (first | assumption | apply steady_completeCode | apply steady_openWelt | simp only [steady_mk] | apply steady_foldl | intro _ | apply steady_ite | split)

theorem steady_setLine (s : State) (line : Nat) (c : LineCtl) (h0 : Steady hv s) : Steady hv (setLine s line c) := by
  unfold setLine
  with_reducible repeat' (first | assumption | simp only [steady_mk])
theorem steady_modActive (s : State) (line : Nat) (f : Active → Active) (h0 : Steady hv s) : Steady hv (modActive s line f) := by
  unfold modActive
  with_reducible repeat' (first | assumption | apply steady_setLine)
theorem steady_endActive (s : State) (line : Nat) (h0 : Steady hv s) : Steady hv (endActive s line) := by
  unfold endActive
  with_reducible repeat' (first | assumption | apply steady_setLine)
theorem steady_resolveEntry (s : State) (line ep : Nat) (h0 : Steady hv s) : Steady hv (resolveEntry s line ep) := by
  unfold resolveEntry
  with_reducible repeat' (first | assumption | apply steady_dropFrom | apply steady_freeDir | apply steady_storeLine | simp only [steady_mk] | split)
theorem steady_resolveDead (s : State) (line : Nat) (h0 : Steady hv s) : Steady hv (resolveDead s line) := by
  unfold resolveDead
  with_reducible repeat' (first | assumption | apply steady_resolveEntry | apply steady_foldl | intro _ | split)
theorem steady_joinSet (s : State) (r : Req) (line : Nat) (poisoned : Bool) (h0 : Steady hv s) : Steady hv (joinSet s r line poisoned) := by
  unfold joinSet
  with_reducible repeat' (first | assumption | apply steady_modWelt | simp only [steady_mk] | split)
theorem steady_ownBy (s : State) (line ep : Nat) (h0 : Steady hv s) : Steady hv (ownBy s line ep) := by
  unfold ownBy
  with_reducible repeat' (first | assumption | apply steady_setDir)
theorem steady_shareBy (s : State) (line ep : Nat) (h0 : Steady hv s) : Steady hv (shareBy s line ep) := by
  unfold shareBy
  with_reducible repeat' (first | assumption | apply steady_setDir)
theorem steady_endForward (s : State) (line : Nat) (a : Active) (h0 : Steady hv s) : Steady hv (endForward s line a) := by
  unfold endForward
  with_reducible repeat' (first | assumption | apply steady_accessEnded | apply steady_complete | apply steady_endActive | apply steady_joinSet | apply steady_modWelt | apply steady_ownBy | apply steady_shareBy | simp only [steady_mk] | intro _ | apply steady_ite | split)
theorem steady_serve (s : State) (line : Nat) (a : Active) (h : Hall) (h0 : Steady hv s) : Steady hv (serve s line a h) := by
  unfold serve
  with_reducible repeat' (first | assumption | apply steady_accessEnded | apply steady_amoRun | apply steady_complete | apply steady_dramXfer | apply steady_dropFrom | apply steady_endActive | apply steady_freeDir | apply steady_joinSet | apply steady_loadLine | apply steady_ownBy | apply steady_shareBy | apply steady_storeNow | apply steady_touchBlock | apply steady_xorLine | simp only [steady_mk] | apply steady_elim | intro _ | apply steady_ite | split)
theorem steady_memPhase (s : State) (line : Nat) (h0 : Steady hv s) : Steady hv (memPhase s line) := by
  unfold memPhase
  with_reducible repeat' (first | assumption | apply steady_complete | apply steady_completeCode | apply steady_endActive | apply steady_endForward | apply steady_freeDir | apply steady_land | apply steady_modActive | apply steady_ownBy | apply steady_setDir | simp only [steady_mk] | split)
theorem steady_beginSnoops (s : State) (line : Nat) (r : Req) (h : Hall) (h0 : Steady hv s) : Steady hv (beginSnoops s line r h) := by
  unfold beginSnoops
  with_reducible repeat' (first | assumption | apply steady_accessEnded | apply steady_complete | apply steady_endActive | apply steady_freeDir | apply steady_memPhase | apply steady_sendSnoop | apply steady_setLine | simp only [steady_mk] | apply steady_foldl | intro _ | split)
theorem steady_meet (s : State) (line : Nat) (h0 : Steady hv s) : Steady hv (meet s line) := by
  unfold meet
  with_reducible repeat' (first | assumption | apply steady_abortWelt | simp only [steady_mk] | apply steady_foldl | intro _ | split)
theorem steady_takeUp (s : State) (line : Nat) (r : Req) (h0 : Steady hv s) : Steady hv (takeUp s line r) := by
  unfold takeUp
  with_reducible repeat' (first | assumption | apply steady_abortWelt | apply steady_beginSnoops | apply steady_completeCode | apply steady_freeDir | apply steady_resolveDead | apply steady_sendSnoop | apply steady_setLine | simp only [steady_mk] | apply steady_foldl | intro _ | apply steady_elim | split)
theorem steady_activate (s : State) (line : Nat) (h0 : Steady hv s) : Steady hv (activate s line) := by
  unfold activate
  with_reducible repeat' (first | assumption | apply steady_takeUp | apply steady_meet | apply steady_setLine | simp only [steady_mk] | split)
theorem steady_serveWb (s : State) (x : HeldWb) (h0 : Steady hv s) : Steady hv (serveWb s x) := by
  unfold serveWb
  with_reducible repeat' (first | assumption | apply steady_complete | apply steady_storeNow | apply steady_touchBlock | simp only [steady_mk] | split)
theorem steady_enqueue (s : State) (r : Req) (h0 : Steady hv s) : Steady hv (enqueue s r) := by
  unfold enqueue
  with_reducible repeat' (first | assumption | apply steady_meet | apply steady_setLine | split)
theorem steady_runAgain (s : State) (r : Req) (h0 : Steady hv s) : Steady hv (runAgain s r) := by
  unfold runAgain
  with_reducible repeat' (first | assumption | apply steady_completeCode | apply steady_enqueue | simp only [steady_mk] | intro _ | apply steady_ite | split)
theorem steady_serveAgain (s : State) (x : Resend) (h0 : Steady hv s) : Steady hv (serveAgain s x) := by
  unfold serveAgain
  with_reducible repeat' (first | assumption | apply steady_complete | apply steady_completeCode | apply steady_land | apply steady_loadLine | apply steady_runAgain | simp only [steady_mk] | intro _ | apply steady_ite | split)
theorem steady_serveReady (s : State) (h0 : Steady hv s) : Steady hv (serveReady s) := by
  unfold serveReady
  with_reducible repeat' (first | assumption | apply steady_accessEnded | apply steady_completeCode | apply steady_endActive | apply steady_flushMerge | apply steady_serve | apply steady_serveAgain | apply steady_serveWb | simp only [steady_mk] | apply steady_foldl | intro _ | apply steady_ite | split)
theorem steady_holdKept (s : State) (h : Hint) (h0 : Steady hv s) : Steady hv (holdKept s h) := by
  unfold holdKept
  with_reducible repeat' (first | assumption | apply steady_modBlock | apply steady_foldl | intro _ | split)
theorem steady_serveHints (s : State) (h0 : Steady hv s) : Steady hv (serveHints s) := by
  unfold serveHints
  with_reducible repeat' (first | assumption | apply steady_finishCmd | apply steady_holdKept | simp only [steady_mk] | apply steady_foldl | apply steady_elim | intro _)
theorem steady_drainLine (s : State) (hid : Nat) (h : Hall) (d : Drain) (line : Nat) (h0 : Steady hv s) : Steady hv (drainLine s hid h d line) := by
  unfold drainLine
  with_reducible repeat' (first | assumption | apply steady_freeDir | apply steady_sendSnoop | simp only [steady_mk] | apply steady_foldl | intro _ | split)
theorem steady_settleDrains (s : State) (h0 : Steady hv s) : Steady hv (settleDrains s) := by
  unfold settleDrains
  with_reducible repeat' (first | assumption | apply steady_drainLine | simp only [steady_mk] | apply steady_foldl | intro _ | split)
theorem steady_shrinkHall (s : State) (hid : Nat) (h : Hall) (fuel : Nat) (h0 : Steady hv s) : Steady hv (shrinkHall s hid  h  fuel) := by
  induction fuel generalizing s with
  | zero => exact h0
  | succ fuel ih =>
    unfold shrinkHall
    repeat' (first | (with_reducible assumption) | (with_reducible apply ih) | (with_reducible apply steady_evictBlock) | (with_reducible apply steady_writeBack) | (simp only [steady_mk, steady_mk_hw, steady_mk_dram, steady_mk_hw_dram, steady_mk_clk]) | (with_reducible apply steady_foldl) | (with_reducible apply steady_elim) | (intro _) | (with_reducible apply steady_ite) | split | dsimp only)
theorem steady_settleShrink (s : State) (k : State → Nat → Nat → State) (h0 : Steady hv s) (k0 : ∀ (x0 : State) (x1 : Nat) (x2 : Nat), Steady hv x0 → Steady hv (k x0 x1 x2)) : Steady hv (settleShrink s k) := by
  unfold settleShrink
  with_reducible repeat' (first | assumption | apply steady_shrinkHall | apply k0 | simp only [steady_mk] | apply steady_foldl | apply steady_elim | intro _ | split)
theorem steady_dropLate (s : State) (h0 : Steady hv s) : Steady hv (dropLate s) := by
  unfold dropLate
  with_reducible repeat' (first | assumption | simp only [steady_mk] | intro _ | split)
theorem steady_settleFlash (s : State) (h0 : Steady hv s) : Steady hv (settleFlash s) := by
  unfold settleFlash
  with_reducible repeat' (first | assumption | apply steady_abortWelt | apply steady_goalTick | apply steady_jrnIssue | apply steady_runJobs | simp only [steady_mk] | apply steady_foldl | intro _ | apply steady_ite | split)
theorem steady_settleTier (s : State) (h0 : Steady hv s) : Steady hv (settleTier s) := by
  unfold settleTier
  with_reducible repeat' (first | assumption | apply steady_dropLate | apply steady_finishCmd | apply steady_landAgain | apply steady_serveHints | apply steady_serveReady | apply steady_settleDrains | apply steady_settleFlash | apply steady_settleShrink | simp only [steady_mk] | apply steady_foldl | intro _ | apply steady_ite | split)
theorem steady_answerActive (s : State) (x : Snoop) (resp : Resp) (h : Hall) (h0 : Steady hv s) : Steady hv (answerActive s x resp h) := by
  unfold answerActive
  with_reducible repeat' (first | assumption | apply steady_dropFrom | apply steady_memPhase | apply steady_modActive | apply steady_storeLine | simp only [steady_mk] | split)
theorem steady_answerSnoop (s : State) (x : Snoop) (use : SnoopUse) (resp : Resp) (h0 : Steady hv s) : Steady hv (answerSnoop s x use resp) := by
  unfold answerSnoop
  with_reducible repeat' (first | assumption | apply steady_abortGo | apply steady_answerActive | apply steady_beginSnoops | apply steady_commitStep | apply steady_completeCode | apply steady_dropFrom | apply steady_endActive | apply steady_freeDir | apply steady_modWelt | apply steady_storeLine | simp only [steady_mk] | split)
theorem steady_dropSnoop (s : State) (ep stag : Nat) (h0 : Steady hv s) : Steady hv (dropSnoop s ep stag) := by
  unfold dropSnoop
  with_reducible repeat' (first | assumption | simp only [steady_mk])
theorem steady_snoopResponse (s : State) (m : RspMsg) (bad : Bool) (resp : Resp) (h0 : Steady hv s) : Steady hv (snoopResponse s m bad resp) := by
  unfold snoopResponse
  with_reducible repeat' (first | assumption | apply steady_answerSnoop | apply steady_countBad | apply steady_dropSnoop | apply steady_settleTier | split)
theorem steady_wbPendResponse (s : State) (m : RspMsg) (h0 : Steady hv s) : Steady hv (wbPendResponse s m) := by
  unfold wbPendResponse
  with_reducible repeat' (first | assumption | apply steady_answerSnoop | apply steady_countBad | apply steady_dropSnoop | apply steady_settleTier | simp only [steady_mk] | split)
theorem steady_noteWb (s : State) (line ep : Nat) (h0 : Steady hv s) : Steady hv (noteWb s line ep) := by
  unfold noteWb
  with_reducible repeat' (first | assumption | apply steady_answerSnoop | apply steady_dropSnoop | simp only [steady_mk] | apply steady_foldl | intro _ | split)
theorem steady_closeHosts (s : State) (gone : Nat → Bool) (h0 : Steady hv s) : Steady hv (closeHosts s gone) := by
  unfold closeHosts
  with_reducible repeat' (first | assumption | apply steady_closeWin | apply steady_foldl | intro _ | split)
theorem steady_dropRequests (s : State) (ep : Nat) (h0 : Steady hv s) : Steady hv (dropRequests s ep) := by
  unfold dropRequests
  with_reducible repeat' (first | assumption | apply steady_send | apply steady_setLine | simp only [steady_mk] | apply steady_foldl | intro _ | apply steady_ite | split)
theorem steady_endpointDead (s : State) (ep cause stag hall : Nat) (h0 : Steady hv s) : Steady hv (endpointDead s ep cause stag hall) := by
  unfold endpointDead
  with_reducible repeat' (first | assumption | apply steady_abortWelt | apply steady_answerSnoop | apply steady_closeHosts | apply steady_dropRequests | apply steady_dropSnoop | apply steady_event | apply steady_modWelt | apply steady_resolveEntry | apply steady_settleTier | simp only [steady_mk] | apply steady_foldl | intro _ | apply steady_ite | split)
theorem steady_answerNote (s : State) (port ep tag : Nat) (code : CmpCode) (h0 : Steady hv s) : Steady hv (answerNote s port ep tag code) := by
  unfold answerNote
  with_reducible repeat' (first | assumption | apply steady_send | apply steady_xfer)
theorem steady_arrive {s t : State} {port tag ep hid epoch kind line : Nat} {rsvd : Bool} (h0 : Steady hv s) (e : arrive s port tag ep hid epoch kind line rsvd = .over t) : Steady hv t := by
  unfold arrive at e; dsimp only at e
  repeat' split at e
  all_goals first | cases e; done | (injection e with e; subst e)
  all_goals with_reducible repeat' (first | assumption | apply steady_answerNote | apply steady_countBad | apply steady_modPort | apply steady_learn | simp only [steady_mk])
theorem steady_arrive_noEntry {s t : State} {port tag ep hid epoch kind line : Nat} {rsvd : Bool} (h0 : Steady hv s) (e : arrive s port tag ep hid epoch kind line rsvd = .noEntry t) : Steady hv t := by
  unfold arrive at e; dsimp only at e
  repeat' split at e
  all_goals first | cases e; done | (injection e with e; subst e)
  all_goals with_reducible repeat' (first | assumption | apply steady_answerNote | apply steady_countBad | apply steady_modPort | apply steady_learn | simp only [steady_mk])
theorem steady_arrive_reissue {u : Tracker} {s t : State} {port tag ep hid epoch kind line : Nat} {rsvd : Bool} (h0 : Steady hv s) (e : arrive s port tag ep hid epoch kind line rsvd = .reissue t u) : Steady hv t := by
  unfold arrive at e; dsimp only at e
  repeat' split at e
  all_goals first | cases e; done | (injection e with e; subst e)
  all_goals with_reducible repeat' (first | assumption | apply steady_answerNote | apply steady_countBad | apply steady_modPort | apply steady_learn | simp only [steady_mk])
theorem steady_arrive_taken {s t : State} {port tag ep hid epoch kind line : Nat} {rsvd : Bool} (h0 : Steady hv s) (e : arrive s port tag ep hid epoch kind line rsvd = .taken t) : Steady hv t := by
  unfold arrive at e; dsimp only at e
  repeat' split at e
  all_goals first | cases e; done | (injection e with e; subst e)
  all_goals with_reducible repeat' (first | assumption | apply steady_answerNote | apply steady_countBad | apply steady_modPort | apply steady_learn | simp only [steady_mk])
theorem steady_reopen (s : State) (ep tag port : Nat) (h0 : Steady hv s) : Steady hv (reopen s ep tag port) := by
  unfold reopen
  with_reducible repeat' (first | assumption | simp only [steady_mk])
theorem steady_reissued (s : State) (r : Req) (port tag : Nat) (t : Tracker) (h0 : Steady hv s) : Steady hv (reissued s r port tag t) := by
  unfold reissued
  with_reducible repeat' (first | assumption | apply steady_complete | apply steady_reopen | apply steady_serveAgain | simp only [steady_mk] | intro _ | apply steady_ite | split)
theorem steady_request (s : State) (m : ReqMsg) (rsvd : Bool) (r : Req) (h0 : Steady hv s) : Steady hv (request s m rsvd r) := by
  unfold request
  with_reducible repeat' (first | assumption | refine steady_arrive ?_ (by assumption) | refine steady_arrive_noEntry ?_ (by assumption) | refine steady_arrive_reissue ?_ (by assumption) | refine steady_arrive_taken ?_ (by assumption) | apply steady_completeCode | apply steady_enqueue | apply steady_reissued | simp only [steady_mk, steady_mk_hw, steady_mk_dram, steady_mk_hw_dram, steady_mk_clk, steady_mk_clk_dram] | apply steady_foldl | apply steady_foldl_fst | apply steady_elim | intro _ | apply steady_ite | split | exact steady_of_fst (by assumption) (by assumption) | refine steady_of_fst (by assumption) ?_ | dsimp only)

theorem steady_plainReq (k : ReqKind) (m : ReqMsg) (s : State) (h0 : Steady hv s) : Steady hv (plainReq k m s) := by
  unfold plainReq
  with_reducible repeat' (first | assumption | apply steady_request | simp only [steady_mk] | intro _)
theorem steady_execRdS (m : ReqMsg) (s : State) (h0 : Steady hv s) : ∀ t, execRdS m s = .next t → Steady hv t := by
  intro t ht
  unfold execRdS at ht
  injection ht with ht; subst ht
  with_reducible repeat' (first | assumption | apply steady_plainReq | simp only [steady_mk] | intro _)
theorem steady_execRdX (m : ReqMsg) (s : State) (h0 : Steady hv s) : ∀ t, execRdX m s = .next t → Steady hv t := by
  intro t ht
  unfold execRdX at ht
  injection ht with ht; subst ht
  with_reducible repeat' (first | assumption | apply steady_plainReq | simp only [steady_mk] | intro _)
theorem steady_execRdNa (m : ReqMsg) (s : State) (h0 : Steady hv s) : ∀ t, execRdNa m s = .next t → Steady hv t := by
  intro t ht
  unfold execRdNa at ht
  injection ht with ht; subst ht
  with_reducible repeat' (first | assumption | apply steady_plainReq | simp only [steady_mk] | intro _)
theorem steady_execUpg (m : ReqMsg) (s : State) (h0 : Steady hv s) : ∀ t, execUpg m s = .next t → Steady hv t := by
  intro t ht
  unfold execUpg at ht
  injection ht with ht; subst ht
  with_reducible repeat' (first | assumption | apply steady_plainReq | simp only [steady_mk] | intro _)
theorem steady_execWrFull (m : ReqMsg) (s : State) (h0 : Steady hv s) : ∀ t, execWrFull m s = .next t → Steady hv t := by
  intro t ht
  unfold execWrFull at ht
  injection ht with ht; subst ht
  with_reducible repeat' (first | assumption | apply steady_request)
theorem steady_execWrPart (m : ReqMsg) (s : State) (h0 : Steady hv s) : ∀ t, execWrPart m s = .next t → Steady hv t := by
  intro t ht
  unfold execWrPart at ht
  injection ht with ht; subst ht
  with_reducible repeat' (first | assumption | apply steady_request)
theorem steady_execAmo (m : ReqMsg) (s : State) (h0 : Steady hv s) : ∀ t, execAmo m s = .next t → Steady hv t := by
  intro t ht
  unfold execAmo at ht
  injection ht with ht; subst ht
  with_reducible repeat' (first | assumption | apply steady_request)
theorem steady_execWltRd (m : ReqMsg) (s : State) (h0 : Steady hv s) : ∀ t, execWltRd m s = .next t → Steady hv t := by
  intro t ht
  unfold execWltRd at ht
  injection ht with ht; subst ht
  with_reducible repeat' (first | assumption | apply steady_request | apply steady_settleTier)
theorem steady_execWltWr (m : ReqMsg) (s : State) (h0 : Steady hv s) : ∀ t, execWltWr m s = .next t → Steady hv t := by
  intro t ht
  unfold execWltWr at ht
  injection ht with ht; subst ht
  with_reducible repeat' (first | assumption | apply steady_request | apply steady_settleTier)
theorem steady_takeWb (s : State) (line port ep tag : Nat) (d : LineData) (h0 : Steady hv s) : Steady hv (takeWb s line port ep tag d) := by
  unfold takeWb
  with_reducible repeat' (first | assumption | apply steady_noteWb | apply steady_settleTier | simp only [steady_mk])
theorem steady_landFor (s : State) (hid : Nat) (h : Hall) (off ep : Nat) (h0 : Steady hv s) : Steady hv (landFor s hid h off ep) := by
  unfold landFor
  with_reducible repeat' (first | assumption | apply steady_land | split)
theorem steady_writeBackMsg (s : State) (m : ReqMsg) (d : LineData) (h : Hall) (h0 : Steady hv s) : Steady hv (writeBackMsg s m d h) := by
  unfold writeBackMsg
  with_reducible repeat' (first | assumption | apply steady_completeCode | apply steady_freeDir | apply steady_landFor | apply steady_modWelt | apply steady_noteWb | apply steady_settleTier | apply steady_takeWb | simp only [steady_mk] | split)
theorem steady_wbDrain (s : State) (m : ReqMsg) (h0 : Steady hv s) : Steady hv (wbDrain s m) := by
  unfold wbDrain
  with_reducible repeat' (first | assumption | apply steady_freeDir | apply steady_noteWb | apply steady_settleTier | apply steady_storeLine | simp only [steady_mk] | intro _ | apply steady_ite | split)
theorem steady_wbArrive (s : State) (m : ReqMsg) (h0 : Steady hv s) : Steady hv (wbArrive s m) := by
  unfold wbArrive
  with_reducible repeat' (first | assumption | refine steady_arrive ?_ (by assumption) | refine steady_arrive_noEntry ?_ (by assumption) | refine steady_arrive_reissue ?_ (by assumption) | refine steady_arrive_taken ?_ (by assumption) | apply steady_completeCode | apply steady_freeDir | apply steady_landFor | apply steady_reissued | apply steady_takeWb | apply steady_wbDrain | apply steady_writeBackMsg | simp only [steady_mk, steady_mk_hw, steady_mk_dram, steady_mk_hw_dram, steady_mk_clk, steady_mk_clk_dram] | apply steady_foldl | apply steady_foldl_fst | apply steady_elim | intro _ | apply steady_ite | split | exact steady_of_fst (by assumption) (by assumption) | refine steady_of_fst (by assumption) ?_ | dsimp only)
theorem steady_execWbM (m : ReqMsg) (s : State) (h0 : Steady hv s) : ∀ t, execWbM m s = .next t → Steady hv t := by
  intro t ht
  unfold execWbM at ht
  injection ht with ht; subst ht
  with_reducible repeat' (first | assumption | apply steady_wbArrive)
theorem steady_execOrderingPointReached (line : Nat) (s : State) (h0 : Steady hv s) : ∀ t, execOrderingPointReached line s = .next t → Steady hv t := by
  intro t ht
  unfold execOrderingPointReached at ht
  injection ht with ht; subst ht
  with_reducible repeat' (first | assumption | apply steady_activate | apply steady_settleTier)
theorem steady_execRspI (m : RspMsg) (s : State) (h0 : Steady hv s) : ∀ t, execRspI m s = .next t → Steady hv t := by
  intro t ht
  unfold execRspI at ht
  injection ht with ht; subst ht
  with_reducible repeat' (first | assumption | apply steady_snoopResponse)
theorem steady_execRspS (m : RspMsg) (s : State) (h0 : Steady hv s) : ∀ t, execRspS m s = .next t → Steady hv t := by
  intro t ht
  unfold execRspS at ht
  injection ht with ht; subst ht
  with_reducible repeat' (first | assumption | apply steady_snoopResponse)
theorem steady_execRspFwdS (m : RspMsg) (s : State) (h0 : Steady hv s) : ∀ t, execRspFwdS m s = .next t → Steady hv t := by
  intro t ht
  unfold execRspFwdS at ht
  injection ht with ht; subst ht
  with_reducible repeat' (first | assumption | apply steady_snoopResponse)
theorem steady_execRspFwdI (m : RspMsg) (s : State) (h0 : Steady hv s) : ∀ t, execRspFwdI m s = .next t → Steady hv t := by
  intro t ht
  unfold execRspFwdI at ht
  injection ht with ht; subst ht
  with_reducible repeat' (first | assumption | apply steady_snoopResponse)
theorem steady_execRspWbPend (m : RspMsg) (s : State) (h0 : Steady hv s) : ∀ t, execRspWbPend m s = .next t → Steady hv t := by
  intro t ht
  unfold execRspWbPend at ht
  injection ht with ht; subst ht
  with_reducible repeat' (first | assumption | apply steady_wbPendResponse)
theorem steady_execDataWb (m : RspMsg) (s : State) (h0 : Steady hv s) : ∀ t, execDataWb m s = .next t → Steady hv t := by
  intro t ht
  unfold execDataWb at ht
  injection ht with ht; subst ht
  with_reducible repeat' (first | assumption | apply steady_snoopResponse)
theorem steady_execSnoopTimeout (ep stag : Nat) (s : State) (h0 : Steady hv s) : ∀ t, execSnoopTimeout ep stag s = .next t → Steady hv t := by
  intro t ht
  unfold execSnoopTimeout at ht
  injection ht with ht; subst ht
  with_reducible repeat' (first | assumption | apply steady_endpointDead | split)
theorem steady_orphanWalk (s : State) (ep : Nat) (h0 : Steady hv s) : Steady hv (orphanWalk s ep) := by
  unfold orphanWalk
  with_reducible repeat' (first | assumption | apply steady_event | apply steady_resolveEntry | apply steady_settleTier | simp only [steady_mk] | apply steady_foldl | intro _ | split)
theorem steady_execOrphanWalk (ep : Nat) (s : State) (h0 : Steady hv s) : ∀ t, execOrphanWalk ep s = .next t → Steady hv t := by
  intro t ht
  unfold execOrphanWalk at ht
  injection ht with ht; subst ht
  with_reducible repeat' (first | assumption | apply steady_orphanWalk)
theorem steady_orderingBound (s : State) (line ep tag : Nat) (h0 : Steady hv s) : Steady hv (orderingBound s line ep tag) := by
  unfold orderingBound
  with_reducible repeat' (first | assumption | apply steady_completeCode | apply steady_setLine | apply steady_wltAnswer | simp only [steady_mk] | split)
theorem steady_execOrderingBoundExpiry (line ep tag : Nat) (s : State) (h0 : Steady hv s) : ∀ t, execOrderingBoundExpiry line ep tag s = .next t → Steady hv t := by
  intro t ht
  unfold execOrderingBoundExpiry at ht
  injection ht with ht; subst ht
  with_reducible repeat' (first | assumption | apply steady_orderingBound)
theorem steady_tierBound (s : State) (line : Nat) (h0 : Steady hv s) : Steady hv (tierBound s line) := by
  unfold tierBound
  with_reducible repeat' (first | assumption | apply steady_completeCode | apply steady_endActive | apply steady_settleTier | apply steady_storeLine | simp only [steady_mk] | apply steady_foldl | intro _ | apply steady_ite | split)
theorem steady_execTierBoundExpiry (line : Nat) (s : State) (h0 : Steady hv s) : ∀ t, execTierBoundExpiry line s = .next t → Steady hv t := by
  intro t ht
  unfold execTierBoundExpiry at ht
  injection ht with ht; subst ht
  with_reducible repeat' (first | assumption | apply steady_tierBound | simp only [steady_mk] | intro _)
theorem steady_execTrackerHoldExpiry (ep tag : Nat) (s : State) (h0 : Steady hv s) : ∀ t, execTrackerHoldExpiry ep tag s = .next t → Steady hv t := by
  intro t ht
  unfold execTrackerHoldExpiry at ht
  injection ht with ht; subst ht
  with_reducible repeat' (first | assumption | apply steady_event | simp only [steady_mk] | split)

theorem steady_wltReissued (s : State) (m : WltMsg) (t : Tracker) (h0 : Steady hv s) : Steady hv (wltReissued s m t) := by
  unfold wltReissued
  with_reducible repeat' (first | assumption | apply steady_send | simp only [steady_mk] | split)
theorem steady_wltDenied (s : State) (m : WltMsg) (h0 : Steady hv s) : Steady hv (wltDenied s m) := by
  unfold wltDenied
  with_reducible repeat' (first | assumption | apply steady_completeCode)
theorem steady_wltArrive (s : State) (m : WltMsg) (code : Nat) (k : State → State) (h0 : Steady hv s) (k0 : ∀ (x0 : State), Steady hv x0 → Steady hv (k x0)) : Steady hv (wltArrive s m code k) := by
  unfold wltArrive
  with_reducible repeat' (first | assumption | refine steady_arrive ?_ (by assumption) | refine steady_arrive_noEntry ?_ (by assumption) | refine steady_arrive_reissue ?_ (by assumption) | refine steady_arrive_taken ?_ (by assumption) | apply steady_wltDenied | apply steady_wltReissued | apply k0 | simp only [steady_mk, steady_mk_hw, steady_mk_dram, steady_mk_hw_dram, steady_mk_clk, steady_mk_clk_dram] | apply steady_foldl | apply steady_foldl_fst | apply steady_elim | intro _ | apply steady_ite | split | exact steady_of_fst (by assumption) (by assumption) | refine steady_of_fst (by assumption) ?_ | dsimp only)
theorem steady_wltOpen (s : State) (m : WltMsg) (h0 : Steady hv s) : Steady hv (wltOpen s m) := by
  unfold wltOpen
  with_reducible repeat' (first | assumption | apply steady_openWelt | apply steady_wltAnswer | apply steady_wltArrive | apply steady_wltDenied | simp only [steady_mk] | intro _ | split)
theorem steady_execWltOpen (m : WltMsg) (s : State) (h0 : Steady hv s) : ∀ t, execWltOpen m s = .next t → Steady hv t := by
  intro t ht
  unfold execWltOpen at ht
  injection ht with ht; subst ht
  with_reducible repeat' (first | assumption | apply steady_wltOpen)
theorem steady_endAgain (s : State) (m : WltMsg) (status : Nat) (h0 : Steady hv s) : Steady hv (endAgain s m status) := by
  unfold endAgain
  with_reducible repeat' (first | assumption | apply steady_wltAnswer)
theorem steady_weltLate (s : State) (slot : Nat) (h0 : Steady hv s) : Steady hv (weltLate s slot) := by
  unfold weltLate
  with_reducible repeat' (first | assumption | apply steady_abortWelt | simp only [steady_mk] | split)
theorem steady_onWelt (s : State) (m : WltMsg) (k : State → Nat → Welt → State) (h0 : Steady hv s) (k0 : ∀ (x0 : State) (x1 : Nat) (x2 : Welt), Steady hv x0 → Steady hv (k x0 x1 x2)) : Steady hv (onWelt s m k) := by
  unfold onWelt
  with_reducible repeat' (first | assumption | apply steady_endAgain | apply steady_setWelt | apply steady_weltLate | apply steady_wltDenied | apply k0 | simp only [steady_mk] | split)
theorem steady_wltCommit (s : State) (m : WltMsg) (bad : List (Nat × Nat)) (h0 : Steady hv s) : Steady hv (wltCommit s m bad) := by
  unfold wltCommit
  with_reducible repeat' (first | assumption | apply steady_commitStart | apply steady_onWelt | apply steady_setWelt | apply steady_settleTier | apply steady_wltAnswer | apply steady_wltArrive | intro _ | split)
theorem steady_execWltCommit (m : WltMsg) (bad : List (Nat × Nat)) (s : State) (h0 : Steady hv s) : ∀ t, execWltCommit m bad s = .next t → Steady hv t := by
  intro t ht
  unfold execWltCommit at ht
  injection ht with ht; subst ht
  with_reducible repeat' (first | assumption | apply steady_wltCommit)
theorem steady_wltAbort (s : State) (m : WltMsg) (h0 : Steady hv s) : Steady hv (wltAbort s m) := by
  unfold wltAbort
  with_reducible repeat' (first | assumption | apply steady_abortWelt | apply steady_onWelt | apply steady_setWelt | apply steady_settleTier | apply steady_wltArrive | intro _)
theorem steady_execWltAbort (m : WltMsg) (s : State) (h0 : Steady hv s) : ∀ t, execWltAbort m s = .next t → Steady hv t := by
  intro t ht
  unfold execWltAbort at ht
  injection ht with ht; subst ht
  with_reducible repeat' (first | assumption | apply steady_wltAbort)
theorem steady_execWeltTimeout (slot : Nat) (s : State) (h0 : Steady hv s) : ∀ t, execWeltTimeout slot s = .next t → Steady hv t := by
  intro t ht
  unfold execWeltTimeout at ht
  injection ht with ht; subst ht
  with_reducible repeat' (first | assumption | apply steady_settleTier | apply steady_weltLate)
theorem steady_execCommitCollectionTimeout (slot : Nat) (s : State) (h0 : Steady hv s) : ∀ t, execCommitCollectionTimeout slot s = .next t → Steady hv t := by
  intro t ht
  unfold execCommitCollectionTimeout at ht
  injection ht with ht; subst ht
  with_reducible repeat' (first | assumption | apply steady_endpointDead | split)
theorem steady_journalDurable (s : State) (hid : Nat) (h0 : Steady hv s) : Steady hv (journalDurable s hid) := by
  unfold journalDurable
  with_reducible repeat' (first | assumption | apply steady_durableGo | apply steady_endJob | apply steady_modWelt | apply steady_settleTier | simp only [steady_mk] | intro _ | apply steady_ite | split)
theorem steady_execJournalRecordDurable (hall : Nat) (s : State) (h0 : Steady hv s) : ∀ t, execJournalRecordDurable hall s = .next t → Steady hv t := by
  intro t ht
  unfold execJournalRecordDurable at ht
  injection ht with ht; subst ht
  with_reducible repeat' (first | assumption | apply steady_journalDurable)
theorem steady_execJournalDurableTimeout (slot : Nat) (s : State) (h0 : Steady hv s) : ∀ t, execJournalDurableTimeout slot s = .next t → Steady hv t := by
  intro t ht
  unfold execJournalDurableTimeout at ht
  injection ht with ht; subst ht
  with_reducible repeat' (first | assumption | apply steady_abortWelt | apply steady_settleTier | split)
theorem steady_ageCommit (s : State) (ok : Bool) (h0 : Steady hv s) : Steady hv (ageCommit s ok) := by
  unfold ageCommit
  with_reducible repeat' (first | assumption | apply steady_commit | apply steady_mirrorNote | apply steady_openWaiting | apply steady_wltAnswer | simp only [steady_mk] | apply steady_foldl | intro _ | split)
theorem steady_execAgeLimitCommit (ok : Bool) (s : State) (h0 : Steady hv s) : ∀ t, execAgeLimitCommit ok s = .next t → Steady hv t := by
  intro t ht
  unfold execAgeLimitCommit at ht
  injection ht with ht; subst ht
  with_reducible repeat' (first | assumption | apply steady_ageCommit | split)
theorem steady_execAgeLimitRetry (ok : Bool) (s : State) (h0 : Steady hv s) : ∀ t, execAgeLimitRetry ok s = .next t → Steady hv t := by
  intro t ht
  unfold execAgeLimitRetry at ht
  injection ht with ht; subst ht
  with_reducible repeat' (first | assumption | apply steady_ageCommit | split)

theorem steady_landingDone (s : State) (hid b : Nat) (bad : List (Nat × Nat)) (h0 : Steady hv s) : Steady hv (landingDone s hid b bad) := by
  unfold landingDone
  with_reducible repeat' (first | assumption | apply steady_land | apply steady_landFinish | apply steady_landReads | apply steady_modBlock | apply steady_nvEnd | apply steady_settleTier | simp only [steady_mk] | intro _ | apply steady_ite | split)
theorem steady_execLandingReadDone (hall block : Nat) (bad : List (Nat × Nat)) (s : State) (h0 : Steady hv s) : ∀ t, execLandingReadDone hall block bad s = .next t → Steady hv t := by
  intro t ht
  unfold execLandingReadDone at ht
  injection ht with ht; subst ht
  with_reducible repeat' (first | assumption | apply steady_landingDone)
theorem steady_hintBlockDone (s : State) (hid : Nat) (h : Hall) (b : Nat) (h0 : Steady hv s) : Steady hv (hintBlockDone s hid h b) := by
  unfold hintBlockDone
  with_reducible repeat' (first | assumption | apply steady_writeBack | simp only [steady_mk] | intro _ | apply steady_ite | split)
theorem steady_writebackDone (s : State) (hid b : Nat) (h0 : Steady hv s) : Steady hv (writebackDone s hid b) := by
  unfold writebackDone
  with_reducible repeat' (first | assumption | apply steady_endJob | apply steady_goalDone | apply steady_hintBlockDone | apply steady_mirrorNote | apply steady_settleTier | apply steady_writebackEnd | simp only [steady_mk] | intro _ | apply steady_ite | split)
theorem steady_execWritebackDone (hall block : Nat) (s : State) (h0 : Steady hv s) : ∀ t, execWritebackDone hall block s = .next t → Steady hv t := by
  intro t ht
  unfold execWritebackDone at ht
  injection ht with ht; subst ht
  with_reducible repeat' (first | assumption | apply steady_writebackDone)
theorem steady_superblockDone (s : State) (hid : Nat) (h0 : Steady hv s) : Steady hv (superblockDone s hid) := by
  unfold superblockDone
  with_reducible repeat' (first | assumption | apply steady_endJob | apply steady_settleTier | simp only [steady_mk] | apply steady_foldl | intro _ | apply steady_ite | split)
theorem steady_execSuperblockWriteDone (hall : Nat) (s : State) (h0 : Steady hv s) : ∀ t, execSuperblockWriteDone hall s = .next t → Steady hv t := by
  intro t ht
  unfold execSuperblockWriteDone at ht
  injection ht with ht; subst ht
  with_reducible repeat' (first | assumption | apply steady_superblockDone)
theorem steady_execMaxDirtyExpiry (hall block : Nat) (s : State) (h0 : Steady hv s) : ∀ t, execMaxDirtyExpiry hall block s = .next t → Steady hv t := by
  intro t ht
  unfold execMaxDirtyExpiry at ht
  injection ht with ht; subst ht
  with_reducible repeat' (first | assumption | apply steady_writeBack | split)
theorem steady_modTier (s : State) (hid : Nat) (f : TierRec → TierRec) (h0 : Steady hv s) : Steady hv (modTier s hid f) := by
  unfold modTier
  with_reducible repeat' (first | assumption | simp only [steady_mk])
theorem steady_execDecayPeriodExpiry (hall : Nat) (s : State) (h0 : Steady hv s) : ∀ t, execDecayPeriodExpiry hall s = .next t → Steady hv t := by
  intro t ht
  unfold execDecayPeriodExpiry at ht
  injection ht with ht; subst ht
  with_reducible repeat' (first | assumption | apply steady_modBlock | apply steady_modTier | apply steady_foldl | intro _ | split)
theorem steady_policyHall (s : State) (hid : Nat) (h : Hall) (h0 : Steady hv s) : Steady hv (policyHall s hid h) := by
  unfold policyHall
  with_reducible repeat' (first | assumption | apply steady_modTier | apply steady_writeBack | simp only [steady_mk] | apply steady_foldl | intro _ | apply steady_ite | split)
theorem steady_execTierPolicyPass (s : State) (h0 : Steady hv s) : ∀ t, execTierPolicyPass s = .next t → Steady hv t := by
  intro t ht
  unfold execTierPolicyPass at ht
  injection ht with ht; subst ht
  with_reducible repeat' (first | assumption | apply steady_policyHall | simp only [steady_mk] | apply steady_foldl | intro _ | split)
theorem steady_execDecayAdaptPass (s : State) (h0 : Steady hv s) : ∀ t, execDecayAdaptPass s = .next t → Steady hv t := by
  intro t ht
  unfold execDecayAdaptPass at ht
  injection ht with ht; subst ht
  with_reducible repeat' (first | assumption | simp only [steady_mk] | split)
theorem steady_execKeepExpiry (hall block : Nat) (s : State) (h0 : Steady hv s) : ∀ t, execKeepExpiry hall block s = .next t → Steady hv t := by
  intro t ht
  unfold execKeepExpiry at ht
  injection ht with ht; subst ht
  with_reducible repeat' (first | assumption | apply steady_modBlock | apply steady_settleTier)
theorem steady_execOrderHoldExpiry (hall block : Nat) (s : State) (h0 : Steady hv s) : ∀ t, execOrderHoldExpiry hall block s = .next t → Steady hv t := by
  intro t ht
  unfold execOrderHoldExpiry at ht
  injection ht with ht; subst ht
  with_reducible repeat' (first | assumption | apply steady_modBlock | apply steady_settleTier)
theorem steady_execOrderDeadlinePassed (index : Nat) (s : State) (h0 : Steady hv s) : ∀ t, execOrderDeadlinePassed index s = .next t → Steady hv t := by
  intro t ht
  unfold execOrderDeadlinePassed at ht
  injection ht with ht; subst ht
  with_reducible repeat' (first | assumption | simp only [steady_mk] | split)
theorem steady_execHintTimeout (w : Nat) (s : State) (h0 : Steady hv s) : ∀ t, execHintTimeout w s = .next t → Steady hv t := by
  intro t ht
  unfold execHintTimeout at ht
  injection ht with ht; subst ht
  with_reducible repeat' (first | assumption | apply steady_finishCmd | simp only [steady_mk] | split)
theorem steady_tierHintBody (s : State) (x : Win) (h0 : Steady hv s) : Steady hv (tierHintBody s x).1 := by
  unfold tierHintBody
  with_reducible repeat' (first | assumption | apply steady_dropBlock | apply steady_fail | apply steady_goesOn | apply steady_good | apply steady_guardArg | apply steady_holdKept | apply steady_land | apply steady_modBlock | apply steady_settleTier | apply steady_writeBack | simp only [steady_mk] | apply steady_foldl | intro _ | apply steady_ite | split)
theorem steady_execTierHint (w : Nat) (s : State) (h0 : Steady hv s) : ∀ t, execTierHint w s = .next t → Steady hv t := by
  intro t ht
  unfold execTierHint at ht
  injection ht with ht; subst ht
  with_reducible repeat' (first | assumption | apply steady_runCmd | apply steady_tierHintBody)
theorem steady_tierHallQueryBody (s : State) (x : Win) (h0 : Steady hv s) : Steady hv (tierHallQueryBody s x).1 := by
  unfold tierHallQueryBody
  with_reducible repeat' (first | assumption | apply steady_fail | apply steady_good | simp only [steady_mk] | split)
theorem steady_execTierHallQuery (w : Nat) (s : State) (h0 : Steady hv s) : ∀ t, execTierHallQuery w s = .next t → Steady hv t := by
  intro t ht
  unfold execTierHallQuery at ht
  injection ht with ht; subst ht
  with_reducible repeat' (first | assumption | apply steady_runCmd | apply steady_tierHallQueryBody)
theorem steady_tierHallSetBody (s : State) (x : Win) (h0 : Steady hv s) : Steady hv (tierHallSetBody s x).1 := by
  unfold tierHallSetBody
  with_reducible repeat' (first | assumption | apply steady_fail | apply steady_good | apply steady_guardArg | apply steady_retain | simp only [steady_mk] | intro _ | split)
theorem steady_execTierHallSet (w : Nat) (s : State) (h0 : Steady hv s) : ∀ t, execTierHallSet w s = .next t → Steady hv t := by
  intro t ht
  unfold execTierHallSet at ht
  injection ht with ht; subst ht
  with_reducible repeat' (first | assumption | apply steady_runRetained | apply steady_tierHallSetBody)
theorem steady_tierQueryBody (s : State) (_x : Win) (h0 : Steady hv s) : Steady hv (tierQueryBody s _x).1 := by
  unfold tierQueryBody
  with_reducible repeat' (first | assumption | apply steady_good)
theorem steady_execTierQuery (w : Nat) (s : State) (h0 : Steady hv s) : ∀ t, execTierQuery w s = .next t → Steady hv t := by
  intro t ht
  unfold execTierQuery at ht
  injection ht with ht; subst ht
  with_reducible repeat' (first | assumption | apply steady_runCmd | apply steady_tierQueryBody)

theorem steady_modDrive (s : State) (p : Nat) (f : Drive → Drive) (h0 : Steady hv s) : Steady hv (modDrive s p f) := by
  unfold modDrive
  with_reducible repeat' (first | assumption | simp only [steady_mk])
theorem steady_failDrive (s : State) (p cause : Nat) (h0 : Steady hv s) : Steady hv (failDrive s p cause) := by
  unfold failDrive
  with_reducible repeat' (first | assumption | apply steady_driveTo | apply steady_settleTier | split)
theorem steady_say (s : State) (l : List Emit) (h0 : Steady hv s) : Steady hv (say s l) := by
  unfold say
  with_reducible repeat' (first | assumption | simp only [steady_mk] | intro _)
theorem steady_retryWrite (s : State) (p : Nat) (c : NvCmd) (cause : Nat) (h0 : Steady hv s) : Steady hv (retryWrite s p c cause) := by
  unfold retryWrite
  with_reducible repeat' (first | assumption | apply steady_failDrive | apply steady_modDrive | apply steady_say | simp only [steady_mk] | intro _ | apply steady_ite | split)
theorem steady_readLate (s : State) (p : Nat) (c : NvCmd) (h0 : Steady hv s) : Steady hv (readLate s p c) := by
  unfold readLate
  with_reducible repeat' (first | assumption | apply steady_land | apply steady_landReads | apply steady_modBlock | apply steady_modDrive | apply steady_readRows | simp only [steady_mk] | intro _ | split)
theorem steady_ioTimeout (s : State) (p cmd : Nat) (h0 : Steady hv s) : Steady hv (ioTimeout s p cmd) := by
  unfold ioTimeout
  with_reducible repeat' (first | assumption | apply steady_failDrive | apply steady_modDrive | apply steady_readLate | apply steady_retryWrite | apply steady_say | simp only [steady_mk] | intro _ | apply steady_ite | split)
theorem steady_execNvmeIoTimeout (port cmd : Nat) (s : State) (h0 : Steady hv s) : ∀ t, execNvmeIoTimeout port cmd s = .next t → Steady hv t := by
  intro t ht
  unfold execNvmeIoTimeout at ht
  injection ht with ht; subst ht
  with_reducible repeat' (first | assumption | apply steady_ioTimeout)
theorem steady_execNvmeWriteError (port cmd : Nat) (s : State) (h0 : Steady hv s) : ∀ t, execNvmeWriteError port cmd s = .next t → Steady hv t := by
  intro t ht
  unfold execNvmeWriteError at ht
  injection ht with ht; subst ht
  with_reducible repeat' (first | assumption | apply steady_failDrive | apply steady_retryWrite | split)
theorem steady_resvRegister (s : State) (p : Nat) (h0 : Steady hv s) : Steady hv (resvRegister s p) := by
  unfold resvRegister
  with_reducible repeat' (first | assumption | apply steady_nvIssue | simp only [steady_mk] | intro _)
theorem steady_resvAcquire (s : State) (p : Nat) (h0 : Steady hv s) : Steady hv (resvAcquire s p) := by
  unfold resvAcquire
  with_reducible repeat' (first | assumption | apply steady_nvIssue | simp only [steady_mk] | intro _)
theorem steady_ctlAck (s : State) (p : Nat) (c : NvCmd) (h0 : Steady hv s) : Steady hv (ctlAck s p c) := by
  unfold ctlAck
  with_reducible repeat' (first | assumption | apply steady_ctlSettle | simp only [steady_mk, steady_mk_hw, steady_mk_dram, steady_mk_hw_dram, steady_mk_clk, steady_mk_clk_dram] | apply steady_foldl | apply steady_foldl_fst | apply steady_elim | intro _ | apply steady_ite | split | exact steady_of_fst (by assumption) (by assumption) | refine steady_of_fst (by assumption) ?_ | dsimp only)
theorem steady_ioComplete (s : State) (p cmd : Nat) (h0 : Steady hv s) : Steady hv (ioComplete s p cmd) := by
  unfold ioComplete
  with_reducible repeat' (first | assumption | apply steady_ctlAck | apply steady_freeOver | apply steady_modDrive | apply steady_replaySkipped | apply steady_resvAcquire | apply steady_resvRegister | apply steady_settleTier | simp only [steady_mk] | intro _ | split)
theorem steady_execNvmeIoComplete (port cmd : Nat) (s : State) (h0 : Steady hv s) : ∀ t, execNvmeIoComplete port cmd s = .next t → Steady hv t := by
  intro t ht
  unfold execNvmeIoComplete at ht
  injection ht with ht; subst ht
  with_reducible repeat' (first | assumption | apply steady_ioComplete)
theorem steady_beginSetUp (s : State) (p : Nat) (l : List (Nat × Nat)) (h0 : Steady hv s) : Steady hv (beginSetUp s p l) := by
  unfold beginSetUp
  with_reducible repeat' (first | assumption | apply steady_modDrive | apply steady_say | simp only [steady_mk] | intro _)
theorem steady_endSetUp (s : State) (p : Nat) (h0 : Steady hv s) : Steady hv (endSetUp s p) := by
  unfold endSetUp
  with_reducible repeat' (first | assumption | apply steady_modDrive | apply steady_say | simp only [steady_mk] | intro _)
theorem steady_adoptEnd (s : State) (p w : Nat) (h0 : Steady hv s) : Steady hv (adoptEnd s p w) := by
  unfold adoptEnd
  with_reducible repeat' (first | assumption | apply steady_driveTo | apply steady_finishCmd | apply steady_resvAcquire | apply steady_resvRegister | apply steady_say | apply steady_settleTier | simp only [steady_mk, steady_mk_hw, steady_mk_dram, steady_mk_hw_dram, steady_mk_clk, steady_mk_clk_dram] | apply steady_foldl | apply steady_foldl_fst | apply steady_elim | intro _ | apply steady_ite | split | exact steady_of_fst (by assumption) (by assumption) | refine steady_of_fst (by assumption) ?_ | dsimp only)
theorem steady_adminNext (s : State) (p : Nat) (h0 : Steady hv s) : Steady hv (adminNext s p) := by
  unfold adminNext
  with_reducible repeat' (first | assumption | apply steady_adoptEnd | apply steady_endSetUp | apply steady_modDrive | apply steady_say | simp only [steady_mk] | intro _ | split)
theorem steady_adminComplete (s : State) (p : Nat) (h0 : Steady hv s) : Steady hv (adminComplete s p) := by
  unfold adminComplete
  with_reducible repeat' (first | assumption | apply steady_adminNext | simp only [steady_mk] | intro _ | apply steady_ite | split)
theorem steady_execNvmeAdminComplete (port : Nat) (s : State) (h0 : Steady hv s) : ∀ t, execNvmeAdminComplete port s = .next t → Steady hv t := by
  intro t ht
  unfold execNvmeAdminComplete at ht
  injection ht with ht; subst ht
  with_reducible repeat' (first | assumption | apply steady_adminComplete)
theorem steady_execNvmeAdminTimeout (port : Nat) (s : State) (h0 : Steady hv s) : ∀ t, execNvmeAdminTimeout port s = .next t → Steady hv t := by
  intro t ht
  unfold execNvmeAdminTimeout at ht
  injection ht with ht; subst ht
  with_reducible repeat' (first | assumption | apply steady_adminNext | apply steady_say | simp only [steady_mk] | intro _ | apply steady_ite | split)
theorem steady_driveAdoptBody (s : State) (x : Win) (h0 : Steady hv s) : Steady hv (driveAdoptBody s x).1 := by
  unfold driveAdoptBody
  with_reducible repeat' (first | assumption | apply steady_beginSetUp | apply steady_fail | apply steady_goesOn | simp only [steady_mk] | intro _ | apply steady_ite | split)
theorem steady_execTierDriveAdopt (w : Nat) (s : State) (h0 : Steady hv s) : ∀ t, execTierDriveAdopt w s = .next t → Steady hv t := by
  intro t ht
  unfold execTierDriveAdopt at ht
  injection ht with ht; subst ht
  with_reducible repeat' (first | assumption | apply steady_driveAdoptBody | apply steady_runCmd)
theorem steady_driveLog (s : State) (p : Nat) (e : DriveEvent) (h0 : Steady hv s) : Steady hv (driveLog s p e) := by
  unfold driveLog
  with_reducible repeat' (first | assumption | apply steady_failDrive | apply steady_modDrive | split)
theorem steady_execNvmeAsyncEvent (port : Nat) (e : DriveEvent) (s : State) (h0 : Steady hv s) : ∀ t, execNvmeAsyncEvent port e s = .next t → Steady hv t := by
  intro t ht
  unfold execNvmeAsyncEvent at ht
  injection ht with ht; subst ht
  with_reducible repeat' (first | assumption | apply steady_driveLog | apply steady_say | simp only [steady_mk] | intro _ | apply steady_ite | split)
theorem steady_execNvmeLogPoll (port : Nat) (e : DriveEvent) (s : State) (h0 : Steady hv s) : ∀ t, execNvmeLogPoll port e s = .next t → Steady hv t := by
  intro t ht
  unfold execNvmeLogPoll at ht
  injection ht with ht; subst ht
  with_reducible repeat' (first | assumption | apply steady_driveLog | apply steady_say | simp only [steady_mk] | intro _ | apply steady_ite | split)
theorem steady_execNvmeControllerFatal (port : Nat) (s : State) (h0 : Steady hv s) : ∀ t, execNvmeControllerFatal port s = .next t → Steady hv t := by
  intro t ht
  unfold execNvmeControllerFatal at ht
  injection ht with ht; subst ht
  with_reducible repeat' (first | assumption | apply steady_failDrive | apply steady_modDrive | apply steady_say | simp only [steady_mk] | intro _ | apply steady_ite | split)
theorem steady_execNvmeReadyTimeout (port : Nat) (s : State) (h0 : Steady hv s) : ∀ t, execNvmeReadyTimeout port s = .next t → Steady hv t := by
  intro t ht
  unfold execNvmeReadyTimeout at ht
  injection ht with ht; subst ht
  with_reducible repeat' (first | assumption | apply steady_failDrive | split)
theorem steady_execNvmeControllerReady (port : Nat) (s : State) (h0 : Steady hv s) : ∀ t, execNvmeControllerReady port s = .next t → Steady hv t := by
  intro t ht
  unfold execNvmeControllerReady at ht
  injection ht with ht; subst ht
  with_reducible repeat' (first | assumption | apply steady_beginSetUp | apply steady_modDrive | simp only [steady_mk] | intro _ | apply steady_ite | split)
theorem steady_execDriveRemoved (port : Nat) (s : State) (h0 : Steady hv s) : ∀ t, execDriveRemoved port s = .next t → Steady hv t := by
  intro t ht
  unfold execDriveRemoved at ht
  repeat' (first | (injection ht with ht; subst ht) | (cases ht; done) | split at ht | dsimp only at ht)
  all_goals with_reducible repeat' (first | assumption | apply steady_driveTo | apply steady_settleTier | simp only [steady_mk, steady_mk_hw, steady_mk_dram, steady_mk_hw_dram, steady_mk_clk, steady_mk_clk_dram] | apply steady_foldl | apply steady_foldl_fst | apply steady_elim | intro _ | apply steady_ite | split | exact steady_of_fst (by assumption) (by assumption) | refine steady_of_fst (by assumption) ?_ | dsimp only)
theorem steady_execIntentBitClear (region : Nat) (s : State) (h0 : Steady hv s) : ∀ t, execIntentBitClear region s = .next t → Steady hv t := by
  intro t ht
  unfold execIntentBitClear at ht
  injection ht with ht; subst ht
  with_reducible repeat' (first | assumption | apply steady_ctlSettle | apply steady_ctlWrite | apply steady_settleTier | simp only [steady_mk] | intro _ | apply steady_ite | split)
theorem steady_fixParity (s : State) (r : Nat) (h0 : Steady hv s) : Steady hv (fixParity s r) := by
  unfold fixParity
  with_reducible repeat' (first | assumption | apply steady_readRows | apply steady_settleRow | apply steady_writeRows | simp only [steady_mk] | intro _ | apply steady_ite | split)
theorem steady_intentResync (s : State) (h0 : Steady hv s) : Steady hv (intentResync s) := by
  unfold intentResync
  with_reducible repeat' (first | assumption | apply steady_ctlSettle | apply steady_ctlWrite | apply steady_fixParity | apply steady_settleTier | simp only [steady_mk] | intro _ | apply steady_ite | split)
theorem steady_execIntentResyncStep (s : State) (h0 : Steady hv s) : ∀ t, execIntentResyncStep s = .next t → Steady hv t := by
  intro t ht
  unfold execIntentResyncStep at ht
  injection ht with ht; subst ht
  with_reducible repeat' (first | assumption | apply steady_intentResync | simp only [steady_mk] | intro _)
theorem steady_rebuildRow (s : State) (h0 : Steady hv s) : Steady hv (rebuildRow s) := by
  unfold rebuildRow
  with_reducible repeat' (first | assumption | apply steady_driveTo | apply steady_nvIssue | apply steady_readRows | apply steady_settleTier | apply steady_writeRows | simp only [steady_mk] | intro _ | apply steady_ite | split)
theorem steady_execRebuildRow (s : State) (h0 : Steady hv s) : ∀ t, execRebuildRow s = .next t → Steady hv t := by
  intro t ht
  unfold execRebuildRow at ht
  injection ht with ht; subst ht
  with_reducible repeat' (first | assumption | apply steady_rebuildRow)

end Sys2Proof.Laws
end

