-- ==== Sys2Proof/Laws/SteadyEngine.lean ====
section
/-! SUPPORT. Every operation on halls, lasts and queues keeps what `Steady` says. -/

namespace Sys2Proof.Laws

set_option linter.unusedSimpArgs false

open Sys2Proof.Machine

variable {hv : Kept}

theorem steady_ownStore (s : State) (off svc : Nat) (ls : List Line) (h0 : Steady hv s) : Steady hv (ownStore s off svc ls) := by
  unfold ownStore
  with_reducible repeat' (first | assumption | apply steady_ctlWrite | apply steady_putUnits | apply steady_readRows | apply steady_setBitsFor | apply steady_setIntent | apply steady_writeRows | simp only [steady_mk] | intro _ | apply steady_ite | split)
theorem steady_frameStore (s : State) (index : Nat) (ls : List Line) (h0 : Steady hv s) : Steady hv (frameStore s index ls) := by
  refine steady_up h0 rfl rfl rfl rfl (Nat.le_refl _) (fun k => ?_) (.inr (Nat.le_refl _))
  refine List.foldlRecOn (motive := fun m : NMap Granule => m.canon zeroGranule) _ _ (h0.canon k) fun m hm e _ => ?_
  dsimp only
  split
  · exact List.foldlRecOn (motive := fun m : NMap Granule => m.canon zeroGranule) _ _ hm fun m hm _ _ => canon_put _ _ _ _ hm
  · exact hm

theorem steady_clearExtent (s : State) (c e : Nat) (h0 : Steady hv s) : ∀ t, clearExtent s c e = some t → Steady hv t := by
  intro t ht; unfold clearExtent at ht; dsimp only at ht
  obtain ⟨u, hu, rfl⟩ := Option.map_eq_some_iff.1 ht
  refine steady_clearRange _ _ _ _ (steady_bind (fun s b t h e => ?_) _ _ _ h0 hu)
  split at e
  · injection e with e; subst e; exact h
  · rename_i hh _
    refine steady_bind (fun s x t h e => ?_) _ _ _ h e
    obtain ⟨a, -, rfl⟩ := Option.map_eq_some_iff.1 e
    refine steady_up (steady_xfer s (8 + c) sysSub 5 (2 * slotBytes hh) x.2 h) rfl rfl rfl rfl (Nat.le_refl _) (fun k => ?_) (.inr (Nat.le_refl _))
    refine canon_sets _ _ _ (canon_clear _ _ _ _ (canon_clear _ _ _ _ (h.canon k))) fun g hg => ?_
    obtain ⟨y, hy, rfl⟩ := List.mem_map.1 hg
    have := List.all_eq_true.1 (h.canon k).2 y ((List.mem_filter.1 hy).1)
    simpa using this
theorem steady_hallCreateBody (s : State) (x : Win) (h0 : Steady hv s) : Steady hv (hallCreateBody s x).1 := by
  unfold hallCreateBody
  dsimp only
  refine steady_guardArg _ _ _ h0 fun _ => ?_
  split
  · exact steady_fail _ _ _ h0
  · split
    · exact steady_fail _ _ _ h0
    · rename_i e
      refine steady_retain _ _ _ h0 (steady_bind (f := fun s (e : Nat × Nat) => clearExtent s e.1 e.2) (fun s a t h q => steady_clearExtent _ _ _ h _ q) _ _ _ ?_ e) fun t h => steady_good _ _ ?_
      · repeat' (first | (with_reducible assumption) | (simp only [steady_mk]) | (with_reducible apply steady_ite) | (intro _))
      · exact steady_ite (fun _ => steady_newJournal _ _ h) fun _ => h
theorem steady_execHallCreate (w : Nat) (s : State) (h0 : Steady hv s) : ∀ t, execHallCreate w s = .next t → Steady hv t := by
  intro t ht
  unfold execHallCreate at ht
  injection ht with ht; subst ht
  with_reducible repeat' (first | assumption | apply steady_hallCreateBody | apply steady_runRetained)
theorem steady_beginDrain (s : State) (hid : Nat) (d : Drain) (size : Nat) (h0 : Steady hv s) : Steady hv (beginDrain s hid d size) := by
  unfold beginDrain
  with_reducible repeat' (first | assumption | apply steady_abortWelt | apply steady_drainLine | apply steady_settleTier | simp only [steady_mk] | apply steady_foldl | intro _ | split)
theorem steady_closeUnlisted (s : State) (h0 : Steady hv s) : Steady hv (closeUnlisted s) := by
  unfold closeUnlisted
  with_reducible repeat' (first | assumption | apply steady_closeHosts)
theorem steady_startDestroy (s : State) (hid : Nat) (w : Option Nat) (h0 : Steady hv s) : Steady hv (startDestroy s hid w) := by
  unfold startDestroy
  with_reducible repeat' (first | assumption | apply steady_beginDrain | simp only [steady_mk] | split)
theorem steady_hallDestroyBody (s : State) (x : Win) (h0 : Steady hv s) : Steady hv (hallDestroyBody s x).1 := by
  unfold hallDestroyBody
  with_reducible repeat' (first | assumption | apply steady_beginDrain | apply steady_goesOn | apply steady_guardArg | apply steady_retain | simp only [steady_mk] | intro _)
theorem steady_execHallDestroy (w : Nat) (s : State) (h0 : Steady hv s) : ∀ t, execHallDestroy w s = .next t → Steady hv t := by
  intro t ht
  unfold execHallDestroy at ht
  injection ht with ht; subst ht
  with_reducible repeat' (first | assumption | apply steady_hallDestroyBody | apply steady_runRetained)
theorem steady_hallTrimBody (s : State) (x : Win) (h0 : Steady hv s) : Steady hv (hallTrimBody s x).1 := by
  unfold hallTrimBody
  with_reducible repeat' (first | assumption | apply steady_beginDrain | apply steady_fail | apply steady_goesOn | apply steady_guardArg | apply steady_retain | simp only [steady_mk] | intro _ | split)
theorem steady_execHallTrim (w : Nat) (s : State) (h0 : Steady hv s) : ∀ t, execHallTrim w s = .next t → Steady hv t := by
  intro t ht
  unfold execHallTrim at ht
  injection ht with ht; subst ht
  with_reducible repeat' (first | assumption | apply steady_hallTrimBody | apply steady_runRetained)
theorem steady_setEntry (s : State) (hid : Nat) (a : AclArg) (h0 : Steady hv s) : Steady hv (setEntry s hid a) := by
  unfold setEntry
  with_reducible repeat' (first | assumption | simp only [steady_mk])
theorem steady_sayBudget (s : State) (hid ep : Nat) (h0 : Steady hv s) : Steady hv (sayBudget s hid ep) := by
  unfold sayBudget
  with_reducible repeat' (first | assumption | apply steady_sendMgt | split)
theorem steady_hallAclSetBody (s : State) (x : Win) (h0 : Steady hv s) : Steady hv (hallAclSetBody s x).1 := by
  unfold hallAclSetBody
  with_reducible repeat' (first | assumption | apply steady_beginDrain | apply steady_fail | apply steady_goesOn | apply steady_good | apply steady_guardArg | apply steady_recomputeLevels | apply steady_retain | apply steady_sayBudget | apply steady_sendEpochs | apply steady_setEntry | simp only [steady_mk] | apply steady_foldl | intro _ | split)
theorem steady_execHallAclSet (w : Nat) (s : State) (h0 : Steady hv s) : ∀ t, execHallAclSet w s = .next t → Steady hv t := by
  intro t ht
  unfold execHallAclSet at ht
  injection ht with ht; subst ht
  with_reducible repeat' (first | assumption | apply steady_hallAclSetBody | apply steady_runRetained)
theorem steady_hallAclRemoveBody (s : State) (x : Win) (h0 : Steady hv s) : Steady hv (hallAclRemoveBody s x).1 := by
  unfold hallAclRemoveBody
  with_reducible repeat' (first | assumption | apply steady_beginDrain | apply steady_closeUnlisted | apply steady_fail | apply steady_goesOn | apply steady_good | apply steady_guardArg | apply steady_recomputeLevels | apply steady_retain | simp only [steady_mk] | intro _ | split)
theorem steady_execHallAclRemove (w : Nat) (s : State) (h0 : Steady hv s) : ∀ t, execHallAclRemove w s = .next t → Steady hv t := by
  intro t ht
  unfold execHallAclRemove at ht
  injection ht with ht; subst ht
  with_reducible repeat' (first | assumption | apply steady_hallAclRemoveBody | apply steady_runRetained)
theorem steady_hallAclQueryBody (s : State) (x : Win) (h0 : Steady hv s) : Steady hv (hallAclQueryBody s x).1 := by
  unfold hallAclQueryBody
  with_reducible repeat' (first | assumption | apply steady_good | apply steady_guardArg | intro _)
theorem steady_execHallAclQuery (w : Nat) (s : State) (h0 : Steady hv s) : ∀ t, execHallAclQuery w s = .next t → Steady hv t := by
  intro t ht
  unfold execHallAclQuery at ht
  injection ht with ht; subst ht
  with_reducible repeat' (first | assumption | apply steady_hallAclQueryBody | apply steady_runCmd)
theorem steady_hallQueryBody (s : State) (x : Win) (h0 : Steady hv s) : Steady hv (hallQueryBody s x).1 := by
  unfold hallQueryBody
  with_reducible repeat' (first | assumption | apply steady_good | apply steady_guardArg | intro _)
theorem steady_execHallQuery (w : Nat) (s : State) (h0 : Steady hv s) : ∀ t, execHallQuery w s = .next t → Steady hv t := by
  intro t ht
  unfold execHallQuery at ht
  injection ht with ht; subst ht
  with_reducible repeat' (first | assumption | apply steady_hallQueryBody | apply steady_runCmd)
theorem steady_hallSetBody (s : State) (x : Win) (h0 : Steady hv s) : Steady hv (hallSetBody s x).1 := by
  unfold hallSetBody
  with_reducible repeat' (first | assumption | apply steady_fail | apply steady_goesOn | apply steady_good | apply steady_guardArg | apply steady_recomputeLevels | apply steady_retain | apply steady_settleTier | simp only [steady_mk] | intro _ | split)
theorem steady_execHallSet (w : Nat) (s : State) (h0 : Steady hv s) : ∀ t, execHallSet w s = .next t → Steady hv t := by
  intro t ht
  unfold execHallSet at ht
  injection ht with ht; subst ht
  with_reducible repeat' (first | assumption | apply steady_hallSetBody | apply steady_runRetained)
theorem steady_dropBlocks (s : State) (hid : Nat) (h : Hall) (lo : Nat) (h0 : Steady hv s) : Steady hv (dropBlocks s hid h lo) := by
  unfold dropBlocks
  with_reducible repeat' (first | assumption | apply steady_dropBlock | apply steady_dropJobs | simp only [steady_mk] | apply steady_foldl | intro _ | split)
theorem steady_freeFlash (s : State) (lo hi : Nat) (h0 : Steady hv s) : Steady hv (freeFlash s lo hi) := by
  unfold freeFlash
  with_reducible repeat' (first | assumption | apply steady_deallocate | split)
theorem steady_releaseTrim (s : State) (hid : Nat) (h : Hall) (d : Drain) (h0 : Steady hv s) : Steady hv (releaseTrim s hid h d) := by
  unfold releaseTrim
  with_reducible repeat' (first | assumption | apply steady_dropBlocks | apply steady_freeFlash | simp only [steady_mk] | split)
theorem steady_releaseDestroy (s : State) (hid : Nat) (h : Hall) (d : Drain) (h0 : Steady hv s) : Steady hv (releaseDestroy s hid h d) := by
  unfold releaseDestroy
  with_reducible repeat' (first | assumption | apply steady_closeUnlisted | apply steady_dropBlocks | apply steady_freeFlash | simp only [steady_mk] | split)
theorem steady_endDrain (s : State) (hid : Nat) (h : Hall) (d : Drain) (h0 : Steady hv s) : Steady hv (endDrain s hid h d) := by
  unfold endDrain
  with_reducible repeat' (first | assumption | apply steady_commitSelf | apply steady_event | apply steady_finishCmd | apply steady_releaseDestroy | apply steady_releaseTrim | apply steady_settleTier | simp only [steady_mk] | split)
theorem steady_execWrittenClearDone (hall : Nat) (s : State) (h0 : Steady hv s) : ∀ t, execWrittenClearDone hall s = .next t → Steady hv t := by
  intro t ht
  unfold execWrittenClearDone at ht
  injection ht with ht; subst ht
  with_reducible repeat' (first | assumption | apply steady_clearRange | simp only [steady_mk] | apply steady_foldl | intro _ | split)
theorem steady_epState (s : State) (ep : Nat) (up : Bool) (rev : Nat) (h0 : Steady hv s) : Steady hv (epState s ep up rev) := by
  unfold epState
  with_reducible repeat' (first | assumption | apply steady_endpointDead | apply steady_recomputeLevels | apply steady_sendEpoch | simp only [steady_mk] | split)
theorem steady_execEpState (m : MgtMsg) (s : State) (h0 : Steady hv s) : ∀ t, execEpState m s = .next t → Steady hv t := by
  intro t ht
  unfold execEpState at ht
  injection ht with ht; subst ht
  with_reducible repeat' (first | assumption | apply steady_countBad | apply steady_epState | simp only [steady_mk] | intro _ | apply steady_ite | split)

theorem steady_topoSetBody (s : State) (x : Win) (h0 : Steady hv s) : Steady hv (topoSetBody s x).1 := by
  unfold topoSetBody
  with_reducible repeat' (first | assumption | apply steady_good | apply steady_guardArg | apply steady_retain | simp only [steady_mk] | intro _ | split)
theorem steady_execTopoSet (w : Nat) (s : State) (h0 : Steady hv s) : ∀ t, execTopoSet w s = .next t → Steady hv t := by
  intro t ht
  unfold execTopoSet at ht
  injection ht with ht; subst ht
  with_reducible repeat' (first | assumption | apply steady_runRetained | apply steady_topoSetBody)
theorem steady_routeSetBody (s : State) (x : Win) (h0 : Steady hv s) : Steady hv (routeSetBody s x).1 := by
  unfold routeSetBody
  with_reducible repeat' (first | assumption | apply steady_good | apply steady_guardArg | apply steady_recomputeLevels | apply steady_retain | simp only [steady_mk] | intro _)
theorem steady_execRouteSet (w : Nat) (s : State) (h0 : Steady hv s) : ∀ t, execRouteSet w s = .next t → Steady hv t := by
  intro t ht
  unfold execRouteSet at ht
  injection ht with ht; subst ht
  with_reducible repeat' (first | assumption | apply steady_routeSetBody | apply steady_runRetained)
theorem steady_portQueryBody (s : State) (x : Win) (h0 : Steady hv s) : Steady hv (portQueryBody s x).1 := by
  unfold portQueryBody
  with_reducible repeat' (first | assumption | apply steady_good | apply steady_guardArg | intro _)
theorem steady_execPortQuery (w : Nat) (s : State) (h0 : Steady hv s) : ∀ t, execPortQuery w s = .next t → Steady hv t := by
  intro t ht
  unfold execPortQuery at ht
  injection ht with ht; subst ht
  with_reducible repeat' (first | assumption | apply steady_portQueryBody | apply steady_runCmd)
theorem steady_portSetBody (s : State) (x : Win) (h0 : Steady hv s) : Steady hv (portSetBody s x).1 := by
  unfold portSetBody
  with_reducible repeat' (first | assumption | apply steady_good | apply steady_guardArg | apply steady_linkDown | apply steady_modPort | apply steady_portComesUp | apply steady_retain | intro _ | split)
theorem steady_execPortSet (w : Nat) (s : State) (h0 : Steady hv s) : ∀ t, execPortSet w s = .next t → Steady hv t := by
  intro t ht
  unfold execPortSet at ht
  injection ht with ht; subst ht
  with_reducible repeat' (first | assumption | apply steady_portSetBody | apply steady_runRetained)

theorem steady_modQueue (s : State) (qid : Nat) (f : Queue → Queue) (h0 : Steady hv s) : Steady hv (modQueue s qid f) := by
  unfold modQueue
  with_reducible repeat' (first | assumption | simp only [steady_mk])
theorem steady_modCtx (s : State) (c : Nat) (f : Ctx → Ctx) (h0 : Steady hv s) : Steady hv (modCtx s c f) := by
  unfold modCtx
  with_reducible repeat' (first | assumption | simp only [steady_mk])
theorem steady_modLast (s : State) (lid : Nat) (f : Last → Last) (h0 : Steady hv s) : Steady hv (modLast s lid f) := by
  unfold modLast
  with_reducible repeat' (first | assumption | simp only [steady_mk])
theorem steady_issueRing (s : State) (qid ring c : Nat) (data : Option (List Byte)) (h0 : Steady hv s) : Steady hv (issueRing s qid ring c data) := by
  unfold issueRing
  with_reducible repeat' (first | assumption | apply steady_completeCode | apply steady_enqueue | apply steady_modQueue | simp only [steady_mk] | split)
theorem steady_notice (s : State) (q : Queue) (m : Nat → Emit) (h0 : Steady hv s) : Steady hv (notice s q m) := by
  unfold notice
  with_reducible repeat' (first | assumption | apply steady_sendMgt)
theorem steady_writeNext (s : State) (qid : Nat) (h0 : Steady hv s) : Steady hv (writeNext s qid) := by
  unfold writeNext
  with_reducible repeat' (first | assumption | apply steady_issueRing | split)
theorem steady_settleDestroy (s : State) (qid : Nat) (h0 : Steady hv s) : Steady hv (settleDestroy s qid) := by
  unfold settleDestroy
  with_reducible repeat' (first | assumption | apply steady_finishCmd | simp only [steady_mk] | split)
theorem steady_completeDesc (s : State) (qid idx : Nat) (body : List Byte) (w : Option Nat) (h0 : Steady hv s) : Steady hv (completeDesc s qid idx body w) := by
  unfold completeDesc
  with_reducible repeat' (first | assumption | apply steady_modQueue | apply steady_settleDestroy | apply steady_writeNext)
theorem steady_endDesc (s : State) (qid : Nat) (d : Desc) (status : Nat) (digest : Nat) (ended : Nat) (h0 : Steady hv s) : Steady hv (endDesc s qid d status digest ended) := by
  unfold endDesc
  with_reducible repeat' (first | assumption | apply steady_completeDesc | split)
theorem steady_settleDescs (s : State) (qid : Nat) (fuel : Nat) (h0 : Steady hv s) : Steady hv (settleDescs s qid  fuel) := by
  induction fuel generalizing s with
  | zero => exact h0
  | succ fuel ih =>
    unfold settleDescs
    repeat' (first | (with_reducible assumption) | (with_reducible apply ih) | (with_reducible apply steady_endDesc) | (simp only [steady_mk, steady_mk_hw, steady_mk_dram, steady_mk_hw_dram, steady_mk_clk]) | (with_reducible apply steady_foldl) | (with_reducible apply steady_elim) | (intro _) | (with_reducible apply steady_ite) | split | dsimp only)
theorem steady_settleQueue (s : State) (qid : Nat) (h0 : Steady hv s) : Steady hv (settleQueue s qid) := by
  unfold settleQueue
  with_reducible repeat' (first | assumption | apply steady_settleDescs)
theorem steady_cachePage (s : State) (g cid p : Nat) (h0 : Steady hv s) : Steady hv (cachePage s g cid p) := by
  unfold cachePage
  with_reducible repeat' (first | assumption | simp only [steady_mk] | split)
theorem steady_dropCached (s : State) (cid lo hi : Nat) (h0 : Steady hv s) : Steady hv (dropCached s cid lo hi) := by
  unfold dropCached
  with_reducible repeat' (first | assumption | simp only [steady_mk])
theorem steady_postFault (s : State) (lid pos kind page access stage view tile time tmo : Nat) (h0 : Steady hv s) : Steady hv (postFault s lid pos kind page access stage view tile time tmo) := by
  unfold postFault
  with_reducible repeat' (first | assumption | apply steady_issueRing | apply steady_modCtx | apply steady_modLast | apply steady_modQueue | simp only [steady_mk] | split)

theorem steady_setCore (s : State) (p : Nat) (c : CoreSt) (h0 : Steady hv s) : Steady hv (setCore s p c) := by
  unfold setCore
  with_reducible repeat' (first | assumption | simp only [steady_mk])
theorem steady_releaseCore (s : State) (p : Nat) (h0 : Steady hv s) : Steady hv (releaseCore s p) := by
  unfold releaseCore
  with_reducible repeat' (first | assumption | apply steady_setCore)
theorem steady_modPos (s : State) (lid q : Nat) (f : Pos → Pos) (h0 : Steady hv s) : Steady hv (modPos s lid q f) := by
  unfold modPos
  with_reducible repeat' (first | assumption | apply steady_modLast)
theorem steady_dropPos (s : State) (lid q : Nat) (h0 : Steady hv s) : Steady hv (dropPos s lid q) := by
  unfold dropPos
  with_reducible repeat' (first | assumption | apply steady_modLast)
theorem steady_sendEng (s : State) (lid idx : Nat) (h0 : Steady hv s) : Steady hv (sendEng s lid idx) := by
  unfold sendEng
  with_reducible repeat' (first | assumption | apply steady_completeCode | apply steady_enqueue | apply steady_modLast | apply steady_xfer | simp only [steady_mk] | split)
theorem steady_issueEng (s : State) (lid pos stage line : Nat) (wr : Option (BitVec 64 × LineData)) (h0 : Steady hv s) : Steady hv (issueEng s lid pos stage line wr) := by
  unfold issueEng
  with_reducible repeat' (first | assumption | apply steady_modLast | apply steady_sendEng | split)
theorem steady_finishLast (s : State) (lid : Nat) (h0 : Steady hv s) : Steady hv (finishLast s lid) := by
  unfold finishLast
  with_reducible repeat' (first | assumption | apply steady_completeDesc | apply steady_releaseCore | simp only [steady_mk] | apply steady_foldl | intro _ | split)
theorem steady_stopLast (s : State) (lid status stage tile : Nat) (h0 : Steady hv s) : Steady hv (stopLast s lid status stage tile) := by
  unfold stopLast
  with_reducible repeat' (first | assumption | apply steady_modLast | apply steady_modQueue | split)
theorem steady_enterOrder (s : State) (lid sub hid off len deadline : Nat) (h0 : Steady hv s) : Steady hv (enterOrder s lid sub hid off len deadline) := by
  unfold enterOrder
  with_reducible repeat' (first | assumption | simp only [steady_mk] | split)
theorem steady_sendOrders (s : State) (lid : Nat) (l : Last) (target tile : Nat) (h0 : Steady hv s) : Steady hv (sendOrders s lid l target tile) := by
  unfold sendOrders
  with_reducible repeat' (first | assumption | apply steady_enterOrder | simp only [steady_mk] | apply steady_foldl | intro _ | split)
theorem steady_issuePush (s : State) (lid pos stage tile vi off : Nat) (d : LineData) (h0 : Steady hv s) : Steady hv (issuePush s lid pos stage tile vi off d) := by
  unfold issuePush
  with_reducible repeat' (first | assumption | apply steady_modLast | apply steady_sendPush | apply steady_stopLast | apply steady_xfer | simp only [steady_mk] | intro _ | apply steady_ite | split)
theorem steady_issueMark (s : State) (lid target tile : Nat) (h0 : Steady hv s) : Steady hv (issueMark s lid target tile) := by
  unfold issueMark
  with_reducible repeat' (first | assumption | apply steady_modLast | apply steady_sendOrders | split)
theorem steady_issueOuts (s : State) (lid pos tile : Nat) (outs : List OutOp) (h0 : Steady hv s) : Steady hv (issueOuts s lid pos tile outs) := by
  unfold issueOuts
  with_reducible repeat' (first | assumption | apply steady_issueEng | apply steady_issueMark | apply steady_issuePush | apply steady_foldl | intro _ | split)
theorem steady_faultPos (s : State) (lid q : Nat) (p : Pos) (f : Nat × Nat × Bool × Nat × Nat) (h0 : Steady hv s) : Steady hv (faultPos s lid q p f) := by
  unfold faultPos
  with_reducible repeat' (first | assumption | apply steady_modLast | apply steady_modPos | apply steady_postFault)
theorem steady_readFor (s : State) (lid q : Nat) (p : Pos) (ts : List (Nat × Touch)) (lines : List Nat) (h0 : Steady hv s) : Steady hv (readFor s lid q p ts lines) := by
  unfold readFor
  with_reducible repeat' (first | assumption | apply steady_issueEng | apply steady_modPos | apply steady_foldl | intro _)
theorem steady_translatePos (s : State) (lid q : Nat) (h0 : Steady hv s) : Steady hv (translatePos s lid q) := by
  unfold translatePos
  with_reducible repeat' (first | assumption | apply steady_cachePage | apply steady_faultPos | apply steady_modLast | apply steady_modPos | apply steady_readFor | simp only [steady_mk] | apply steady_foldl | intro _ | split)
theorem steady_dispatch (s : State) (lid : Nat) (h0 : Steady hv s) : Steady hv (dispatch s lid) := by
  unfold dispatch
  with_reducible repeat' (first | assumption | apply steady_modLast | apply steady_foldl | intro _ | split)
theorem steady_addSelect (s : State) (lid pos : Nat) (h0 : Steady hv s) : Steady hv (addSelect s lid pos) := by
  unfold addSelect
  with_reducible repeat' (first | assumption | apply steady_modLast)
theorem steady_beginChain (s : State) (lid c : Nat) (h0 : Steady hv s) : Steady hv (beginChain s lid c) := by
  unfold beginChain
  with_reducible repeat' (first | assumption | apply steady_addSelect | apply steady_modLast | apply steady_setCore | simp only [steady_mk] | apply steady_foldl | intro _ | split)
theorem steady_settleLast (s : State) (lid : Nat) (fuel : Nat) (h0 : Steady hv s) : Steady hv (settleLast s lid  fuel) := by
  induction fuel generalizing s with
  | zero => exact h0
  | succ fuel ih =>
    unfold settleLast
    repeat' (first | (with_reducible assumption) | (with_reducible apply ih) | (with_reducible apply steady_addSelect) | (with_reducible apply steady_beginChain) | (with_reducible apply steady_dispatch) | (with_reducible apply steady_finishLast) | (with_reducible apply steady_modLast) | (with_reducible apply steady_stopLast) | (simp only [steady_mk, steady_mk_hw, steady_mk_dram, steady_mk_hw_dram, steady_mk_clk]) | (with_reducible apply steady_foldl) | (with_reducible apply steady_elim) | (intro _) | (with_reducible apply steady_ite) | split | dsimp only)
theorem steady_goLast (s : State) (lid : Nat) (h0 : Steady hv s) : Steady hv (goLast s lid) := by
  unfold goLast
  with_reducible repeat' (first | assumption | apply steady_modLast | apply steady_settleLast)
theorem steady_goLasts (s : State) (h0 : Steady hv s) : Steady hv (goLasts s) := by
  unfold goLasts
  with_reducible repeat' (first | assumption | apply steady_goLast | apply steady_foldl | intro _)
theorem steady_endLast (s : State) (lid status stage tile : Nat) (h0 : Steady hv s) : Steady hv (endLast s lid status stage tile) := by
  unfold endLast
  with_reducible repeat' (first | assumption | apply steady_goLast | apply steady_stopLast)
theorem steady_lastStop (s : State) (lid : Nat) (h0 : Steady hv s) : Steady hv (lastStop s lid) := by
  unfold lastStop
  with_reducible repeat' (first | assumption | apply steady_endLast)

theorem steady_execSeqFlitReceive (port : Nat) (flit : List Byte) (s : State) (h0 : Steady hv s) : ∀ t, execSeqFlitReceive port flit s = .next t → Steady hv t := by
  intro t ht
  unfold execSeqFlitReceive at ht
  injection ht with ht; subst ht
  with_reducible repeat' (first | assumption | apply steady_goLasts | apply steady_seqFlit)
theorem steady_execIdleFlitReceive (port : Nat) (flit : List Byte) (s : State) (h0 : Steady hv s) : ∀ t, execIdleFlitReceive port flit s = .next t → Steady hv t := by
  intro t ht
  unfold execIdleFlitReceive at ht
  injection ht with ht; subst ht
  exact steady_goLasts _ (steady_controlFlit _ _ _ _ _ h0 fun _ h => h)
theorem steady_execNakReceive (port : Nat) (flit : List Byte) (s : State) (h0 : Steady hv s) : ∀ t, execNakReceive port flit s = .next t → Steady hv t := by
  intro t ht
  unfold execNakReceive at ht
  injection ht with ht; subst ht
  with_reducible repeat' (first | assumption | apply steady_controlFlit | apply steady_goLasts | apply steady_nakTake)

theorem steady_substitute (s : State) (lid core sp : Nat) (h0 : Steady hv s) : Steady hv (substitute s lid core sp) := by
  unfold substitute
  with_reducible repeat' (first | assumption | apply steady_goLast | apply steady_modLast | apply steady_setCore | split)
theorem steady_fenceCore (s : State) (core cause : Nat) (h0 : Steady hv s) : Steady hv (fenceCore s core cause) := by
  unfold fenceCore
  with_reducible repeat' (first | assumption | apply steady_commitSelf | apply steady_endLast | apply steady_event | apply steady_substitute | simp only [steady_mk] | split)
theorem steady_setHeld (s : State) (lid : Nat) (h : Held) (h0 : Steady hv s) : Steady hv (setHeld s lid h) := by
  unfold setHeld
  with_reducible repeat' (first | assumption | apply steady_modLast)
theorem steady_dropHeld (s : State) (lid tile : Nat) (h0 : Steady hv s) : Steady hv (dropHeld s lid tile) := by
  unfold dropHeld
  with_reducible repeat' (first | assumption | apply steady_modLast)
theorem steady_compareRuns (s : State) (lid pos tile : Nat) (h0 : Steady hv s) : Steady hv (compareRuns s lid pos tile) := by
  unfold compareRuns
  with_reducible repeat' (first | assumption | apply steady_dropHeld | apply steady_endLast | apply steady_event | apply steady_goLast | apply steady_issueOuts | apply steady_setCore | apply steady_setHeld | simp only [steady_mk] | split)
theorem steady_arrayErrors (s : State) (g ctx : Nat) (ue : BenchErrors) (h0 : Steady hv s) : Steady hv (arrayErrors s g ctx ue) := by
  unfold arrayErrors
  with_reducible repeat' (first | assumption | apply steady_event | simp only [steady_mk] | apply steady_foldl | intro _)
theorem steady_positionEnd (s : State) (lid q : Nat) (ue : BenchErrors) (h0 : Steady hv s) : Steady hv (positionEnd s lid q ue) := by
  unfold positionEnd
  with_reducible repeat' (first | assumption | apply steady_arrayErrors | apply steady_compareRuns | apply steady_dropPos | apply steady_endLast | apply steady_goLast | apply steady_issueOuts | apply steady_modLast | apply steady_setCore | apply steady_setHeld | simp only [steady_mk] | intro _ | apply steady_ite | split)
theorem steady_execPositionEnd (lid pos : Nat) (ue : BenchErrors) (s : State) (h0 : Steady hv s) : ∀ t, execPositionEnd lid pos ue s = .next t → Steady hv t := by
  intro t ht
  unfold execPositionEnd at ht
  injection ht with ht; subst ht
  with_reducible repeat' (first | assumption | apply steady_positionEnd | split)
theorem steady_execTranslationWalkDone (lid pos : Nat) (s : State) (h0 : Steady hv s) : ∀ t, execTranslationWalkDone lid pos s = .next t → Steady hv t := by
  intro t ht
  unfold execTranslationWalkDone at ht
  injection ht with ht; subst ht
  with_reducible repeat' (first | assumption | apply steady_translatePos | split)
theorem steady_execLastStartTimeReached (lid : Nat) (s : State) (h0 : Steady hv s) : ∀ t, execLastStartTimeReached lid s = .next t → Steady hv t := by
  intro t ht
  unfold execLastStartTimeReached at ht
  injection ht with ht; subst ht
  with_reducible repeat' (first | assumption | apply steady_beginChain | apply steady_goLast | apply steady_modLast | split)
theorem steady_depositRead (s : State) (lid : Nat) (r : EngReq) (h0 : Steady hv s) : Steady hv (depositRead s lid r) := by
  unfold depositRead
  with_reducible repeat' (first | assumption | apply steady_modPos)
theorem steady_engineRequest (s : State) (lid idx : Nat) (h0 : Steady hv s) : Steady hv (engineRequest s lid idx) := by
  unfold engineRequest
  with_reducible repeat' (first | assumption | apply steady_depositRead | apply steady_endLast | apply steady_goLast | apply steady_modLast | apply steady_sendEng | split)
theorem steady_execEngineRequestComplete (lid idx : Nat) (s : State) (h0 : Steady hv s) : ∀ t, execEngineRequestComplete lid idx s = .next t → Steady hv t := by
  intro t ht
  unfold execEngineRequestComplete at ht
  injection ht with ht; subst ht
  with_reducible repeat' (first | assumption | apply steady_engineRequest)
theorem steady_tileOverrun (s : State) (lid q ns : Nat) (h0 : Steady hv s) : Steady hv (tileOverrun s lid q ns) := by
  unfold tileOverrun
  with_reducible repeat' (first | assumption | apply steady_event | apply steady_modLast | apply steady_modPos | simp only [steady_mk] | split)
theorem steady_execTileOverrun (lid pos ns : Nat) (s : State) (h0 : Steady hv s) : ∀ t, execTileOverrun lid pos ns s = .next t → Steady hv t := by
  intro t ht
  unfold execTileOverrun at ht
  injection ht with ht; subst ht
  with_reducible repeat' (first | assumption | apply steady_tileOverrun | split)
theorem steady_capture (s : State) (r : RunOut) (h0 : Steady hv s) : Steady hv (capture s r) := by
  unfold capture
  with_reducible repeat' (first | assumption | apply steady_ownStore | simp only [steady_mk] | intro _ | apply steady_ite | split)
theorem steady_thirdRunEnd (s : State) (lid q stream : Nat) (h0 : Steady hv s) : Steady hv (thirdRunEnd s lid q stream) := by
  unfold thirdRunEnd
  with_reducible repeat' (first | assumption | apply steady_State_tickFree | apply steady_capture | apply steady_dropHeld | apply steady_endLast | apply steady_event | apply steady_fenceCore | apply steady_goLast | apply steady_issueOuts | apply steady_releaseCore | simp only [steady_mk] | split)
theorem steady_execThirdRunEnd (lid pos stream : Nat) (s : State) (h0 : Steady hv s) : ∀ t, execThirdRunEnd lid pos stream s = .next t → Steady hv t := by
  intro t ht
  unfold execThirdRunEnd at ht
  injection ht with ht; subst ht
  with_reducible repeat' (first | assumption | apply steady_thirdRunEnd | split)
theorem steady_execBenchClearDone (core : Nat) (s : State) (h0 : Steady hv s) : ∀ t, execBenchClearDone core s = .next t → Steady hv t := by
  intro t ht
  unfold execBenchClearDone at ht
  injection ht with ht; subst ht
  with_reducible repeat' (first | assumption | apply steady_setCore | split)
theorem steady_readImage (s : State) (w cid : Nat) (lines : List Nat) (h0 : Steady hv s) : Steady hv (readImage s w cid lines) := by
  unfold readImage
  with_reducible repeat' (first | assumption | apply steady_completeCode | apply steady_enqueue | simp only [steady_mk] | apply steady_foldl | intro _ | split)
theorem steady_lastLoadBody (s : State) (x : Win) (h0 : Steady hv s) : Steady hv (lastLoadBody s x).1 := by
  unfold lastLoadBody
  with_reducible repeat' (first | assumption | apply steady_fail | apply steady_goesOn | apply steady_guardArg | apply steady_readImage | simp only [steady_mk] | intro _ | split)
theorem steady_finishLoad (s : State) (w : Nat) (l : Load) (st : Nat) (h0 : Steady hv s) : Steady hv (finishLoad s w l st) := by
  unfold finishLoad
  with_reducible repeat' (first | assumption | apply steady_finishCmd | simp only [steady_mk] | split)
theorem steady_execLastLoad (w : Nat) (s : State) (h0 : Steady hv s) : ∀ t, execLastLoad w s = .next t → Steady hv t := by
  intro t ht
  unfold execLastLoad at ht
  injection ht with ht; subst ht
  with_reducible repeat' (first | assumption | apply steady_finishLoad | apply steady_lastLoadBody | apply steady_runCmd | split)
theorem steady_lastUnloadBody (s : State) (x : Win) (h0 : Steady hv s) : Steady hv (lastUnloadBody s x).1 := by
  unfold lastUnloadBody
  with_reducible repeat' (first | assumption | apply steady_fail | apply steady_good | simp only [steady_mk] | split)
theorem steady_execLastUnload (w : Nat) (s : State) (h0 : Steady hv s) : ∀ t, execLastUnload w s = .next t → Steady hv t := by
  intro t ht
  unfold execLastUnload at ht
  injection ht with ht; subst ht
  with_reducible repeat' (first | assumption | apply steady_lastUnloadBody | apply steady_runCmd)
theorem steady_lastStopBody (s : State) (x : Win) (h0 : Steady hv s) : Steady hv (lastStopBody s x).1 := by
  unfold lastStopBody
  with_reducible repeat' (first | assumption | apply steady_fail | apply steady_goesOn | apply steady_lastStop | apply steady_markBegun | apply steady_modLast | split)
theorem steady_execLastStop (w : Nat) (s : State) (h0 : Steady hv s) : ∀ t, execLastStop w s = .next t → Steady hv t := by
  intro t ht
  unfold execLastStop at ht
  injection ht with ht; subst ht
  with_reducible repeat' (first | assumption | apply steady_lastStopBody | apply steady_runCmd)
theorem steady_lastQueryBody (s : State) (x : Win) (h0 : Steady hv s) : Steady hv (lastQueryBody s x).1 := by
  unfold lastQueryBody
  with_reducible repeat' (first | assumption | apply steady_fail | apply steady_good | split)
theorem steady_execLastQuery (w : Nat) (s : State) (h0 : Steady hv s) : ∀ t, execLastQuery w s = .next t → Steady hv t := by
  intro t ht
  unfold execLastQuery at ht
  injection ht with ht; subst ht
  with_reducible repeat' (first | assumption | apply steady_lastQueryBody | apply steady_runCmd)

theorem steady_retryFaults (s : State) (qid : Nat) (h0 : Steady hv s) : Steady hv (retryFaults s qid) := by
  unfold retryFaults
  with_reducible repeat' (first | assumption | apply steady_postFault | apply steady_foldl | intro _ | split)
theorem steady_qdb (s : State) (qid src sqTail cqHead fqHead : Nat) (h0 : Steady hv s) : Steady hv (qdb s qid src sqTail cqHead fqHead) := by
  unfold qdb
  with_reducible repeat' (first | assumption | apply steady_learn | apply steady_modQueue | apply steady_retryFaults | simp only [steady_mk] | split)
theorem steady_execQdb (m : MgtMsg) (s : State) (h0 : Steady hv s) : ∀ t, execQdb m s = .next t → Steady hv t := by
  intro t ht
  unfold execQdb at ht
  injection ht with ht; subst ht
  with_reducible repeat' (first | assumption | apply steady_mbxTake | apply steady_qdb | simp only [steady_mk] | intro _)
theorem steady_execDescriptorFetch (qid : Nat) (s : State) (h0 : Steady hv s) : ∀ t, execDescriptorFetch qid s = .next t → Steady hv t := by
  intro t ht
  unfold execDescriptorFetch at ht
  injection ht with ht; subst ht
  with_reducible repeat' (first | assumption | apply steady_issueRing | apply steady_modQueue | split)
theorem steady_ringFailed (s : State) (qid : Nat) (q : Queue) (a : RingAcc) (code : CmpCode) (h0 : Steady hv s) : Steady hv (ringFailed s qid q a code) := by
  unfold ringFailed
  with_reducible repeat' (first | assumption | apply steady_State_tickFree | apply steady_event | apply steady_modQueue | apply steady_notice | apply steady_settleDestroy | split)
theorem steady_descArrived (s : State) (qid : Nat) (a : RingAcc) (h0 : Steady hv s) : Steady hv (descArrived s qid a) := by
  unfold descArrived
  with_reducible repeat' (first | assumption | apply steady_modQueue | apply steady_settleQueue)
theorem steady_recordWritten (s : State) (qid : Nat) (q : Queue) (h0 : Steady hv s) : Steady hv (recordWritten s qid q) := by
  unfold recordWritten
  with_reducible repeat' (first | assumption | apply steady_finishCmd | apply steady_modQueue | apply steady_notice | apply steady_settleDestroy | apply steady_settleQueue | apply steady_writeNext | split)
theorem steady_ringDone (s : State) (qid idx : Nat) (h0 : Steady hv s) : Steady hv (ringDone s qid idx) := by
  unfold ringDone
  with_reducible repeat' (first | assumption | apply steady_descArrived | apply steady_modQueue | apply steady_notice | apply steady_recordWritten | apply steady_ringFailed | split)
theorem steady_execRingAccessDone (qid idx : Nat) (s : State) (h0 : Steady hv s) : ∀ t, execRingAccessDone qid idx s = .next t → Steady hv t := by
  intro t ht
  unfold execRingAccessDone at ht
  injection ht with ht; subst ht
  with_reducible repeat' (first | assumption | apply steady_ringDone)
theorem steady_presentStart (s : State) (qid : Nat) (h0 : Steady hv s) : Steady hv (presentStart s qid) := by
  unfold presentStart
  with_reducible repeat' (first | assumption | apply steady_beginChain | apply steady_endDesc | apply steady_goLast | apply steady_modQueue | apply steady_setCore | apply steady_settleQueue | simp only [steady_mk] | apply steady_foldl | intro _ | split)
theorem steady_execLastStart (qid : Nat) (s : State) (h0 : Steady hv s) : ∀ t, execLastStart qid s = .next t → Steady hv t := by
  intro t ht
  unfold execLastStart at ht
  injection ht with ht; subst ht
  with_reducible repeat' (first | assumption | apply steady_presentStart)
theorem steady_tableDone (s : State) (qid : Nat) (d : Desc) (ctx digest : Nat) (h0 : Steady hv s) : Steady hv (tableDone s qid d ctx digest) := by
  unfold tableDone
  with_reducible repeat' (first | assumption | apply steady_endDesc | apply steady_modCtx | apply steady_settleQueue)
theorem steady_epochStep (s : State) (qid : Nat) (d : Desc) (ctx lo hi : Nat) (h0 : Steady hv s) : Steady hv (epochStep s qid d ctx lo hi) := by
  unfold epochStep
  with_reducible repeat' (first | assumption | apply steady_dropCached | apply steady_modCtx | apply steady_modQueue | apply steady_tableDone | simp only [steady_mk] | split)
theorem steady_runTable (s : State) (qid op : Nat) (body : State → Queue → Desc → Ctx → State) (h0 : Steady hv s) (k0 : ∀ (x0 : State) (x1 : Queue) (x2 : Desc) (x3 : Ctx), Steady hv x0 → Steady hv (body x0 x1 x2 x3)) : Steady hv (runTable s qid op body) := by
  unfold runTable
  with_reducible repeat' (first | assumption | apply steady_endDesc | apply steady_settleQueue | apply k0 | split)
theorem steady_mapBody (s : State) (qid : Nat) (d : Desc) (q : Queue) (c : Ctx) (h0 : Steady hv s) : Steady hv (mapBody s qid d q c) := by
  unfold mapBody
  with_reducible repeat' (first | assumption | apply steady_endDesc | apply steady_epochStep | apply steady_modCtx | apply steady_settleQueue | apply steady_tableDone | simp only [steady_mk] | split)
theorem steady_execMap (qid : Nat) (s : State) (h0 : Steady hv s) : ∀ t, execMap qid s = .next t → Steady hv t := by
  intro t ht
  unfold execMap at ht
  injection ht with ht; subst ht
  with_reducible repeat' (first | assumption | apply steady_mapBody | apply steady_runTable | intro _)
theorem steady_unmapBody (s : State) (qid : Nat) (d : Desc) (q : Queue) (c : Ctx) (h0 : Steady hv s) : Steady hv (unmapBody s qid d q c) := by
  unfold unmapBody
  with_reducible repeat' (first | assumption | apply steady_endDesc | apply steady_epochStep | apply steady_modCtx | apply steady_settleQueue | simp only [steady_mk] | split)
theorem steady_execUnmap (qid : Nat) (s : State) (h0 : Steady hv s) : ∀ t, execUnmap qid s = .next t → Steady hv t := by
  intro t ht
  unfold execUnmap at ht
  injection ht with ht; subst ht
  with_reducible repeat' (first | assumption | apply steady_runTable | apply steady_unmapBody | intro _)
theorem steady_syncBody (s : State) (qid : Nat) (d : Desc) (q : Queue) (c : Ctx) (h0 : Steady hv s) : Steady hv (syncBody s qid d q c) := by
  unfold syncBody
  with_reducible repeat' (first | assumption | apply steady_endDesc | apply steady_settleQueue | apply steady_tableDone | simp only [steady_mk] | split)
theorem steady_execSync (qid : Nat) (s : State) (h0 : Steady hv s) : ∀ t, execSync qid s = .next t → Steady hv t := by
  intro t ht
  unfold execSync at ht
  injection ht with ht; subst ht
  with_reducible repeat' (first | assumption | apply steady_runTable | apply steady_syncBody | intro _)
theorem steady_epochDrainDone (s : State) (cid : Nat) (h0 : Steady hv s) : Steady hv (epochDrainDone s cid) := by
  unfold epochDrainDone
  with_reducible repeat' (first | assumption | apply steady_endDesc | apply steady_finishCmd | apply steady_modCtx | apply steady_settleQueue | simp only [steady_mk] | split)
theorem steady_execEpochDrainDone (ctx : Nat) (s : State) (h0 : Steady hv s) : ∀ t, execEpochDrainDone ctx s = .next t → Steady hv t := by
  intro t ht
  unfold execEpochDrainDone at ht
  injection ht with ht; subst ht
  with_reducible repeat' (first | assumption | apply steady_epochDrainDone)
theorem steady_epochDrainTimeout (s : State) (cid : Nat) (h0 : Steady hv s) : Steady hv (epochDrainTimeout s cid) := by
  unfold epochDrainTimeout
  with_reducible repeat' (first | assumption | apply steady_lastStop | apply steady_modCtx | apply steady_foldl | split)
theorem steady_execEpochDrainTimeout (ctx : Nat) (s : State) (h0 : Steady hv s) : ∀ t, execEpochDrainTimeout ctx s = .next t → Steady hv t := by
  intro t ht
  unfold execEpochDrainTimeout at ht
  injection ht with ht; subst ht
  with_reducible repeat' (first | assumption | apply steady_epochDrainTimeout)
theorem steady_replayRecord (s : State) (qid : Nat) (f : FaultRec) (h0 : Steady hv s) : Steady hv (replayRecord s qid f) := by
  unfold replayRecord
  with_reducible repeat' (first | assumption | apply steady_modPos | apply steady_modQueue | apply steady_foldl | intro _)
theorem steady_execResume (qid : Nat) (s : State) (h0 : Steady hv s) : ∀ t, execResume qid s = .next t → Steady hv t := by
  intro t ht
  unfold execResume at ht
  injection ht with ht; subst ht
  with_reducible repeat' (first | assumption | apply steady_endDesc | apply steady_lastStop | apply steady_replayRecord | apply steady_settleQueue | split)
theorem steady_execFaultTmoExpiry (qid fseq : Nat) (s : State) (h0 : Steady hv s) : ∀ t, execFaultTmoExpiry qid fseq s = .next t → Steady hv t := by
  intro t ht
  unfold execFaultTmoExpiry at ht
  injection ht with ht; subst ht
  with_reducible repeat' (first | assumption | apply steady_lastStop | split)
theorem steady_ctxCreateBody (s : State) (x : Win) (h0 : Steady hv s) : Steady hv (ctxCreateBody s x).1 := by
  unfold ctxCreateBody
  with_reducible repeat' (first | assumption | apply steady_fail | apply steady_good | apply steady_guardArg | simp only [steady_mk] | intro _ | split)
theorem steady_execCtxCreate (w : Nat) (s : State) (h0 : Steady hv s) : ∀ t, execCtxCreate w s = .next t → Steady hv t := by
  intro t ht
  unfold execCtxCreate at ht
  injection ht with ht; subst ht
  with_reducible repeat' (first | assumption | apply steady_ctxCreateBody | apply steady_runCmd)
theorem steady_ctxDestroyBody (s : State) (x : Win) (h0 : Steady hv s) : Steady hv (ctxDestroyBody s x).1 := by
  unfold ctxDestroyBody
  with_reducible repeat' (first | assumption | apply steady_good | apply steady_guardArg | simp only [steady_mk] | intro _)
theorem steady_execCtxDestroy (w : Nat) (s : State) (h0 : Steady hv s) : ∀ t, execCtxDestroy w s = .next t → Steady hv t := by
  intro t ht
  unfold execCtxDestroy at ht
  injection ht with ht; subst ht
  with_reducible repeat' (first | assumption | apply steady_ctxDestroyBody | apply steady_runCmd)
theorem steady_execCtxQuery (w : Nat) (s : State) (h0 : Steady hv s) : ∀ t, execCtxQuery w s = .next t → Steady hv t := by
  intro t ht
  unfold execCtxQuery at ht
  injection ht with ht; subst ht
  with_reducible repeat' (first | assumption | apply steady_good | apply steady_runCmd | intro _)
theorem steady_ctxSetBody (s : State) (x : Win) (h0 : Steady hv s) : Steady hv (ctxSetBody s x).1 := by
  unfold ctxSetBody
  with_reducible repeat' (first | assumption | apply steady_good | apply steady_guardArg | apply steady_modCtx | intro _)
theorem steady_execCtxSet (w : Nat) (s : State) (h0 : Steady hv s) : ∀ t, execCtxSet w s = .next t → Steady hv t := by
  intro t ht
  unfold execCtxSet at ht
  injection ht with ht; subst ht
  with_reducible repeat' (first | assumption | apply steady_ctxSetBody | apply steady_runCmd)
theorem steady_ctxBindBody (s : State) (x : Win) (h0 : Steady hv s) : Steady hv (ctxBindBody s x).1 := by
  unfold ctxBindBody
  with_reducible repeat' (first | assumption | apply steady_fail | apply steady_good | apply steady_modCtx | simp only [steady_mk] | split)
theorem steady_execCtxBindHall (w : Nat) (s : State) (h0 : Steady hv s) : ∀ t, execCtxBindHall w s = .next t → Steady hv t := by
  intro t ht
  unfold execCtxBindHall at ht
  injection ht with ht; subst ht
  with_reducible repeat' (first | assumption | apply steady_ctxBindBody | apply steady_runCmd)
theorem steady_ctxUnbindBody (s : State) (x : Win) (h0 : Steady hv s) : Steady hv (ctxUnbindBody s x).1 := by
  unfold ctxUnbindBody
  with_reducible repeat' (first | assumption | apply steady_fail | apply steady_goesOn | apply steady_good | apply steady_modCtx | simp only [steady_mk] | split)
theorem steady_execCtxUnbindHall (w : Nat) (s : State) (h0 : Steady hv s) : ∀ t, execCtxUnbindHall w s = .next t → Steady hv t := by
  intro t ht
  unfold execCtxUnbindHall at ht
  injection ht with ht; subst ht
  with_reducible repeat' (first | assumption | apply steady_ctxUnbindBody | apply steady_runCmd | split)
theorem steady_queueCreateBody (s : State) (x : Win) (h0 : Steady hv s) : Steady hv (queueCreateBody s x).1 := by
  unfold queueCreateBody
  with_reducible repeat' (first | assumption | apply steady_fail | apply steady_good | apply steady_guardArg | apply steady_modCtx | simp only [steady_mk] | intro _ | split)
theorem steady_execQueueCreate (w : Nat) (s : State) (h0 : Steady hv s) : ∀ t, execQueueCreate w s = .next t → Steady hv t := by
  intro t ht
  unfold execQueueCreate at ht
  injection ht with ht; subst ht
  with_reducible repeat' (first | assumption | apply steady_queueCreateBody | apply steady_runCmd)
theorem steady_stopQueue (s : State) (qid : Nat) (w : Option Nat) (h0 : Steady hv s) : Steady hv (stopQueue s qid w) := by
  unfold stopQueue
  with_reducible repeat' (first | assumption | apply steady_lastStop | apply steady_modQueue | apply steady_settleDestroy | apply steady_foldl | intro _)
theorem steady_queueDestroyBody (s : State) (x : Win) (h0 : Steady hv s) : Steady hv (queueDestroyBody s x).1 := by
  unfold queueDestroyBody
  with_reducible repeat' (first | assumption | apply steady_fail | apply steady_goesOn | apply steady_markBegun | apply steady_stopQueue | simp only [steady_mk] | split)
theorem steady_execQueueDestroy (w : Nat) (s : State) (h0 : Steady hv s) : ∀ t, execQueueDestroy w s = .next t → Steady hv t := by
  intro t ht
  unfold execQueueDestroy at ht
  injection ht with ht; subst ht
  with_reducible repeat' (first | assumption | apply steady_queueDestroyBody | apply steady_runCmd)
theorem steady_execQueueQuery (w : Nat) (s : State) (h0 : Steady hv s) : ∀ t, execQueueQuery w s = .next t → Steady hv t := by
  intro t ht
  unfold execQueueQuery at ht
  injection ht with ht; subst ht
  with_reducible repeat' (first | assumption | apply steady_fail | apply steady_good | apply steady_runCmd | intro _ | split)
theorem steady_queueSetBody (s : State) (x : Win) (h0 : Steady hv s) : Steady hv (queueSetBody s x).1 := by
  unfold queueSetBody
  with_reducible repeat' (first | assumption | apply steady_good | apply steady_guardArg | apply steady_modQueue | simp only [steady_mk, steady_mk_hw, steady_mk_dram, steady_mk_hw_dram, steady_mk_clk, steady_mk_clk_dram] | apply steady_foldl | apply steady_foldl_fst | apply steady_elim | intro _ | apply steady_ite | split | exact steady_of_fst (by assumption) (by assumption) | refine steady_of_fst (by assumption) ?_ | dsimp only)
theorem steady_execQueueSet (w : Nat) (s : State) (h0 : Steady hv s) : ∀ t, execQueueSet w s = .next t → Steady hv t := by
  intro t ht
  unfold execQueueSet at ht
  injection ht with ht; subst ht
  with_reducible repeat' (first | assumption | apply steady_queueSetBody | apply steady_runCmd)
theorem steady_rxwinSetBody (s : State) (x : Win) (h0 : Steady hv s) : Steady hv (rxwinSetBody s x).1 := by
  unfold rxwinSetBody
  with_reducible repeat' (first | assumption | apply steady_good | apply steady_guardArg | simp only [steady_mk, steady_mk_hw, steady_mk_dram, steady_mk_hw_dram, steady_mk_clk, steady_mk_clk_dram] | apply steady_foldl | apply steady_foldl_fst | apply steady_elim | intro _ | apply steady_ite | split | exact steady_of_fst (by assumption) (by assumption) | refine steady_of_fst (by assumption) ?_ | dsimp only)
theorem steady_execRxwinSet (w : Nat) (s : State) (h0 : Steady hv s) : ∀ t, execRxwinSet w s = .next t → Steady hv t := by
  intro t ht
  unfold execRxwinSet at ht
  injection ht with ht; subst ht
  with_reducible repeat' (first | assumption | apply steady_runCmd | apply steady_rxwinSetBody)

end Sys2Proof.Laws
end

