-- ==== Sys2Proof/Laws/SteadyStart.lean ====
section
/-! SUPPORT. Every operation on tenants, DRAM, starts, faults, power, firmware and the pair keeps what `Steady` says. -/

namespace Sys2Proof.Laws

set_option linter.unusedSimpArgs false

open Sys2Proof.Machine

variable {hv : Kept}

theorem steady_modTenant (s : State) (t : Nat) (f : Tenant → Tenant) (h0 : Steady hv s) : Steady hv (modTenant s t f) := by
  unfold modTenant
  with_reducible repeat' (first | assumption | simp only [steady_mk])
theorem steady_fillSlot (s : State) (t gen key : Nat) (manifest : List Byte) (h0 : Steady hv s) : Steady hv (fillSlot s t gen key manifest) := by
  unfold fillSlot
  with_reducible repeat' (first | assumption | apply steady_modTenant | apply steady_sendMirror | simp only [steady_mk] | split)
theorem steady_drawKey (s : State) (h0 : Steady hv s) : Steady hv (drawKey s).1 := by
  unfold drawKey
  with_reducible repeat' (first | assumption | apply steady_State_tickFree)
theorem steady_tenantCreateBody (s : State) (x : Win) (h0 : Steady hv s) : Steady hv (tenantCreateBody s x).1 := by
  unfold tenantCreateBody
  dsimp only
  refine steady_guardArg _ _ _ h0 fun _ => ?_
  split
  · exact steady_fail _ _ _ h0
  · rename_i e
    refine steady_retain _ _ _ h0 ?_ fun _ h => steady_good _ _ h
    have fin : ∀ (r : Tenant), Steady hv { s with ten := { s.ten with recs := s.ten.recs.set (x.arg 0 2) r } } := fun r => by simp only [steady_mk]; exact h0
    split at e
    · injection e with e; subst e; exact steady_fillSlot _ _ _ _ _ (steady_drawKey _ (fin _))
    · split at e
      · injection e with e; subst e; exact fin _
      · obtain ⟨k, -, rfl⟩ := Option.map_eq_some_iff.1 e; exact steady_fillSlot _ _ _ _ _ (fin _)
    · injection e with e; subst e; exact fin _
theorem steady_execTenantCreate (w : Nat) (s : State) (h0 : Steady hv s) : ∀ t, execTenantCreate w s = .next t → Steady hv t := by
  intro t ht
  unfold execTenantCreate at ht
  injection ht with ht; subst ht
  with_reducible repeat' (first | assumption | apply steady_runRetained | apply steady_tenantCreateBody)
theorem steady_execTenantQuery (w : Nat) (s : State) (h0 : Steady hv s) : ∀ t, execTenantQuery w s = .next t → Steady hv t := by
  intro t ht
  unfold execTenantQuery at ht
  injection ht with ht; subst ht
  with_reducible repeat' (first | assumption | apply steady_fail | apply steady_good | apply steady_runCmd | intro _ | split)
theorem steady_tenantKeyLoadBody (s : State) (x : Win) (h0 : Steady hv s) : Steady hv (tenantKeyLoadBody s x).1 := by
  unfold tenantKeyLoadBody
  with_reducible repeat' (first | assumption | apply steady_commitSelf | apply steady_fail | apply steady_fillSlot | apply steady_good | apply steady_guardArg | intro _ | split)
theorem steady_execTenantKeyLoad (w : Nat) (s : State) (h0 : Steady hv s) : ∀ t, execTenantKeyLoad w s = .next t → Steady hv t := by
  intro t ht
  unfold execTenantKeyLoad at ht
  injection ht with ht; subst ht
  with_reducible repeat' (first | assumption | apply steady_runCmd | apply steady_tenantKeyLoadBody)
theorem steady_flipCur (s : State) (t : Nat) (h0 : Steady hv s) : Steady hv (flipCur s t) := by
  unfold flipCur
  with_reducible repeat' (first | assumption | apply steady_modTenant)
theorem steady_rotationKey (s : State) (x : Win) (r : Tenant) (h0 : Steady hv s) : ∀ t, rotationKey s x r = some t → Steady hv t.1 := by
  intro t ht; unfold rotationKey at ht; dsimp only at ht
  split at ht
  · injection ht with ht; subst ht; exact steady_drawKey _ h0
  · obtain ⟨k, -, rfl⟩ := Option.map_eq_some_iff.1 ht; exact h0
  · split at ht
    · cases ht
    · obtain ⟨k, -, rfl⟩ := Option.map_eq_some_iff.1 ht; exact h0
theorem steady_tenantRotateBody (s : State) (x : Win) (h0 : Steady hv s) : Steady hv (tenantRotateBody s x).1 := by
  unfold tenantRotateBody
  dsimp only
  refine steady_guardArg _ _ _ h0 fun _ => ?_
  split
  · exact steady_fail _ _ _ h0
  · exact steady_fail _ _ _ h0
  · rename_i e
    have h1 := steady_rotationKey _ _ _ h0 _ e
    dsimp only at h1
    rw [apply_ite Prod.fst]
    refine steady_ite (fun _ => ?_) fun _ => ?_
    · refine steady_retain _ _ _ h0 (steady_flipCur _ _ (steady_fillSlot _ _ _ _ _ (steady_modTenant _ _ _ h1))) fun _ h => steady_good _ _ h
    · refine steady_retain _ _ _ h0 (steady_fillSlot _ _ _ _ _ (steady_modTenant _ _ _ h1)) fun _ h => steady_goesOn _ ?_
      simp only [steady_mk]; exact h
theorem steady_execTenantKeyRotate (w : Nat) (s : State) (h0 : Steady hv s) : ∀ t, execTenantKeyRotate w s = .next t → Steady hv t := by
  intro t ht
  unfold execTenantKeyRotate at ht
  injection ht with ht; subst ht
  with_reducible repeat' (first | assumption | apply steady_runRetained | apply steady_tenantRotateBody)
theorem steady_keyCopyAck (s : State) (slot : Nat) (h0 : Steady hv s) : Steady hv (keyCopyAck s slot) := by
  unfold keyCopyAck
  with_reducible repeat' (first | assumption | apply steady_commitSelf | apply steady_finishCmd | apply steady_flipCur | apply steady_modTenant | simp only [steady_mk] | split)
theorem steady_releaseCopies (s : State) (h0 : Steady hv s) : Steady hv (releaseCopies s) := by
  unfold releaseCopies
  with_reducible repeat' (first | assumption | apply steady_keyCopyAck | simp only [steady_mk] | apply steady_foldl | intro _)
theorem steady_execKeyCopyAck (slot : Nat) (s : State) (h0 : Steady hv s) : ∀ t, execKeyCopyAck slot s = .next t → Steady hv t := by
  intro t ht
  unfold execKeyCopyAck at ht
  injection ht with ht; subst ht
  with_reducible repeat' (first | assumption | apply steady_keyCopyAck)
theorem steady_sweepUnit (s : State) (r : Tenant) (u : Nat) (m : UnitMeta) (h0 : Steady hv s) : Steady hv (sweepUnit s r u m) := by
  unfold sweepUnit
  with_reducible repeat' (first | assumption | apply steady_ctlSettle | apply steady_ctlWrite | apply steady_putUnits | apply steady_readRows | apply steady_setBitsFor | apply steady_setIntent | apply steady_writeRows | simp only [steady_mk] | intro _ | apply steady_ite | split)
theorem steady_sweepGranule (s : State) (hid : Nat) (h : Hall) (c ca : Nat) (h0 : Steady hv s) : Steady hv (sweepGranule s hid h c ca) := by
  unfold sweepGranule
  with_reducible repeat' (first | assumption | apply steady_State_tickFree | apply steady_putGran | apply steady_xfer)
theorem steady_sweepStep (s : State) (t : Nat) (h0 : Steady hv s) : Steady hv (sweepStep s t) := by
  unfold sweepStep
  with_reducible repeat' (first | assumption | apply steady_State_tickFree | apply steady_commitSelf | apply steady_mirrorNote | apply steady_modTenant | apply steady_settleTier | apply steady_sweepGranule | apply steady_sweepUnit | apply steady_writeBack | simp only [steady_mk] | intro _ | apply steady_ite | split)
theorem steady_execSweepStep (tenant : Nat) (s : State) (h0 : Steady hv s) : ∀ t, execSweepStep tenant s = .next t → Steady hv t := by
  intro t ht
  unfold execSweepStep at ht
  injection ht with ht; subst ht
  with_reducible repeat' (first | assumption | apply steady_sweepStep)
theorem steady_sweepEnd (s : State) (t : Nat) (h0 : Steady hv s) : Steady hv (sweepEnd s t) := by
  unfold sweepEnd
  with_reducible repeat' (first | assumption | apply steady_commitSelf | apply steady_modTenant | apply steady_sendMirror | split)
theorem steady_execSweepEnd (tenant : Nat) (s : State) (h0 : Steady hv s) : ∀ t, execSweepEnd tenant s = .next t → Steady hv t := by
  intro t ht
  unfold execSweepEnd at ht
  injection ht with ht; subst ht
  with_reducible repeat' (first | assumption | apply steady_sweepEnd)
theorem steady_setRemoval (s : State) (t : Nat) (o : TenOp) (h0 : Steady hv s) : Steady hv (setRemoval s t o) := by
  unfold setRemoval
  with_reducible repeat' (first | assumption | simp only [steady_mk])
theorem steady_endRemoval (s : State) (t : Nat) (h0 : Steady hv s) : Steady hv (endRemoval s t) := by
  unfold endRemoval
  with_reducible repeat' (first | assumption | simp only [steady_mk])
theorem steady_stopTenant (s : State) (t : Nat) (h0 : Steady hv s) : Steady hv (stopTenant s t) := by
  unfold stopTenant
  with_reducible repeat' (first | assumption | apply steady_lastStop | simp only [steady_mk] | apply steady_foldl)
theorem steady_drainSlots (s : State) (t : Nat) (o : TenOp) (h0 : Steady hv s) : Steady hv (drainSlots s t o) := by
  unfold drainSlots
  with_reducible repeat' (first | assumption | apply steady_modTenant | apply steady_setRemoval)
theorem steady_freeTenant (s : State) (t : Nat) (h0 : Steady hv s) : Steady hv (freeTenant s t) := by
  unfold freeTenant
  with_reducible repeat' (first | assumption | apply steady_commitSelf | simp only [steady_mk] | split)
theorem steady_dropDirty (s : State) (t : Nat) (h0 : Steady hv s) : Steady hv (dropDirty s t) := by
  unfold dropDirty
  with_reducible repeat' (first | assumption | apply steady_dropBlock | apply steady_dropJobs | simp only [steady_mk] | apply steady_foldl | intro _ | split)
theorem steady_zeroise (s : State) (t : Nat) (o : TenOp) (h0 : Steady hv s) : Steady hv (zeroise s t o) := by
  unfold zeroise
  with_reducible repeat' (first | assumption | apply steady_commitErase | apply steady_dropDirty | apply steady_endRemoval | apply steady_finishCmd | apply steady_freeTenant | apply steady_modTenant | apply steady_sendMirror | apply steady_settleTier | simp only [steady_mk] | intro _ | apply steady_ite | split)
theorem steady_settleRemoval (s : State) (t : Nat) (h0 : Steady hv s) : Steady hv (settleRemoval s t) := by
  unfold settleRemoval
  with_reducible repeat' (first | assumption | apply steady_drainSlots | apply steady_endRemoval | apply steady_finishCmd | apply steady_freeTenant | apply steady_startDestroy | simp only [steady_mk] | apply steady_foldl | intro _ | split)
theorem steady_tenantRemoveBody (s : State) (x : Win) (h0 : Steady hv s) : Steady hv (tenantRemoveBody s x).1 := by
  have mk : ∀ s x, Steady hv s → Steady hv (tenantRemoveBody.markWin s x) := by
    intro s x h; unfold tenantRemoveBody.markWin; split
    · exact steady_markBegun _ _ h
    · exact h
  unfold tenantRemoveBody
  dsimp only
  split
  · exact steady_fail _ _ _ h0
  · split
    · exact steady_goesOn _ (steady_settleRemoval _ _ (steady_setRemoval _ _ _ (mk _ _ h0)))
    · exact steady_retain _ _ _ h0 (steady_modTenant _ _ _ h0) fun _ h => steady_goesOn _ (steady_settleRemoval _ _ (steady_setRemoval _ _ _ (steady_stopTenant _ _ (mk _ _ h))))
theorem steady_execTenantRemove (w : Nat) (s : State) (h0 : Steady hv s) : ∀ t, execTenantRemove w s = .next t → Steady hv t := by
  intro t ht
  unfold execTenantRemove at ht
  injection ht with ht; subst ht
  with_reducible repeat' (first | assumption | apply steady_runRetained | apply steady_tenantRemoveBody)
theorem steady_tenantRetireBody (s : State) (x : Win) (h0 : Steady hv s) : Steady hv (tenantRetireBody s x).1 := by
  unfold tenantRetireBody
  with_reducible repeat' (first | assumption | apply steady_drainSlots | apply steady_fail | apply steady_goesOn | apply steady_modTenant | apply steady_retain | apply steady_stopTenant | simp only [steady_mk] | intro _ | split)
theorem steady_execTenantKeyRetire (w : Nat) (s : State) (h0 : Steady hv s) : ∀ t, execTenantKeyRetire w s = .next t → Steady hv t := by
  intro t ht
  unfold execTenantKeyRetire at ht
  injection ht with ht; subst ht
  with_reducible repeat' (first | assumption | apply steady_runRetained | apply steady_tenantRetireBody)
theorem steady_execKeyTrafficDrained (tenant : Nat) (s : State) (h0 : Steady hv s) : ∀ t, execKeyTrafficDrained tenant s = .next t → Steady hv t := by
  intro t ht
  unfold execKeyTrafficDrained at ht
  injection ht with ht; subst ht
  with_reducible repeat' (first | assumption | apply steady_zeroise | split)
theorem steady_execTenantDrainTimeout (tenant : Nat) (s : State) (h0 : Steady hv s) : ∀ t, execTenantDrainTimeout tenant s = .next t → Steady hv t := by
  intro t ht
  unfold execTenantDrainTimeout at ht
  injection ht with ht; subst ht
  with_reducible repeat' (first | assumption | apply steady_zeroise | split)
theorem steady_afterDrain (s : State) (t : Nat) (h0 : Steady hv s) : Steady hv (afterDrain s t) := by
  unfold afterDrain
  with_reducible repeat' (first | assumption | apply steady_freeTenant | apply steady_settleRemoval)
theorem steady_execRevocationDrainDone (hall : Nat) (s : State) (h0 : Steady hv s) : ∀ t, execRevocationDrainDone hall s = .next t → Steady hv t := by
  intro t ht
  unfold execRevocationDrainDone at ht
  injection ht with ht; subst ht
  with_reducible repeat' (first | assumption | apply steady_afterDrain | apply steady_endDrain | split)
theorem steady_execRevocationDrainTimeout (hall : Nat) (s : State) (h0 : Steady hv s) : ∀ t, execRevocationDrainTimeout hall s = .next t → Steady hv t := by
  intro t ht
  unfold execRevocationDrainTimeout at ht
  injection ht with ht; subst ht
  with_reducible repeat' (first | assumption | apply steady_afterDrain | apply steady_finishCmd | simp only [steady_mk] | split)

theorem steady_dramQueryBody (s : State) (x : Win) (h0 : Steady hv s) : Steady hv (dramQueryBody s x).1 := by
  unfold dramQueryBody
  with_reducible repeat' (first | assumption | apply steady_good | apply steady_guardArg | intro _)
theorem steady_execDramQuery (w : Nat) (s : State) (h0 : Steady hv s) : ∀ t, execDramQuery w s = .next t → Steady hv t := by
  intro t ht
  unfold execDramQuery at ht
  injection ht with ht; subst ht
  with_reducible repeat' (first | assumption | apply steady_dramQueryBody | apply steady_runCmd)
theorem steady_dramSetBody (s : State) (x : Win) (h0 : Steady hv s) : Steady hv (dramSetBody s x).1 := by
  unfold dramSetBody
  with_reducible repeat' (first | assumption | apply steady_good | apply steady_guardArg | apply steady_modChan | apply steady_retain | simp only [steady_mk_dram] | intro _)
theorem steady_execDramSet (w : Nat) (s : State) (h0 : Steady hv s) : ∀ t, execDramSet w s = .next t → Steady hv t := by
  intro t ht
  unfold execDramSet at ht
  injection ht with ht; subst ht
  with_reducible repeat' (first | assumption | apply steady_dramSetBody | apply steady_runRetained)
theorem steady_dramDiagWriteBody (s : State) (x : Win) (h0 : Steady hv s) : Steady hv (dramDiagWriteBody s x).1 := by
  unfold dramDiagWriteBody
  with_reducible repeat' (first | assumption | apply steady_enqueue | apply steady_fail | apply steady_goesOn | apply steady_guardArg | simp only [steady_mk_hw] | apply steady_foldl | intro _ | split)
theorem steady_execDramDiagWrite (w : Nat) (s : State) (h0 : Steady hv s) : ∀ t, execDramDiagWrite w s = .next t → Steady hv t := by
  intro t ht
  unfold execDramDiagWrite at ht
  injection ht with ht; subst ht
  with_reducible repeat' (first | assumption | apply steady_dramDiagWriteBody | apply steady_runCmd)
theorem steady_dramDiagReadBody (s : State) (x : Win) (h0 : Steady hv s) : Steady hv (dramDiagReadBody s x).1 := by
  unfold dramDiagReadBody
  with_reducible repeat' (first | assumption | apply steady_State_tickFree | apply steady_fail | apply steady_good | apply steady_guardArg | simp only [steady_mk] | intro _ | split)
theorem steady_execDramDiagRead (w : Nat) (s : State) (h0 : Steady hv s) : ∀ t, execDramDiagRead w s = .next t → Steady hv t := by
  intro t ht
  unfold execDramDiagRead at ht
  injection ht with ht; subst ht
  with_reducible repeat' (first | assumption | apply steady_dramDiagReadBody | apply steady_land | apply steady_runCmd | apply steady_settleTier | split)
theorem steady_startOrder (s : State) (o : LandOrder) (sub : Nat) (h0 : Steady hv s) : Steady hv (startOrder s o sub) := by
  unfold startOrder
  with_reducible repeat' (first | assumption | apply steady_land | simp only [steady_mk] | apply steady_foldl | intro _ | split)
theorem steady_grantOrder (s : State) (sub : Nat) (h0 : Steady hv s) : Steady hv (grantOrder s sub) := by
  unfold grantOrder
  with_reducible repeat' (first | assumption | apply steady_settleTier | apply steady_startOrder | split)
theorem steady_execArbitrationGrant (res : Nat) (s : State) (h0 : Steady hv s) : ∀ t, execArbitrationGrant res s = .next t → Steady hv t := by
  intro t ht
  unfold execArbitrationGrant at ht
  injection ht with ht; subst ht
  with_reducible repeat' (first | assumption | apply steady_arbitrate | apply steady_grantOrder | split)
theorem steady_execRefreshDue (ch bank : Nat) (s : State) (h0 : Steady hv s) : ∀ t, execRefreshDue ch bank s = .next t → Steady hv t := by
  intro t ht
  unfold execRefreshDue at ht
  injection ht with ht; subst ht
  with_reducible repeat' (first | assumption | apply steady_modChan | simp only [steady_mk] | split)
theorem steady_pauseRank (s : State) (c rank : Nat) (h0 : Steady hv s) : Steady hv (pauseRank s c rank) := by
  unfold pauseRank
  with_reducible repeat' (first | assumption | apply steady_modChan | simp only [steady_mk])
theorem steady_execRetrainPause (ch rank : Nat) (s : State) (h0 : Steady hv s) : ∀ t, execRetrainPause ch rank s = .next t → Steady hv t := by
  intro t ht
  unfold execRetrainPause at ht
  injection ht with ht; subst ht
  with_reducible repeat' (first | assumption | apply steady_modChan | apply steady_pauseRank | split)
theorem steady_execRetrainDeferExpiry (ch rank : Nat) (s : State) (h0 : Steady hv s) : ∀ t, execRetrainDeferExpiry ch rank s = .next t → Steady hv t := by
  intro t ht
  unfold execRetrainDeferExpiry at ht
  injection ht with ht; subst ht
  with_reducible repeat' (first | assumption | apply steady_pauseRank | split)
theorem steady_scrubAt (s : State) (c ca : Nat) (h0 : Steady hv s) : Steady hv (scrubAt s c ca) := by
  unfold scrubAt
  with_reducible repeat' (first | assumption | apply steady_State_tickFree | apply steady_noteError | simp only [steady_mk] | apply steady_foldl | intro _ | split)
theorem steady_execScrubStep (ch : Nat) (s : State) (h0 : Steady hv s) : ∀ t, execScrubStep ch s = .next t → Steady hv t := by
  intro t ht
  unfold execScrubStep at ht
  injection ht with ht; subst ht
  with_reducible repeat' (first | assumption | apply steady_modChan | apply steady_scrubAt | split)
theorem steady_execSpprRepair (ch rank bg bank row device : Nat) (s : State) (h0 : Steady hv s) : ∀ t, execSpprRepair ch rank bg bank row device s = .next t → Steady hv t := by
  intro t ht
  unfold execSpprRepair at ht
  injection ht with ht; subst ht
  with_reducible repeat' (first | assumption | apply steady_commitSelf | apply steady_event | apply steady_modChan | simp only [steady_mk_dram] | split)

theorem steady_tick (s : State) (h0 : Steady hv s) : Steady hv (tick s) := by
  unfold tick
  split
  · exact steady_up h0 rfl rfl rfl rfl (Nat.le_refl _) h0.canon (.inr (Nat.le_refl _))
  · exact steady_up h0 rfl rfl rfl rfl (Nat.le_refl _) h0.canon (.inr (Nat.le_succ _))

theorem steady_modPair (s : State) (f : Pair → Pair) (h0 : Steady hv s) : Steady hv (modPair s f) := by
  unfold modPair
  with_reducible repeat' (first | assumption | simp only [steady_mk])
theorem steady_setRole (s : State) (r : Role) (h0 : Steady hv s) : Steady hv (setRole s r) := by
  unfold setRole
  with_reducible repeat' (first | assumption | apply steady_event | apply steady_modPair | split)
theorem steady_hbtSay (s : State) (p kind lc expiry tEcho mseq : Nat) (h0 : Steady hv s) : Steady hv (hbtSay s p kind lc expiry tEcho mseq) := by
  unfold hbtSay
  with_reducible repeat' (first | assumption | apply steady_sendFlit | simp only [steady_mk] | intro _ | split)
theorem steady_leaseSay (s : State) (path : LeasePath) (kind lc expiry mseq : Nat) (h0 : Steady hv s) : Steady hv (leaseSay s path kind lc expiry mseq) := by
  unfold leaseSay
  with_reducible repeat' (first | assumption | apply steady_hbtSay | simp only [steady_mk] | intro _ | split)
theorem steady_leaseBoth (s : State) (kind lc expiry mseq : Nat) (h0 : Steady hv s) : Steady hv (leaseBoth s kind lc expiry mseq) := by
  unfold leaseBoth
  with_reducible repeat' (first | assumption | apply steady_leaseSay)
theorem steady_selfFence (s : State) (cause : Nat) (atE : Bool) (h0 : Steady hv s) : Steady hv (selfFence s cause atE) := by
  unfold selfFence
  with_reducible repeat' (first | assumption | apply steady_leaseBoth | apply steady_setRole | simp only [steady_mk] | split)
theorem steady_raiseEpoch (s : State) (h0 : Steady hv s) : Steady hv (raiseEpoch s) := by
  unfold raiseEpoch
  with_reducible repeat' (first | assumption | apply steady_mirrorNote | apply steady_sendEpochs | simp only [steady_mk] | split)
theorem steady_endOldEpoch (s : State) (h0 : Steady hv s) : Steady hv (endOldEpoch s) := by
  unfold endOldEpoch
  with_reducible repeat' (first | assumption | simp only [steady_mk])
theorem steady_registerAll (s : State) (h0 : Steady hv s) : Steady hv (registerAll s) := by
  unfold registerAll
  with_reducible repeat' (first | assumption | apply steady_resvRegister | simp only [steady_mk] | apply steady_foldl | intro _)
theorem steady_acquireAll (s : State) (h0 : Steady hv s) : Steady hv (acquireAll s) := by
  unfold acquireAll
  with_reducible repeat' (first | assumption | apply steady_resvAcquire | simp only [steady_mk] | apply steady_foldl | intro _)
theorem steady_preemptAll (s : State) (answers : List Bool) (h0 : Steady hv s) : Steady hv (preemptAll s answers) := by
  unfold preemptAll
  with_reducible repeat' (first | assumption | apply steady_driveTo | apply steady_modDrive | apply steady_say | simp only [steady_mk] | apply steady_foldl | intro _ | apply steady_ite | split)
theorem steady_readDrives (s : State) (h0 : Steady hv s) : Steady hv (readDrives s) := by
  unfold readDrives
  with_reducible repeat' (first | assumption | apply steady_State_tickFree | simp only [steady_mk, steady_mk_hw, steady_mk_dram, steady_mk_hw_dram, steady_mk_clk, steady_mk_clk_dram] | apply steady_foldl | apply steady_foldl_fst | apply steady_elim | intro _ | apply steady_ite | split | exact steady_of_fst (by assumption) (by assumption) | refine steady_of_fst (by assumption) ?_ | dsimp only)
theorem steady_overlayKnown (s : State) (h0 : Steady hv s) : Steady hv (overlayKnown s) := by
  unfold overlayKnown
  with_reducible repeat' (first | assumption | simp only [steady_mk] | apply steady_foldl | intro _ | apply steady_ite | split)
theorem steady_poisonResident (s : State) (keep : Hall → Bool) (h0 : Steady hv s) : Steady hv (poisonResident s keep) := by
  unfold poisonResident
  with_reducible repeat' (first | assumption | simp only [steady_mk])
theorem steady_replayAll (s : State) (h0 : Steady hv s) : Steady hv (replayAll s) := by
  unfold replayAll
  with_reducible repeat' (first | assumption | apply steady_event | apply steady_replayJournal | simp only [steady_mk] | apply steady_foldl | intro _ | split)
theorem steady_markResync (s : State) (h0 : Steady hv s) : Steady hv (markResync s) := by
  unfold markResync
  with_reducible repeat' (first | assumption | simp only [steady_mk])
theorem steady_resumeAge (s : State) (h0 : Steady hv s) : Steady hv (resumeAge s) := by
  unfold resumeAge
  with_reducible repeat' (first | assumption | apply steady_commit | simp only [steady_mk] | split | refine steady_of_fst (by assumption) ?_)
theorem steady_landKept (s : State) (h0 : Steady hv s) : Steady hv (landKept s) := by
  unfold landKept
  with_reducible repeat' (first | assumption | apply steady_land | simp only [steady_mk] | apply steady_foldl | intro _ | split)
theorem steady_takePool (s : State) (answers : List Bool) (h0 : Steady hv s) : Steady hv (takePool s answers) := by
  unfold takePool
  with_reducible repeat' (first | assumption | apply steady_landKept | apply steady_markResync | apply steady_modPair | apply steady_overlayKnown | apply steady_poisonResident | apply steady_preemptAll | apply steady_raiseEpoch | apply steady_readDrives | apply steady_replayAll | apply steady_resumeAge | simp only [steady_mk] | intro _ | apply steady_ite | split)
theorem steady_becomeActive (s : State) (h0 : Steady hv s) : Steady hv (becomeActive s) := by
  unfold becomeActive
  with_reducible repeat' (first | assumption | apply steady_modPair | apply steady_setRole)
theorem steady_takeover (s : State) (answers : List Bool) (h0 : Steady hv s) : Steady hv (takeover s answers) := by
  unfold takeover
  with_reducible repeat' (first | assumption | apply steady_becomeActive | apply steady_setRole | apply steady_settleTier | apply steady_takePool)
theorem steady_tryTakeover (s : State) (answers : List Bool) (h0 : Steady hv s) : Steady hv (tryTakeover s answers) := by
  unfold tryTakeover
  with_reducible repeat' (first | assumption | apply steady_takeover | split)
theorem steady_leaseGone (s : State) (h0 : Steady hv s) : Steady hv (leaseGone s) := by
  unfold leaseGone
  with_reducible repeat' (first | assumption | apply steady_modPair)
theorem steady_loseSync (s : State) (h0 : Steady hv s) : Steady hv (loseSync s) := by
  unfold loseSync
  with_reducible repeat' (first | assumption | apply steady_modPair)
theorem steady_becomeStandby (s : State) (h0 : Steady hv s) : Steady hv (becomeStandby s) := by
  unfold becomeStandby
  with_reducible repeat' (first | assumption | apply steady_commit | apply steady_loseSync | apply steady_modPair | apply steady_registerAll | apply steady_setRole | simp only [steady_mk])
theorem steady_serveFrom (s : State) (h0 : Steady hv s) : Steady hv (serveFrom s) := by
  unfold serveFrom
  with_reducible repeat' (first | assumption | apply steady_acquireAll | apply steady_becomeActive | apply steady_modPair | apply steady_registerAll | apply steady_setRole | apply steady_settleTier | simp only [steady_mk] | intro _ | apply steady_ite | split)
theorem steady_keepLines (s : State) (h0 : Steady hv s) : Steady hv (keepLines s) := by
  unfold keepLines
  with_reducible repeat' (first | assumption | apply steady_modPair | simp only [steady_mk] | intro _)
theorem steady_adoptStore (s : State) (r : Retained) (h0 : Steady hv s) : Steady hv (adoptStore s r) := by
  unfold adoptStore
  with_reducible repeat' (first | assumption | apply steady_commitWith | apply steady_keepLines | apply steady_recomputeLevels | simp only [steady_mk, steady_mk_hw, steady_mk_dram, steady_mk_hw_dram, steady_mk_clk, steady_mk_clk_dram] | apply steady_foldl | apply steady_foldl_fst | apply steady_elim | intro _ | apply steady_ite | split | exact steady_of_fst (by assumption) (by assumption) | refine steady_of_fst (by assumption) ?_ | dsimp only)
theorem steady_applyBody (s : State) (b : MirrorBody) (h0 : Steady hv s) : Steady hv (applyBody s b) := by
  cases b <;> unfold applyBody <;> repeat' (first | (with_reducible assumption) | (with_reducible apply steady_adoptStore) | (with_reducible apply steady_modPair) | (with_reducible apply steady_modTenant) | (with_reducible apply steady_writeLine) | (simp only [steady_mk, steady_mk_hw, steady_mk_dram, steady_mk_hw_dram, steady_mk_clk]) | (with_reducible apply steady_foldl) | (intro _) | split | dsimp only)
theorem steady_takeRec (s : State) (r : MirrorRec) (h0 : Steady hv s) : Steady hv (takeRec s r) := by
  unfold takeRec
  with_reducible repeat' (first | assumption | apply steady_applyBody | apply steady_loseSync | apply steady_modPair | split)

theorem steady_fenceSlice (s : State) (u st cause : Nat) (h0 : Steady hv s) : Steady hv (fenceSlice s u st cause) := by
  unfold fenceSlice
  with_reducible repeat' (first | assumption | apply steady_event | simp only [steady_mk] | split)
theorem steady_startScan (s : State) (h0 : Steady hv s) : Steady hv (startScan s) := by
  unfold startScan
  with_reducible repeat' (first | assumption | apply steady_fenceCore | apply steady_fenceSlice | simp only [steady_mk] | apply steady_foldl | intro _ | split)
theorem steady_clearDies (s : State) (unpowered keepBlocks : Bool) (h0 : Steady hv s) : Steady hv (clearDies s unpowered keepBlocks) := by
  unfold clearDies
  with_reducible repeat' (first | assumption | simp only [steady_mk_clk_dram])
theorem steady_chooseImage (s : State) (h0 : Steady hv s) : Steady hv (chooseImage s) := by
  unfold chooseImage
  with_reducible repeat' (first | assumption | apply steady_event | simp only [steady_mk] | split)
theorem steady_refreshFormat (s : State) (h0 : Steady hv s) : Steady hv (refreshFormat s) := by
  unfold refreshFormat
  with_reducible repeat' (first | assumption | apply steady_event | simp only [steady_mk] | split)
theorem steady_restore (s : State) (r : Retained) (h0 : Steady hv s) : Steady hv (restore s r) := by
  unfold restore
  with_reducible repeat' (first | assumption | simp only [steady_mk_dram])
theorem steady_newPairCfg (s : State) (r : Retained) (h0 : Steady hv s) : Steady hv (newPairCfg s r) := by
  unfold newPairCfg
  with_reducible repeat' (first | assumption | apply steady_modPair)
theorem steady_restoreStore (s : State) (cold : Bool) (h0 : Steady hv s) : Steady hv (restoreStore s cold) := by
  unfold restoreStore
  with_reducible repeat' (first | assumption | apply steady_event | apply steady_newPairCfg | apply steady_restore | simp only [steady_mk] | split)
theorem steady_driveUp (s : State) (p : Nat) (st : DrvSt) (h0 : Steady hv s) : Steady hv (driveUp s p st) := by
  unfold driveUp
  with_reducible repeat' (first | assumption | apply steady_event | apply steady_modDrive | simp only [steady_mk] | split)
theorem steady_driveBringUp (s : State) (h0 : Steady hv s) : Steady hv (driveBringUp s) := by
  unfold driveBringUp
  with_reducible repeat' (first | assumption | apply steady_beginSetUp | apply steady_ctlWrite | apply steady_driveUp | apply steady_event | simp only [steady_mk] | apply steady_foldl | intro _ | apply steady_ite | split)
theorem steady_readControl (s : State) (h0 : Steady hv s) : Steady hv (readControl s) := by
  unfold readControl
  with_reducible repeat' (first | assumption | simp only [steady_mk] | apply steady_foldl | intro _ | apply steady_ite | split)
theorem steady_trainChan (s : State) (rate c : Nat) (h0 : Steady hv s) : Steady hv (trainChan s rate c) := by
  unfold trainChan
  with_reducible repeat' (first | assumption | apply steady_event | simp only [steady_mk_dram] | split)
theorem steady_hardRepairs (s : State) (h0 : Steady hv s) : Steady hv (hardRepairs s) := by
  unfold hardRepairs
  with_reducible repeat' (first | assumption | simp only [steady_mk, steady_mk_hw_dram] | apply steady_foldl | intro _ | split)
theorem steady_trainAll (s : State) (unpowered : Bool) (h0 : Steady hv s) : Steady hv (trainAll s unpowered) := by
  unfold trainAll
  with_reducible repeat' (first | assumption | apply steady_hardRepairs | apply steady_trainChan | apply steady_foldl | intro _ | split)
theorem steady_dropLost (s : State) (h0 : Steady hv s) : Steady hv (dropLost s) := by
  unfold dropLost
  with_reducible repeat' (first | assumption | apply steady_event | simp only [steady_mk] | apply steady_foldl | intro _)
theorem steady_clearHallFlash (s : State) (hid : Nat) (h : Hall) (h0 : Steady hv s) : Steady hv (clearHallFlash s hid h) := by
  unfold clearHallFlash
  with_reducible repeat' (first | assumption | apply steady_freeFlash | apply steady_newJournal | simp only [steady_mk] | intro _ | split)
theorem steady_coldHalls (s : State) (h0 : Steady hv s) : Steady hv (coldHalls s) := by
  unfold coldHalls
  exact steady_foldl (steady_up h0 rfl rfl rfl rfl (Nat.le_refl _) (fun _ => ⟨rfl, rfl⟩) (.inr (Nat.le_refl _))) fun _ _ h => steady_clearHallFlash _ _ _ h
theorem steady_coldTenant (s : State) (t : Nat) (r : Tenant) (h0 : Steady hv s) : Steady hv (coldTenant s t r) := by
  unfold coldTenant
  with_reducible repeat' (first | assumption | apply steady_clearHallFlash | apply steady_drawKey | apply steady_fillSlot | apply steady_modTenant | apply steady_foldl | intro _ | split)
theorem steady_finishDrains (s : State) (ds : NMap Drain) (h0 : Steady hv s) : Steady hv (finishDrains s ds) := by
  unfold finishDrains
  with_reducible repeat' (first | assumption | apply steady_releaseDestroy | apply steady_releaseTrim | simp only [steady_mk] | apply steady_foldl | intro _ | split)
theorem steady_finishRemovals (s : State) (h0 : Steady hv s) : Steady hv (finishRemovals s) := by
  unfold finishRemovals
  with_reducible repeat' (first | assumption | apply steady_commitWith | apply steady_freeTenant | apply steady_modTenant | apply steady_releaseDestroy | simp only [steady_mk] | apply steady_foldl | intro _ | apply steady_ite | split)
theorem steady_reportLogs (s : State) (h0 : Steady hv s) : Steady hv (reportLogs s) := by
  unfold reportLogs
  with_reducible repeat' (first | assumption | apply steady_event | simp only [steady_mk] | apply steady_foldl | intro _)
theorem steady_startAge (s : State) (h0 : Steady hv s) : Steady hv (startAge s) := by
  unfold startAge
  with_reducible repeat' (first | assumption | apply steady_commit | apply steady_resumeAge | simp only [steady_mk] | split | refine steady_of_fst (by assumption) ?_)
theorem steady_startPower (s : State) (kind : StartKind) (h0 : Steady hv s) : Steady hv (startPower s kind) := by
  unfold startPower
  with_reducible repeat' (first | assumption | apply steady_uartSay | simp only [steady_mk] | intro _ | apply steady_ite | split)
theorem steady_powerUpGuard (s : State) (h0 : Steady hv s) (hc : hv.cold = true) : Steady hv (powerUpGuard s) := by
  exact ⟨h0.1, h0.2, h0.3, h0.4, h0.5, h0.6, .inl hc⟩
theorem steady_coldStart (s : State) (kind : StartKind) (unpowered : Bool) (h0 : Steady hv s) : Steady hv (coldStart s kind unpowered) := by
  unfold coldStart
  with_reducible repeat' (first | assumption | apply steady_checkPeerPath | apply steady_chooseImage | apply steady_clearDies | apply steady_coldHalls | apply steady_coldTenant | apply steady_driveBringUp | apply steady_dropLost | apply steady_finishDrains | apply steady_finishRemovals | apply steady_markResync | apply steady_readControl | apply steady_recomputeLevels | apply steady_refreshFormat | apply steady_replayAll | apply steady_reportLogs | apply steady_restoreStore | apply steady_smbUpdate | apply steady_startAge | apply steady_startPower | apply steady_startScan | apply steady_trainAll | simp only [steady_mk, steady_mk_hw, steady_mk_dram, steady_mk_hw_dram, steady_mk_clk, steady_mk_clk_dram] | apply steady_foldl | apply steady_foldl_fst | apply steady_elim | intro _ | apply steady_ite | split | exact steady_of_fst (by assumption) (by assumption) | refine steady_of_fst (by assumption) ?_ | dsimp only)
theorem steady_warmStart (s : State) (h0 : Steady hv s) : Steady hv (warmStart s) := by
  unfold warmStart
  with_reducible repeat' (first | assumption | apply steady_checkPeerPath | apply steady_chooseImage | apply steady_clearDies | apply steady_coldStart | apply steady_driveBringUp | apply steady_finishDrains | apply steady_finishRemovals | apply steady_recomputeLevels | apply steady_refreshFormat | apply steady_reportLogs | apply steady_restoreStore | apply steady_smbUpdate | apply steady_startAge | apply steady_startPower | simp only [steady_mk] | intro _ | apply steady_ite | split)
theorem steady_recoveryStart (s : State) (h0 : Steady hv s) : Steady hv (recoveryStart s) := by
  unfold recoveryStart
  with_reducible repeat' (first | assumption | apply steady_checkPeerPath | apply steady_chooseImage | apply steady_clearDies | apply steady_coldStart | apply steady_driveBringUp | apply steady_finishDrains | apply steady_finishRemovals | apply steady_markResync | apply steady_poisonResident | apply steady_readControl | apply steady_recomputeLevels | apply steady_refreshFormat | apply steady_replayAll | apply steady_reportLogs | apply steady_restoreStore | apply steady_smbUpdate | apply steady_startAge | apply steady_startPower | simp only [steady_mk] | intro _ | apply steady_ite | split)
theorem steady_resetDelay (s : State) (h0 : Steady hv s) : Steady hv (resetDelay s) := by
  unfold resetDelay
  with_reducible repeat' (first | assumption | apply steady_coldStart | apply steady_warmStart | simp only [steady_mk] | split)
theorem steady_execResetDelayExpiry (s : State) (h0 : Steady hv s) : ∀ t, execResetDelayExpiry s = .next t → Steady hv t := by
  intro t ht
  unfold execResetDelayExpiry at ht
  injection ht with ht; subst ht
  with_reducible repeat' (first | assumption | apply steady_resetDelay)
theorem steady_execQuiesceTimeout (s : State) (h0 : Steady hv s) : ∀ t, execQuiesceTimeout s = .next t → Steady hv t := by
  intro t ht
  unfold execQuiesceTimeout at ht
  injection ht with ht; subst ht
  with_reducible repeat' (first | assumption | apply steady_recoveryStart | split)
theorem steady_fitFlight (s : State) (r which : Nat) (f : Flight) (h0 : Steady hv s) : Steady hv (fitFlight s r which f).1 := by
  unfold fitFlight
  with_reducible repeat' (first | assumption | apply steady_event | split)
theorem steady_readyFlight (s : State) (r : Nat) (h0 : Steady hv s) : Steady hv (readyFlight s r) := by
  unfold readyFlight
  with_reducible repeat' (first | assumption | apply steady_event | apply steady_fitFlight | simp only [steady_mk] | split)
theorem steady_missingChannels (s : State) (h0 : Steady hv s) : Steady hv (missingChannels s) := by
  unfold missingChannels
  with_reducible repeat' (first | assumption | apply steady_event | apply steady_foldl | intro _)
theorem steady_coldRole (s : State) (h0 : Steady hv s) : Steady hv (coldRole s) := by
  unfold coldRole
  with_reducible repeat' (first | assumption | apply steady_becomeStandby | apply steady_modPair | apply steady_serveFrom | apply steady_setRole | split)
theorem steady_warmRole (s : State) (h0 : Steady hv s) : Steady hv (warmRole s) := by
  unfold warmRole
  with_reducible repeat' (first | assumption | apply steady_becomeStandby | apply steady_raiseEpoch | apply steady_serveFrom | split)
theorem steady_announce (s : State) (cold : Bool) (h0 : Steady hv s) : Steady hv (announce s cold) := by
  unfold announce
  with_reducible repeat' (first | assumption | apply steady_sendEpochs | split)
theorem steady_portsUp (s : State) (h0 : Steady hv s) : Steady hv (portsUp s) := by
  unfold portsUp
  with_reducible repeat' (first | assumption | apply steady_portComesUp | apply steady_foldl | intro _ | split)
theorem steady_settleDumps (s : State) (h0 : Steady hv s) : Steady hv (settleDumps s) := by
  unfold settleDumps
  with_reducible repeat' (first | assumption | simp only [steady_mk])
theorem steady_readyReached (s : State) (h0 : Steady hv s) : Steady hv (readyReached s) := by
  unfold readyReached
  with_reducible repeat' (first | assumption | apply steady_announce | apply steady_coldRole | apply steady_missingChannels | apply steady_portsUp | apply steady_readyFlight | apply steady_settleDumps | apply steady_warmRole | simp only [steady_mk] | apply steady_foldl | split)
theorem steady_execReadyReached (s : State) (h0 : Steady hv s) : ∀ t, execReadyReached s = .next t → Steady hv t := by
  intro t ht
  unfold execReadyReached at ht
  injection ht with ht; subst ht
  with_reducible repeat' (first | assumption | apply steady_readyReached)
theorem steady_execStartBoundFail (s : State) (h0 : Steady hv s) : ∀ t, execStartBoundFail s = .next t → Steady hv t := by
  intro t ht
  unfold execStartBoundFail at ht
  injection ht with ht; subst ht
  with_reducible repeat' (first | assumption | apply steady_event | simp only [steady_mk] | split)
theorem steady_execPartnerReadyReport (ready : Bool) (feature storeMax : Nat) (s : State) (h0 : Steady hv s) : ∀ t, execPartnerReadyReport ready feature storeMax s = .next t → Steady hv t := by
  intro t ht
  unfold execPartnerReadyReport at ht
  injection ht with ht; subst ht
  with_reducible repeat' (first | assumption | apply steady_becomeStandby | apply steady_modPair | apply steady_refreshFormat | apply steady_releaseCopies | simp only [steady_mk] | intro _ | apply steady_ite | split)
theorem steady_execRoleDecisionTimeout (s : State) (h0 : Steady hv s) : ∀ t, execRoleDecisionTimeout s = .next t → Steady hv t := by
  intro t ht
  unfold execRoleDecisionTimeout at ht
  injection ht with ht; subst ht
  with_reducible repeat' (first | assumption | apply steady_sendEpochs | apply steady_serveFrom | split)

theorem steady_recTriggerSetBody (s : State) (x : Win) (h0 : Steady hv s) : Steady hv (recTriggerSetBody s x).1 := by
  unfold recTriggerSetBody
  with_reducible repeat' (first | assumption | apply steady_good | apply steady_guardArg | apply steady_retain | simp only [steady_mk] | intro _)
theorem steady_execRecTriggerSet (w : Nat) (s : State) (h0 : Steady hv s) : ∀ t, execRecTriggerSet w s = .next t → Steady hv t := by
  intro t ht
  unfold execRecTriggerSet at ht
  injection ht with ht; subst ht
  with_reducible repeat' (first | assumption | apply steady_recTriggerSetBody | apply steady_runRetained)
theorem steady_execRecQuery (w : Nat) (s : State) (h0 : Steady hv s) : ∀ t, execRecQuery w s = .next t → Steady hv t := by
  intro t ht
  unfold execRecQuery at ht
  injection ht with ht; subst ht
  with_reducible repeat' (first | assumption | apply steady_good | apply steady_runCmd | intro _)
theorem steady_spoilRecs (s : State) (bad : List Nat) (h0 : Steady hv s) : Steady hv (spoilRecs s bad) := by
  unfold spoilRecs
  with_reducible repeat' (first | assumption | simp only [steady_mk] | intro _ | apply steady_ite | split)
theorem steady_recReadBody (bad : List Nat) (s : State) (x : Win) (h0 : Steady hv s) : Steady hv (recReadBody bad s x).1 := by
  unfold recReadBody
  with_reducible repeat' (first | assumption | apply steady_fail | apply steady_good | apply steady_guardArg | apply steady_spoilRecs | simp only [steady_mk] | intro _ | apply steady_ite | split)
theorem steady_execRecRead (w : Nat) (bad : List Nat) (s : State) (h0 : Steady hv s) : ∀ t, execRecRead w bad s = .next t → Steady hv t := by
  intro t ht
  unfold execRecRead at ht
  injection ht with ht; subst ht
  with_reducible repeat' (first | assumption | apply steady_recReadBody | apply steady_runCmd)
theorem steady_execRunClose (event source hall : Nat) (s : State) (h0 : Steady hv s) : ∀ t, execRunClose event source hall s = .next t → Steady hv t := by
  intro t ht
  unfold execRunClose at ht
  injection ht with ht; subst ht
  with_reducible repeat' (first | assumption | apply steady_closeRun | split)
theorem steady_segmentCopy (s : State) (h0 : Steady hv s) : Steady hv (segmentCopy s) := by
  unfold segmentCopy
  with_reducible repeat' (first | assumption | apply steady_ownStore | simp only [steady_mk] | intro _ | apply steady_ite | split)
theorem steady_execSegmentCopy (s : State) (h0 : Steady hv s) : ∀ t, execSegmentCopy s = .next t → Steady hv t := by
  intro t ht
  unfold execSegmentCopy at ht
  injection ht with ht; subst ht
  with_reducible repeat' (first | assumption | apply steady_segmentCopy)
theorem steady_writeDump (s : State) (power full : Bool) (cause source cursor : Nat) (h0 : Steady hv s) : Steady hv (writeDump s power full cause source cursor) := by
  unfold writeDump
  with_reducible repeat' (first | assumption | apply steady_State_tickFree | apply steady_frameStore | simp only [steady_mk] | intro _ | apply steady_ite | split)
theorem steady_cutDump (s : State) (h0 : Steady hv s) : Steady hv (cutDump s) := by
  unfold cutDump
  with_reducible repeat' (first | assumption | simp only [steady_mk] | split)
theorem steady_execDumpQuery (w : Nat) (s : State) (h0 : Steady hv s) : ∀ t, execDumpQuery w s = .next t → Steady hv t := by
  intro t ht
  unfold execDumpQuery at ht
  injection ht with ht; subst ht
  with_reducible repeat' (first | assumption | apply steady_good | apply steady_runCmd | intro _)
theorem steady_dumpReadBody (s : State) (x : Win) (h0 : Steady hv s) : Steady hv (dumpReadBody s x).1 := by
  unfold dumpReadBody
  with_reducible repeat' (first | assumption | apply steady_fail | apply steady_good | apply steady_guardArg | intro _ | split)
theorem steady_execDumpRead (w : Nat) (s : State) (h0 : Steady hv s) : ∀ t, execDumpRead w s = .next t → Steady hv t := by
  intro t ht
  unfold execDumpRead at ht
  injection ht with ht; subst ht
  with_reducible repeat' (first | assumption | apply steady_dumpReadBody | apply steady_runCmd)
theorem steady_dumpClearBody (s : State) (x : Win) (h0 : Steady hv s) : Steady hv (dumpClearBody s x).1 := by
  unfold dumpClearBody
  with_reducible repeat' (first | assumption | apply steady_good | apply steady_guardArg | apply steady_retain | simp only [steady_mk] | intro _)
theorem steady_execDumpClear (w : Nat) (s : State) (h0 : Steady hv s) : ∀ t, execDumpClear w s = .next t → Steady hv t := by
  intro t ht
  unfold execDumpClear at ht
  injection ht with ht; subst ht
  with_reducible repeat' (first | assumption | apply steady_dumpClearBody | apply steady_runRetained)

theorem steady_execFenceQuery (w : Nat) (s : State) (h0 : Steady hv s) : ∀ t, execFenceQuery w s = .next t → Steady hv t := by
  intro t ht
  unfold execFenceQuery at ht
  injection ht with ht; subst ht
  with_reducible repeat' (first | assumption | apply steady_good | apply steady_runCmd | intro _)
theorem steady_fenceClearBody (s : State) (x : Win) (h0 : Steady hv s) : Steady hv (fenceClearBody s x).1 := by
  unfold fenceClearBody
  with_reducible repeat' (first | assumption | apply steady_good | apply steady_guardArg | apply steady_retain | simp only [steady_mk] | intro _)
theorem steady_execFenceClear (w : Nat) (s : State) (h0 : Steady hv s) : ∀ t, execFenceClear w s = .next t → Steady hv t := by
  intro t ht
  unfold execFenceClear at ht
  injection ht with ht; subst ht
  with_reducible repeat' (first | assumption | apply steady_fenceClearBody | apply steady_runRetained)
theorem steady_scanUnit (s : State) (slice : Bool) (unit : Nat) (r : ScanResult) (h0 : Steady hv s) : Steady hv (scanUnit s slice unit r).1 := by
  unfold scanUnit
  with_reducible repeat' (first | assumption | apply steady_commitSelf | apply steady_event | apply steady_fenceCore | apply steady_fenceSlice | simp only [steady_mk_dram] | split)
theorem steady_scanNext (s : State) (r : ScanResult) (h0 : Steady hv s) : Steady hv (scanNext s r).1 := by
  unfold scanNext
  with_reducible repeat' (first | assumption | apply steady_scanUnit | simp only [steady_mk])
theorem steady_scanRunBody (r : ScanResult) (s : State) (x : Win) (h0 : Steady hv s) : Steady hv (scanRunBody r s x).1 := by
  unfold scanRunBody
  with_reducible repeat' (first | assumption | apply steady_good | apply steady_guardArg | apply steady_scanNext | apply steady_scanUnit | intro _ | split)
theorem steady_execScanRun (w : Nat) (r : ScanResult) (s : State) (h0 : Steady hv s) : ∀ t, execScanRun w r s = .next t → Steady hv t := by
  intro t ht
  unfold execScanRun at ht
  injection ht with ht; subst ht
  with_reducible repeat' (first | assumption | apply steady_runCmd | apply steady_scanRunBody)
theorem steady_arrayHit (s : State) (h : ArrayHit) (h0 : Steady hv s) : Steady hv (arrayHit s h) := by
  unfold arrayHit
  with_reducible repeat' (first | assumption | apply steady_commitSelf | apply steady_event | apply steady_fenceSlice | simp only [steady_mk, steady_mk_hw, steady_mk_dram, steady_mk_hw_dram, steady_mk_clk, steady_mk_clk_dram] | apply steady_foldl | apply steady_foldl_fst | apply steady_elim | intro _ | apply steady_ite | split | exact steady_of_fst (by assumption) (by assumption) | refine steady_of_fst (by assumption) ?_ | dsimp only)
theorem steady_execInfieldScan (r : ScanResult) (hits : List ArrayHit) (s : State) (h0 : Steady hv s) : ∀ t, execInfieldScan r hits s = .next t → Steady hv t := by
  intro t ht
  unfold execInfieldScan at ht
  injection ht with ht; subst ht
  with_reducible repeat' (first | assumption | apply steady_arrayHit | apply steady_scanNext | simp only [steady_mk] | apply steady_foldl | intro _ | apply steady_ite | split)
theorem steady_execSentinelReplay (core entry : Nat) (differs : Bool) (s : State) (h0 : Steady hv s) : ∀ t, execSentinelReplay core entry differs s = .next t → Steady hv t := by
  intro t ht
  unfold execSentinelReplay at ht
  injection ht with ht; subst ht
  with_reducible repeat' (first | assumption | apply steady_event | apply steady_fenceCore | split)
theorem steady_holdDies (s : State) (keep : Bool) (h0 : Steady hv s) : Steady hv (holdDies s keep) := by
  unfold holdDies
  with_reducible repeat' (first | assumption | apply steady_checkPeerPath | apply steady_clearDies | simp only [steady_mk])
theorem steady_fatalGuard (s : State) (h0 : Steady hv s) : Steady hv (fatalGuard s).1 := by
  unfold fatalGuard
  with_reducible repeat' (first | assumption | apply steady_event | apply steady_holdDies | apply steady_selfFence | simp only [steady_mk] | split)
theorem steady_logFault (s : State) (e : Ev) (src : Nat) (h0 : Steady hv s) : Steady hv (logFault s e src) := by
  unfold logFault
  with_reducible repeat' (first | assumption | simp only [steady_mk] | intro _)
theorem steady_fatalFault (s : State) (arr : FatalArray) (src addr : Nat) (h0 : Steady hv s) : Steady hv (fatalFault s arr src addr) := by
  unfold fatalFault
  with_reducible repeat' (first | assumption | apply steady_commitSelf | apply steady_cutDump | apply steady_event | apply steady_fatalGuard | apply steady_fenceSlice | apply steady_logFault | apply steady_recoveryStart | apply steady_writeDump | simp only [steady_mk] | intro _ | apply steady_ite | split)
theorem steady_execFatalFault (arr : FatalArray) (src addr : Nat) (s : State) (h0 : Steady hv s) : ∀ t, execFatalFault arr src addr s = .next t → Steady hv t := by
  intro t ht
  unfold execFatalFault at ht
  injection ht with ht; subst ht
  with_reducible repeat' (first | assumption | apply steady_fatalFault)
theorem steady_execFatalReset (s : State) (h0 : Steady hv s) : ∀ t, execFatalReset s = .next t → Steady hv t := by
  intro t ht
  unfold execFatalReset at ht
  injection ht with ht; subst ht
  with_reducible repeat' (first | assumption | apply steady_recoveryStart | split)
theorem steady_rootPllUnlock (s : State) (h0 : Steady hv s) : Steady hv (rootPllUnlock s) := by
  unfold rootPllUnlock
  with_reducible repeat' (first | assumption | apply steady_cutDump | apply steady_event | apply steady_fatalGuard | apply steady_logFault | apply steady_recoveryStart | apply steady_writeDump | simp only [steady_mk] | intro _ | apply steady_ite | split)
theorem steady_execRootPllUnlock (s : State) (h0 : Steady hv s) : ∀ t, execRootPllUnlock s = .next t → Steady hv t := by
  intro t ht
  unfold execRootPllUnlock at ht
  injection ht with ht; subst ht
  with_reducible repeat' (first | assumption | apply steady_rootPllUnlock)
theorem steady_execManagementCoresStop (s : State) (h0 : Steady hv s) : ∀ t, execManagementCoresStop s = .next t → Steady hv t := by
  intro t ht
  unfold execManagementCoresStop at ht
  injection ht with ht; subst ht
  with_reducible repeat' (first | assumption | simp only [steady_mk])
theorem steady_fixCopy (s : State) (which copy : Nat) (h0 : Steady hv s) : Steady hv (fixCopy s which copy) := by
  unfold fixCopy
  with_reducible repeat' (first | assumption | apply steady_event | split)
theorem steady_execPoolTimeCheck (s : State) (h0 : Steady hv s) : ∀ t, execPoolTimeCheck s = .next t → Steady hv t := by
  intro t ht
  unfold execPoolTimeCheck at ht
  injection ht with ht; subst ht
  with_reducible repeat' (first | assumption | apply steady_fixCopy | simp only [steady_mk_clk] | split)
theorem steady_execReservationConflict (port : Nat) (s : State) (h0 : Steady hv s) : ∀ t, execReservationConflict port s = .next t → Steady hv t := by
  intro t ht
  unfold execReservationConflict at ht
  injection ht with ht; subst ht
  with_reducible repeat' (first | assumption | apply steady_State_tickFree | apply steady_modDrive | apply steady_selfFence | simp only [steady_mk] | intro _ | apply steady_ite | split)
theorem steady_execTestPortUse (s : State) (h0 : Steady hv s) : ∀ t, execTestPortUse s = .next t → Steady hv t := by
  intro t ht
  unfold execTestPortUse at ht
  injection ht with ht; subst ht
  with_reducible repeat' (first | assumption | simp only [steady_mk_hw] | split)

theorem steady_modPwr (s : State) (f : Power → Power) (h0 : Steady hv s) : Steady hv (modPwr s f) := by
  unfold modPwr
  with_reducible repeat' (first | assumption | simp only [steady_mk])
theorem steady_setPwrok (s : State) (level : Bool) (h0 : Steady hv s) : Steady hv (setPwrok s level) := by
  unfold setPwrok
  with_reducible repeat' (first | assumption | apply steady_modPwr | simp only [steady_mk] | split)
theorem steady_railOn (s : State) (step : Nat) (h0 : Steady hv s) : Steady hv (railOn s step) := by
  unfold railOn
  with_reducible repeat' (first | assumption | apply steady_modPwr | simp only [steady_mk] | intro _)
theorem steady_railsOff (s : State) (h0 : Steady hv s) : Steady hv (railsOff s) := by
  unfold railsOff
  with_reducible repeat' (first | assumption | apply steady_modPwr | simp only [steady_mk] | intro _ | apply steady_ite | split)
theorem steady_tryEnable (s : State) (h0 : Steady hv s) : Steady hv (tryEnable s) := by
  unfold tryEnable
  with_reducible repeat' (first | assumption | apply steady_modPwr | apply steady_railOn | simp only [steady_mk] | intro _ | apply steady_ite | split)
theorem steady_setInput (s : State) (dv : Nat) (h0 : Steady hv s) : Steady hv (setInput s dv) := by
  unfold setInput
  with_reducible repeat' (first | assumption | simp only [steady_mk_hw])
theorem steady_inputStarts (s : State) (h0 : Steady hv s) : Steady hv (inputStarts s) := by
  unfold inputStarts
  with_reducible repeat' (first | assumption | apply steady_State_tickFree | apply steady_setInput | simp only [steady_mk] | intro _ | apply steady_ite | split)
theorem steady_execPrechargeEnd (s : State) (h0 : Steady hv s) (hc : hv.cold = true) : ∀ t, execPrechargeEnd s = .next t → Steady hv t := by
  intro t ht
  unfold execPrechargeEnd at ht
  injection ht with ht; subst ht
  with_reducible repeat' (first | assumption | apply steady_inputStarts | apply steady_modPwr | apply steady_powerUpGuard | apply steady_tryEnable | simp only [steady_mk] | intro _ | apply steady_ite | split)
theorem steady_releaseDies (s : State) (h0 : Steady hv s) : Steady hv (releaseDies s) := by
  unfold releaseDies
  with_reducible repeat' (first | assumption | apply steady_coldStart | apply steady_modPwr | apply steady_setPwrok | split)
theorem steady_railInRegulation (s : State) (step : Nat) (h0 : Steady hv s) : Steady hv (railInRegulation s step) := by
  unfold railInRegulation
  with_reducible repeat' (first | assumption | apply steady_modPwr | apply steady_railOn | apply steady_releaseDies | apply steady_say | apply steady_setPwrok | simp only [steady_mk] | intro _ | apply steady_ite | split)
theorem steady_execRailInRegulation (step : Nat) (s : State) (h0 : Steady hv s) : ∀ t, execRailInRegulation step s = .next t → Steady hv t := by
  intro t ht
  unfold execRailInRegulation at ht
  injection ht with ht; subst ht
  with_reducible repeat' (first | assumption | apply steady_railInRegulation)
theorem steady_execRailTimeout (s : State) (h0 : Steady hv s) : ∀ t, execRailTimeout s = .next t → Steady hv t := by
  intro t ht
  unfold execRailTimeout at ht
  injection ht with ht; subst ht
  with_reducible repeat' (first | assumption | apply steady_modPwr | apply steady_railsOff | simp only [steady_mk] | intro _ | apply steady_ite | split)
theorem steady_execRailRetry (s : State) (h0 : Steady hv s) : ∀ t, execRailRetry s = .next t → Steady hv t := by
  intro t ht
  unfold execRailRetry at ht
  injection ht with ht; subst ht
  with_reducible repeat' (first | assumption | apply steady_modPwr | apply steady_tryEnable | split)
theorem steady_execRailOutOfRegulation (step : Nat) (s : State) (h0 : Steady hv s) : ∀ t, execRailOutOfRegulation step s = .next t → Steady hv t := by
  intro t ht
  unfold execRailOutOfRegulation at ht
  injection ht with ht; subst ht
  with_reducible repeat' (first | assumption | apply steady_modPwr | apply steady_setPwrok | split)
theorem steady_declareLoss (s : State) (cause : Nat) (h0 : Steady hv s) : Steady hv (declareLoss s cause) := by
  unfold declareLoss
  with_reducible repeat' (first | assumption | apply steady_modPwr | apply steady_selfFence | apply steady_setPwrok | apply steady_writeDump | simp only [steady_mk] | split)
theorem steady_execPfailNAssert (s : State) (h0 : Steady hv s) : ∀ t, execPfailNAssert s = .next t → Steady hv t := by
  intro t ht
  unfold execPfailNAssert at ht
  injection ht with ht; subst ht
  with_reducible repeat' (first | assumption | apply steady_declareLoss | apply steady_modPwr)
theorem steady_execPfailNRelease (s : State) (h0 : Steady hv s) : ∀ t, execPfailNRelease s = .next t → Steady hv t := by
  intro t ht
  unfold execPfailNRelease at ht
  injection ht with ht; subst ht
  with_reducible repeat' (first | assumption | apply steady_modPwr | apply steady_tryEnable)
theorem steady_execInputUndervoltage (dv : Nat) (s : State) (h0 : Steady hv s) : ∀ t, execInputUndervoltage dv s = .next t → Steady hv t := by
  intro t ht
  unfold execInputUndervoltage at ht
  injection ht with ht; subst ht
  with_reducible repeat' (first | assumption | apply steady_declareLoss | apply steady_setInput | split)
theorem steady_execInputOvervoltage (dv : Nat) (s : State) (h0 : Steady hv s) : ∀ t, execInputOvervoltage dv s = .next t → Steady hv t := by
  intro t ht
  unfold execInputOvervoltage at ht
  injection ht with ht; subst ht
  with_reducible repeat' (first | assumption | apply steady_declareLoss | apply steady_modPwr | apply steady_setInput | split)
theorem steady_execBus12vFault (s : State) (h0 : Steady hv s) : ∀ t, execBus12vFault s = .next t → Steady hv t := by
  intro t ht
  unfold execBus12vFault at ht
  injection ht with ht; subst ht
  with_reducible repeat' (first | assumption | apply steady_declareLoss)
theorem steady_execPowerLossRailsDown (s : State) (h0 : Steady hv s) : ∀ t, execPowerLossRailsDown s = .next t → Steady hv t := by
  intro t ht
  unfold execPowerLossRailsDown at ht
  injection ht with ht; subst ht
  with_reducible repeat' (first | assumption | apply steady_holdDies | apply steady_modPwr | apply steady_railsOff | simp only [steady_mk] | intro _ | apply steady_ite | split)
theorem steady_inputBack (s : State) (h0 : Steady hv s) : Steady hv (inputBack s) := by
  unfold inputBack
  with_reducible repeat' (first | assumption | apply steady_State_tickFree | apply steady_setInput | split)
theorem steady_restartCold (s : State) (h0 : Steady hv s) : Steady hv (restartCold s) := by
  unfold restartCold
  with_reducible repeat' (first | assumption | apply steady_modPwr | apply steady_tryEnable)
theorem steady_execPowerLossRestart (s : State) (h0 : Steady hv s) : ∀ t, execPowerLossRestart s = .next t → Steady hv t := by
  intro t ht
  unfold execPowerLossRestart at ht
  injection ht with ht; subst ht
  with_reducible repeat' (first | assumption | apply steady_inputBack | apply steady_restartCold | split)
theorem steady_execOvervoltageRestart (s : State) (h0 : Steady hv s) : ∀ t, execOvervoltageRestart s = .next t → Steady hv t := by
  intro t ht
  unfold execOvervoltageRestart at ht
  injection ht with ht; subst ht
  with_reducible repeat' (first | assumption | apply steady_inputBack | apply steady_modPwr | apply steady_restartCold | apply steady_tryEnable | simp only [steady_mk] | split)
theorem steady_execInputLow (dv : Nat) (s : State) (h0 : Steady hv s) : ∀ t, execInputLow dv s = .next t → Steady hv t := by
  intro t ht
  unfold execInputLow at ht
  injection ht with ht; subst ht
  with_reducible repeat' (first | assumption | apply steady_event | apply steady_modPwr | apply steady_setInput | simp only [steady_mk] | split)
theorem steady_resetNAssert (s : State) (h0 : Steady hv s) : Steady hv (resetNAssert s) := by
  unfold resetNAssert
  with_reducible repeat' (first | assumption | apply steady_event | apply steady_holdDies | apply steady_modPwr | simp only [steady_mk] | split)
theorem steady_execResetNAssert (s : State) (h0 : Steady hv s) : ∀ t, execResetNAssert s = .next t → Steady hv t := by
  intro t ht
  unfold execResetNAssert at ht
  injection ht with ht; subst ht
  with_reducible repeat' (first | assumption | apply steady_resetNAssert)
theorem steady_restartStart (s : State) (h0 : Steady hv s) : Steady hv (restartStart s) := by
  unfold restartStart
  with_reducible repeat' (first | assumption | apply steady_coldStart | apply steady_recoveryStart | apply steady_warmStart | split)
theorem steady_resetNRelease (s : State) (h0 : Steady hv s) : Steady hv (resetNRelease s) := by
  unfold resetNRelease
  with_reducible repeat' (first | assumption | apply steady_coldStart | apply steady_event | apply steady_modPwr | apply steady_recoveryStart | apply steady_releaseDies | apply steady_restartStart | simp only [steady_mk] | split)
theorem steady_execResetNRelease (s : State) (h0 : Steady hv s) : ∀ t, execResetNRelease s = .next t → Steady hv t := by
  intro t ht
  unfold execResetNRelease at ht
  injection ht with ht; subst ht
  with_reducible repeat' (first | assumption | apply steady_resetNRelease)
theorem steady_prsntNChange (s : State) (asserted : Bool) (h0 : Steady hv s) : Steady hv (prsntNChange s asserted) := by
  unfold prsntNChange
  with_reducible repeat' (first | assumption | apply steady_event | apply steady_modPwr | apply steady_tryEnable | simp only [steady_mk] | split)
theorem steady_execPrsntNChange (asserted : Bool) (s : State) (h0 : Steady hv s) : ∀ t, execPrsntNChange asserted s = .next t → Steady hv t := by
  intro t ht
  unfold execPrsntNChange at ht
  injection ht with ht; subst ht
  with_reducible repeat' (first | assumption | apply steady_prsntNChange)
theorem steady_galleryTemp (s : State) (g : Nat) (temp : Int) (h0 : Steady hv s) : Steady hv (galleryTemp s g temp) := by
  unfold galleryTemp
  with_reducible repeat' (first | assumption | apply steady_event | apply steady_modLast | simp only [steady_mk] | apply steady_foldl | intro _ | split)
theorem steady_coolClock (s : State) (h0 : Steady hv s) : Steady hv (coolClock s) := by
  unfold coolClock
  with_reducible repeat' (first | assumption | apply steady_modPwr | split)
theorem steady_tripNow (s : State) (sensor : Nat) (temp thr : Int) (h0 : Steady hv s) : Steady hv (tripNow s sensor temp thr) := by
  unfold tripNow
  with_reducible repeat' (first | assumption | apply steady_event | apply steady_fatalGuard | apply steady_holdDies | apply steady_logFault | apply steady_modPwr | apply steady_railsOff | apply steady_setPwrok | simp only [steady_mk] | intro _)
theorem steady_thermalThreshold (s : State) (sensor : Nat) (temp : Int) (h0 : Steady hv s) : Steady hv (thermalThreshold s sensor temp) := by
  unfold thermalThreshold
  with_reducible repeat' (first | assumption | apply steady_coolClock | apply steady_event | apply steady_galleryTemp | apply steady_modChan | apply steady_tripNow | simp only [steady_mk_hw] | split)
theorem steady_execThermalThreshold (sensor : Nat) (temp : Int) (s : State) (h0 : Steady hv s) : ∀ t, execThermalThreshold sensor temp s = .next t → Steady hv t := by
  intro t ht
  unfold execThermalThreshold at ht
  injection ht with ht; subst ht
  with_reducible repeat' (first | assumption | apply steady_thermalThreshold)
theorem steady_gateResume (s : State) (g : Nat) (h0 : Steady hv s) : Steady hv (gateResume s g) := by
  unfold gateResume
  with_reducible repeat' (first | assumption | apply steady_dispatch | apply steady_event | simp only [steady_mk] | apply steady_foldl | split)
theorem steady_execGateResume (gallery : Nat) (s : State) (h0 : Steady hv s) : ∀ t, execGateResume gallery s = .next t → Steady hv t := by
  intro t ht
  unfold execGateResume at ht
  injection ht with ht; subst ht
  with_reducible repeat' (first | assumption | apply steady_gateResume)
theorem steady_execTripCooldownRestart (s : State) (h0 : Steady hv s) : ∀ t, execTripCooldownRestart s = .next t → Steady hv t := by
  intro t ht
  unfold execTripCooldownRestart at ht
  injection ht with ht; subst ht
  with_reducible repeat' (first | assumption | apply steady_modPwr | apply steady_tryEnable | split)

theorem steady_execFwQuery (w : Nat) (s : State) (h0 : Steady hv s) : ∀ t, execFwQuery w s = .next t → Steady hv t := by
  intro t ht
  unfold execFwQuery at ht
  injection ht with ht; subst ht
  with_reducible repeat' (first | assumption | apply steady_good | apply steady_runCmd | intro _)
theorem steady_setOther (s : State) (x : FwSlot) (h0 : Steady hv s) : Steady hv (setOther s x) := by
  unfold setOther
  with_reducible repeat' (first | assumption | apply steady_refreshFormat | simp only [steady_mk])
theorem steady_fwWriteBody (s : State) (x : Win) (h0 : Steady hv s) : Steady hv (fwWriteBody s x).1 := by
  unfold fwWriteBody
  with_reducible repeat' (first | assumption | apply steady_good | apply steady_guardArg | apply steady_setOther | intro _)
theorem steady_execFwWrite (w : Nat) (s : State) (h0 : Steady hv s) : ∀ t, execFwWrite w s = .next t → Steady hv t := by
  intro t ht
  unfold execFwWrite at ht
  injection ht with ht; subst ht
  with_reducible repeat' (first | assumption | apply steady_fwWriteBody | apply steady_runCmd)
theorem steady_resetAt (s : State) (cold : Bool) (at_ : Nat) (h0 : Steady hv s) : Steady hv (resetAt s cold at_) := by
  unfold resetAt
  with_reducible repeat' (first | assumption | apply steady_modPwr)
theorem steady_fwActivateBody (s : State) (x : Win) (h0 : Steady hv s) : Steady hv (fwActivateBody s x).1 := by
  unfold fwActivateBody
  with_reducible repeat' (first | assumption | apply steady_fail | apply steady_good | apply steady_resetAt | apply steady_setOther | simp only [steady_mk] | split)
theorem steady_execFwActivate (w : Nat) (s : State) (h0 : Steady hv s) : ∀ t, execFwActivate w s = .next t → Steady hv t := by
  intro t ht
  unfold execFwActivate at ht
  injection ht with ht; subst ht
  with_reducible repeat' (first | assumption | apply steady_fwActivateBody | apply steady_runCmd)
theorem steady_fwSvnCommitBody (s : State) (x : Win) (h0 : Steady hv s) : Steady hv (fwSvnCommitBody s x).1 := by
  unfold fwSvnCommitBody
  dsimp only
  split
  · exact steady_fail _ _ _ h0
  · exact steady_good _ _ (steady_up h0 rfl rfl rfl rfl (Nat.le_max_left _ _) h0.canon (.inr (Nat.le_refl _)))
theorem steady_execFwSvnCommit (w : Nat) (s : State) (h0 : Steady hv s) : ∀ t, execFwSvnCommit w s = .next t → Steady hv t := by
  intro t ht
  unfold execFwSvnCommit at ht
  injection ht with ht; subst ht
  with_reducible repeat' (first | assumption | apply steady_fwSvnCommitBody | apply steady_runCmd)
theorem steady_execStoreQuery (w : Nat) (s : State) (h0 : Steady hv s) : ∀ t, execStoreQuery w s = .next t → Steady hv t := by
  intro t ht
  unfold execStoreQuery at ht
  injection ht with ht; subst ht
  with_reducible repeat' (first | assumption | apply steady_State_tickFree | apply steady_good | apply steady_runCmd | intro _)
theorem steady_storeBareBody (s : State) (x : Win) (h0 : Steady hv s) : Steady hv (storeBareBody s x).1 := by
  unfold storeBareBody
  with_reducible repeat' (first | assumption | apply steady_good | apply steady_guardArg | apply steady_retain | simp only [steady_mk] | intro _)
theorem steady_execStoreBare (w : Nat) (s : State) (h0 : Steady hv s) : ∀ t, execStoreBare w s = .next t → Steady hv t := by
  intro t ht
  unfold execStoreBare at ht
  injection ht with ht; subst ht
  with_reducible repeat' (first | assumption | apply steady_runRetained | apply steady_storeBareBody)
theorem steady_resetBody (s : State) (x : Win) (h0 : Steady hv s) : Steady hv (resetBody s x).1 := by
  unfold resetBody
  with_reducible repeat' (first | assumption | apply steady_good | apply steady_guardArg | apply steady_resetAt | intro _)
theorem steady_execResetCmd (w : Nat) (s : State) (h0 : Steady hv s) : ∀ t, execResetCmd w s = .next t → Steady hv t := by
  intro t ht
  unfold execResetCmd at ht
  injection ht with ht; subst ht
  with_reducible repeat' (first | assumption | apply steady_resetBody | apply steady_runCmd)
theorem steady_consoleUnlockBody (s : State) (x : Win) (h0 : Steady hv s) : Steady hv (consoleUnlockBody s x).1 := by
  unfold consoleUnlockBody
  with_reducible repeat' (first | assumption | apply steady_good | apply steady_guardArg | simp only [steady_mk_hw] | intro _)
theorem steady_execConsoleUnlock (w : Nat) (s : State) (h0 : Steady hv s) : ∀ t, execConsoleUnlock w s = .next t → Steady hv t := by
  intro t ht
  unfold execConsoleUnlock at ht
  injection ht with ht; subst ht
  with_reducible repeat' (first | assumption | apply steady_consoleUnlockBody | apply steady_runCmd)

theorem steady_execPairQuery (w : Nat) (s : State) (h0 : Steady hv s) : ∀ t, execPairQuery w s = .next t → Steady hv t := by
  intro t ht
  unfold execPairQuery at ht
  injection ht with ht; subst ht
  with_reducible repeat' (first | assumption | apply steady_good | apply steady_runCmd | intro _)
theorem steady_execLeaseQuery (w : Nat) (s : State) (h0 : Steady hv s) : ∀ t, execLeaseQuery w s = .next t → Steady hv t := by
  intro t ht
  unfold execLeaseQuery at ht
  injection ht with ht; subst ht
  with_reducible repeat' (first | assumption | apply steady_good | apply steady_runCmd | intro _)
theorem steady_dispatchAll (s : State) (h0 : Steady hv s) : Steady hv (dispatchAll s) := by
  unfold dispatchAll
  with_reducible repeat' (first | assumption | apply steady_dispatch | apply steady_foldl)
theorem steady_enableChange (s : State) (old new : Bool) (h0 : Steady hv s) : Steady hv (enableChange s old new) := by
  unfold enableChange
  with_reducible repeat' (first | assumption | apply steady_becomeActive | apply steady_dispatchAll | apply steady_endOldEpoch | apply steady_loseSync | apply steady_raiseEpoch | apply steady_setRole | apply steady_settleTier | apply steady_takePool | simp only [steady_mk] | split)
theorem steady_pairSetBody (s : State) (x : Win) (h0 : Steady hv s) : Steady hv (pairSetBody s x).1 := by
  unfold pairSetBody
  with_reducible repeat' (first | assumption | apply steady_enableChange | apply steady_good | apply steady_guardArg | apply steady_modPair | apply steady_retain | intro _)
theorem steady_execPairSet (w : Nat) (s : State) (h0 : Steady hv s) : ∀ t, execPairSet w s = .next t → Steady hv t := by
  intro t ht
  unfold execPairSet at ht
  injection ht with ht; subst ht
  with_reducible repeat' (first | assumption | apply steady_pairSetBody | apply steady_runRetained)
theorem steady_startResync (s : State) (h0 : Steady hv s) : Steady hv (startResync s) := by
  unfold startResync
  with_reducible repeat' (first | assumption | apply steady_mirrorNote | apply steady_modPair | simp only [steady_mk] | apply steady_foldl | intro _ | split)
theorem steady_execResyncStart (s : State) (h0 : Steady hv s) : ∀ t, execResyncStart s = .next t → Steady hv t := by
  intro t ht
  unfold execResyncStart at ht
  injection ht with ht; subst ht
  with_reducible repeat' (first | assumption | apply steady_startResync | split)
theorem steady_endResync (s : State) (h0 : Steady hv s) : Steady hv (endResync s) := by
  unfold endResync
  with_reducible repeat' (first | assumption | apply steady_finishCmd | apply steady_mirrorNote | apply steady_modPair | simp only [steady_mk] | split)
theorem steady_resyncStep (s : State) (h0 : Steady hv s) : Steady hv (resyncStep s) := by
  unfold resyncStep
  with_reducible repeat' (first | assumption | apply steady_endResync | apply steady_mirrorNote | apply steady_modPair | apply steady_readLine | apply steady_xfer | simp only [steady_mk] | split)
theorem steady_execResyncStep (s : State) (h0 : Steady hv s) : ∀ t, execResyncStep s = .next t → Steady hv t := by
  intro t ht
  unfold execResyncStep at ht
  injection ht with ht; subst ht
  with_reducible repeat' (first | assumption | apply steady_resyncStep)
theorem steady_pairSwapBody (w : Nat) (s : State) (x : Win) (h0 : Steady hv s) : Steady hv (pairSwapBody w s x).1 := by
  unfold pairSwapBody
  with_reducible repeat' (first | assumption | apply steady_fail | apply steady_goesOn | apply steady_modPair | apply steady_startResync | split)
theorem steady_execPairSwap (w : Nat) (s : State) (h0 : Steady hv s) : ∀ t, execPairSwap w s = .next t → Steady hv t := by
  intro t ht
  unfold execPairSwap at ht
  injection ht with ht; subst ht
  with_reducible repeat' (first | assumption | apply steady_pairSwapBody | apply steady_runCmd)
theorem steady_swapAtReached (s : State) (h0 : Steady hv s) : Steady hv (swapAtReached s) := by
  unfold swapAtReached
  with_reducible repeat' (first | assumption | apply steady_modPwr | apply steady_recoveryStart | apply steady_selfFence | simp only [steady_mk] | split)
theorem steady_execSwapAtReached (s : State) (h0 : Steady hv s) : ∀ t, execSwapAtReached s = .next t → Steady hv t := by
  intro t ht
  unfold execSwapAtReached at ht
  injection ht with ht; subst ht
  with_reducible repeat' (first | assumption | apply steady_swapAtReached)
theorem steady_peerSyncBody (recs : List MirrorRec) (s : State) (_x : Win) (h0 : Steady hv s) : Steady hv (peerSyncBody recs s _x).1 := by
  unfold peerSyncBody
  with_reducible repeat' (first | assumption | apply steady_fail | apply steady_good | apply steady_sendFlit | apply steady_takeRec | apply steady_tryTakeover | simp only [steady_mk] | apply steady_foldl | intro _ | apply steady_ite | split)
theorem steady_execPeerSync (w : Nat) (recs : List MirrorRec) (s : State) (h0 : Steady hv s) : ∀ t, execPeerSync w recs s = .next t → Steady hv t := by
  intro t ht
  unfold execPeerSync at ht
  injection ht with ht; subst ht
  with_reducible repeat' (first | assumption | apply steady_peerSyncBody | apply steady_runCmd)
theorem steady_runHeld (s : State) (w : Nat) (h0 : Steady hv s) : Steady hv (runHeld s w) := by
  unfold runHeld
  split
  · exact h0
  · split
    · exact h0
    · split
      · rename_i body hb
        refine steady_settleTier _ (steady_settle _ _ ?_)
        unfold retainedBody at hb
        split at hb
        all_goals first | (injection hb with hb; subst hb) | cases hb
        all_goals first | (with_reducible exact steady_trustSetBody _ _ h0) | (with_reducible exact steady_bmcKeySetBody _ _ _ h0)  | (with_reducible exact steady_hallCreateBody _ _ h0) | (with_reducible exact steady_hallDestroyBody _ _ h0) | (with_reducible exact steady_hallTrimBody _ _ h0) | (with_reducible exact steady_hallSetBody _ _ h0) | (with_reducible exact steady_hallAclSetBody _ _ h0) | (with_reducible exact steady_hallAclRemoveBody _ _ h0) | (with_reducible exact steady_topoSetBody _ _ h0) | (with_reducible exact steady_routeSetBody _ _ h0) | (with_reducible exact steady_portSetBody _ _ h0) | (with_reducible exact steady_tenantCreateBody _ _ h0) | (with_reducible exact steady_tenantRotateBody _ _ h0) | (with_reducible exact steady_tenantRetireBody _ _ h0) | (with_reducible exact steady_tenantRemoveBody _ _ h0) | (with_reducible exact steady_flightLoadBody _ _ h0) | (with_reducible exact steady_flightCancelBody _ _ h0) | (with_reducible exact steady_shaperSetBody _ _ h0) | (with_reducible exact steady_tierHallSetBody _ _ h0) | (with_reducible exact steady_dramSetBody _ _ h0) | (with_reducible exact steady_fenceClearBody _ _ h0) | (with_reducible exact steady_recTriggerSetBody _ _ h0) | (with_reducible exact steady_dumpClearBody _ _ h0) | (with_reducible exact steady_pairSetBody _ _ h0) | (with_reducible exact steady_storeBareBody _ _ h0)
      · exact h0
theorem steady_endWait (acked : Bool) (s : State) (m : MirWait) (h0 : Steady hv s) : Steady hv (endWait acked s m) := by
  unfold endWait
  with_reducible repeat' (first | assumption | apply steady_abortWelt | apply steady_durableGo | apply steady_modWelt | apply steady_runHeld | apply steady_send | simp only [steady_mk] | apply steady_foldl | intro _ | apply steady_ite | split)
theorem steady_endWaits (s : State) (acked : Bool) (p : MirWait → Bool) (h0 : Steady hv s) : Steady hv (endWaits s acked p) := by
  unfold endWaits
  with_reducible repeat' (first | assumption | apply steady_endWait | apply steady_modPair | apply steady_foldl)
theorem steady_execMirrorAck (mseq : Nat) (s : State) (h0 : Steady hv s) : ∀ t, execMirrorAck mseq s = .next t → Steady hv t := by
  intro t ht
  unfold execMirrorAck at ht
  injection ht with ht; subst ht
  with_reducible repeat' (first | assumption | apply steady_endWaits | apply steady_settleTier | split)
theorem steady_execMirrorAckTimeout (s : State) (h0 : Steady hv s) : ∀ t, execMirrorAckTimeout s = .next t → Steady hv t := by
  intro t ht
  unfold execMirrorAckTimeout at ht
  injection ht with ht; subst ht
  with_reducible repeat' (first | assumption | apply steady_endWaits | apply steady_loseSync | apply steady_sendMirror | apply steady_settleTier | split)
theorem steady_renewTimer (s : State) (h0 : Steady hv s) : Steady hv (renewTimer s) := by
  unfold renewTimer
  with_reducible repeat' (first | assumption | apply steady_leaseBoth | apply steady_modPair | split)
theorem steady_execRenewTimer (s : State) (h0 : Steady hv s) : ∀ t, execRenewTimer s = .next t → Steady hv t := by
  intro t ht
  unfold execRenewTimer at ht
  injection ht with ht; subst ht
  with_reducible repeat' (first | assumption | apply steady_renewTimer)
theorem steady_hbtTake (s : State) (m : MgtMsg) (op : Nat) (k : State → State) (h0 : Steady hv s) (k0 : ∀ (x0 : State), Steady hv x0 → Steady hv (k x0)) : Steady hv (hbtTake s m op k) := by
  unfold hbtTake
  with_reducible repeat' (first | assumption | apply steady_countBad | apply k0 | simp only [steady_mk] | intro _ | apply steady_ite | split)
theorem steady_renewIn (s : State) (path : LeasePath) (lc expiry : Nat) (h0 : Steady hv s) : Steady hv (renewIn s path lc expiry) := by
  unfold renewIn
  with_reducible repeat' (first | assumption | apply steady_leaseSay | apply steady_modPair | simp only [steady_mk] | split)
theorem steady_ackIn (s : State) (lc : Nat) (h0 : Steady hv s) : Steady hv (ackIn s lc) := by
  unfold ackIn
  with_reducible repeat' (first | assumption | apply steady_modPair | split)
theorem steady_releaseIn (s : State) (path : LeasePath) (mseq : Nat) (h0 : Steady hv s) : Steady hv (releaseIn s path mseq) := by
  unfold releaseIn
  with_reducible repeat' (first | assumption | apply steady_leaseGone | apply steady_modPair | apply steady_tryTakeover | split)
theorem steady_execRenew (m : MgtMsg) (s : State) (h0 : Steady hv s) : ∀ t, execRenew m s = .next t → Steady hv t := by
  intro t ht
  unfold execRenew at ht
  injection ht with ht; subst ht
  with_reducible repeat' (first | assumption | apply steady_hbtTake | apply steady_renewIn | simp only [steady_mk] | intro _)
theorem steady_execAck (m : MgtMsg) (s : State) (h0 : Steady hv s) : ∀ t, execAck m s = .next t → Steady hv t := by
  intro t ht
  unfold execAck at ht
  injection ht with ht; subst ht
  with_reducible repeat' (first | assumption | apply steady_ackIn | apply steady_hbtTake | simp only [steady_mk] | intro _)
theorem steady_execRelease (m : MgtMsg) (s : State) (h0 : Steady hv s) : ∀ t, execRelease m s = .next t → Steady hv t := by
  intro t ht
  unfold execRelease at ht
  injection ht with ht; subst ht
  with_reducible repeat' (first | assumption | apply steady_hbtTake | apply steady_releaseIn | simp only [steady_mk] | intro _)
theorem steady_execLeaseActiveExpiry (s : State) (h0 : Steady hv s) : ∀ t, execLeaseActiveExpiry s = .next t → Steady hv t := by
  intro t ht
  unfold execLeaseActiveExpiry at ht
  injection ht with ht; subst ht
  with_reducible repeat' (first | assumption | apply steady_selfFence | split)
theorem steady_execLeaseStandbyExpiry (answers : List Bool) (s : State) (h0 : Steady hv s) : ∀ t, execLeaseStandbyExpiry answers s = .next t → Steady hv t := by
  intro t ht
  unfold execLeaseStandbyExpiry at ht
  injection ht with ht; subst ht
  with_reducible repeat' (first | assumption | apply steady_leaseGone | apply steady_tryTakeover | split)
theorem steady_execPreemptDeadline (s : State) (h0 : Steady hv s) : ∀ t, execPreemptDeadline s = .next t → Steady hv t := by
  intro t ht
  unfold execPreemptDeadline at ht
  injection ht with ht; subst ht
  with_reducible repeat' (first | assumption | apply steady_modPair | apply steady_registerAll | split)
theorem steady_selfResume (s : State) (holders : List (Option Nat)) (h0 : Steady hv s) : Steady hv (selfResume s holders) := by
  unfold selfResume
  with_reducible repeat' (first | assumption | apply steady_becomeActive | apply steady_dispatchAll | apply steady_endOldEpoch | apply steady_loseSync | apply steady_raiseEpoch | apply steady_say | apply steady_settleTier | simp only [steady_mk] | intro _ | apply steady_ite | split)
theorem steady_execSelfResumeCheck (holders : List (Option Nat)) (s : State) (h0 : Steady hv s) : ∀ t, execSelfResumeCheck holders s = .next t → Steady hv t := by
  intro t ht
  unfold execSelfResumeCheck at ht
  injection ht with ht; subst ht
  with_reducible repeat' (first | assumption | apply steady_selfResume)
theorem steady_addTicks (s : State) (n : Nat) (h0 : Steady hv s) : Steady hv (addTicks s n) := by
  exact steady_up h0 rfl rfl rfl rfl (Nat.le_refl _) h0.canon (.inr (Nat.le_add_right _ _))
theorem steady_execTimeSyncTimer (s : State) (h0 : Steady hv s) : ∀ t, execTimeSyncTimer s = .next t → Steady hv t := by
  intro t ht
  unfold execTimeSyncTimer at ht
  injection ht with ht; subst ht
  with_reducible repeat' (first | assumption | apply steady_hbtSay | apply steady_modPair | simp only [steady_mk] | intro _ | apply steady_ite | split)
theorem steady_execTimeReq (m : MgtMsg) (s : State) (h0 : Steady hv s) : ∀ t, execTimeReq m s = .next t → Steady hv t := by
  intro t ht
  unfold execTimeReq at ht
  injection ht with ht; subst ht
  with_reducible repeat' (first | assumption | apply steady_hbtSay | apply steady_hbtTake | simp only [steady_mk] | intro _ | apply steady_ite | split)
theorem steady_timeRsp (s : State) (tSend tEcho : Nat) (h0 : Steady hv s) : Steady hv (timeRsp s tSend tEcho) := by
  unfold timeRsp
  with_reducible repeat' (first | assumption | apply steady_addTicks | apply steady_modPair | simp only [steady_mk] | split)
theorem steady_execTimeRsp (m : MgtMsg) (s : State) (h0 : Steady hv s) : ∀ t, execTimeRsp m s = .next t → Steady hv t := by
  intro t ht
  unfold execTimeRsp at ht
  injection ht with ht; subst ht
  with_reducible repeat' (first | assumption | apply steady_hbtTake | apply steady_timeRsp | simp only [steady_mk] | intro _)
theorem steady_execOffsetSlewTick (s : State) (h0 : Steady hv s) : ∀ t, execOffsetSlewTick s = .next t → Steady hv t := by
  intro t ht
  unfold execOffsetSlewTick at ht
  injection ht with ht; subst ht
  with_reducible repeat' (first | assumption | apply steady_addTicks | apply steady_modPair | simp only [steady_mk_clk] | split)
theorem steady_execAlignedLossTimeout (s : State) (h0 : Steady hv s) : ∀ t, execAlignedLossTimeout s = .next t → Steady hv t := by
  intro t ht
  unfold execAlignedLossTimeout at ht
  injection ht with ht; subst ht
  with_reducible repeat' (first | assumption | apply steady_modPair | split)
theorem steady_setWire (s : State) (st : WireSt) (h0 : Steady hv s) : Steady hv (setWire s st) := by
  unfold setWire
  with_reducible repeat' (first | assumption | apply steady_event | apply steady_modPair | split)
theorem steady_wireFrame (s : State) (f : BitVec 72) (h0 : Steady hv s) : Steady hv (wireFrame s f) := by
  unfold wireFrame
  with_reducible repeat' (first | assumption | apply steady_ackIn | apply steady_modPair | apply steady_releaseIn | apply steady_renewIn | apply steady_setWire | simp only [steady_mk] | split)
theorem steady_execWireFrame (bits : BitVec 72) (s : State) (h0 : Steady hv s) : ∀ t, execWireFrame bits s = .next t → Steady hv t := by
  intro t ht
  unfold execWireFrame at ht
  injection ht with ht; subst ht
  with_reducible repeat' (first | assumption | apply steady_wireFrame)
theorem steady_execWireIdleTimeout (s : State) (h0 : Steady hv s) : ∀ t, execWireIdleTimeout s = .next t → Steady hv t := by
  intro t ht
  unfold execWireIdleTimeout at ht
  injection ht with ht; subst ht
  with_reducible repeat' (first | assumption | apply steady_setWire | split)
theorem steady_execWireChatter (s : State) (h0 : Steady hv s) : ∀ t, execWireChatter s = .next t → Steady hv t := by
  intro t ht
  unfold execWireChatter at ht
  injection ht with ht; subst ht
  with_reducible repeat' (first | assumption | apply steady_modPair | apply steady_setWire)
theorem steady_execWireChatterClear (s : State) (h0 : Steady hv s) : ∀ t, execWireChatterClear s = .next t → Steady hv t := by
  intro t ht
  unfold execWireChatterClear at ht
  injection ht with ht; subst ht
  with_reducible repeat' (first | assumption | apply steady_setWire | split)
theorem steady_execRecoveryWindowEnd (s : State) (h0 : Steady hv s) : ∀ t, execRecoveryWindowEnd s = .next t → Steady hv t := by
  intro t ht
  unfold execRecoveryWindowEnd at ht
  injection ht with ht; subst ht
  with_reducible repeat' (first | assumption | apply steady_activate | apply steady_settleTier | apply steady_foldl | split)
theorem steady_clearAdvance (s : State) (hid : Nat) (h : Hall) (h0 : Steady hv s) : Steady hv (clearAdvance s hid h) := by
  exact steady_up h0 rfl rfl rfl rfl (Nat.le_refl _) (fun k => ⟨rising_filter _ _ (h0.canon k).1, all_filter _ _ _ (h0.canon k).2⟩) (.inr (Nat.le_refl _))
theorem steady_execPoisonedHallClearStep (hall : Nat) (s : State) (h0 : Steady hv s) : ∀ t, execPoisonedHallClearStep hall s = .next t → Steady hv t := by
  intro t ht
  unfold execPoisonedHallClearStep at ht
  injection ht with ht; subst ht
  with_reducible repeat' (first | assumption | apply steady_clearAdvance | split)

end Sys2Proof.Laws
end

