-- ==== Sys2Proof/Laws/Window.lean ====
section
/-! SUPPORT. What the shared operations of management commands do: a due command answers its body's answer, one that is not due
changes nothing, a retained change commits first. -/

namespace Sys2Proof.Laws

open Sys2Proof.Machine Sys2Proof.Safety

theorem runCmd_due {s : State} {w op : Nat} {x : Win} (body : State → Win → Answer) (h : Due s w op x) :
    runCmd s w op body = settle w (body s x) := by
  simp only [runCmd, h.1, h.2, Bool.false_eq_true, if_false]

theorem runCmd_undue {s : State} {w op : Nat} (body : State → Win → Answer) (h : dueCmd s w op = none) :
    runCmd s w op body = s := by
  simp only [runCmd, h]

theorem runRetained_due {s : State} {w op : Nat} {x : Win} (body : State → Win → Answer) (h : Due s w op x)
    (hl : mirrorLive s = false) : runRetained s w op body = settle w (body s x) := by
  rw [runRetained, runCmd_due _ h]
  simp only [hl, Bool.false_and, Bool.false_eq_true, if_false]

theorem runRetained_undue {s : State} {w op : Nat} (body : State → Win → Answer) (h : dueCmd s w op = none) :
    runRetained s w op body = s := runCmd_undue _ h

/-- A body that fails answers its status and DETAIL and leaves the state, mirrored or not (R494). -/
theorem runRetained_fail {s : State} {w op : Nat} {x : Win} (body : State → Win → Answer) (h : Due s w op x) {st d : Nat}
    (hb : body s x = fail s st d) (hst : st ≠ stOk) : runRetained s w op body = finishCmd s w st d [] := by
  rw [runRetained, runCmd_due _ h]
  simp only [hb, fail, Option.all_some, hst, decide_false, Bool.and_false, Bool.false_eq_true, if_false, settle]

theorem settle_good (w : Nat) (s : State) (res : List Byte) : settle w (good s res) = finishCmd s w stOk 0 res := rfl

theorem settle_fail (w : Nat) (s : State) (st d : Nat) : settle w (fail s st d) = finishCmd s w st d [] := rfl

theorem settle_goesOn (w : Nat) (s : State) : settle w (goesOn s) = markBegun s w := rfl

theorem guardArg_none (s : State) (k : Unit → Answer) : guardArg s none k = k () := rfl

theorem guardArg_some (s : State) (st d : Nat) (k : Unit → Answer) : guardArg s (some (st, d)) k = fail s st d := rfl

/-- A list of argument checks passes when none of its checks is true (R495). -/
theorem badArg_none {l : List (Bool × Nat)} : badArg l = none ↔ ∀ e ∈ l, e.1 = false := by
  induction l with
  | nil => simp [badArg]
  | cons e t ih =>
    obtain ⟨b, d⟩ := e
    cases b <;> simp [badArg, ih]

theorem firstFail_none {l : List (Bool × Nat × Nat)} : firstFail l = none ↔ ∀ e ∈ l, e.1 = false := by
  induction l with
  | nil => simp [firstFail]
  | cons e t ih =>
    obtain ⟨b, d⟩ := e
    cases b <;> simp [firstFail, ih]

theorem commit_ok {s : State} (h : s.store.writable = true) : (commit s).2 = true := by
  simp [commit, commitWith, h]

theorem retain_ok {new : State} (h : new.store.writable = true) (old : State) (k : State → Answer) :
    retain old new k = k (commit new).1 := by
  simp [retain, commit, commitWith, h]

theorem retain_failed {new : State} (h : new.store.writable = false) (old : State) (k : State → Answer) :
    retain old new k = fail old stFault := by
  simp [retain, commit, commitWith, h]

end Sys2Proof.Laws
end

