-- ==== Sys2Proof/Tests/Slice0.lean ====
section
/-! SUPPORT. Tests: terms each check of WellFormed refuses, the spec's worked examples, and for every statement with
hypotheses a state and operands that meet them. -/

namespace Sys2Proof.Tests
open Sys2Proof.Machine Sys2Proof.Safety

/-- The bytes of fields, each (bytes, value), without gaps. -/
def argBytes (l : List (Nat × Nat)) : List Byte := l.flatMap fun f => leBytes f.1 f.2

/-- A window in which the command with this opcode and these argument bytes executes. -/
def cmdWindow (cls : WinClass) (op : Nat) (args : List (Nat × Nat)) : Win :=
  { cls := cls, busy := true, mem := wrBytes [] 0x1000 (argBytes args)
    cmd := some { op := op, order := 0, accept := 0, executing := true } }

/-- A state in which that command is due in window 5. -/
def withCmd (s : State) (op : Nat) (args : List (Nat × Nat)) : State :=
  { s with pwr := { s.pwr with feltiOn := true }, win := [(5, cmdWindow .operator op args)] }

/-- A tenant, and a channel with room, for a hall of one GiB on channel 0. -/
def hallState (op : Nat) (a : List (Nat × Nat)) : State := withCmd
  { ten := { recs := [(1, {})] }, dram := { chans := [(0, { capGib := 8 })] }, hw := { media := [] } } op a

/-- A hall of four GiB on channel 0, as the tests hold it. -/
def testHall : Hall := { tenant := 1, cls := .resident, light := true, chMask := 1, base := 0, size := 4, quota := 4, extents := [(0, 1), (0, 2), (0, 3), (0, 4)] }

/-- A tiered hall of two GiB with a QUOTA of two, in blocks of 64 KiB, of which one holds data. -/
def tierHall : Hall := { tenant := 1, cls := .tiered, light := true, tierBlock := 2, chMask := 1, base := 0, size := 4, quota := 4 }

/-- A queue of context 3, with one descriptor that has come. -/
def descState (bytes : List (Nat × Nat)) : State :=
  let c : Ctx := { tenant := 1, vaBits := 39, ctlQueue := 1, halls := [7] }
  let d : Desc := { idx := 0, bytes := argBytes bytes, dtag := 9, ready := true }
  { pwr := { feltiOn := true }, halls := [(7, testHall)]
    eng := { ctxs := [(3, c)], loaded := [(0, { image := [], tenant := 1 })]
             queues := [(1, { owner := 6, ringHall := 7, ctx := 3, sub := 0, sqLog := 6, cqLog := 6, fqLog := 4, sqBase := 0, cqBase := 1, fqBase := 2
                              descs := [d], open_ := [{ fseq := 1, kind := 1, va := 0, lid := 0, time := 0, tmo := 10, positions := [0] }] })] } }

/-- A sequencer with one tread of 1,000 ticks and no reservation. -/
def testSeqr : Seqr := { active := { takeover := 0, treads := [{ len := 1000, resFirst := 0, resCount := 0, svc := [0, 500, 0, 0, 0, 0, 0, 0] }], res := [] } }

/-- A state in which a running last holds a claim on G0. -/
def claimState : State :=
  let img := leBytes 256 (2 ^ (8 * 14)) ++ leBytes 8 (packBits [(8, 0x22), (8, 2), (8, 0), (8, 0), (32, 1000)]) ++ leBytes 8 0
  { flt := [(0x22, testSeqr)]
    eng := { loaded := [(0, { image := img, tenant := 1 })]
             lasts := [(0, { qid := 1, sqIdx := 0, handle := 0, ctx := 3, args := [], start := 0, cores := [], shadow := 0, bound := 1000000 })] } }


/-! ### Well-formedness: a term per check that the check refuses -/

/-- Message bytes of one slot and of two, and the bytes of a flit. -/
def one : List Byte := List.replicate 55 0
def two : List Byte := List.replicate 110 0
def flit : List Byte := List.replicate 242 0

set_option maxRecDepth 4000 in
theorem test_wf_good : (ReqMsg.wf { port := 0, bytes := one } && ReqMsg.wf { port := 7, bytes := two } && WltMsg.wf { port := 0, bytes := one } &&
    RspMsg.wf { port := 0, bytes := two } && MgtMsg.wf { port := 9, bytes := one } && flitWf 9 flit && mbxWf .ethernet one &&
    Instr.wf (.hallCreate 1023) && Instr.wf (.rdS { port := 0, bytes := one })) = true := by decide

theorem test_wf_messages : (ReqMsg.wf { port := 8, bytes := one } || ReqMsg.wf { port := 0, bytes := [0] } || WltMsg.wf { port := 8, bytes := one } ||
    WltMsg.wf { port := 0, bytes := two } || RspMsg.wf { port := 8, bytes := one } || RspMsg.wf { port := 0, bytes := [] } ||
    MgtMsg.wf { port := 10, bytes := one } || MgtMsg.wf { port := 0, bytes := two } || flitWf 10 flit || flitWf 0 one) = false := by decide

theorem test_wf_path : ([Path.port 8, .peer 7, .peer 10].any fun p => mbxWf p one) = false ∧ mbxWf .ethernet two = false := by decide

theorem test_wf_window : (([.identityGet 1024, .hallCreate 1024, .scanRun 1024 .pass, .peerSync 1024 [], .recRead 1024 [], .alertStatusClear 1024 0,
    .hintTimeout 1024, .windowRegisterWrite 1024 0 0, .windowRegisterWrite 0 4294967296 0, .alertHoldoffExpiry 1024 0,
    .alertHoldoffExpiry 0 6] : List Instr).any fun i => i.wf) = false := by decide

theorem test_wf_mailbox : (([.mbxOpen { port := 10, bytes := one }, .mbxWrite (.port 8) one, .mbxRead (.peer 7) one, .mbxRead .ethernet [],
    .mbxClose (.port 8) one, .budgetAck { port := 0, bytes := [] }, .budgetDecreaseTimeout 262144 0, .budgetDecreaseTimeout 0 4096,
    .epState { port := 10, bytes := one }, .linkRekey { port := 10, bytes := one }, .spdmFrag { port := 10, bytes := one },
    .qdb { port := 10, bytes := one }, .linkRekeyDue 10] : List Instr).any fun i => i.wf) = false := by decide

theorem test_wf_spdm : (([.getCertificate 0 8 0 0, .getCertificate 0 0 4294967296 0, .getCertificate 0 0 0 65536,
    .challenge 0 8 [], .chunkSend 0 256 0 true [], .chunkGet 0 256 0, .smbusBlockWrite 4294967296 [] true,
    .smbusSetReadPointer 4294967296 true, .smbusBlockRead 33] : List Instr).any fun i => i.wf) = false := by decide

theorem test_wf_link : (([.keepAlive 10, .negotiate 10 flit, .seqFlitReceive 10 flit, .seqFlitReceive 0 one, .idleFlitReceive 10 flit,
    .nakReceive 0 [], .laneSwapReceive 10 flit, .nakRepeat 10 0, .nakRepeat 0 2, .replayTimeout 10 0,
    .replayTimeout 0 2] : List Instr).any fun i => i.wf) = false := by decide

theorem test_wf_home : (([.rdS { port := 8, bytes := one }, .wrFull { port := 8, bytes := two }, .wbM { port := 8, bytes := two }, .amo { port := 8, bytes := one },
    .wltRd { port := 8, bytes := one }, .wltOpen { port := 8, bytes := one }, .wltCommit { port := 8, bytes := one } [], .rspI { port := 8, bytes := one },
    .dataWb { port := 8, bytes := two }, .orderingPointReached (2 ^ 46), .snoopTimeout 262144 0,
    .snoopTimeout 0 65536, .orphanWalk 262144, .orderingBoundExpiry (2 ^ 46) 0 0, .orderingBoundExpiry 0 262144 0,
    .orderingBoundExpiry 0 0 65536, .trackerHoldExpiry 262144 0, .trackerHoldExpiry 0 65536, .weltTimeout 4096] : List Instr).any fun i => i.wf) = false := by decide

theorem test_wf_tier : (([.journalRecordDurable 4096, .landingReadDone 4096 0 [], .runClose 0 0 4096, .nvmeIoTimeout 8 0,
    .nvmeIoComplete 8 0, .intentBitClear 4096] : List Instr).any fun i => i.wf) = false := by decide

theorem test_wf_engine : (([.descriptorFetch 4096, .ringAccessDone 4096 0, .epochDrainDone 65536, .translationWalkDone 0 (2 ^ 32),
    .tileOverrun 0 (2 ^ 32) 0, .benchClearDone 136, .sentinelReplay 136 0 false, .thermalThreshold 37 0, .gateResume 16,
    .flightTakeover 64] : List Instr).any fun i => i.wf) = false := by decide

theorem test_wf_dram : (([.refreshDue 16 0, .refreshDue 0 64, .retrainPause 16 0, .retrainPause 0 2, .scrubStep 16,
    .spprRepair 16 0 0 0 0 0, .spprRepair 0 2 0 0 0 0, .spprRepair 0 0 8 0 0 0, .spprRepair 0 0 0 4 0 0,
    .spprRepair 0 0 0 0 0 20, .keyCopyAck 8192, .sweepStep 4096] : List Instr).any fun i => i.wf) = false := by decide

theorem test_wf_pair : (([.renew { port := 10, bytes := one }, .ack { port := 10, bytes := one }, .release { port := 0, bytes := [] },
    .timeReq { port := 10, bytes := one }, .timeRsp { port := 10, bytes := one }] : List Instr).any fun i => i.wf) = false := by decide

/-! ### The spec's worked examples -/

/-- Choosing the home slice (01_pool_controller_units.md): PPA 0x000C_0000_1040 is homed at logical slice 48. -/
theorem test_home_slice_example : homeSlice (0xC00001040 / 64) = 48 := by decide

/-- The address example of 02_halls_and_pool_addresses.md: hall 17, offset 0x1040, is on channel D1. -/
theorem test_channel_example :
    let h : Hall := { tenant := 0, cls := .resident, light := false, chMask := 0x0F0F, base := 0x30, size := 1, grain := 1, quota := 1 }
    ppaOf h 0x1040 = 0xC00001040 ∧ hallChans h = [0, 1, 2, 3, 8, 9, 10, 11] ∧ chanOf h 0x1040 = 1 := by decide

/-- A lost flit at the wrap (03_fabric_ports_and_dirdody_link.md): the classes with NEXT = 0xF80. -/
theorem test_seq_window_example :
    seqClass 0xF80 0xF80 false = .accept ∧ seqClass 0xF80 0x00F false = .gap ∧ seqClass 0xF80 0x17F false = .gap ∧
      seqClass 0xF80 0x180 false = .outside ∧ seqClass 0xF80 0xD80 false = .duplicate ∧ seqClass 0xF80 0xD7F false = .outside := by
  decide

/-- A landing with one drive failed (06_dram_tier_over_flash.md): where the four units of the block lie. -/
theorem test_landing_example :
    let h : Hall := { tenant := 0, cls := .tiered, light := false, chMask := 1, base := 0, size := 1, quota := 1, tierBlock := 1 }
    let s : State := { tier := { halls := [(33, { fbase := 0x140 })] } }
    blockUnits s 33 h 5 = [83886100, 83886101, 83886102, 83886103] ∧
      (blockUnits s 33 h 5).map driveOf = [5, 6, 7, 2] ∧ (blockUnits s 33 h 5).map (fun u => parityDrive (rowOf u)) = [0, 0, 0, 1] ∧
      (blockUnits s 33 h 5).map lbaOf = [12245872, 12245872, 12245872, 12245873] := by decide

/-- A stage entry of an image as the bound reads it: FUSE, TILES and TILE_NS. -/
def stageBytes (fuse tiles ns : Nat) : List Byte := leBytes 64 (2 ^ 8 * fuse + 2 ^ 32 * tiles + 2 ^ 64 * ns)

set_option maxRecDepth 4000 in
/-- Bound, admission and release of a routed last (07_awl_cores_and_lasts.md): B is 143,000 ns. -/
theorem test_bound_example :
    boundNs (leBytes 256 (2 ^ 96 * 5 + 2 ^ 120 * 8 + 2 ^ 128 * 0x30) ++ stageBytes 0 64 1500 ++ stageBytes 0 256 2000 ++
      stageBytes 1 256 1000 ++ stageBytes 1 256 4000 ++ stageBytes 1 256 500) 3 = 143000 := by
  decide

set_option maxRecDepth 4000 in
/-- A core that fails one operand pattern (16_faults_shadow_checking_and_recorder.md): chain 1 with 128 tiles and a shadow
fraction of 1/16 has 136 positions, and tile 40 stands at position 42 with its copy at 43. -/
theorem test_shadow_example : (sequenceOf 3 1 (List.range 128)).length = 136 ∧
    (sequenceOf 3 1 (List.range 128))[42]? = some (40, false) ∧ (sequenceOf 3 1 (List.range 128))[43]? = some (40, true) := by decide

/-- Injecting one and then two device errors (11_dram_channels_and_data_protection.md): the mask names device group 13, and a
second device of the subchannel makes the pair uncorrectable. -/
theorem test_injection_example :
    let e : BitVec 160 := 0xF0000000F0000000F0000000F000
    let f : BitVec 160 := 0x0F0000000F0000000F0000000F000000
    decodePair {} [0, 0, 0, 0, e, 0, 0, 0] = .corrected 13 ∧ decodePair {} [0, 0, 0, 0, e ||| f, 0, 0, 0] = .uncorrectable := by
  decide

/-- The layouts of R68, R69 and R119, written out bit by bit: a link header, two slot headers, a CMP. -/
theorem test_wire_layout : linkHdr 0 1 0x123 0x456 0x789 true = [0x38, 0x12, 0x56, 0x94, 0x78, 0x01] ∧ slotHdr 4 1 1 = 0x1C ∧ slotHdr 3 0 2 = 0x23 ∧
    ((Emit.cmp 0 6 0x1234 .revoked 2 5).message.take 10) = [0x40, 0x34, 0x12, 6, 0, 0, 3, 2, 5, 0] ∧
    (Emit.cmp 0 6 0x1234 .revoked 2 5).message.length = 55 := by decide

/-- R68 and R116 read back: a SEQ flit's header fields, and the fields of an RD_S of a 55-byte message. -/
theorem test_wire_fields : let f : List Byte := sub [] 0 236 ++ [0x38, 0x12, 0x56, 0x94, 0x78, 0x01]
    let m : ReqMsg := { port := 0, bytes := [1, 0x34, 0x12, 6, 0, 2, 17, 1, 0x40, 0x10, 0, 0, 0, 0x20, 9, 0, 1, 5] ++ List.replicate 37 0 }
    flitType f = 0 ∧ flitSpace f = 1 ∧ flitSeq f = 0x123 ∧ flitAckN f = 0x456 ∧ flitAckP f = 0x789 ∧ flitKeyed f = true ∧ hdrBad f = false ∧
    m.tag = 0x1234 ∧ m.src = 0x20006 ∧ m.hall = 0x111 ∧ m.offset % 2 ^ 16 = 0x1040 ∧ m.ctx = some 9 ∧ m.epoch = 5 := by decide

/-! ### Witnesses of the statements' hypotheses -/

theorem wit_FrontCommandRuns : ({ pending := [.feltiTick] } : State).pending = .feltiTick :: [] := rfl

theorem wit_EmptyQueueTicks : ({} : State).pending = [] ∧ ({} : State).clk.hold = 0 ∧
    0 < ({ clk := { hold := 3 } } : State).clk.hold := by decide

theorem wit_UndueCommandChangesNothing : opcodeOf (.lastLoad 5) = some (5, 0x0600) ∧
    dueCmd ({} : State) 5 0x0600 = none ∧ ({} : State).eng.loads.get? 5 = none := by decide

theorem wit_CompletionWritesHeader :
    (withCmd {} 0x0104 []).win.get? 5 = some (cmdWindow .operator 0x0104 []) ∧ (withCmd {} 0x0104 []).pwr.feltiOn = true ∧
    (cmdWindow .operator 0x0104 []).cls ≠ .closed ∧ Memory.wf (cmdWindow .operator 0x0104 [(2, 7)]).mem := by decide

theorem wit_RingsFollowTheSequenceNumber :
    let x : Win := { cls := .operator, ring := true, mem := wrBytes [] 0x44 [1] }
    let y : Win := { cls := .operator, ring := true }
    let z : Win := { cls := .operator, ring := true, mem := wrBytes [] 0x44 [2] }
    let s : State := { pwr := { feltiOn := true }, win := [(5, x), (6, y), (7, z)] }
    s.win.get? 5 = some x ∧ s.win.get? 6 = some y ∧ s.win.get? 7 = some z ∧ s.pwr.feltiOn = true ∧ hdr x 4 4 ≠ x.lastCseq ∧
      hdr x 4 4 = (x.lastCseq + 1) % 2 ^ 32 ∧ hdr y 4 4 = y.lastCseq ∧ hdr z 4 4 ≠ (z.lastCseq + 1) % 2 ^ 32 := by decide

theorem wit_AcceptedRingIsCheckedOrRuns :
    let x : Win := { cls := .operator, ring := true, mem := wrBytes [] 0x40 [4, 1, 3, 0, 1] }
    let s : State := { pwr := { feltiOn := true }, win := [(5, x)] }
    s.win.get? 5 = some x ∧ x.ring = true ∧ x.busy = false ∧ hdr x 4 4 = (x.lastCseq + 1) % 2 ^ 32 ∧ x.lastCseq < 2 ^ 32 ∧
      generalCheck s 5 x = none := by decide

theorem wit_WindowRowsComplete :
    let c : Cmd := { op := 0x0104, order := 0, accept := 0 }
    let x : Win := { cls := .operator, cmd := some c, alertEn := true, gaps := [{ cls := 2, since := 0, count := 1 }, { cls := 3, since := 0 }] }
    let y : Win := { cls := .operator, cmd := some { c with op := 0x0505, executing := true, begun := true } }
    let s : State := { clk := { master := ms 60 }, pwr := { feltiOn := true }, win := [(5, x), (6, y)] }
    s.win.get? 5 = some x ∧ s.win.get? 6 = some y ∧ executing s < 64 ∧ s.pwr.feltiOn = true ∧ drainBound 0x0505 = false ∧
      (s.win.any fun e => e.2.cmd.any fun d => !d.executing && decide (d.order < c.order)) = false ∧ (cmdInfo c.op).isSome = true ∧
      ((cmdInfo c.op).any fun i => decide (c.accept + i.bound ≤ s.now)) = true ∧
      ((cmdInfo 0x0505).any fun i => decide (i.bound ≤ s.now)) = true ∧
      (x.gaps.find? fun g => g.cls = 2) = some { cls := 2, since := 0, count := 1 } ∧
      (x.gaps.find? fun g => g.cls = 3) = some { cls := 3, since := 0 } ∧ winPathUp s 5 x = true := by decide

theorem wit_EndpointMailboxRowsComplete :
    let up : Port := { st := .up }
    let s : State := { acl := [(aclKey 1 7, { rights := Rights.mk true false false false false, budget := 1, subscriber := 0, inForce := 1, nseq := 1 })]
                       eps := [(6, { dead := true })], ports := [(0, up), (8, up)]
                       win := [(67, { cls := .host, owner := 9 })] }
    let open_ := fun ep => leBytes 1 0x54 ++ [0, 0] ++ leBytes 3 ep ++ List.replicate 49 (0 : Byte)
    let close := leBytes 1 0x59 ++ leBytes 2 67 ++ leBytes 3 9 ++ List.replicate 49 (0 : Byte)
    let write := leBytes 1 0x56 ++ leBytes 2 67 ++ leBytes 3 9 ++ leBytes 4 64 ++ [1] ++ List.replicate 44 (0 : Byte)
    let read := leBytes 1 0x57 ++ leBytes 2 67 ++ leBytes 3 9 ++ leBytes 4 64 ++ leBytes 2 1 ++ leBytes 2 5 ++ List.replicate 41 (0 : Byte)
    let ep := fun x => leBytes 1 0x62 ++ leBytes 3 9 ++ [x, 1] ++ List.replicate 49 (0 : Byte)
    heard s 0 true = true ∧ heard s 1 true = false ∧ mbxOpenBad (open_ 7) = false ∧ mbxOpenBad close = true ∧
      mbxSrc (open_ 7) = 7 ∧ isDead s 7 = false ∧ isDead s (mbxSrc (open_ 6)) = true ∧ mbxOpenBad (open_ 6) = false ∧
      ((learn s 7 0).win.find? fun e => e.2.cls = .host ∧ e.2.owner = 7) = none ∧ listedIn (learn s 7 0) none 7 = true ∧
      (learn s 7 0).win.freeKey 67 957 = some 68 ∧
      listedIn (learn s 8 0) none 8 = false ∧ ((learn s 9 0).win.find? fun e => e.2.cls = .host ∧ e.2.owner = 9).isSome = true ∧
      (pathPort s (.port 0)).all (fun p => heard s p true) = true ∧ (pathEp s (.port 0) (mbxSrc write)).any (isDead s) = false ∧
      mbxWriteBad write = false ∧ mbxReadBad read = false ∧ mbxCloseBad close = false ∧ mbxWin write = 67 ∧
      (learnPath s (.port 0) 9).win.get? 67 = some { cls := .host, owner := 9 } ∧
      pathOk (learnPath s (.port 0) 9) (.port 0) 67 9 = true ∧ pathOk (learnPath s .ethernet 9) .ethernet 67 9 = false ∧
      mbxWriteBad read = true ∧ mbxReadBad write = true ∧ mbxCloseBad read = true ∧ epStateBad read = true ∧
      epStateBad (ep 1) = false ∧ epStateBad (ep 0) = false ∧ subNat (ep 1) 4 1 = 1 ∧ subNat (ep 0) 4 1 = 0 := by decide

theorem wit_BudgetsComeIntoForce :
    let a : AclEntry := { rights := Rights.mk true false false false false, budget := 1, subscriber := 0, inForce := 3, nseq := 2, notice := some 0 }
    let s : State := { clk := { master := ms 2 }, acl := [(aclKey 1 7, a)], ports := [(0, { st := .up })] }
    let ack := leBytes 1 0x5D ++ leBytes 3 7 ++ leBytes 2 1 ++ [0, 0, 2] ++ List.replicate 46 (0 : Byte)
    heard s 0 true = true ∧ budgetAckBad ack = false ∧ subNat ack 1 3 = 7 ∧ subNat ack 4 2 = 1 ∧ subNat ack 8 2 = 2 ∧ isDead s 7 = false ∧
      aclOf (learn s 7 0) 1 7 = some a ∧ aclOf s 1 7 = some a ∧ a.notice = some 0 ∧ ms 1 + 0 ≤ s.now := by decide

theorem wit_SmbusRowsComplete :
    let s : State := { clk := { master := sec 2 }, win := [(0, { cls := .bmc })]
                       pwr := { smbReleasedAt := some 0, consoleUntil := some 5 } }
    let u : State := { clk := { master := sec 2 }, pwr := { smbAlertLow := true } }
    s.win.get? 0 = some { cls := .bmc } ∧ sec 1 + s.pwr.smbLineSince ≤ s.now ∧ s.pwr.smbStuckAt = none ∧
      ms 10 + u.pwr.smbLineSince ≤ u.now ∧ s.pwr.smbReleasedAt = some 0 ∧ ms 10 + 0 ≤ s.now ∧ s.pwr.consoleUntil = some 5 := by decide

theorem wit_IdentityCommandsComplete :
    Due (withCmd {} 0x0100 []) 5 0x0100 (cmdWindow .operator 0x0100 []) ∧ Due (withCmd {} 0x0101 []) 5 0x0101 (cmdWindow .operator 0x0101 []) ∧
    Due (withCmd {} 0x0104 []) 5 0x0104 (cmdWindow .operator 0x0104 []) := by decide
theorem wit_TrustSet : let a := [(4, 0), (4, 1), (1, 9)]
    Due (withCmd {} 0x0102 a) 5 0x0102 (cmdWindow .operator 0x0102 a) ∧ Local (withCmd {} 0x0102 a) ∧
    trustCheck (withCmd {} 0x0102 a) (cmdWindow .operator 0x0102 a) = none := by decide
theorem wit_BmcKeySet : let x := cmdWindow .bmc 0x0103 [(4, 5)]
    let s : State := { pwr := { feltiOn := true }, win := [(0, x)] }
    Due s 0 0x0103 x ∧ Local s ∧ x.cls = .bmc ∧ x.session = none ∧ s.trust.bmcKey = none ∧ x.arg 68 36 = 0 := by decide

theorem wit_TopologyCommandsComplete : let a := [(4, 0), (4, 3), (4, 1), (4, 0), (2, 9)]; let b := [(4, 1), (4, 3), (4, 1), (4, 0), (1, 9)]
    let c := [(4, 2), (4, 3), (4, 1), (4, 0)]; let d := [(4, 0), (4, 3), (4, 1), (4, 0), (2, 1024)]
    let x := cmdWindow .operator 0x0300 a; let y := cmdWindow .operator 0x0300 b; let z := cmdWindow .operator 0x0300 c
    Due (withCmd {} 0x0300 a) 5 0x0300 x ∧ mirrorLive (withCmd {} 0x0300 a) = false ∧ x.arg 0 1 = 0 ∧ x.arg 1 3 = 0 ∧ x.arg 12 4 = 0 ∧
    x.arg 4 4 + x.arg 8 4 ≤ 2 ^ 18 ∧ (∀ i, i < x.arg 8 4 → x.arg (16 + 2 * i) 2 < 1024) ∧
    Due (withCmd {} 0x0300 b) 5 0x0300 y ∧ y.arg 1 3 = 0 ∧ y.arg 12 4 = 0 ∧ y.arg 0 1 = 1 ∧ (y.arg 8 4 + 1) / 2 ≤ 131072 ∧
    Due (withCmd {} 0x0300 c) 5 0x0300 z ∧ z.arg 1 3 = 0 ∧ z.arg 12 4 = 0 ∧ 2 ≤ z.arg 0 1 ∧
    Due (withCmd {} 0x0300 d) 5 0x0300 (cmdWindow .operator 0x0300 d) ∧ topoCheck (cmdWindow .operator 0x0300 d) = some (stBadArg, 16) := by decide
theorem wit_RouteSet : let a := [(4, 7), (4, 2), (1, 3), (1, 255)]; let x := cmdWindow .operator 0x0301 a
    let b := [(4, 262143), (4, 2)]; let y := cmdWindow .operator 0x0301 b; let c := [(4, 7), (4, 2), (1, 3), (1, 8)]
    let z := cmdWindow .operator 0x0301 c
    Due (withCmd {} 0x0301 a) 5 0x0301 x ∧ mirrorLive (withCmd {} 0x0301 a) = false ∧ x.arg 0 4 + x.arg 4 4 ≤ 2 ^ 18 ∧
    (∀ i, i < x.arg 4 4 → x.arg (8 + i) 1 < 8 ∨ x.arg (8 + i) 1 = 0xFF) ∧
    Due (withCmd {} 0x0301 b) 5 0x0301 y ∧ 2 ^ 18 < y.arg 0 4 + y.arg 4 4 ∧
    Due (withCmd {} 0x0301 c) 5 0x0301 z ∧ z.arg 0 4 + z.arg 4 4 ≤ 2 ^ 18 ∧ 1 < z.arg 4 4 ∧ z.arg 9 1 = 8 ∧ z.arg 8 1 < 8 := by decide
theorem wit_PortCommands : let a := [(1, 9)]; let b := [(8, 3 + 65536), (4, 0), (2, 16), (2, 20), (2, 16)]; let c := [(1, 10)]; let d := [(1, 9), (1, 1)]
    let x := cmdWindow .operator 0x0302 a; let y := cmdWindow .operator 0x0303 b
    let s := withCmd { ports := [(3, {})] } 0x0303 b
    Due (withCmd {} 0x0302 a) 5 0x0302 x ∧ x.arg 0 1 ≤ 9 ∧ Due s 5 0x0303 y ∧ mirrorLive s = false ∧ s.ports.get? (y.arg 0 1) = some {} ∧
    y.arg 1 1 = 0 ∧ y.arg 2 1 = 1 ∧ y.arg 3 5 = 0 ∧ y.arg 12 2 = 16 ∧ y.arg 14 2 = 20 ∧ y.arg 16 2 = 16 ∧
    Due (withCmd {} 0x0303 c) 5 0x0303 (cmdWindow .operator 0x0303 c) ∧ 9 < (cmdWindow .operator 0x0303 c).arg 0 1 ∧
    Due (withCmd {} 0x0303 d) 5 0x0303 (cmdWindow .operator 0x0303 d) ∧ (cmdWindow .operator 0x0303 d).arg 1 1 = 1 := by decide

theorem wit_HallCreate : let a := [(2, 3), (2, 1), (4, 0), (4, 0), (2, 1), (2, 1), (2, 1), (2, 0)]
    let x := cmdWindow .operator 0x0200 a
    let b := [(2, 3), (2, 1), (4, 0), (4, 0), (2, 1), (2, 9), (2, 9), (2, 0)]; let y := cmdWindow .operator 0x0200 b
    Due (hallState 0x0200 a) 5 0x0200 x ∧ Local (hallState 0x0200 a) ∧ createCheck (hallState 0x0200 a) x = none ∧
    (placeHall (hallState 0x0200 a) (newHall x)).isSome = true ∧ Due (hallState 0x0200 b) 5 0x0200 y ∧
    createCheck (hallState 0x0200 b) y = none ∧ placeHall (hallState 0x0200 b) (newHall y) = none := by decide


theorem wit_HallDestroyTrim : let a := [(2, 3), (2, 1)]
    let s := withCmd { halls := [(3, testHall)] } 0x0201 a; let t := withCmd { halls := [(3, testHall)] } 0x0202 a
    let u := withCmd { halls := [(3, testHall)], drains := [(3, { kind := .trim, oldSize := 4, stepAt := 0 })] } 0x0201 a
    let v := withCmd { halls := [(3, testHall)] } 0x0202 [(2, 3), (2, 4)]
    Due s 5 0x0201 (cmdWindow .operator 0x0201 a) ∧ Local s ∧ s.halls.get? ((cmdWindow .operator 0x0201 a).arg 0 2) = some testHall ∧
    s.drains.get? 3 = none ∧ Due u 5 0x0201 (cmdWindow .operator 0x0201 a) ∧ (u.drains.get? 3).isSome = true ∧
    Due t 5 0x0202 (cmdWindow .operator 0x0202 a) ∧ Local t ∧ (cmdWindow .operator 0x0202 a).arg 2 2 = 1 ∧
    Due v 5 0x0202 (cmdWindow .operator 0x0202 [(2, 3), (2, 4)]) := by decide

theorem wit_HallQueries : let a := [(2, 3), (2, 2), (4, 0)]
    Due (withCmd {} 0x0203 a) 5 0x0203 (cmdWindow .operator 0x0203 a) ∧ (cmdWindow .operator 0x0203 a).arg 0 2 = 3 ∧
    Due (withCmd {} 0x0207 a) 5 0x0207 (cmdWindow .operator 0x0207 a) ∧ (cmdWindow .operator 0x0207 a).arg 2 2 = 2 := by decide
theorem wit_HallSet : let a := [(2, 3), (1, 1), (1, 0), (2, 4), (2, 0)]; let b := [(2, 3), (1, 2), (1, 0), (2, 4), (2, 0)]
    let x := cmdWindow .operator 0x0204 a; let y := cmdWindow .operator 0x0204 b
    let s := withCmd { halls := [(3, testHall)] } 0x0204 a
    Due s 5 0x0204 x ∧ Local s ∧ s.halls.get? (x.arg 0 2) = some testHall ∧ hallSetCheck s x 3 testHall = none ∧
    testHall.cls = .resident ∧ hallSetCheck s y 3 testHall = some (stBadArg, 2) := by decide
theorem wit_HallSetShrinks : let a := [(2, 3), (1, 1), (1, 0), (2, 4), (2, 0)]; let x := cmdWindow .operator 0x0204 a
    let s := withCmd { halls := [(3, { tierHall with quota := 0 })], tier := { blocks := [(blkKey 3 0, { st := .clean })] } } 0x0204 a
    ({ tierHall with quota := 0 } : Hall).cls = .tiered ∧ overQuota s 3 { tierHall with quota := 0 } ≠ .none := by decide

theorem wit_AclSet : let a := [(2, 3), (2, 1), (4, 0), (4, 7 + 2 ^ 18), (2, 5), (2, 1)]; let x := cmdWindow .operator 0x0205 a
    let s := withCmd { halls := [(3, testHall)] } 0x0205 a
    let e : AclEntry := { rights := Rights.mk true true false false false, budget := 5, subscriber := 0, inForce := 5, nseq := 1 }
    let u := withCmd { halls := [(3, testHall)], acl := [(aclKey 3 7, e)] } 0x0205 a
    Due s 5 0x0205 x ∧ Local s ∧ s.halls.get? (x.arg 0 2) = some testHall ∧ testHall.state ≠ .destroying ∧ s.drains.get? 3 = none ∧
    aclArgCheck x = none ∧ aclLost s 3 (aclArgs x) = [] ∧ aclFits s ((aclArgs x).foldl (fun s a => setEntry s 3 a) s) 3 = true ∧
    Due u 5 0x0205 x ∧ aclLost u 3 (aclArgs x) ≠ [] := by decide
theorem wit_AclFull : let a := [(2, 3), (2, 1), (4, 0), (4, 8 + 2 ^ 18), (2, 5), (2, 1)]; let x := cmdWindow .operator 0x0205 a
    let e : AclEntry := { rights := Rights.mk true true false false false, budget := 2097152, subscriber := 0, inForce := 5, nseq := 1 }
    let u := withCmd { halls := [(3, testHall)], acl := [(aclKey 3 7, e)] } 0x0205 a
    Due u 5 0x0205 x ∧ aclArgCheck x = none ∧ aclFits u ((aclArgs x).foldl (fun s a => setEntry s 3 a) u) 3 = false := by decide
theorem wit_AclRemove : let a := [(2, 3), (2, 1), (4, 0), (4, 7)]; let x := cmdWindow .operator 0x0206 a
    let e : AclEntry := { rights := Rights.mk true true false false false, budget := 5, subscriber := 0, inForce := 5, nseq := 1 }
    let s := withCmd { halls := [(3, testHall)], acl := [(aclKey 3 7, e)] } 0x0206 a
    Due s 5 0x0206 x ∧ Local s ∧ s.halls.get? (x.arg 0 2) = some testHall ∧ x.arg 2 2 = 1 ∧ x.arg 4 4 = 0 ∧ x.arg 8 4 = 7 ∧
    aclOf s 3 7 = some e ∧ s.drains.get? 3 = none := by decide

theorem wit_TenantQuery : let a := [(2, 3)]; Due (withCmd {} 0x0401 a) 5 0x0401 (cmdWindow .operator 0x0401 a) ∧
    (cmdWindow .operator 0x0401 a).arg 0 2 = 3 := by decide
theorem wit_TenantCreate : let a := [(2, 3), (2, 0), (2, 1), (2, 0), (1, 9)]; let b := [(2, 3), (2, 2), (2, 1), (2, 0), (1, 9)]
    let c := [(2, 3), (2, 1), (2, 1), (2, 0), (1, 9)]; let x := cmdWindow .operator 0x0400 a
    Due (withCmd {} 0x0400 a) 5 0x0400 x ∧ Local (withCmd {} 0x0400 a) ∧ x.arg 0 2 = 3 ∧ x.arg 4 2 ≠ 0 ∧ x.arg 2 1 = 0 ∧ x.arg 3 1 = 0 ∧
    x.arg 6 2 = 0 ∧ ((x.bytes (8 + x.arg 4 2) (align8 (8 + x.arg 4 2) - (8 + x.arg 4 2))).any fun b => b ≠ 0) = false ∧
    (withCmd {} 0x0400 a).pair.partnerReady = false ∧ (cmdWindow .operator 0x0400 b).arg 2 1 = 2 ∧
    (cmdWindow .operator 0x0400 c).arg 2 1 = 1 ∧ Due (withCmd {} 0x0400 b) 5 0x0400 (cmdWindow .operator 0x0400 b) ∧
    Due (withCmd {} 0x0400 c) 5 0x0400 (cmdWindow .operator 0x0400 c) := by decide
theorem wit_TenantKeyLoad : let x := { cmdWindow .tenant 0x0403 [(2, 3)] with session := some 4 }
    let r : Tenant := { origin := .released, slot0 := { st := .awaiting } }
    let s : State := { pwr := { feltiOn := true }, win := [(5, x)], ten := { recs := [(3, r)] } }
    Due s 5 0x0403 x ∧ s.ten.recs.get? (x.arg 0 2) = some r ∧ x.arg 2 1 = 0 ∧ (tenantSlot r 0).st = .awaiting ∧
    (tenantSlot r 0).copyPending = false ∧ x.arg 3 1 = 0 ∧ x.arg 4 4 = 0 ∧ x.arg 108 4 = 0 ∧ mayUnseal s = true ∧ mayUnseal { s with hw := { lifecycle := 0 } } = false := by decide
theorem wit_TenantRotateRetireRemove : let a := [(2, 3), (2, 0)]; let r : Tenant := { slot0 := { st := .active } }
    let s := fun op => withCmd { ten := { recs := [(3, r)] } } op a
    Due (s 0x0402) 5 0x0402 (cmdWindow .operator 0x0402 a) ∧ Local (s 0x0402) ∧ (tenantSlot r (1 - r.cur)).st = .empty ∧
    r.origin = .localKey ∧ r.sweep = none ∧ (cmdWindow .operator 0x0402 a).arg 2 2 = 0 ∧ (cmdWindow .operator 0x0402 a).arg 4 4 = 0 ∧
    (rotationKey (s 0x0402) (cmdWindow .operator 0x0402 a) r).isSome = true ∧ (s 0x0402).ten.recs.get? 3 = some r ∧ (cmdWindow .operator 0x0402 a).arg 0 2 = 3 ∧
    Due (s 0x0404) 5 0x0404 (cmdWindow .operator 0x0404 a) ∧ Due (s 0x0405) 5 0x0405 (cmdWindow .operator 0x0405 a) ∧
    cmdWin (s 0x0405) (cmdWindow .operator 0x0405 a) = some 5 ∧ r.st ≠ .retired := by decide

theorem wit_KeyRows : let r : Tenant := { slot0 := { st := .awaiting, copyPending := true }, sweep := some 0, st := .active }
    let s : State := { ten := { recs := [(3, r), (4, r)], rotation := [(4, { w := some 5, step := 0, gen := 0 })] } }
    s.ten.recs.get? 3 = some r ∧ (tenantSlot r 0).copyPending = true ∧ s.ten.rotation.get? 3 = none ∧
    (s.ten.rotation.get? 4) = some { w := some 5, step := 0, gen := 0 } ∧ oldGranule s 3 r.cur = none ∧ oldUnit s 3 r.cur = none ∧
    oldRecord s 3 r.cur = none ∧ mirrorLive s = false ∧ r.st = .active := by decide
theorem wit_SweepStep : let r : Tenant := { sweep := some 0, st := .active }
    let h : Hall := { testHall with tenant := 3, extents := [(0, 1)] }
    let s : State := { ten := { recs := [(3, r)] }, halls := [(1, h)], dram := { mem := [(granKey 0 (2 ^ 30), { written := true, gen := 1 })] } }
    s.ten.recs.get? 3 = some r ∧ oldGranule s 3 r.cur = some (1, h, 0, 2 ^ 30) := by decide
theorem wit_KeyDrains : let o : TenOp := { w := some 5, step := 4 }
    let s : State := { clk := { master := ms 20 }, ten := { removal := [(3, o)] } }
    s.ten.removal.get? 3 = some o ∧ slotTraffic s 3 = false ∧ ms 20 + o.drainAt ≤ s.now := by decide
theorem wit_RevocationDrains : let d : Drain := { kind := .trim, oldSize := 5, stepAt := 0, window := some 5 }
    let s : State := { clk := { master := ms 24 }, halls := [(3, testHall)], drains := [(3, d)], clears := [⟨3, 0, 1, [(0, 5)]⟩] }
    s.halls.get? 3 = some testHall ∧ s.drains.get? 3 = some d ∧ drained s 3 testHall d = true ∧ d.late = false ∧
    d.stepAt + drainBoundOf testHall ≤ s.now ∧ (s.clears.find? fun c => c.hall = 3) = some ⟨3, 0, 1, [(0, 5)]⟩ := by decide

theorem wit_CtxCreate : let a := [(2, 3), (2, 9), (1, 39), (1, 1), (2, 0)]; let x := cmdWindow .operator 0x0500 a
    let s := withCmd { ten := { recs := [(3, {})] } } 0x0500 a
    Due s 5 0x0500 x ∧ s.ten.recs.get? (x.arg 0 2) = some {} ∧ ({} : Tenant).st = .active ∧ s.eng.queues.get? 9 = none ∧ qidHeld s 9 = none ∧
    x.arg 2 2 = 9 ∧ x.arg 4 1 = 39 ∧ x.arg 5 1 = 1 ∧ s.eng.ctxs.freeKey 0 65536 = some 0 := by decide
theorem wit_CtxCommands : let a := [(2, 3), (1, 2), (1, 0), (2, 5)]; let b := [(2, 3), (2, 7)]
    let c : Ctx := { tenant := 1, vaBits := 39, ctlQueue := 9 }; let d : Ctx := { c with halls := [7] }
    let l : Last := { qid := 1, sqIdx := 0, handle := 0, ctx := 3, args := [], start := 0, cores := [], shadow := 0, bound := 0, trans := [(5, [(0, 0)])] }
    let h := testHall
    let s := fun op => withCmd { eng := { ctxs := [(3, c)] }, halls := [(7, h)] } op
    let t := withCmd { eng := { ctxs := [(3, d)] }, halls := [(7, h)] } 0x0505 b
    let u := withCmd { eng := { ctxs := [(3, d)], lasts := [(0, l)] }, halls := [(7, h)] } 0x0505 b
    Due (s 0x0502 a) 5 0x0502 (cmdWindow .operator 0x0502 a) ∧ Due (s 0x0503 a) 5 0x0503 (cmdWindow .operator 0x0503 a) ∧
    Due (s 0x0501 a) 5 0x0501 (cmdWindow .operator 0x0501 a) ∧ Due (s 0x0504 b) 5 0x0504 (cmdWindow .operator 0x0504 b) ∧
    (s 0x0504 b).eng.ctxs.get? ((cmdWindow .operator 0x0504 b).arg 0 2) = some c ∧ h.tenant = c.tenant ∧ c.halls.contains 7 = false ∧
    (cmdWindow .operator 0x0503 a).arg 2 1 = 2 ∧ (cmdWindow .operator 0x0503 a).arg 3 1 = 0 ∧ (cmdWindow .operator 0x0503 a).arg 4 2 = 5 ∧
    Due t 5 0x0505 (cmdWindow .operator 0x0505 b) ∧ Due u 5 0x0505 (cmdWindow .operator 0x0505 b) ∧ d.drain = none ∧ d.halls.contains 7 = true ∧
    (drainWaits t 3 fun p => decide (2 ^ 18 * testHall.base ≤ p.2 ∧ p.2 < 2 ^ 18 * (testHall.base + testHall.size))) = [] ∧
    (drainWaits u 3 fun p => decide (2 ^ 18 * testHall.base ≤ p.2 ∧ p.2 < 2 ^ 18 * (testHall.base + testHall.size))) ≠ [] := by decide
theorem wit_QueueCreate : let a := [(2, 1), (2, 3), (4, 6), (2, 7), (2, 0), (1, 6), (1, 6), (1, 4), (1, 0), (4, 0), (4, 1), (4, 2)]
    let x := cmdWindow .operator 0x0506 a; let c : Ctx := { tenant := 1, vaBits := 39, ctlQueue := 9, opened := true }
    let s := withCmd { eng := { ctxs := [(3, c)] }, halls := [(7, testHall)], acl := [(aclKey 7 6, ⟨⟨true, true, false, false, false⟩, 1, 0, 1, 1, none⟩)] } 0x0506 a
    Due s 5 0x0506 x ∧ s.eng.ctxs.get? (x.arg 2 2) = some c ∧ c.st = .active ∧ s.halls.get? (x.arg 8 2) = some testHall ∧
    testHall.cls = .resident ∧ testHall.state ≠ .destroying ∧ x.arg 0 2 = 1 ∧ s.eng.queues.get? 1 = none ∧ qidHeld s 1 = none ∧ x.arg 4 4 = 6 ∧
    rightsOf s 7 6 = some ⟨true, true, false, false, false⟩ ∧ x.arg 10 2 = 0 ∧ x.arg 12 1 = 6 ∧ x.arg 13 1 = 6 ∧ x.arg 14 1 = 4 ∧ x.arg 15 1 = 0 ∧
    (let q : Queue := { owner := 6, ringHall := 7, ctx := 3, sub := 7, sqLog := 6, cqLog := 6, fqLog := 4, sqBase := 0, cqBase := 1, fqBase := 2 }
    ∀ i, i < 3 → ∀ r ∈ (ringRanges q)[i]?, r.2 ≤ 2 ^ 30 * testHall.size ∧ ((ringRanges q).take i).any (overlaps r) = false) := by decide
theorem wit_QueueCommands : let a := [(2, 1), (1, 1)]; let b := [(2, 2), (2, 3), (4, 6), (8, 4096)]
    let q : Queue := { owner := 6, ringHall := 7, ctx := 3, sub := 0, sqLog := 6, cqLog := 6, fqLog := 4, sqBase := 0, cqBase := 1, fqBase := 2 }
    let s := fun op => withCmd { eng := { queues := [(1, q)] } } op a
    let t := withCmd { ten := { recs := [(3, {})] } } 0x050A b; let x := cmdWindow .operator 0x050A b
    Due (s 0x0507) 5 0x0507 (cmdWindow .operator 0x0507 a) ∧ Due (s 0x0508) 5 0x0508 (cmdWindow .operator 0x0508 a) ∧
    Due (s 0x0509) 5 0x0509 (cmdWindow .operator 0x0509 a) ∧ (s 0x0509).eng.queues.get? 1 = some q ∧
    (cmdWindow .operator 0x0509 a).arg 0 2 = 1 ∧ (cmdWindow .operator 0x0509 a).arg 2 1 = 1 ∧ cmdWin (s 0x0507) (cmdWindow .operator 0x0507 a) = some 5 ∧
    Due t 5 0x050A x ∧ (t.ten.recs.get? (x.arg 2 2)).isSome = true ∧ x.arg 4 4 = 6 ∧ x.arg 8 8 = 4096 ∧ t.eng.rx.get? (x.arg 0 2) = none := by decide

set_option maxRecDepth 4000 in
theorem wit_LastLoad : let a := [(2, 3), (2, 0), (4, 256), (8, 0)]; let x := cmdWindow .operator 0x0600 a
    let c : Ctx := { tenant := 1, vaBits := 39, ctlQueue := 9, leaves := [(0, { size := 0, ppa := 4096, w := false })] }
    let s := withCmd { eng := { ctxs := [(3, c)] }, halls := [(7, testHall)] } 0x0600 a
    let l : Load := { ctx := 3, va := 0, len := 256, lines := [1], got := [(0, {})] }
    let t := withCmd { eng := { ctxs := [(3, c)], loads := [(5, l)] } } 0x0600 a
    Due s 5 0x0600 x ∧ s.eng.loads.get? 5 = none ∧ s.eng.ctxs.get? (x.arg 0 2) = some c ∧ c.st = .active ∧ x.arg 2 2 = 0 ∧ x.arg 4 4 = 256 ∧
    cmdWin s x = some 5 ∧ vaLines s c (x.arg 8 8) (x.arg 4 4) = some [64, 65, 66, 67] ∧
    t.eng.loads.get? 5 = some l ∧ t.pwr.feltiOn = true ∧ l.bad = none ∧ l.lines.length ≤ l.got.length ∧ t.eng.ctxs.get? l.ctx = some c ∧
    t.eng.loaded.freeKey 0 1024 = some 0 := by decide
theorem wit_LastCommands : let a := [(2, 1), (2, 4)]
    let l : Last := { qid := 1, sqIdx := 4, handle := 0, ctx := 3, args := [], start := 0, cores := [], shadow := 0, bound := 0 }
    let s := fun op => withCmd { eng := { lasts := [(0, l)], loaded := [(1, { image := [], tenant := 1 })] } } op a
    Due (s 0x0601) 5 0x0601 (cmdWindow .operator 0x0601 a) ∧ Due (s 0x0603) 5 0x0603 (cmdWindow .operator 0x0603 a) ∧
    (s 0x0601).eng.loaded.get? ((cmdWindow .operator 0x0601 a).arg 0 2) = some { image := [], tenant := 1 } ∧ handleLasts (s 0x0601) 1 = 0 ∧
    Due (s 0x0602) 5 0x0602 (cmdWindow .operator 0x0602 a) ∧ cmdWin (s 0x0602) (cmdWindow .operator 0x0602 a) = some 5 ∧
    ((s 0x0602).eng.lasts.find? fun e => e.2.qid = (cmdWindow .operator 0x0602 a).arg 0 2 ∧ e.2.sqIdx = (cmdWindow .operator 0x0602 a).arg 2 2) = some (0, l) := by decide

set_option maxRecDepth 8000 in
theorem wit_QueueRows :
    let q : Queue := { owner := 6, ringHall := 7, ctx := 3, sub := 0, sqLog := 6, cqLog := 6, fqLog := 4, sqBase := 0, cqBase := 1, fqBase := 2
                       sqTail := 1, acc := [{ idx := 4, ring := 0, slot := 0, code := some .ok }, { idx := 5, ring := 1, slot := 0, code := some .ok },
                         { idx := 6, ring := 2, slot := 0, code := some .ok }, { idx := 7, ring := 2, slot := 0, code := some .poison }]
                       open_ := [{ fseq := 1, kind := 1, va := 0, lid := 0, time := 0, tmo := 10, positions := [0] }] }
    let s : State := { clk := { master := ms 10 }, ports := [(0, { st := .up })], eps := [(9, { dead := true })], eng := { queues := [(1, q)] } }
    let m := fun (src tail : Nat) => leBytes 1 0x50 ++ leBytes 2 1 ++ leBytes 3 src ++ leBytes 2 tail ++ List.replicate 47 (0 : Byte)
    heard s 0 true = true ∧ qdbBad (m 6 2) = false ∧ qdbBad [] = true ∧ isDead s 6 = false ∧ isDead s 9 = true ∧ subNat (m 6 2) 6 2 = 2 ∧
    (learn s 6 0).eng.queues.get? 1 = some q ∧ qdbOk q 6 2 0 0 = true ∧ qdbOk q 5 2 0 0 = false ∧ q.st = .active ∧ q.sqHead ≠ q.sqTail ∧
    cqUsed q < 2 ^ q.cqLog ∧ (q.acc.find? fun a => a.idx = 4).isSome = true ∧ (q.acc.find? fun a => a.idx = 7).isSome = true ∧
    (q.open_.find? fun f => f.fseq = 1).isSome = true ∧ ms 10 + 0 ≤ s.now := by decide

set_option maxRecDepth 8000 in
theorem wit_LastStart :
    (presented (descState [(8, 1), (8, 5), (8, 0)]) 1 0x01).isSome = true ∧ (descState []).pwr.feltiOn = true ∧
    ((presented (descState [(8, 1), (8, 0), (8, 9)]) 1 0x01).any fun x =>
      (startRefusal (descState [(8, 1), (8, 0), (8, 9)]) 1 x.1 x.2).isNone && decide (0 < subNat x.2.bytes 16 8)) = true ∧
    ((presented (descState [(8, 1), (8, 5), (8, 0)]) 1 0x01).any fun x =>
      decide (startRefusal (descState [(8, 1), (8, 5), (8, 0)]) 1 x.1 x.2 = some stBadArg)) = true := by decide
set_option maxRecDepth 8000 in
theorem wit_Tables : let a := [(8, 0x10), (8, 0), (8, 4096), (4, 1), (4, 0)]
    let s := descState a
    ((presented s 1 0x10).any fun x => decide (x.2.bytes = argBytes a) && isCtl s 1 x.1) = true ∧ (s.eng.ctxs.get? 3).any (fun c => decide (c.drain = none ∧ c.st = .active ∧ c.leaves = [])) = true ∧
    (hallAt s 4096).isSome = true ∧ (presented (descState [(8, 0x11), (8, 0), (8, 4096)]) 1 0x11).isSome = true ∧
    (presented (descState [(8, 0x12), (8, 0), (8, 4096)]) 1 0x12).isSome = true ∧
    ((presented (descState [(8, 0x13), (4, 1), (4, 0)]) 1 0x13).any fun x => (x.1.open_.find? fun f => f.fseq = subNat x.2.bytes 8 4).isSome) = true := by decide
set_option maxRecDepth 8000 in
theorem wit_TableDrains : let t : TDrain := { lo := 0, hi := 1, at_ := 0, win := some 5 }
    let u : TDrain := { lo := 0, hi := 1, at_ := 0, desc := some (1, 0) }
    let c : Ctx := { tenant := 1, vaBits := 39, ctlQueue := 1, drain := some t }
    let s : State := { descState [] with clk := { master := ms 50 } }
    let v : State := { s with eng := { s.eng with ctxs := [(3, c), (4, { c with drain := some u })] } }
    v.eng.ctxs.get? 3 = some c ∧ c.drain = some t ∧ drainOver v t = true ∧ drainOver v u = true ∧ ms 50 + t.at_ ≤ v.now ∧
    ((v.eng.queues.get? 1).bind fun q => q.descs.find? fun x => x.idx = 0).isSome = true := by decide

set_option maxRecDepth 8000 in
theorem wit_EngineRows : let img := List.replicate 256 (0 : Byte)
    let a : RunOut := { core := 0, outs := [], input := [], bench := [] }
    let l : Last := { qid := 1, sqIdx := 0, handle := 0, ctx := 3, args := [], start := 0, cores := [0], shadow := 0, bound := 0, seq := [(0, false), (1, false)]
                      running := [{ pos := 0, tile := 0, shadow := false, core := 0, st := .running }, { pos := 1, tile := 1, shadow := false, core := 0 }]
                      reqs := [{ idx := 0, pos := 0, ppa := 0, code := some .ok }, { idx := 1, pos := 0, ppa := 0, code := some .timeout },
                        { idx := 2, pos := 0, ppa := 0, code := some .timeout, again := true }, { idx := 3, pos := 0, ppa := 0, code := some .denied }]
                      held := [{ tile := 0, prim := some a, shad := some { a with core := 1 }, third := some 0 }] }
    let s : State := { descState [] with eng := { (descState []).eng with lasts := [(0, l)], loaded := [(0, { image := img, tenant := 1 })], cores := [(4, { clearing := some 0 })] } }
    s.eng.lasts.get? 0 = some l ∧ l.begunAt = none ∧ l.start ≤ s.now ∧ l.ending = none ∧ (findPos l 1).any (fun p => decide (p.st = .translate ∧ p.need = [])) = true ∧
    (findPos l 0).any (fun p => decide (p.st = .running ∧ p.overrun = false ∧ p.rerun = false)) = true ∧ fencedNow s = false ∧
    l.reqs.all (fun r => ((l.reqs.find? fun x => x.idx = r.idx) = some r)) = true ∧ l.seq.contains (0, true) = false ∧
    ((l.held.find? fun h => h.tile = 0).any fun h => h.prim.isSome && h.shad.isSome && decide (h.third = some 0)) = true ∧ l.cores.contains 0 = true ∧
    (coreAt s 4).clearing = some 0 ∧ (s.eng.ctxs.get? 3).isSome = true := by decide
theorem wit_Overrun : 0 < selWrite ∧ 0 ≠ selRead := by decide
theorem wit_StageWaits (s : State) (img : List Byte) (outs : List OutOp) :
    let l : Last := { qid := 1, sqIdx := 0, handle := 0, ctx := 3, args := [], start := 0, cores := [0], shadow := 0, bound := 0, seq := [(0, false), (1, true)] }
    stageWaits s img l { pos := 0, tile := 0, shadow := false, core := 0, st := .running } outs = false ∧ l.seq.contains (1, true) = true ∧
    stageWaits s img l { pos := 1, tile := 1, shadow := true, core := 0, st := .running } outs = false := by simp [stageWaits]

set_option maxRecDepth 4000 in
theorem wit_FlightLoad : let im := [(4, 0x54484C46), (1, 1), (1, 3), (2, 1), (2, 0), (1, 0), (5, 0), (8, 20000), (8, 1000), (32, 0), (4, 1000), (2, 0), (2, 0), (24, 0)]
    let x := cmdWindow .operator 0x0700 im
    let s := { withCmd {} 0x0700 im with flt := [(3, testSeqr)] }
    Due s 5 0x0700 x ∧ Local s ∧ flightCheck (resLimit s 3) (cmdAccept x) (x.bytes 0 (flightLen (x.arg 6 2) (x.arg 8 2))) = none ∧
    breaksClaims s 3 (imageFlight (x.bytes 0 (flightLen (x.arg 6 2) (x.arg 8 2)))) = false := by decide
theorem wit_FlightLoadBad : let x := cmdWindow .operator 0x0700 []
    Due (withCmd {} 0x0700 []) 5 0x0700 x ∧ flightCheck (resLimit (withCmd {} 0x0700 []) 0) (cmdAccept x) (x.bytes 0 64) = some (stBadArg, 0) := by decide
set_option maxRecDepth 4000 in
theorem wit_FlightBusy : let im := [(4, 0x54484C46), (1, 1), (1, 0x22), (2, 1), (2, 0), (1, 0), (5, 0), (8, 20000), (8, 100000000), (32, 0), (4, 100000000), (2, 0), (2, 0), (24, 0)]
    let x := cmdWindow .operator 0x0700 im
    let s : State := { claimState with win := (withCmd {} 0x0700 im).win, pwr := { feltiOn := true } }
    let f := imageFlight (x.bytes 0 (flightLen (x.arg 6 2) (x.arg 8 2)))
    Due s 5 0x0700 x ∧ Local s ∧ flightCheck (resLimit s 0x22) (cmdAccept x) (x.bytes 0 (flightLen (x.arg 6 2) (x.arg 8 2))) = none ∧
    f.force = false ∧ breaksClaims s 0x22 f = true := by decide
theorem wit_FlightOthers : let a := [(1, 3), (1, 1)]; let f : Flight := { takeover := 50, treads := [], res := [] }
    let s := { withCmd {} 0x0701 a with flt := [(3, { testSeqr with pending := some f }), (4, testSeqr)] }
    Due s 5 0x0701 (cmdWindow .operator 0x0701 a) ∧ Local s ∧ resKnown s 3 = true ∧ resKnown s 0x32 = false ∧
    (((settleTakeover s 3 0).flt.get? 3).bind fun q => q.pending).isSome = true ∧ (((settleTakeover s 4 0).flt.get? 4).bind fun q => q.pending) = none ∧
    Due (withCmd {} 0x0701 [(1, 4)]) 5 0x0701 (cmdWindow .operator 0x0701 [(1, 4)]) ∧ Due (withCmd {} 0x0702 a) 5 0x0702 (cmdWindow .operator 0x0702 a) ∧
    Due (withCmd {} 0x0703 a) 5 0x0703 (cmdWindow .operator 0x0703 a) ∧ Due (withCmd {} 0x0703 [(1, 3), (1, 2)]) 5 0x0703 (cmdWindow .operator 0x0703 [(1, 3), (1, 2)]) ∧
    Due (withCmd {} 0x0703 [(1, 3)]) 5 0x0703 (cmdWindow .operator 0x0703 [(1, 3)]) := by decide
theorem wit_ShaperSet : let v := packBits [(24, 0), (24, 2000), (16, 16), (16, 16), (16, 0)]
    let a := [(1, 9), (1, 1), (2, 5), (4, 0), (32, v)]; let d := [(1, 9), (1, 1), (2, 5), (1, 1), (3, 0), (32, 0)]
    let lat := [(1, 9), (1, 1), (2, 5), (4, 0), (32, v + 2 ^ 80 * 10)]
    let s : State := { withCmd {} 0x0704 a with flt := [(9, testSeqr)], dram := { chans := [(1, { capGib := 8, rate := 4400 })] } }
    let t : State := { withCmd {} 0x0704 lat with store := { fmtWrite := 2 }, dram := { chans := [(1, { capGib := 8, rate := 4400 })] } }
    Due s 5 0x0704 (cmdWindow .operator 0x0704 a) ∧ Local s ∧ shaperCheck s (cmdWindow .operator 0x0704 a) = none ∧ testSeqr.shapers = [] ∧
    Due (withCmd {} 0x0704 d) 5 0x0704 (cmdWindow .operator 0x0704 d) ∧ shaperCheck s (cmdWindow .operator 0x0704 d) = none ∧
    Due t 5 0x0704 (cmdWindow .operator 0x0704 lat) ∧ shaperCheck t (cmdWindow .operator 0x0704 lat) = none ∧ bits ((cmdWindow .operator 0x0704 lat).arg 8 32) 80 16 ≠ 0 ∧
    shaperCheck s (cmdWindow .operator 0x0704 []) ≠ none ∧ Due (withCmd {} 0x0705 a) 5 0x0705 (cmdWindow .operator 0x0705 a) := by decide
theorem wit_ShaperFull : ((List.replicate 4096 ((0, { cfg := { pir := 1 }, explicit_ := true }) : Nat × Shaper)).filter fun e => e.2.explicit_).length = 4096 := by
  rw [List.filter_replicate]; exact List.length_replicate

theorem wit_Takeover : let f : Flight := { takeover := 50, treads := [], res := [] }
    let s : State := { flt := [(3, { testSeqr with pending := some f }), (4, { testSeqr with pending := some { f with takeover := 51 } }), (5, { testSeqr with pending := some { f with force := true } })], clk := { master := 50 } }
    (s.flt.get? 3).any (fun q => q.pending.any fun f => decide (f.takeover ≤ s.now) && !f.force) = true ∧
    (s.flt.get? 4).any (fun q => q.pending.any fun f => decide (s.now < f.takeover)) = true ∧
    (s.flt.get? 5).any (fun q => q.pending.any fun f => decide (f.takeover ≤ s.now) && f.force) = true := by decide
theorem wit_Grant : let x : Xfer := { sub := 1, svc := 0, bytes := 64, at_ := 0 }
    let q : Seqr := { testSeqr with wait := [x] }
    let s : State := { flt := [(9, q), (10, testSeqr), (11, { q with wait := [{ x with rewrite := true, addr := 64 }] }), (12, { q with wait := [{ x with order := true }] })] }
    pickXfer s 9 (markRed s 9 q) = some 0 ∧ (markRed s 9 q).wait[0]? = some x ∧ x.rewrite = false ∧ pickXfer s 10 (markRed s 10 testSeqr) = none ∧
    pickXfer s 11 (markRed s 11 { q with wait := [{ x with rewrite := true, addr := 64 }] }) = some 0 ∧
    pickXfer s 12 (markRed s 12 { q with wait := [{ x with order := true }] }) = some 0 := by decide

theorem wit_TierRecords : let v := packBits [(64, 0), (16, 10), (4, 1), (4, 0), (8, 1), (8, 1), (8, 0), (8, 50)]
    let a := [(2, 3), (2, 0), (4, 0), (32, v)]; let x := cmdWindow .operator 0x0801 a; let u := x.arg 8 32
    let s := withCmd { halls := [(3, tierHall)] } 0x0801 a
    Due s 5 0x0801 x ∧ Local s ∧ s.halls.get? (x.arg 0 2) = some tierHall ∧ tierHall.cls ≠ .resident ∧ tierHall.state ≠ .destroying ∧ x.arg 2 6 = 0 ∧
    bits u 12 4 = 0 ∧ bits u 56 8 = 0 ∧ bits u 86 2 = 0 ∧ bits u 120 8 = 0 ∧
    bits u 64 16 = 10 ∧ bits u 80 4 = 1 ∧ bits u 88 8 = 1 ∧ bits u 96 8 = 1 ∧ bits u 112 8 = 50 ∧
    Due (withCmd { halls := [(3, tierHall)] } 0x0800 [(2, 3)]) 5 0x0800 (cmdWindow .operator 0x0800 [(2, 3)]) ∧
    hallOf (withCmd { halls := [(3, tierHall)] } 0x0800 [(2, 3)]) 3 = some tierHall ∧ Due (withCmd {} 0x0803 []) 5 0x0803 (cmdWindow .operator 0x0803 []) := by decide
theorem wit_TierSetRefused : let a := [(2, 3), (2, 0), (4, 0), (32, 0)]; let x := cmdWindow .operator 0x0801 a
    Due (withCmd { halls := [(3, testHall)] } 0x0801 a) 5 0x0801 x ∧ x.arg 0 2 = 3 ∧ testHall.cls = .resident ∧
    Due (withCmd { halls := [(3, { tierHall with state := .destroying })] } 0x0801 a) 5 0x0801 x ∧ ({ tierHall with state := .destroying } : Hall).state = .destroying := by decide
theorem wit_TierHint : let a := fun (v : Nat) => [(2, 3), (1, v), (5, 0), (8, 65536), (8, 65536), (8, 0)]
    let s := fun (v : Nat) => withCmd { halls := [(3, tierHall)], tier := { blocks := [(blkKey 3 1, { st := .dirty, slots := [], seq := 0 })] } } 0x0802 (a v)
    let x := fun (v : Nat) => cmdWindow .operator 0x0802 (a v)
    (∀ v, v < 6 → Due (s v) 5 0x0802 (x v) ∧ (s v).halls.get? ((x v).arg 0 2) = some tierHall ∧ hintCheck (s v) (x v) tierHall = none ∧
      (x v).arg 2 1 = v) ∧ hintCheck (s 6) (x 6) tierHall = some (stBadArg, 2) := by decide
theorem wit_DriveAdopt : let a := [(1, 2)]; let x := cmdWindow .operator 0x0804 a
    let d := [(2, { st := .absent })]
    let s := withCmd { hw := { media := [(2, { lbas := 100 })] }, flash := { cmin := 100, drives := d } } 0x0804 a
    let t := withCmd { hw := { media := [(2, { lbas := 99 })] }, flash := { cmin := 100, drives := d } } 0x0804 a
    let u := withCmd { hw := { media := [(2, { lbas := 100 })] }, flash := { cmin := 100, drives := d, adopt := [(2, 6)] } } 0x0804 a
    Due s 5 0x0804 x ∧ driveTakes s 2 = false ∧ (s.hw.media.get? 2).any (fun m => m.meets && decide (s.flash.cmin ≤ m.lbas)) = true ∧ cmdWin s x = some 5 ∧
    s.flash.adopt.get? 2 = none ∧ Due t 5 0x0804 x ∧ (t.hw.media.get? 2).any (fun m => m.meets && decide (m.lbas < t.flash.cmin)) = true ∧
    driveTakes t 2 = false ∧ cmdWin t x = some 5 ∧ Due u 5 0x0804 x ∧ (u.flash.adopt.get? 2).isSome = true ∧ driveTakes u 2 = false ∧ cmdWin u x = some 5 ∧
    Due (withCmd {} 0x0804 [(1, 8)]) 5 0x0804 (cmdWindow .operator 0x0804 [(1, 8)]) ∧ 8 ≤ (cmdWindow .operator 0x0804 [(1, 8)]).arg 0 1 := by decide

theorem wit_TierBlocks : let s : State := { halls := [(3, tierHall)], clk := { master := sec 5 }, tier := { blocks := [(blkKey 3 0, { st := .landing, slots := [], seq := 0 }),
        (blkKey 3 1, { st := .flushing, slots := [], seq := 1 }), (blkKey 3 2, { st := .dirty, slots := [], seq := 2, dirtyAt := 0, maxDirty := sec 5 }), (blkKey 3 4, { st := .clean, slots := [], seq := 2, keepUntil := some 7, holdUntil := some (sec 5) })], orders := [{ lid := 0, hall := 3, offset := 0, length := 65536, deadline := sec 5, seq := 0 }], hints := [{ w := some 5, hall := 3, verb := 0, blocks := [0], since := sec 3 }] }, flash := { drives := ((List.range 8).map fun p => (p, { st := .online })), jobs := [{ id := 0, kind := .block 3 1, units := [], sub := 0, svc := 0, st := .running }] } }
    (runningJob s (.block 3 1)).isSome = true ∧ flashOff s = false ∧
    hallOf s 3 = some tierHall ∧ (blockOf s 3 0).any (fun x => decide (x.st = .landing)) = true ∧ (blockOf s 3 1).any (fun x => decide (x.st = .flushing)) = true ∧
    (blockOf s 3 2).any (fun x => decide (x.st = .dirty ∧ x.dirtyAt + x.maxDirty ≤ s.now)) = true ∧
    (blockOf s 3 4).any (fun x => decide (x.keepUntil = some 7 ∧ 7 ≤ s.now ∧ x.holdUntil = some s.now)) = true ∧
    (s.tier.orders[0]?).any (fun o => decide (o.deadline ≤ s.now)) = true ∧
    ((s.tier.hints.find? fun h => h.w = some 5).any fun h => decide (sec 2 + h.since ≤ s.now)) = true := by decide
theorem wit_TierTimers : let s : State := { pwr := { feltiOn := true }, clk := { master := sec 1 }, tier := { halls := [(3, { decayPeriod := 1000, decayIn := 1000 }), (4, { decayPeriod := 1001, decayIn := 1001 })] }, halls := [(3, tierHall), (4, tierHall)], flash := { drives := ((List.range 8).map fun p => (p, { st := .online })), jobs := [{ id := 0, kind := .super 3, units := [], sub := 0, svc := 0, st := .running }] } }
    s.pwr.feltiOn = true ∧ ms 10 + s.tier.lastPolicy ≤ s.now ∧ sec 1 + s.tier.lastAdapt ≤ s.now ∧ ms (tierRec s 3).decayIn + (tierRec s 3).lastDecay ≤ s.now ∧
    s.now < ms (tierRec s 4).decayIn + (tierRec s 4).lastDecay ∧ (runningJob s (.super 3)).isSome = true ∧ flashOff s = false ∧ (hallOf s 3).isSome = true := by decide

theorem wit_DriveCommands : let c : NvCmd := { id := 0, op := .read, row := 0, issued := 0, for_ := .row 0, cmd := .nvmeAdmin 1 0 0 }
    let d : Drive := { st := .online, cmds := [c, { c with id := 1, op := .s5write }, { c with id := 2, op := .write }, { c with id := 3, op := .resvRegister, for_ := .resv },
                       { c with id := 4, op := .resvAcquire, for_ := .resv }, { c with id := 5, op := .dsm, for_ := .job 7 }, { c with id := 6, op := .control, for_ := .ctl 0 }] }
    let s : State := { clk := { master := ms 4 }, flash := { drives := [(1, d), (2, { d with timeouts := List.replicate 7 1 })], jobs := [{ id := 7, kind := .free 0 1, units := [], sub := 0, svc := 0, st := .running }] } }
    let t : State := { s with flash := { s.flash with stopped := true } }
    (∀ i, i < 7 → ((driveAt s 1).cmds.find? fun c => c.id = i).any (fun c => decide (ms 4 + c.issued ≤ s.now)) = true) ∧ queuesDown (driveAt s 1) = false ∧
    (((driveAt s 1).timeouts.filter fun t => s.now < sec 1 + t) ++ [s.now]).length < 8 ∧ s.flash.stopped = false ∧ t.flash.stopped = true ∧
    8 ≤ (((driveAt s 2).timeouts.filter fun t => s.now < sec 1 + t) ++ [s.now]).length ∧ ((driveAt s 2).cmds.find? fun c => c.id = 0).isSome = true ∧
    (jobAt (modDrive s 1 fun d => { d with cmds := d.cmds.filter fun x => x.id ≠ 5 }) 7).any (fun j => decide (j.kind = .free 0 1)) = true := by decide
theorem wit_DriveAdmin : let d : Drive := { st := .online, admin := some 0, todo := [(5, 1), (1, 1)], resetting := some 0, lastFatal := some 1, aen := true }
    let s : State := { clk := { master := sec 10 }, pair := { role := .active }, flash := { drives := [(1, d), (2, { d with lastFatal := none, todo := [(1, 1)] }), (3, { d with todo := [(1, 1)], lastPoll := 1 })], adopt := [(3, 5)] } }
    (driveAt s 1).admin = some 0 ∧ (driveAt s 1).todo = [(5, 1), (1, 1)] ∧ s.flash.adopt.get? 3 = some 5 ∧ (driveAt s 3).todo.length ≤ 1 ∧ s.flash.adopt.get? 2 = none ∧
    (driveAt s 2).todo.length ≤ 1 ∧ (driveAt s 2).admin = some 0 ∧ (driveAt s 3).admin = some 0 ∧ (driveAt s 1).aen = true ∧ driveSt s 1 ≠ .absent ∧
    sec 1 + 0 ≤ s.now ∧ sec 10 + (driveAt s 1).lastPoll ≤ s.now ∧ s.now < sec 10 + (driveAt s 3).lastPoll ∧ driveTakes s 1 = true ∧
    ((driveAt s 1).lastFatal.any fun t => decide (s.now < sec 60 + t)) = true ∧ ((driveAt s 2).lastFatal.any fun t => decide (s.now < sec 60 + t)) = false ∧
    driveTakes s 2 = true ∧ (driveAt s 1).resetting = some 0 ∧ sec 10 + 0 ≤ s.now ∧ s.pair.role = .active := by decide

theorem wit_Intent : let on := (List.range 8).map fun p => (p, ({ st := .online } : Drive))
    let s : State := { clk := { master := sec 1 }, flash := { drives := on, cmin := 262145 + 2 * 4096, intent := [(3, 0)], resync := [0], rebuild := [(2, 0)] } }
    let t : State := { flash := { drives := on, cmin := 262145, rebuild := [(2, 1)], resync := [0] } }
    s.flash.intent.get? 3 = some 0 ∧ s.flash.resync = [0] ∧ flashHalt s = false ∧ rowBusy s 0 = false ∧ s.flash.resyncRow + 1 < 4096 ∧ 0 + 1 < s.flash.cmin - 262144 ∧
    regionBusy s 3 = false ∧ s.flash.rebuild.head? = some (2, 0) ∧ 0 < s.flash.cmin - 262144 ∧ s.flash.stopped = false ∧
    t.flash.rebuild.head? = some (2, 1) ∧ t.flash.cmin - 262144 ≤ 1 ∧ rowBusy t 1 = false ∧ flashHalt t = false ∧ t.flash.resync = [0] ∧
    flashHalt { t with flash := { t.flash with stopped := true } } = true := by decide

set_option maxRecDepth 4000 in
theorem wit_DramSet : let v := packBits [(32, 0), (16, 8000), (16, 0), (8, 168), (13, 64)]
    let a := [(8, 15), (32, v)]; let x := cmdWindow .operator 0x0901 a; let u := x.arg 8 32
    Due (withCmd {} 0x0901 a) 5 0x0901 x ∧ Local (withCmd {} 0x0901 a) ∧ x.arg 0 1 = 15 ∧ x.arg 1 7 = 0 ∧ rateBins.contains (bits u 32 16) = true ∧
    bits u 64 8 = 168 ∧ bits u 72 13 = 64 ∧ bits u 10 6 = 0 ∧ bits u 57 7 = 0 ∧ bits u 85 11 = 0 ∧ Due (withCmd {} 0x0900 a) 5 0x0900 (cmdWindow .operator 0x0900 a) := by decide
set_option maxRecDepth 4000 in
theorem wit_DramDiag : let a := [(8, 3), (8, 0), (80, 1), (80, 0)]; let b := [(8, 3), (8, 0), (80, 1), (80, 1)]; let z := [(8, 3), (8, 2 ^ 32)]
    let st : State := { halls := [(3, testHall), (4, tierHall)], dram := { chans := [(0, { st := .online, capGib := 8 })] } }
    let s := fun (op : Nat) (a : List (Nat × Nat)) => withCmd st op a
    let x := cmdWindow .operator 0x0902 a; let y := cmdWindow .operator 0x0902 b; let n := cmdWindow .operator 0x0902 z
    Due (s 0x0902 a) 5 0x0902 x ∧ diagCheck (s 0x0902 a) x = none ∧ x.arg 96 80 = 0 ∧ (s 0x0902 a).halls.get? (x.arg 0 2) = some testHall ∧
    Due (s 0x0902 b) 5 0x0902 y ∧ diagCheck (s 0x0902 b) y = none ∧ testHall.light = true ∧ y.arg 96 80 ≠ 0 ∧
    Due (s 0x0902 z) 5 0x0902 n ∧ diagCheck (s 0x0902 z) n = some (stBadArg, 8) ∧
    Due (s 0x0903 a) 5 0x0903 (cmdWindow .operator 0x0903 a) ∧ isLanded (s 0x0903 a) 3 testHall 0 = true ∧
    Due (s 0x0903 [(8, 4)]) 5 0x0903 (cmdWindow .operator 0x0903 [(8, 4)]) ∧ diagCheck (s 0x0903 [(8, 4)]) (cmdWindow .operator 0x0903 [(8, 4)]) = none ∧
    isLanded (s 0x0903 [(8, 4)]) 4 tierHall 0 = false ∧ Due (s 0x0903 z) 5 0x0903 (cmdWindow .operator 0x0903 z) := by decide

set_option maxRecDepth 4000 in
theorem wit_DramRows : let x : Chan := { st := .online, capGib := 8, ranks := 2, cfg := { scrubEn := true, scrubHours := 24, retrainMs := 64 }, rowUe := [64], deferSince := [(0, 0)] }
    let s : State := { clk := { master := ms 64 }, dram := { chans := [(1, x)] }, hw := { dimms := [(1, { serial := 9 })] } }
    let u : State := { s with dram := { s.dram with chans := [(1, { x with deferSince := [] })] }, flt := [(9, { testSeqr with shapers := [(8, { cfg := { pir := 1, latTgt := 10 } })], wait := [{ sub := 1, svc := 0, bytes := 64, at_ := 0 }] })] }
    s.dram.chans.get? 1 = some x ∧ x.st = .online ∧ x.refreshed.getD 0 0 + 390 ≤ s.now ∧ urgentOn s 1 (fun b => b = 0) = false ∧ pauseDue s x 1 = true ∧
    urgentOn s 1 (fun b => b / 32 = 1) = false ∧ x.deferSince.get? 0 = some 0 ∧ x.cfg.scrubEn = true ∧ chanBytes x ≠ 0 ∧ x.repaired.contains 64 = false ∧
    repairDue s x 64 0 = true ∧ s.dram.repairs.length < 1024 ∧ 0 < (s.hw.dimms.getD 1 { serial := 0 }).sppr ∧
    pauseDue u { x with deferSince := [] } 0 = true ∧ urgentOn u 1 (fun b => b / 32 = 0) = true := by decide
/-- A full repair map, and a DIMM without repair resources. -/
theorem wit_RepairMap : 1024 ≤ (List.replicate 1024 ({ serial := 9, rank := 0, bg := 0, bank := 0, row := 1, device := 0, st := 0 } : Repair)).length ∧
    ({ serial := 9, sppr := 0 } : Dimm).sppr ≤ 0 := ⟨Nat.le_of_eq List.length_replicate.symm, Nat.le_refl 0⟩

theorem wit_Fences : let a := [(2, 0), (2, 9)]; let f : Fenced := { slice := false, unit := 9, st := 0, time := 0 }
    let s := withCmd { fence := { list := [f] } } 0x0905 a; let t := withCmd {} 0x0905 a; let x := cmdWindow .operator 0x0905 a
    Due s 5 0x0905 x ∧ Local s ∧ x.arg 0 1 ≤ 1 ∧ x.arg 1 1 = 0 ∧ s.fence.list.any (fun f => f.slice == decide (x.arg 0 1 = 1) && f.unit == x.arg 2 2) = true ∧
    Due t 5 0x0905 x ∧ t.fence.list.any (fun f => f.slice == decide (x.arg 0 1 = 1) && f.unit == x.arg 2 2) = false ∧ Local t ∧
    Due (withCmd {} 0x0904 []) 5 0x0904 (cmdWindow .operator 0x0904 []) := by decide
theorem wit_Scans : let a := fun (t u : Nat) => [(2, t), (2, u)]
    (∀ t, t ≤ 2 → Due (withCmd {} 0x0906 (a t 67)) 5 0x0906 (cmdWindow .operator 0x0906 (a t 67)) ∧ (cmdWindow .operator 0x0906 (a t 67)).arg 0 1 = t ∧
      (cmdWindow .operator 0x0906 (a t 67)).arg 1 1 = 0 ∧ (cmdWindow .operator 0x0906 (a t 67)).arg 2 2 = 67) ∧
    (let s : State := { pwr := { feltiOn := true, ready := true }, clk := { master := sec 600 }, fence := { sentinels := [(4, { time := 0, data := [], digest := 0 })] } }
     s.pwr.feltiOn = true ∧ s.pwr.ready = true ∧ sec 600 + s.fence.lastScan ≤ s.now ∧ (s.fence.sentinels.get? 4).isSome = true ∧ scanBusy s false 7 = false ∧ coreFence s 7 = none) := by decide

theorem wit_Thermal : let s : State := { clk := { master := sec 60 }, hw := { temps := [(20, 339)] }, eng := { gals := [(3, { gated := true, coolSince := some (sec 60 - ms 10) })] }, pwr := { tripped := true, coolSince := some 0 } }
    let t : State := { s with pwr := {} }
    19 ≤ 20 ∧ t.pwr.tripped = false ∧ thermalTrip 20 = some 420 ∧ decide ((t.hw.temps.get? 20).getD 0 < thermalEvent 20) ≠ decide ((340 : Int) < thermalEvent 20) ∧
    decide ((t.hw.temps.get? 20).getD 0 < thermalEvent 20) = decide ((338 : Int) < thermalEvent 20) ∧
    (s.eng.gals.getD 3 {}).coolSince = some (sec 60 - ms 10) ∧ (s.eng.gals.getD 3 {}).gated = true ∧ sec 60 - ms 10 + ms 10 ≤ s.now ∧
    s.pwr.coolSince = some 0 ∧ s.pwr.tripped = true ∧ sec 60 + 0 ≤ s.now := by decide

theorem wit_RecTrigger : let a := [(8, 3), (2, 1), (2, 0), (2, 0), (2, 0), (2, 0), (2, 0), (2, 0), (2, 0), (16, 0), (4, 1), (4, 0), (4, 31)]
    let x := cmdWindow .operator 0x0A00 a; let b := x.bytes 8 56
    Due (withCmd {} 0x0A00 a) 5 0x0A00 x ∧ Local (withCmd {} 0x0A00 a) ∧ x.arg 1 7 = 0 ∧ subNat b 0 1 < 16 ∧ bits (subNat b 10 2) 12 3 = 0 ∧
    bits (subNat b 12 2) 12 3 = 0 ∧ subNat b 14 2 = 0 ∧ subNat b 32 4 = 1 ∧ subNat b 40 4 = 31 ∧ subNat b 44 12 = 0 := by decide
theorem wit_RecRead : let a := [(8, 0), (4, 64)]; let x := cmdWindow .operator 0x0A02 a
    let r : Record := { cursor := 0, time := 0, event := 1, cls := 0, source := 0, pos := 0, len := 1 }
    let s := withCmd { evr := { recs := [r] } } 0x0A02 a; let t := withCmd { evr := { recs := [{ r with len := 2 }] } } 0x0A02 a
    Due s 5 0x0A02 x ∧ x.arg 8 4 = 64 ∧ ((readable s).find? fun r => decide (x.cls ≠ .tenant)) = some r ∧ 64 * r.len ≤ x.arg 8 4 ∧
    Due t 5 0x0A02 x ∧ ((readable t).find? fun r => decide (x.cls ≠ .tenant)).any (fun r => decide (x.arg 8 4 < 64 * r.len)) = true ∧
    Due (withCmd {} 0x0A01 []) 5 0x0A01 (cmdWindow .operator 0x0A01 []) ∧ Due (withCmd {} 0x0A03 []) 5 0x0A03 (cmdWindow .operator 0x0A03 []) := by decide
theorem wit_Dumps : let d : Dump := { power := false, cause := 0, source := 0, time := 0, cursor := 0, st := 2, top := 0, summary := [1, 2, 3] }
    let a := [(8, 0), (8, 3), (4, 131072)]; let b := [(8, 1)]; let e : Dumps := { entries := [(0, d), (1, { d with st := 4 })] }
    let s := withCmd { dump := e } 0x0A04 a; let t := withCmd { dump := e } 0x0A04 b; let u := withCmd { dump := e } 0x0A05 a
    Due s 5 0x0A04 (cmdWindow .operator 0x0A04 a) ∧ s.dump.entries.get? 0 = some d ∧ (cmdWindow .operator 0x0A04 a).arg 1 7 = 0 ∧ d.st ≠ 4 ∧
    (cmdWindow .operator 0x0A04 a).arg 8 8 = d.summary.length ∧ Due t 5 0x0A04 (cmdWindow .operator 0x0A04 b) ∧ (t.dump.entries.get? 1).any (fun d => decide (d.st = 4)) = true ∧
    Due u 5 0x0A05 (cmdWindow .operator 0x0A05 a) ∧ Local u ∧ u.dump.entries.get? 0 = some d := by decide
theorem wit_RecRows : let r : Run := { event := 5, source := 6, hall := none, cls := 0, first := 0, firstAt := 0, count := 1, openedAt := 0, lastAt := 0, proto := { cursor := 0, time := 0, event := 5, cls := 0, source := 6 } }
    let s : State := { pwr := { feltiOn := true }, clk := { master := ms 1 }, evr := { runs := [r], units := segUnits } }
    (s.evr.runs.find? fun r => decide (r.event = 5 ∧ r.source = 6) && (decide (r.hall = some 0) || r.hall.isNone) && decide (ms 1 + r.lastAt ≤ s.now ∨ sec 1 + r.openedAt ≤ s.now)) = some r ∧
    s.pwr.feltiOn = true ∧ s.evr.segs < s.evr.units / segUnits := by decide

theorem wit_Fatal : let s : State := { clk := { master := ms 200 }, pwr := { diesHeld := false, rails := 10, fatalAt := some 0 } }; let t : State := { pwr := { diesHeld := false } }
    let h : State := { clk := { master := 9 }, pwr := { diesHeld := false, fatalTimes := [1, 2] } }
    s.pwr.diesHeld = false ∧ s.pwr.fatalAt = some 0 ∧ ms 200 + 0 ≤ s.now ∧ t.pwr.fatalAt = none ∧ 3 ≤ (fatalRecent h).length ∧ (fatalRecent t).length < 3 ∧
    s.pwr.rails = 10 ∧ s.pwr.railsOut.contains 10 = false ∧ h.clk.core ≠ h.clk.master ∧ t.clk.core = t.clk.master ∧
    ({ h with clk := { h.clk with fab0 := 9, fab1 := 9 } } : State).clk.fab1 = h.clk.master := by decide

theorem wit_FwWrite : let a := [(4, 0), (4, 2), (2, 7)]; let b := [(4, 2), (4, 131072), (2, 7)]
    let s := withCmd {} 0x0C01 a; let f : Fw := { b := { st := 2, data := [1, 2] } }; let t := withCmd { fw := f } 0x0C01 b; let u := withCmd {} 0x0C01 b
    Due s 5 0x0C01 (cmdWindow .operator 0x0C01 a) ∧ (cmdWindow .operator 0x0C01 a).arg 0 4 = 0 ∧ Due t 5 0x0C01 (cmdWindow .operator 0x0C01 b) ∧
    (otherSlot t).st = 2 ∧ (cmdWindow .operator 0x0C01 b).arg 0 4 = (otherSlot t).data.length ∧ (cmdWindow .operator 0x0C01 b).arg 4 4 = 131072 ∧
    Due u 5 0x0C01 (cmdWindow .operator 0x0C01 b) ∧ (otherSlot u).st ≠ 2 ∧ 2 + 131072 ≤ slotSize := by decide
theorem wit_FwActivate : let a := [(4, 0), (1, 1)]; let x := cmdWindow .operator 0x0C02 a
    let s := fun (st svn fmin : Nat) (p : Pair) => withCmd { fw := { b := { st := st, svn := svn, storeMin := fmin, storeMax := 3 } }, hw := { fusedMinSvn := 4 }, pair := p, store := { fmtWrite := 3 } } 0x0C02 a
    Due (s 1 4 3 {}) 5 0x0C02 x ∧ x.arg 4 1 = 1 ∧ (otherSlot (s 0 4 3 {})).st ≠ 1 ∧ (otherSlot (s 0 4 3 {})).st ≠ 2 ∧ (otherSlot (s 1 3 3 {})).svn < 4 ∧ (otherSlot (s 1 4 3 {})).svn = 4 ∧
    (otherSlot (s 1 4 4 {})).storeMin > 3 ∧ resetRefused (s 1 4 3 { role := .active, partnerReady := true }) = true ∧ resetRefused (s 1 4 3 {}) = false ∧
    Due (withCmd {} 0x0C00 []) 5 0x0C00 (cmdWindow .operator 0x0C00 []) ∧ Due (withCmd {} 0x0C03 [(4, 9)]) 5 0x0C03 (cmdWindow .operator 0x0C03 [(4, 9)]) := by decide
theorem wit_StoreReset : let a := [(1, 1), (1, 0), (6, 0), (8, 5)]; let x := cmdWindow .operator 0x0D02 a
    let s := withCmd { pair := { role := .active, partnerReady := true } } 0x0D02 a; let t := withCmd {} 0x0D02 a
    Due (withCmd {} 0x0D00 []) 5 0x0D00 (cmdWindow .operator 0x0D00 []) ∧ Due (withCmd {} 0x0D01 [(4, 0x45524142)]) 5 0x0D01 (cmdWindow .operator 0x0D01 [(4, 0x45524142)]) ∧
    Local (withCmd {} 0x0D01 [(4, 0x45524142)]) ∧ Due s 5 0x0D02 x ∧ resetRefused s = true ∧ x.arg 1 1 = 0 ∧ x.arg 0 1 = 1 ∧ x.arg 2 6 = 0 ∧ Due t 5 0x0D02 x ∧
    resetRefused t = false ∧ Due (withCmd {} 0x0D03 [(4, 60)]) 5 0x0D03 (cmdWindow .operator 0x0D03 [(4, 60)]) ∧ (cmdWindow .operator 0x0D03 [(4, 60)]).arg 0 4 = 60 := by decide

theorem wit_PowerInput : let s : State := { clk := { master := sec 1 + ms 12 }, hw := { inputDv := 3800 }, pwr := { rails := 10, loss := some (0, 0), pfailN := true, lastLow := some 1 } }
    let t : State := { s with pwr := { s.pwr with lossRailsDown := true, ovp := true } }; let u : State := { s with pwr := { s.pwr with lossRailsDown := true } }
    s.pwr.loss = some (0, 0) ∧ s.pwr.lossRailsDown = false ∧ ms 12 + 0 ≤ s.now ∧ t.pwr.lossRailsDown = true ∧ t.pwr.pfailN = true ∧ sec 1 + (ms 12 + 0) ≤ t.now ∧ 3800 ≤ t.hw.inputDv ∧
    t.hw.inputDv ≤ 4200 ∧ t.pwr.ovp = true ∧ u.pwr.ovp = false ∧ s.pwr.rails = 10 ∧ (s.pwr.lastLow.any fun t => decide (s.now < sec 60 + t)) = true ∧
    (({} : State).pwr.lastLow.any fun t => decide (0 < sec 60 + t)) = false := by decide

theorem wit_Rails : let s : State := { clk := { master := ms 10 }, pwr := { precharged := true, rails := 9, railAt := some 0 } }; let t : State := { s with pwr := { s.pwr with rails := 2, railTries := 1 } }
    let u : State := { pwr := { rails := 10, railsOut := [4], diesHeld := false, railRetryAt := some 0 } }
    ({ pwr := { precharged := false } } : State).pwr.precharged = false ∧ s.pwr.railAt = some 0 ∧ s.pwr.rails + 1 = 10 ∧ t.pwr.rails + 1 < 10 ∧ ms 10 + 0 ≤ s.now ∧ s.pwr.railTries = 0 ∧ t.pwr.railTries = 1 ∧
    u.pwr.railsOut = [4] ∧ u.pwr.loss = none ∧ u.pwr.diesHeld = false ∧ u.pwr.railRetryAt = some 0 := by decide
theorem wit_ResetPins : let s : State := { clk := { master := sec 1 }, pwr := { rails := 10, resetN := false } }; let t : State := { s with pwr := { s.pwr with resetHits := true } }
    let u : State := { s with pwr := { s.pwr with resetSince := 1, fatalHold := true } }; let v : State := { s with pwr := { s.pwr with resetSince := 1 } }
    let a : State := { s with pwr := { s.pwr with resetN := true, prsnt := true } }; let b : State := { a with pwr := { a.pwr with prsnt := false } }
    s.pwr.resetHits = false ∧ s.pwr.resetStuck = false ∧ s.pwr.resetChatter = false ∧ sec 1 ≤ s.now - s.pwr.resetSince ∧ t.pwr.resetHits = true ∧ u.now - u.pwr.resetSince < sec 1 ∧ u.pwr.fatalHold = true ∧
    v.pwr.fatalHold = false ∧ a.pwr.resetN = true ∧ a.pwr.loss = none ∧ (a.pwr.resetAsserts.filter fun t => decide (a.now < sec 10 + t)).length < 4 ∧
    a.pwr.prsnt = true ∧ b.pwr.prsnt = false ∧ a.pwr.prsntChatter = false ∧ (a.pwr.prsntChanges.filter fun t => decide (a.now < sec 10 + t)).length < 8 := by decide

theorem wit_Starts : let s : State := { clk := { master := sec 30 }, pwr := { resetDue := some (false, 0), starting := false, diesHeld := false, quiesceSince := some (sec 30 - ms 25) }, pair := { roleDueAt := some 9 } }
    let t : State := { s with pwr := { starting := true, diesHeld := false, feltiOn := true, startKind := .cold, failedStarts := 1 } }; let u : State := { s with pwr := { t.pwr with failedStarts := 0 } }
    let v : State := { s with pwr := { s.pwr with resetDue := some (true, sec 30) } }
    s.pwr.resetDue = some (false, 0) ∧ s.pwr.starting = false ∧ s.pwr.diesHeld = false ∧ v.pwr.resetDue = some (true, v.now) ∧ sec 30 - ms 25 + ms 25 ≤ s.now ∧ s.pwr.swapQuiesce = false ∧
    t.pwr.starting = true ∧ t.welt.limitFailed = false ∧ (fencedSlices t.fence.list).length ≤ 4 ∧ t.pwr.missed = false ∧ t.pwr.startTime + startBound t.pwr.startKind ≤ t.now ∧ t.pwr.failedStarts = 1 ∧ u.pwr.failedStarts = 0 ∧
    s.pair.roleDueAt = some 9 := by decide

set_option maxRecDepth 4000 in
theorem wit_PairCommands : let a := [(4, 1), (1, 1), (1, 1), (2, 0), (48, 9)]; let b := [(4, 1), (1, 2), (1, 1), (2, 0), (48, 9)]
    let c := [(4, 1), (1, 1), (1, 2), (2, 0), (48, 9)]; let x := cmdWindow .operator 0x0B00 a
    let s := fun r => withCmd { pair := { role := r } } 0x0B02 [(8, 9)]
    let t := withCmd { pair := { role := .active, swap := some (1, 2, 3) } } 0x0B02 [(8, 9)]
    Due (withCmd {} 0x0B01 []) 5 0x0B01 (cmdWindow .operator 0x0B01 []) ∧ Due (withCmd {} 0x0B03 []) 5 0x0B03 (cmdWindow .operator 0x0B03 []) ∧
    Due (withCmd {} 0x0B00 a) 5 0x0B00 x ∧ Local (withCmd {} 0x0B00 a) ∧ x.arg 4 1 ≤ 1 ∧ x.arg 5 1 ≤ 1 ∧ x.arg 6 2 = 0 ∧
    Due (withCmd {} 0x0B00 b) 5 0x0B00 (cmdWindow .operator 0x0B00 b) ∧ 1 < (cmdWindow .operator 0x0B00 b).arg 4 1 ∧
    Due (withCmd {} 0x0B00 c) 5 0x0B00 (cmdWindow .operator 0x0B00 c) ∧ 1 < (cmdWindow .operator 0x0B00 c).arg 5 1 ∧
    Due (s .standby) 5 0x0B02 (cmdWindow .operator 0x0B02 [(8, 9)]) ∧ Due (s .active) 5 0x0B02 (cmdWindow .operator 0x0B02 [(8, 9)]) ∧
    Due t 5 0x0B02 (cmdWindow .operator 0x0B02 [(8, 9)]) ∧ (s .standby).pair.role ≠ .active ∧ (s .active).pair.swap = none ∧ t.pair.swap.isSome = true ∧
    (∀ r ∈ [Role.standby, .active], Due (withCmd { pair := { role := r } } 0x0B04 []) 5 0x0B04 (cmdWindow .operator 0x0B04 [])) := by decide

set_option maxRecDepth 4000 in
theorem wit_Lease : let p : Pair := { cfg := { enable := true }, role := .active, renews := 1, eA := 5, wire := .up }
    let a : State := { clk := { master := ms 10 }, pwr := { feltiOn := true }, pair := p, ports := [(8, { st := .up })] }; let b : State := { a with clk := { master := 0 } }
    let q : Pair := { p with role := .standby, eS := 7, aligned := true }; let c : State := { a with pair := q }; let d : State := { a with pair := { q with aligned := false } }
    let e : State := { clk := { master := ms 10 + 7 }, pair := q }; let f : State := { clk := { master := ms 200 + 7 }, pair := { q with expired := true } }
    let g : State := { clk := { master := ms 200 + 5 }, pair := { p with role := .fenced, atExpiry := true } }
    a.pair.role = .active ∧ a.pair.cfg.enable = true ∧ a.pwr.feltiOn = true ∧ ms 10 + a.pair.lastRenew ≤ a.now ∧ b.now < ms 10 + b.pair.lastRenew ∧
    heard a 8 false = true ∧ heard c 8 false = true ∧ heard d 8 false = true ∧ hbtBad (leBytes 55 0x70) 0x70 = false ∧ hbtBad (leBytes 55 0x71) 0x71 = false ∧
    hbtBad (leBytes 55 0x72) 0x72 = false ∧ hbtBad (leBytes 55 0x73) 0x70 = true ∧ hbtLc (leBytes 55 0x71) = a.pair.lc ∧ hbtLc (leBytes 55 0x171) ≠ a.pair.lc ∧ c.pair.role = .standby ∧ c.pair.cfg.enable = true ∧ c.pair.aligned = true ∧ d.pair.aligned = false ∧
    a.pair.renews ≠ 0 ∧ c.pair.expired = false ∧ c.pair.whole = false ∧ a.pair.eA ≠ 0 ∧ a.pair.eA ≤ a.now ∧ c.pair.eS ≠ 0 ∧ c.now < ms 10 + c.pair.eS ∧ ms 10 + e.pair.eS ≤ e.now ∧
    f.pair.expired = true ∧ f.pair.abandoned = false ∧ ms 100 + f.pair.eS ≤ f.now ∧ g.pair.role = .fenced ∧ g.pair.atExpiry = true ∧ ms 200 + g.pair.eA ≤ g.now ∧
    5 ≤ ((List.replicate 5 (some (resvKey g))).filterMap id).length ∧ (∀ k ∈ (List.replicate 5 (some (resvKey g))).filterMap id, k = resvKey g) ∧
    (([none] : List (Option Nat)).filterMap id).length < 5 := by decide

set_option maxRecDepth 8000 in
theorem wit_TimeAndWire : let p : Pair := { cfg := { enable := true }, role := .standby, peerPath := true, wire := .up, toRemove := 5 }
    let q : Port := { st := .up }; let s : State := { clk := { master := ms 10 }, pair := p, ports := [(8, q)] }; let e : State := { s with clk := { master := 0 } }
    let f : State := { s with pair := { p with peerPath := false, wire := .chatter, toRemove := -5 } }; let g : State := { s with pair := { p with wire := .down } }
    s.pair.cfg.enable = true ∧ s.pair.role ≠ .active ∧ s.pair.peerPath = true ∧ e.now < ms 10 + e.pair.timeReqAt ∧ ms 10 + s.pair.timeReqAt ≤ s.now ∧
    heard s 8 false = true ∧ hbtBad (leBytes 55 0x73) 0x73 = false ∧ hbtBad (leBytes 55 0x74) 0x74 = false ∧ hbtBad [0x73] 0x73 = true ∧ s.pwr.ready = false ∧
    hbtSend (leBytes 55 (0x74 + 2 ^ 128 * ms 20)) = ms 20 ∧ hbtEcho (leBytes 55 (0x74 + 2 ^ 128 * ms 20)) = 0 ∧
    (0 : Int) < ((ms 20 + (s.now - 5) / 2 : Nat) - (s.now : Nat) : Int) ∧ ((0 + (s.now - s.now) / 2 : Nat) - (s.now : Nat) : Int) ≤ 0 ∧
    us 100 + s.pair.slewAt ≤ s.now ∧ 0 < s.pair.toRemove ∧ f.pair.toRemove < 0 ∧ f.pair.peerPath = false ∧
    frameOk 0 = false ∧ frameOk 0x2d004c4b40000300d5 = true ∧ frameOk 0xf2004c4b40000301d5 = true ∧ frameOk 0x94004c4b40000302d5 = true ∧
    ((0x2d004c4b40000300d5 : BitVec 72).extractLsb' 8 4).toNat = 0 ∧ ((0xf2004c4b40000301d5 : BitVec 72).extractLsb' 8 4).toNat = 1 ∧ ((0x94004c4b40000302d5 : BitVec 72).extractLsb' 8 4).toNat = 2 ∧
    s.pair.wire = .up ∧ f.pair.wire = .chatter ∧ g.pair.wire = .down := by decide

set_option maxRecDepth 8000 in
theorem wit_Mirror : let w : MirWait := { mseq := 5, sentAt := 0 }
    let p : Pair := { cfg := { enable := true }, role := .active, peerPath := true, partnerReady := true, sync := .resyncing }
    let s : State := { clk := { master := sec 1 }, pair := { p with waits := [w] } }; let e : State := { pair := { p with waits := [w], sync := .synced } }
    let t : State := { s with pair := { p with sync := .notSynced } }
    let a : State := { s with pair := { p with resyncLeft := [] } }; let b : State := { s with pair := { p with resyncLeft := [2 ^ 24, 5], whole := true, swap := some (9, 4, 3) } }
    let c : State := { b with halls := [(3, testHall)] }; let d : State := { b with halls := [(3, { testHall with cls := .tiered, size := 8, base := 0 })] }
    let f : State := { s with pair := { p with swap := some (sec 1, 1024, 3) }, home := { recoveryEnd := 5 } }; let g : State := { f with clk := { master := 4 } }
    let v : State := { b with pair := { b.pair with resyncLeft := [] } }
    (∃ v ∈ s.pair.waits, v.mseq ≤ 5) ∧ (∀ v ∈ s.pair.waits, 4 < v.mseq) ∧ s.pair.waits ≠ [] ∧ s.pair.role ≠ .fenced ∧ mirrorLive e = true ∧ (∀ v ∈ e.pair.waits, e.now < ms 1 + v.sentAt) ∧
    (∃ v ∈ s.pair.waits, ms 1 + v.sentAt ≤ s.now) ∧ sec 1 + t.pair.peerSince ≤ t.now ∧ t.pair.sync = .notSynced ∧ s.pair.sync ≠ .notSynced ∧
    a.pair.swap = none ∧ (mirrorNote { a with pair := { a.pair with sync := .synced, resyncPos := 0, resyncTotal := 0 } } (.sync 0 a.pair.whole)).pair.swap = none ∧
    (mirrorNote { v with pair := { v.pair with sync := .synced, resyncPos := 0, resyncTotal := 0 } } (.sync 0 v.pair.whole)).pair.swap = some (9, 4, 3) ∧
    (mirrorNote { v with pair := { v.pair with sync := .synced, resyncPos := 0, resyncTotal := 0 } } (.sync 0 v.pair.whole)).pair.whole = true ∧
    hallAt b (2 ^ 24 * 64) = none ∧ hallAt c (2 ^ 24 * 64) = some (3, testHall) ∧ isLanded c 3 testHall (2 ^ 24 * 64 - 2 ^ 30 * testHall.base) = true ∧
    (hallAt d (2 ^ 24 * 64)).any (fun e => !isLanded d 3 e.2 (2 ^ 24 * 64)) = true ∧ f.home.recoveryEnd ≠ 0 ∧ f.home.recoveryEnd ≤ f.now ∧
    f.pair.swap = some (sec 1, 1024, 3) ∧ sec 1 ≤ f.now ∧ g.now < sec 1 := by decide

theorem wit_Spdm : let a : Conn := { step := 3, hs := some true, chunkIn := some (1, 2), large := [0], recv := [1] }
    let s : State := { spdm := { conns := [(1, { step := 1 }), (2, { step := 2 }), (3, a)], sessions := [(0, { conn := 1, cls := .operator, tenant := 0, window := some 2, lastBeat := 0 })] },
                       win := [(0, { cls := .peer }), (1, { cls := .peer }), (2, { cls := .peer })], trust := { op := [(0, {})] } }
    (connOf s 1).step = 1 ∧ (connOf s 2).step = 2 ∧ (connOf s 1).step < 3 ∧ 3 ≤ (connOf s 3).step ∧ (measurement s 3 5 []).isSome = true ∧ (connOf s 3).chunkIn = some (1, 2) ∧
    (connOf s 1).hs ≠ some true ∧ (connOf s 3).hs = some true ∧ chainClass (setConn s 3 { connOf s 3 with hs := none }) (.operator 0) = some (.operator, 0) ∧
    s.spdm.sessions.freeKey 0 65 = some 1 ∧ s.win.freeKey 2 64 = some 3 ∧ 4096 * 0 < (connOf s 3).large.length ∧ (s.spdm.sessions.get? 0).isSome = true := by decide

theorem wit_Keying : let k : Port := { st := .keying }; let u : Port := { st := .up, key := { keyed := true } }; let b : Conn := { frag := some (4, [7]) }; let o : Conn := { frag := some (5, [7]) }
    let s : State := { clk := { master := sec 3600 }, ports := [(0, k), (1, u), (8, { k with cfg := { k.cfg with keyOff := true } })], spdm := { conns := [(1, b), (2, o)], sessions := [(0, { conn := 1, cls := .operator, tenant := 0, window := some 2, lastBeat := 0 })] } }
    let t : State := { s with ports := [(0, { k with key := { k.key with retryAt := sec 3601 } })] }
    let e : State := { s with clk := { master := 0 } }
    let f := fun (ep fl n : Nat) => ({ port := 1, bytes := msgOf 55 [(1, 0x60), (3, ep), (1, fl), (1, n), (2, 4), (3, 0), (44, 9)] } : MgtMsg)
    heard s 1 true = true ∧ fragBad (f 1 3 1).bytes = false ∧ fragBad (f 1 0 44).bytes = false ∧ fragBad (f 1 0 45).bytes = true ∧ isDead s 1 = false ∧ fragConn s 1 1 = 1 ∧
    fragConn s 0 0 = linkConn 0 ∧ (sub (f 1 3 1).bytes 11 1).length = 1 ∧ (subNat (f 1 3 1).bytes 4 1).testBit 0 = true ∧ (subNat (f 1 3 1).bytes 4 1).testBit 1 = true ∧
    (subNat (f 1 1 1).bytes 4 1).testBit 1 = false ∧ (subNat (f 1 2 1).bytes 4 1).testBit 0 = false ∧ (connOf (learn s 1 1) 1).frag = some (subNat (f 1 2 1).bytes 6 2, [7]) ∧
    (connOf (learn s 2 1) 2).frag.all (fun x => decide (x.1 ≠ subNat (f 2 2 1).bytes 6 2)) = true ∧
    (s.spdm.sessions.get? 0).isSome = true ∧ s.ports.get? 0 = some k ∧ k.st = .keying ∧ k.key.keyed = false ∧ k.cfg.keyOff = false ∧
    (s.ports.get? 8).any (fun q => q.cfg.keyOff) = true ∧ k.key.retryAt ≤ s.now ∧ (t.ports.get? 0).any (fun q => decide (t.now < q.key.retryAt)) = true ∧
    s.ports.get? 1 = some u ∧ u.key.keyed = true ∧ u.key.swTxAcked = true ∧ sec 3600 + u.key.since ≤ s.now ∧ rekeyDue e u = false ∧
    mgtBad (msgOf 55 [(1, 0x5F)]) 0x5F [(8, 24)] = false ∧ mgtBad (msgOf 55 [(2, 0x15F)]) 0x5F [(8, 24)] = true := by decide

set_option maxRecDepth 20000 in
theorem wit_LinkFlits : let f : Flit := { seq := 0, cargo := .hbt, emit := .epoch 1 2 3 4 5, sentAt := 0 }
    let sp : Space := { txNext := 1, unack := [f], next := 5, gapAt := some 0 }
    let q : Port := { st := .up, sn := sp, sp := sp, routedAway := true }; let k : Port := { q with st := .keying, recoverySince := some 0 }
    let s : State := { clk := { master := sec 1 }, ports := [(0, q), (1, k), (4, q), (5, { q with sn := { sp with gapAt := none } })] }
    let h := fun typ space seq ackN keyed => leBytes 12 0 ++ linkHdr typ space seq ackN 0 keyed
    let z := sub [] 0 224; let g := fun typ seq ackN keyed => z ++ h typ 0 seq ackN keyed
    let bad := sub [0x91] 0 224 ++ h 0 0 5 0 false; let wrong := sub [0x1D] 0 224 ++ h 0 0 5 0 false; let mgt := sub [0x1D] 0 224 ++ h 0 1 5 0 false
    let ok := fun f => (hdrBad f || slotsBad (fourSlots (flitSlots f)))
    let u := fun p f => takeAcks (modPort s p fun q => { q with lastValid := s.now }) p f
    s.ports.get? 0 = some q ∧ linkAlive q = true ∧ linkAlive k = true ∧ s.ports.get? 9 = none ∧ linkAlive {} = false ∧ inRange (flitType (g 0 5 0 false)) 1 4 = false ∧ inRange (flitType (g 1 0 0 false)) 1 4 = true ∧
    openSeq q (g 0 5 0 true) = none ∧ openSeq q (g 0 5 0 false) = some z ∧ (openSeq q bad).isSome = true ∧ ok bad = true ∧ ok wrong = false ∧ ok (g 0 5 0 false) = false ∧
    slotsWrong 0 (flitSpace wrong) (fourSlots (flitSlots wrong)) = true ∧ slotsWrong 0 0 (fourSlots z) = false ∧ onlyMgt 0 (fourSlots z) = false ∧ ok mgt = false ∧ onlyMgt (flitSpace mgt) (fourSlots (flitSlots mgt)) = true ∧
    alive (u 0 (g 0 5 9 false)) 0 = false ∧ ((u 1 (g 0 5 0 false)).ports.get? 1).any (fun r => linkAlive r && decide (r.st = .keying)) = true ∧ ((u 0 (g 0 5 0 false)).ports.get? 0).any (fun r => linkAlive r && decide (r.st = .up)) = true ∧
    ((u 0 (g 0 5 0 false)).ports.get? 0).any (fun r => decide (seqClass (r.sn.next % 4096) (flitSeq (g 0 5 0 false)) false = .accept)) = true ∧
    ((u 5 (g 0 6 0 false)).ports.get? 5).any (fun r => decide (seqClass (r.sn.next % 4096) (flitSeq (g 0 6 0 false)) false = .gap ∧ r.sn.gapAt = none)) = true ∧
    ((u 0 (g 0 6 0 false)).ports.get? 0).any (fun r => decide (seqClass (r.sn.next % 4096) 6 false = .gap ∧ r.sn.gapAt.isSome = true)) = true ∧ seqClass 5 4 false = .duplicate ∧ seqClass 5 4 true = .duplicate ∧ seqClass 5 2000 false = .outside ∧
    seqClass 5 2052 true = .gap ∧ seqClass 5 516 false = .gap ∧ seqClass 5 517 false = .outside ∧ seqClass 600 88 false = .duplicate ∧ seqClass 600 87 false = .outside ∧
    flitType (g 1 0 0 false) = 1 ∧ flitType (g 2 0 0 false) = 2 ∧ controlOk q (g 2 0 0 false) = true ∧ controlOk q (g 2 0 0 true) = false ∧ hdrBad (g 1 0 0 false) = false ∧ hdrBad (g 2 0 0 false) = false ∧ hdrBad (g 1 7 0 false) = true ∧
    ((fourSlots (flitSlots (g 1 0 0 false))).all fun a => zeros a 0 1) = true ∧
    ((u 0 (g 2 0 4095 false)).ports.get? 0).any (fun r => r.sn.unack.any fun f => decide (f.seq = 0)) = true ∧ ((u 0 (g 2 0 0 false)).ports.get? 0).any (fun r => r.sn.unack.any fun f => decide (f.seq = 0)) = false ∧
    (1 + 4095 - flitSeq (g 2 0 0 false)) % 4096 = 0 ∧ 2048 ≤ (1 + 4095 - flitSeq (g 2 8 0 false)) % 4096 ∧
    (portSpace q true).gapAt = some 0 ∧ (portSpace q false).unack = [f] ∧ q.st ≠ .recovery ∧ q.recoverySince = none ∧ k.recoverySince = some 0 ∧
    s.ports.get? (partnerPort 0) = some q ∧ q.routedAway = true ∧ sec 1 + q.upSince ≤ s.now ∧ ({ q with st := .recovery } : Port).st = .recovery ∧ ({} : Space).gapAt = none ∧ ({} : Space).unack = [] ∧ s.ports.get? (partnerPort 9) = none := by decide

set_option maxRecDepth 20000 in
theorem wit_Training : let q : Port := { st := .training }; let n : Port := { st := .negotiating }
    let s : State := { clk := { master := us 1 }, ports := [(0, q), (1, n), (2, { q with degraded := true })] }
    let g := fun (l : List Byte) (typ : Nat) (keyed : Bool) => sub l 0 224 ++ leBytes 12 0 ++ linkHdr typ 0 0 4095 4095 keyed; let m : List Byte := [0, 2, 1, 32, 0, 1]
    let v := modPort s 1 fun q => { q with lastValid := s.now }
    s.ports.get? 0 = some q ∧ s.ports.get? 1 = some n ∧ q.st = .training ∧ n.st ≠ .training ∧ n.st = .negotiating ∧ n.partner = none ∧ us 1 + n.lastNegotiate ≤ s.now ∧ s.ports.get? 9 = none ∧
    fullLanes 0 0xFFFF = some (0xFFFF, 31) ∧ fullLanes 0 0x1FFFD = some (0x1FFFD, 1) ∧ fullLanes 0 0xFFFE = none ∧ fullLanes 8 0xFF = some (0xFF, 31) ∧ halfLanes [1, 9] = some (0x100FD, 1) ∧ halfLanes [1, 2] = some (0xFF00, 31) ∧ halfLanes [1, 2, 9, 10] = none ∧
    q.degraded = q.half ∧ ({ q with degraded := true } : Port).degraded ≠ q.half ∧ flitType (g m 3 false) = 3 ∧ flitType (g m 1 false) = 1 ∧ flitKeyed (g m 3 true) = true ∧ flitKeyed (g m 3 false) = false ∧ hdrBad (g m 3 false) = false ∧ hdrBad (g m 5 false) = true ∧
    ((fourSlots (flitSlots (g m 3 false))).all fun a => zeros a 0 1) = true ∧ (takeAcks v 1 (g m 3 false)).ports.get? 1 = some { n with lastValid := s.now } ∧
    (({ ports := [(1, { n with st := .up })] } : State).ports.get? 1).any (fun q => decide (q.st = .negotiating)) = false ∧ linkAlive { n with st := .up } = true ∧
    subNat (g m 3 false) 1 1 = 2 ∧ subNat (g m 3 false) 2 1 = 1 ∧ subNat (g m 3 false) 3 2 = 32 ∧ subNat (g m 3 false) 5 1 = 1 ∧ min 2 (subNat (g [0, 2, 3] 3 false) 1 1) < max 1 (subNat (g [0, 2, 3] 3 false) 2 1) ∧
    min 2 0 < max 1 0 ∧ min 2 1 < max 1 2 ∧ max 1 1 ≤ min 2 2 ∧ max 1 2 ≤ min 2 3 := by decide

set_option maxRecDepth 20000 in
theorem wit_LaneSwap : let w : Swap := { lane := 2, id := 3, mine := true, sentAt := 0 }; let q : Port := { st := .up, swapEn := true }
    let s : State := { clk := { master := us 10 }, ports := [(0, q), (1, { q with swap := some w })] }; let a : Port := { q with swap := some { w with accepted := some 0 } }
    let c : List Nat := [0, 0, q.laneThr + 1]; let g := fun (l : List Byte) (typ : Nat) (keyed : Bool) => sub l 0 224 ++ leBytes 12 0 ++ linkHdr typ 0 0 4095 4095 keyed
    let f := g [0, 0, 2, 3] 4 false; let z : Space := {}
    let v := fun p => modPort s p fun q => switchRx { q with lastValid := s.now, key := { q.key with cctrRx := if q.key.keyed then some (flitCctr f) else none } }
    s.ports.get? 0 = some q ∧ q.st = .up ∧ ({ q with st := .keying } : Port).st ≠ .up ∧ ((List.range [0].length).find? fun i => decide (q.laneThr < ([0][i]?).getD 0)) = none ∧
    ((List.range c.length).find? fun i => decide (q.laneThr < (List.getD c i 0))) = some 2 ∧ q.spareUsed = false ∧ q.swapEn = true ∧ q.swap = none ∧ s.ports.get? 9 = none ∧
    ({ q with spareUsed := true } : Port).spareUsed = true ∧ ({ q with swapEn := false } : Port).swapEn = false ∧ linkAlive q = true ∧ linkAlive {} = false ∧ controlOk q f = true ∧ controlOk q (g [0, 0, 2, 3] 4 true) = false ∧
    flitType f = 4 ∧ flitType (g [0, 0, 2, 3] 1 false) = 1 ∧ hdrBad f = false ∧ hdrBad (g [] 6 false) = true ∧ ((fourSlots (flitSlots f)).all fun a => zeros a 0 1) = true ∧ alive (v 3) 3 = false ∧
    subNat f 1 1 = 0 ∧ subNat f 2 1 = 2 ∧ subNat f 3 1 = 3 ∧ subNat (g [0, 1, 2, 3] 4 false) 1 1 = 1 ∧ subNat (g [0, 2, 2, 3] 4 false) 1 1 = 2 ∧ 3 ≤ subNat (g [0, 3, 2, 3] 4 false) 1 1 ∧ 16 ≤ subNat (g [0, 0, 16, 3] 4 false) 2 1 ∧
    (takeAcks (v 1) 1 f).ports.get? 1 = some { q with swap := some w, lastValid := s.now } ∧ (takeAcks (v 0) 0 f).ports.get? 0 = some { q with lastValid := s.now } ∧ w.mine = true ∧ w.accepted = none ∧ w.lane = 2 ∧ w.id = 3 ∧
    us 10 + w.sentAt ≤ s.now ∧ w.tries < 5 ∧ 5 ≤ ({ w with tries := 5 } : Swap).tries ∧ a.st = .up ∧ us 1 + 0 ≤ s.now ∧ s.pair.cfg.side = 0 := by decide

set_option maxRecDepth 8000 in
theorem wit_Requests : let msg := fun op off amo => ({ port := 0, bytes := msgOf 55 [(1, op), (2, 1), (3, 6), (2, 7), (6, off), (4, 0), (1, amo)] } : ReqMsg); let m := msg 1 64 0
    let a : AclEntry := ⟨⟨true, true, true, true, true⟩, 1, 0, 1, 1, none⟩
    let s : State := { pwr := { diesHeld := false }, halls := [(7, testHall)], acl := [(aclKey 7 6, a)], ten := { recs := [(1, { slot0 := { st := .active } })] }, ports := [(0, { st := .up }), (1, { st := .keying })] }
    let w : Welt := { st := .open_, owner := 6, hall := 7, used := true }; let v : State := { s with welt := { s.welt with slots := [(0, w)] } }
    let by_ := fun r => ({ s with pair := { s.pair with role := r } } : State); let e : State := { s with eps := [(6, { dead := true })] }
    let q : State := { s with pwr := { s.pwr with quiesceSince := some 1 } }; let k : State := { s with home := { s.home with trackers := [(trkKey 6 1, { hall := 7, kind := 1 })] } }
    let u := fun (s : State) (c : Nat) => ({ learn s 6 0 with home := { s.home with trackers := s.home.trackers.set (trkKey 6 1) { hall := 7, kind := c, line := 1, port := 0 } } } : State)
    heard s 0 false = true ∧ heard s 1 false = false ∧ m.src = 6 ∧ m.tag = 1 ∧ m.hall = 7 ∧ m.offset = 64 ∧ m.ctx = none ∧
    (by_ .standby).pair.role = .standby ∧ (by_ .fenced).pair.role = .fenced ∧ s.pair.role ≠ .standby ∧ s.pair.role ≠ .fenced ∧ s.pwr.diesHeld = false ∧ ({} : State).pwr.diesHeld = true ∧
    isDead e 6 = true ∧ isDead s 6 = false ∧ q.pwr.quiesceSince.isSome = true ∧ s.pwr.quiesceSince = none ∧ (msg 1 65 0).bad 1 = true ∧ m.bad 1 = false ∧ m.bad 2 = true ∧ (msg 2 64 0).bad 2 = false ∧
    (msg 3 64 0).bad 3 = false ∧ (msg 4 64 0).bad 4 = false ∧ (msg 8 72 0).bad 8 = false ∧ (msg 0x11 64 0).bad 0x11 = false ∧ (msg 0x12 64 0).bad 0x12 = false ∧
    ({ m with bytes := msgOf 110 [(1, 5), (2, 1), (3, 6), (2, 7), (6, 64)] } : ReqMsg).bad 5 = false ∧ ({ m with bytes := msgOf 110 [(1, 6), (2, 1), (3, 6), (2, 7), (6, 64)] } : ReqMsg).bad 6 = false ∧
    amoListed .add 2 = false ∧ amoListed .add 1 = true ∧ 12 % amoBytes 1 ≠ 0 ∧ 8 % amoBytes 1 = 0 ∧ m.epoch = s.homeEpoch ∧ (1 : Nat) ≠ s.homeEpoch ∧
    (k.home.trackers.get? (trkKey 6 1)).isSome = true ∧ s.home.trackers.get? (trkKey 6 1) = none ∧ aclOf s 7 5 = none ∧ aclOf s 7 6 = some a ∧ charged s 7 6 < a.inForce ∧
    a.inForce ≤ charged k 7 6 ∧ (∀ c ∈ [ReqKind.rdS, .rdX, .rdNa, .upg, .wrFull, .wrPart, .amo, .wltRd, .wltWr], passes (u s (kindCode c)) c 7 64 6 none = true) ∧
    passes (u s 1) .rdS 7 (2 ^ 32) 6 none = false ∧ openOf (u s 0x11) { reqOf .wltRd m with handle := 0 } = none ∧ openOf (u v 0x11) { reqOf .wltRd m with handle := 0 } = some w := by decide

set_option maxRecDepth 8000 in
theorem wit_Writebacks : let m : ReqMsg := { port := 0, bytes := msgOf 110 [(1, 7), (2, 1), (3, 6), (2, 7), (6, 64)] }; let b : RspMsg := { port := 0, bytes := msgOf 55 [(1, 0x41), (2, 3), (3, 6)] }
    let a : AclEntry := ⟨⟨true, true, true, true, true⟩, 1, 0, 1, 1, none⟩; let l := lineOf testHall 64
    let w : Welt := { st := .open_, owner := 6, hall := 7, used := true, writes := [l] }
    let s : State := { pwr := { diesHeld := false }, halls := [(7, testHall)], acl := [(aclKey 7 6, a)], ten := { recs := [(1, { slot0 := { st := .active } })] },
                       welt := { slots := [(0, w)] }, ports := [(0, { st := .up })] }
    let v : Tracker := { hall := 7, kind := 7, line := l, port := 0 }
    let u := fun (s : State) => ({ learn s 6 0 with home := { s.home with trackers := s.home.trackers.set (trkKey 6 1) v } } : State)
    let dir := fun e => ({ s with home := { s.home with dir := [(l, e)] } } : State); let gone : State := { s with ten := {} }
    let old : State := { s with pair := { s.pair with homeEpoch := 1 }, home := { s.home with recoveryEnd := 5 } }
    let x : Snoop := { ep := 6, stag := 3, op := .i, line := l, hall := 7, sentAt := 0 }
    let o := fun (x : Snoop) => ({ s with home := { s.home with snoops := [(x, .active)] } } : State)
    m.bad 7 = false ∧ ({ m with bytes := [] } : ReqMsg).bad 7 = true ∧ m.src = 6 ∧ m.tag = 1 ∧ m.hall = 7 ∧ m.offset = 64 ∧ heard s 0 false = true ∧ heard {} 0 false = false ∧ b.ep = 6 ∧ b.stag = 3 ∧ b.bad 0x41 = false ∧ b.bad 0x42 = true ∧
    s.pair.role ≠ .standby ∧ s.pair.role ≠ .fenced ∧ s.pwr.diesHeld = false ∧ isDead s 6 = false ∧ s.pwr.quiesceSince = none ∧ s.home.trackers.get? (trkKey 6 1) = none ∧ aclOf s 7 6 = some a ∧
    charged s 7 6 < a.inForce ∧ m.epoch = s.homeEpoch ∧ oldWb s m = false ∧ oldWb old m = true ∧ hallTakes (u gone) 7 64 = false ∧ hallTakes (u s) 7 64 = true ∧ hallTakes (u old) 7 64 = true ∧
    ((dirAt (u s) l).bind fun e => e.owner) ≠ some 6 ∧ (dirAt (u (dir { owner := some 6 })) l).any (fun e => decide (e.owner = some 6 ∧ e.pin = none)) = true ∧
    (dirAt (u (dir { owner := some 6, pin := some 0 })) l).any (fun e => decide (e.pin = some 0)) = true ∧ (weltAt (u s) 0).owner = 6 ∧ (weltAt (u s) 0).writes.contains l = true  ∧
    (weltAt (u { s with welt := {} }) 0).writes.contains l = false ∧ findSnoop (o x) 6 3 = some (x, .active) ∧ findSnoop s 6 3 = none ∧ isDead { s with eps := [(6, { dead := true })] } 6 = true ∧
    wbTaken (o x) x = false ∧ wbTaken (o { x with wbSeen := true }) { x with wbSeen := true } = true := by decide

set_option maxRecDepth 8000 in
theorem wit_HomeBounds : let l := lineOf testHall 64; let r : Req := { kind := .rdS, ep := 6, org := .ep 0 1, hall := 7, line := l, offset := 64 }
    let s : State := { clk := { master := sec 1 }, pwr := { diesHeld := false, feltiOn := true }, halls := [(7, testHall)] }
    let q : State := { s with home := { s.home with lines := [(l, { fifo := [r] })] } }; let a : State := { s with home := { s.home with lines := [(l, { active := some { req := r, phase := .tier } })] } }
    let x : Snoop := { ep := 6, stag := 3, op := .i, line := l, hall := 7, sentAt := 0 }; let o : State := { s with home := { s.home with snoops := [(x, .active)] } }
    let w : State := { s with eps := [(6, { walking := true })] }; let g : State := { w with home := { w.home with dir := [(l, { ptrs := [6], pin := some 0 })] } }
    let m : WltMsg := { port := 0, bytes := msgOf 55 [(1, 0x10), (2, 1), (3, 6), (2, 7)] }; let v : State := { s with welt := { s.welt with waiting := [(m, 0, 0)] } }
    let k : State := { s with home := { s.home with trackers := [(trkKey 6 1, { hall := 7, kind := 1, dropped := some 0 }), (trkKey 6 2, { hall := 7, kind := 1, dropped := some 1 })] } }
    let z : State := { s with home := { s.home with snoops := [(x, .victimOf 3)] } }; let names := fun (t : State) => (t.home.dir.any fun e => decide (e.2.owner = some 6) || (e.2.coarse.isNone && e.2.ptrs.contains 6)) ||
      ((t.home.lines.any fun e => e.2.active.any fun a => a.req.mute && decide (a.req.ep = 6)) || t.home.wbHeld.any fun x => x.mute && decide (x.ep = 6))
    let due := fun (t : State) (r : Req) => decide (r.ep = 6 ∧ reqTag r = 1) && orderingDue t r.at_; let open_ := fun (x : WltMsg × Nat × Nat) => decide (x.1.ep = 6 ∧ x.1.tag = 1) && orderingDue v x.2.1
    let leaving := fun (t : State) => t.home.snoops.any fun x => decide (x.1.line = l) && (match x.2 with
      | .victimOf _ => true
      | _ => false)
    leaving z = true ∧ leaving q = false ∧
    (lineCtl a l).active.isSome = true ∧ (lineCtl q l).active = none ∧ q.home.recoveryEnd ≤ q.now ∧ q.pair.role ≠ .fenced ∧ pickReq (meet s l) l (lineCtl (meet s l) l).fifo = none ∧
    pickReq (meet q l) l (lineCtl (meet q l) l).fifo = some 0 ∧ (lineCtl (meet q l) l).fifo[0]? = some r ∧ findSnoop o 6 3 = some (x, .active) ∧ (epInfo w 6).walking = true ∧ w.pwr.feltiOn = true ∧
    names (settleTier (w.home.dir.foldl (fun s e => resolveEntry s e.1 6) w)) = false ∧ names (settleTier (g.home.dir.foldl (fun s e => resolveEntry s e.1 6) g)) = true ∧
    (lineCtl q l).fifo.findIdx? (due q) = some 0 ∧ (lineCtl q l).fifo[0]? = some r ∧ (lineCtl v l).fifo.findIdx? (due v) = none ∧ v.welt.waiting.findIdx? open_ = some 0 ∧ v.welt.waiting[0]? = some (m, 0, 0) ∧
    hallAt a (l * 64) = some (7, testHall) ∧ ms 16 + 0 ≤ a.now ∧ (lineCtl s l).active = none ∧ (s.home.trackers.get? (trkKey 6 1)).all (fun t => t.dropped.isNone) = true ∧ findSnoop s 6 3 = none ∧ (epInfo s 6).walking = false ∧
    ((k.home.trackers.get? (trkKey 6 1)).bind fun t => t.dropped) = some 0 ∧
    sec 1 + 0 ≤ k.now ∧ ((k.home.trackers.get? (trkKey 6 2)).bind fun t => t.dropped) = some 1 ∧ k.now < sec 1 + 1 := by decide

set_option maxRecDepth 8000 in
theorem wit_WeltMessages : let msg := fun (op : Nat) => ({ port := 0, bytes := msgOf 55 [(1, op), (2, 1), (3, 6), (2, 7), (2, 0), (1, if op = 0x13 then 1 else 0)] } : WltMsg); let m := msg 0x13
    let a : AclEntry := ⟨⟨true, true, true, true, true⟩, 1, 0, 1, 1, none⟩; let w : Welt := { st := .open_, owner := 6, hall := 7, used := true, tmo := 5 }
    let h : Hall := { testHall with cls := .persistent }
    let s : State := { pwr := { diesHeld := false }, halls := [(7, h)], acl := [(aclKey 7 6, a)], ten := { recs := [(1, { slot0 := { st := .active } })] }, welt := { slots := [(0, w)], age := 0, ageLimit := 1 }, ports := [(0, { st := .up })] }
    let full : State := { s with welt := { s.welt with ageLimit := 0 } }; let gone : State := { s with ten := {} }
    let u := fun (s : State) => ({ learn s 6 0 with home := { s.home with trackers := s.home.trackers.set (trkKey 6 1) { hall := 7, kind := 0, port := 0 } } } : State)
    (∀ op ∈ [0x10, 0x13, 0x14], (msg op).bad op = false ∧ (msg op).ep = 6 ∧ (msg op).tag = 1 ∧ (msg op).hall = 7 ∧ (msg op).handle = 0) ∧ m.persist = true ∧ (msg 0x14).persist = false ∧ m.bad 0x14 = true ∧ heard s 0 false = true ∧ heard s 1 false = false ∧ m.epoch = s.homeEpoch ∧ s.pair.role ≠ .standby ∧ s.pair.role ≠ .fenced ∧ s.pwr.diesHeld = false ∧ isDead s 6 = false ∧ s.pwr.quiesceSince = none ∧ s.home.trackers.get? (trkKey 6 1) = none ∧
    aclOf s 7 6 = some a ∧ charged s 7 6 < a.inForce ∧ (learn s 6 0).halls.get? 7 = some h ∧ hallTakes (u gone) 7 0 = false ∧ hallTakes (u s) 7 0 = true ∧ a.rights.welt = true ∧
    ownerFwd h = false ∧ ownerFwd { h with fwdForce := true } = true ∧ s.welt.age < s.welt.ageLimit ∧ full.welt.ageLimit ≤ full.welt.age ∧ full.welt.limitFailed = false ∧
    ({ full with welt := { full.welt with limitFailed := true } } : State).welt.limitFailed = true ∧ handleFits w 0 6 7 = true ∧ handleFits w 4096 6 7 = false ∧ w.st = .open_ ∧ s.now < w.openedAt + w.tmo ∧
    (∀ x ∈ [({ w with st := .free } : Welt), { w with st := .free, status := 3 }, { w with st := .committing }, { w with st := .aborting }, { w with st := .aborting, asked := true }], handleFits x 0 6 7 = true ∧ x.st ≠ .open_) ∧ h.cls = .persistent ∧ testHall.cls ≠ .persistent := by decide

set_option maxRecDepth 8000 in
theorem wit_WeltBounds : let w : Welt := { st := .open_, owner := 6, hall := 7, used := true, tmo := 5 }; let c : Welt := { w with st := .committing }; let d : Welt := { c with phase := .durable, persist := true, jissued := true, jwait := true, age := 3 }; let b0 : FlashJob := { id := 0, kind := .record 7 1, units := [], sub := 0, svc := 0, st := .running }
    let x : Snoop := { ep := 6, stag := 3, op := .i, line := 1, hall := 7, sentAt := 0 }
    let r : JRec := { jseq := 1, age := 3, issue := 0, pos := 2, blocks := 1, gen := 0, lines := [], slot := 2 }
    let s : State := { clk := { master := ms 12 }, pwr := { feltiOn := true }, welt := { slots := [(0, w), (1, c), (2, d)], ageLimit := 1 }, home := { snoops := [(x, .weltCommit 1)] }, jrn := [(7, { emptyJournal with recs := [r] })], flash := { jobs := [b0], drives := ((List.range 8).map fun p => (p, { st := .online })) } }
    let b : State := { s with clk := { master := 0 } }; let f : State := { s with welt := { s.welt with limitFailed := true } }
    let t := endJob s b0 true
    (weltAt s 0).st = .open_ ∧ (weltAt s 0).openedAt + (weltAt s 0).tmo ≤ s.now ∧ b.now < (weltAt b 0).openedAt + (weltAt b 0).tmo ∧ (weltAt s 1).st = .committing ∧ (weltAt s 1).phase = .collect ∧ ms 2 + (weltAt s 1).phaseAt ≤ s.now ∧
    b.now < ms 2 + (weltAt b 1).phaseAt ∧ (s.home.snoops.find? fun x => decide (x.2 = .weltCommit 1)) = some (x, .weltCommit 1) ∧ (weltAt s 2).phase = .durable ∧ (weltAt s 2).jwait = true ∧ ms 12 + (weltAt s 2).phaseAt ≤ s.now ∧
    ((s.jrn.get? 7).bind fun j => j.recs.find? fun r => !r.durable) = some r ∧ ((s.jrn.get? 8).bind fun j => j.recs.find? fun r => !r.durable) = none ∧ flashOff s = false ∧ (weltAt t 2).st = .committing ∧ (weltAt t 2).jwait = true ∧ (weltAt t 2).jissued = true ∧ (weltAt t 2).age = 3 ∧ (weltAt t 0).st ≠ .committing ∧
    Local s ∧ s.welt.limitFailed = false ∧ s.welt.ageLimit ≤ 2 ^ 32 + s.welt.age ∧ mirrorLive (commit { s with welt := { s.welt with ageLimit := 2 ^ 36 + s.welt.ageLimit, limitFailed := false } }).1 = false ∧
    f.welt.limitFailed = true ∧ f.welt.retryAt ≤ f.now ∧ f.now < ({ f with welt := { f.welt with retryAt := ms 13 } } : State).welt.retryAt ∧ 2 ^ 32 + (0 : Nat) < 2 ^ 36 ∧
    ({ s with store := { s.store with writable := false } } : State).store.writable = false := by decide

theorem wit_BusyWindow : let x : Win := { cls := .host, owner := 6, busy := true, mem := [(0x40, 7)] }
    let s : State := { win := [(0, { x with cls := .bmc }), (5, x)], ports := [(3, { st := .up })] }
    let w := msgOf 55 [(1, 0x56), (2, 5), (3, 6), (4, 0x7E), (1, 2)]; let r := msgOf 55 [(1, 0x57), (2, 5), (3, 6), (4, 0x7E), (2, 4)]
    s.win.get? 5 = some x ∧ x.busy = true ∧ mbxWin w = 5 ∧ subNat w 6 4 = 0x7E ∧ subNat w 10 1 = 2 ∧ mbxWriteBad w = false ∧ (∀ i, i < 2 → (0x40 ≤ 0x7E + i ∧ 0x7E + i < 0x80) ∨ (0x1000 ≤ 0x7E + i ∧ 0x7E + i < 0x41000)) ∧
    (∀ i, i < [(1 : Byte), 2].length → (0x40 ≤ 0x40FFE + i ∧ 0x40FFE + i < 0x80) ∨ (0x1000 ≤ 0x40FFE + i ∧ 0x40FFE + i < 0x41000)) ∧
    (s.win.get? 0).map (fun y => y.busy) = some true ∧ (pathPort s (.port 3)).any (fun p => !heard s p true) = false ∧ mbxReadBad r = false ∧ (pathEp s (.port 3) (mbxSrc r)).any (isDead s) = false ∧
    mbxWin r = 5 ∧ pathOk (learnPath s (.port 3) 6) (.port 3) 5 (mbxSrc r) = true := by decide

theorem wit_SeqClasses : (0 : Nat) < 4096 ∧ (4095 : Nat) < 4096 ∧ seqClass 0 511 false = .gap ∧ seqClass 0 512 false = .outside ∧ seqClass 0 3583 false = .outside ∧
    seqClass 0 3584 false = .duplicate ∧ seqClass 0 2048 true = .duplicate ∧ seqClass 4095 0 false = .gap := by decide

set_option maxRecDepth 8000 in
theorem wit_LineWrite : let h := testHall; let hs : Hall := { testHall with light := false }
    let s : State := { ten := { recs := [(1, { slot0 := { st := .active } })] }, dram := { chans := [(0, { st := .online })], mem := [(granKey 0 (2 ^ 30), { poison := true, written := true, tag := 1 })] } }
    let d : LineData := { data := 5, poison := 2 }
    locate s 7 h (0 / 64 * 64) = some (0, 2 ^ 30) ∧ locate s 7 hs (100 / 64 * 64) = some (0, 2 ^ 30 + 64) ∧ (2 ^ 30) % 64 = 0 ∧ chanOnline s 0 = true ∧ slotLoaded (curSlot s 7 h) = true ∧
    d.poison.getLsbD 1 = true ∧ d.poison.getLsbD 0 = false ∧ granMask (BitVec.allOnes 64) 3 = 0xFFFF ∧ granMask 1 0 ≠ 0 ∧ granMask 1 0 ≠ 0xFFFF ∧
    (∀ i, i < 4 → d.poison.getLsbD i = true ∨ granMask (BitVec.allOnes 64) i = 0xFFFF) ∧ h.poisoned = false ∧
    seenGran s h 0 0 (2 ^ 30) = { poison := true, written := true, tag := 1 } ∧ (deliver s 7 h (seenGran s h 0 0 (2 ^ 30))).1.2 = true ∧
    (∀ j, j < 8 → granKey 0 (2 ^ 30 + 128) ≠ granKey 0 (2 ^ 30 / 128 * 128 + 16 * j)) := by decide

theorem wit_FusesAndQueueHold : let s : State := { pending := [.testPortUse, .prechargeEnd] }
    ∃ t, step s = .next t ∧ t.pending = [.prechargeEnd] := by exact ⟨_, rfl, by decide⟩

theorem wit_DramTable : let s : State := { pending := [.prechargeEnd], dram := { mem := [(3, { written := true })] } }
    s.dram.mem.canon zeroGranule ∧ ∃ t, step s = .next t := by exact ⟨by decide, _, rfl⟩

theorem wit_PoolTime : let s : State := { clk := { master := 7 } }
    s.pending.head? ≠ some .prechargeEnd ∧ (∃ t, step s = .next t ∧ t.now = 8) ∧ (∃ t, exec .prechargeEnd s = .next t ∧ t.now = 0) := by
  exact ⟨by decide, ⟨_, rfl, by decide⟩, ⟨_, rfl, by decide⟩⟩

end Sys2Proof.Tests
end

section
/-! Pool time over every step (R22, R560): all rows but the power-up are steady without leave to set the count back. -/

namespace Sys2Proof.Proofs

open Sys2Proof.Machine Sys2Proof.Laws

variable {hv : Kept}

/-- Every command keeps what `Steady` says; the power-up does so only for a run that may set the count back. -/
theorem steady_exec (s : State) (h0 : Steady hv s) (i : Instr) (hc : i = .prechargeEnd → hv.cold = true) :
    ∀ t, exec i s = .next t → Steady hv t :=
  match i, hc with
  | .identityGet w, _ => steady_execIdentityGet w s h0
  | .attestGet w, _ => steady_execAttestGet w s h0
  | .trustSet w, _ => steady_execTrustSet w s h0
  | .bmcKeySet w, _ => steady_execBmcKeySet w s h0
  | .timeGet w, _ => steady_execTimeGet w s h0
  | .hallCreate w, _ => steady_execHallCreate w s h0
  | .hallDestroy w, _ => steady_execHallDestroy w s h0
  | .hallTrim w, _ => steady_execHallTrim w s h0
  | .hallQuery w, _ => steady_execHallQuery w s h0
  | .hallSet w, _ => steady_execHallSet w s h0
  | .hallAclSet w, _ => steady_execHallAclSet w s h0
  | .hallAclRemove w, _ => steady_execHallAclRemove w s h0
  | .hallAclQuery w, _ => steady_execHallAclQuery w s h0
  | .topoSet w, _ => steady_execTopoSet w s h0
  | .routeSet w, _ => steady_execRouteSet w s h0
  | .portQuery w, _ => steady_execPortQuery w s h0
  | .portSet w, _ => steady_execPortSet w s h0
  | .tenantCreate w, _ => steady_execTenantCreate w s h0
  | .tenantQuery w, _ => steady_execTenantQuery w s h0
  | .tenantKeyRotate w, _ => steady_execTenantKeyRotate w s h0
  | .tenantKeyLoad w, _ => steady_execTenantKeyLoad w s h0
  | .tenantKeyRetire w, _ => steady_execTenantKeyRetire w s h0
  | .tenantRemove w, _ => steady_execTenantRemove w s h0
  | .ctxCreate w, _ => steady_execCtxCreate w s h0
  | .ctxDestroy w, _ => steady_execCtxDestroy w s h0
  | .ctxQuery w, _ => steady_execCtxQuery w s h0
  | .ctxSet w, _ => steady_execCtxSet w s h0
  | .ctxBindHall w, _ => steady_execCtxBindHall w s h0
  | .ctxUnbindHall w, _ => steady_execCtxUnbindHall w s h0
  | .queueCreate w, _ => steady_execQueueCreate w s h0
  | .queueDestroy w, _ => steady_execQueueDestroy w s h0
  | .queueQuery w, _ => steady_execQueueQuery w s h0
  | .queueSet w, _ => steady_execQueueSet w s h0
  | .rxwinSet w, _ => steady_execRxwinSet w s h0
  | .lastLoad w, _ => steady_execLastLoad w s h0
  | .lastUnload w, _ => steady_execLastUnload w s h0
  | .lastStop w, _ => steady_execLastStop w s h0
  | .lastQuery w, _ => steady_execLastQuery w s h0
  | .flightLoad w, _ => steady_execFlightLoad w s h0
  | .flightCancel w, _ => steady_execFlightCancel w s h0
  | .flightQuery w, _ => steady_execFlightQuery w s h0
  | .flightRead w, _ => steady_execFlightRead w s h0
  | .shaperSet w, _ => steady_execShaperSet w s h0
  | .shaperQuery w, _ => steady_execShaperQuery w s h0
  | .tierHallQuery w, _ => steady_execTierHallQuery w s h0
  | .tierHallSet w, _ => steady_execTierHallSet w s h0
  | .tierHint w, _ => steady_execTierHint w s h0
  | .tierQuery w, _ => steady_execTierQuery w s h0
  | .tierDriveAdopt w, _ => steady_execTierDriveAdopt w s h0
  | .dramQuery w, _ => steady_execDramQuery w s h0
  | .dramSet w, _ => steady_execDramSet w s h0
  | .dramDiagWrite w, _ => steady_execDramDiagWrite w s h0
  | .dramDiagRead w, _ => steady_execDramDiagRead w s h0
  | .fenceQuery w, _ => steady_execFenceQuery w s h0
  | .fenceClear w, _ => steady_execFenceClear w s h0
  | .scanRun w r, _ => steady_execScanRun w r s h0
  | .recTriggerSet w, _ => steady_execRecTriggerSet w s h0
  | .recQuery w, _ => steady_execRecQuery w s h0
  | .recRead w bad, _ => steady_execRecRead w bad s h0
  | .dumpQuery w, _ => steady_execDumpQuery w s h0
  | .dumpRead w, _ => steady_execDumpRead w s h0
  | .dumpClear w, _ => steady_execDumpClear w s h0
  | .pairSet w, _ => steady_execPairSet w s h0
  | .pairQuery w, _ => steady_execPairQuery w s h0
  | .pairSwap w, _ => steady_execPairSwap w s h0
  | .leaseQuery w, _ => steady_execLeaseQuery w s h0
  | .peerSync w recs, _ => steady_execPeerSync w recs s h0
  | .fwQuery w, _ => steady_execFwQuery w s h0
  | .fwWrite w, _ => steady_execFwWrite w s h0
  | .fwActivate w, _ => steady_execFwActivate w s h0
  | .fwSvnCommit w, _ => steady_execFwSvnCommit w s h0
  | .storeQuery w, _ => steady_execStoreQuery w s h0
  | .storeBare w, _ => steady_execStoreBare w s h0
  | .resetCmd w, _ => steady_execResetCmd w s h0
  | .consoleUnlock w, _ => steady_execConsoleUnlock w s h0
  | .consoleUnlockExpiry, _ => steady_execConsoleUnlockExpiry s h0
  | .ringWrite w, _ => steady_execRingWrite w s h0
  | .ringTake w, _ => steady_execRingTake w s h0
  | .commandDispatch w, _ => steady_execCommandDispatch w s h0
  | .commandBoundExpiry w, _ => steady_execCommandBoundExpiry w s h0
  | .alertStatusClear w bits, _ => steady_execAlertStatusClear w bits s h0
  | .windowRegisterWrite w off v, _ => steady_execWindowRegisterWrite w off v s h0
  | .feltiTick, _ => steady_execFeltiTick s h0
  | .alertHoldoffExpiry w cls, _ => steady_execAlertHoldoffExpiry w cls s h0
  | .mbxOpen m, _ => steady_execMbxOpen m s h0
  | .mbxWrite path bytes, _ => steady_execMbxWrite path bytes s h0
  | .mbxRead path bytes, _ => steady_execMbxRead path bytes s h0
  | .mbxClose path bytes, _ => steady_execMbxClose path bytes s h0
  | .budgetAck m, _ => steady_execBudgetAck m s h0
  | .budgetDecreaseTimeout ep hall, _ => steady_execBudgetDecreaseTimeout ep hall s h0
  | .epState m, _ => steady_execEpState m s h0
  | .linkRekey m, _ => steady_execLinkRekey m s h0
  | .linkRekeyDue port, _ => steady_execLinkRekeyDue port s h0
  | .spdmFrag m, _ => steady_execSpdmFrag m s h0
  | .qdb m, _ => steady_execQdb m s h0
  | .getVersion conn, _ => steady_execGetVersion conn s h0
  | .getCapabilities conn, _ => steady_execGetCapabilities conn s h0
  | .negotiateAlgorithms conn supported, _ => steady_execNegotiateAlgorithms conn supported s h0
  | .getDigests conn, _ => steady_execGetDigests conn s h0
  | .getCertificate conn slot off len, _ => steady_execGetCertificate conn slot off len s h0
  | .challenge conn slot nonce, _ => steady_execChallenge conn slot nonce s h0
  | .getMeasurements conn index signed nonce, _ => steady_execGetMeasurements conn index signed nonce s h0
  | .keyExchange conn mutAuth, _ => steady_execKeyExchange conn mutAuth s h0
  | .finish conn chain sigOk, _ => steady_execFinish conn chain sigOk s h0
  | .keyUpdate sid, _ => steady_execKeyUpdate sid s h0
  | .heartbeat sid, _ => steady_execHeartbeat sid s h0
  | .endSession sid, _ => steady_execEndSession sid s h0
  | .chunkSend conn handle seq last data, _ => steady_execChunkSend conn handle seq last data s h0
  | .chunkGet conn handle seq, _ => steady_execChunkGet conn handle seq s h0
  | .spdmSessionExpiry sid, _ => steady_execSpdmSessionExpiry sid s h0
  | .linkKeyingResponse port k, _ => steady_execLinkKeyingResponse port k s h0
  | .keyingRetry port, _ => steady_execKeyingRetry port s h0
  | .smbusBlockWrite off data pecOk, _ => steady_execSmbusBlockWrite off data pecOk s h0
  | .smbusSetReadPointer ptr pecOk, _ => steady_execSmbusSetReadPointer ptr pecOk s h0
  | .smbusBlockRead len, _ => steady_execSmbusBlockRead len s h0
  | .smbusAlertResponse, _ => steady_execSmbusAlertResponse s h0
  | .smbusClockTimeout, _ => steady_execSmbusClockTimeout s h0
  | .smbalertStuckCheck lineLow, _ => steady_execSmbalertStuckCheck lineLow s h0
  | .phyTrainingDone port rate32 trained lanes highest, _ => steady_execPhyTrainingDone port rate32 trained lanes highest s h0
  | .negotiateResend port, _ => steady_execNegotiateResend port s h0
  | .negotiate port flit, _ => steady_execNegotiate port flit s h0
  | .seqFlitReceive port flit, _ => steady_execSeqFlitReceive port flit s h0
  | .idleFlitReceive port flit, _ => steady_execIdleFlitReceive port flit s h0
  | .nakReceive port flit, _ => steady_execNakReceive port flit s h0
  | .laneSwapReceive port flit, _ => steady_execLaneSwapReceive port flit s h0
  | .flitCrcError port, _ => steady_execFlitCrcError port s h0
  | .nakRepeat port space, _ => steady_execNakRepeat port space s h0
  | .replayTimeout port space, _ => steady_execReplayTimeout port space s h0
  | .phyRecoveryDone port, _ => steady_execPhyRecoveryDone port s h0
  | .keepAlive port, _ => steady_execKeepAlive port s h0
  | .downTimeout port, _ => steady_execDownTimeout port s h0
  | .failBackHoldExpiry port, _ => steady_execFailBackHoldExpiry port s h0
  | .laneErrorInterval port counts, _ => steady_execLaneErrorInterval port counts s h0
  | .laneSwapRequestTimeout port, _ => steady_execLaneSwapRequestTimeout port s h0
  | .laneSwapQuietStart port, _ => steady_execLaneSwapQuietStart port s h0
  | .laneSwapQuietEnd port, _ => steady_execLaneSwapQuietEnd port s h0
  | .rdS m, _ => steady_execRdS m s h0
  | .rdX m, _ => steady_execRdX m s h0
  | .rdNa m, _ => steady_execRdNa m s h0
  | .upg m, _ => steady_execUpg m s h0
  | .wrFull m, _ => steady_execWrFull m s h0
  | .wrPart m, _ => steady_execWrPart m s h0
  | .wbM m, _ => steady_execWbM m s h0
  | .amo m, _ => steady_execAmo m s h0
  | .wltRd m, _ => steady_execWltRd m s h0
  | .wltWr m, _ => steady_execWltWr m s h0
  | .wltOpen m, _ => steady_execWltOpen m s h0
  | .wltCommit m bad, _ => steady_execWltCommit m bad s h0
  | .wltAbort m, _ => steady_execWltAbort m s h0
  | .orderingPointReached line, _ => steady_execOrderingPointReached line s h0
  | .rspI m, _ => steady_execRspI m s h0
  | .rspS m, _ => steady_execRspS m s h0
  | .rspFwdS m, _ => steady_execRspFwdS m s h0
  | .rspFwdI m, _ => steady_execRspFwdI m s h0
  | .rspWbPend m, _ => steady_execRspWbPend m s h0
  | .dataWb m, _ => steady_execDataWb m s h0
  | .snoopTimeout ep stag, _ => steady_execSnoopTimeout ep stag s h0
  | .orphanWalk ep, _ => steady_execOrphanWalk ep s h0
  | .orderingBoundExpiry line ep tag, _ => steady_execOrderingBoundExpiry line ep tag s h0
  | .tierBoundExpiry line, _ => steady_execTierBoundExpiry line s h0
  | .trackerHoldExpiry ep tag, _ => steady_execTrackerHoldExpiry ep tag s h0
  | .weltTimeout slot, _ => steady_execWeltTimeout slot s h0
  | .commitCollectionTimeout slot, _ => steady_execCommitCollectionTimeout slot s h0
  | .journalRecordDurable hall, _ => steady_execJournalRecordDurable hall s h0
  | .journalDurableTimeout slot, _ => steady_execJournalDurableTimeout slot s h0
  | .ageLimitCommit ok, _ => steady_execAgeLimitCommit ok s h0
  | .ageLimitRetry ok, _ => steady_execAgeLimitRetry ok s h0
  | .landingReadDone hall block bad, _ => steady_execLandingReadDone hall block bad s h0
  | .writebackDone hall block, _ => steady_execWritebackDone hall block s h0
  | .superblockWriteDone hall, _ => steady_execSuperblockWriteDone hall s h0
  | .maxDirtyExpiry hall block, _ => steady_execMaxDirtyExpiry hall block s h0
  | .decayPeriodExpiry hall, _ => steady_execDecayPeriodExpiry hall s h0
  | .tierPolicyPass, _ => steady_execTierPolicyPass s h0
  | .decayAdaptPass, _ => steady_execDecayAdaptPass s h0
  | .keepExpiry hall block, _ => steady_execKeepExpiry hall block s h0
  | .hintTimeout w, _ => steady_execHintTimeout w s h0
  | .orderDeadlinePassed index, _ => steady_execOrderDeadlinePassed index s h0
  | .orderHoldExpiry hall block, _ => steady_execOrderHoldExpiry hall block s h0
  | .nvmeIoTimeout port cmd, _ => steady_execNvmeIoTimeout port cmd s h0
  | .nvmeAdminTimeout port, _ => steady_execNvmeAdminTimeout port s h0
  | .nvmeAdminComplete port, _ => steady_execNvmeAdminComplete port s h0
  | .nvmeWriteError port cmd, _ => steady_execNvmeWriteError port cmd s h0
  | .nvmeAsyncEvent port e, _ => steady_execNvmeAsyncEvent port e s h0
  | .nvmeLogPoll port e, _ => steady_execNvmeLogPoll port e s h0
  | .nvmeControllerFatal port, _ => steady_execNvmeControllerFatal port s h0
  | .nvmeReadyTimeout port, _ => steady_execNvmeReadyTimeout port s h0
  | .driveRemoved port, _ => steady_execDriveRemoved port s h0
  | .reservationConflict port, _ => steady_execReservationConflict port s h0
  | .intentBitClear region, _ => steady_execIntentBitClear region s h0
  | .intentResyncStep, _ => steady_execIntentResyncStep s h0
  | .rebuildRow, _ => steady_execRebuildRow s h0
  | .descriptorFetch qid, _ => steady_execDescriptorFetch qid s h0
  | .lastStart qid, _ => steady_execLastStart qid s h0
  | .map qid, _ => steady_execMap qid s h0
  | .unmap qid, _ => steady_execUnmap qid s h0
  | .sync qid, _ => steady_execSync qid s h0
  | .resume qid, _ => steady_execResume qid s h0
  | .epochDrainDone ctx, _ => steady_execEpochDrainDone ctx s h0
  | .epochDrainTimeout ctx, _ => steady_execEpochDrainTimeout ctx s h0
  | .ringAccessDone qid idx, _ => steady_execRingAccessDone qid idx s h0
  | .lastStartTimeReached lid, _ => steady_execLastStartTimeReached lid s h0
  | .translationWalkDone lid pos, _ => steady_execTranslationWalkDone lid pos s h0
  | .faultTmoExpiry qid fseq, _ => steady_execFaultTmoExpiry qid fseq s h0
  | .engineRequestComplete lid idx, _ => steady_execEngineRequestComplete lid idx s h0
  | .tileOverrun lid pos ns, _ => steady_execTileOverrun lid pos ns s h0
  | .positionEnd lid pos ue, _ => steady_execPositionEnd lid pos ue s h0
  | .thirdRunEnd lid pos stream, _ => steady_execThirdRunEnd lid pos stream s h0
  | .benchClearDone core, _ => steady_execBenchClearDone core s h0
  | .sentinelReplay core entry differs, _ => steady_execSentinelReplay core entry differs s h0
  | .infieldScan r hits, _ => steady_execInfieldScan r hits s h0
  | .thermalThreshold sensor temp, _ => steady_execThermalThreshold sensor temp s h0
  | .gateResume gallery, _ => steady_execGateResume gallery s h0
  | .tripCooldownRestart, _ => steady_execTripCooldownRestart s h0
  | .flightTakeover res, _ => steady_execFlightTakeover res s h0
  | .treadBoundary res, _ => steady_execTreadBoundary res s h0
  | .arbitrationGrant res, _ => steady_execArbitrationGrant res s h0
  | .refreshDue ch bank, _ => steady_execRefreshDue ch bank s h0
  | .retrainPause ch rank, _ => steady_execRetrainPause ch rank s h0
  | .retrainDeferExpiry ch rank, _ => steady_execRetrainDeferExpiry ch rank s h0
  | .scrubStep ch, _ => steady_execScrubStep ch s h0
  | .spprRepair ch rank bg bank row device, _ => steady_execSpprRepair ch rank bg bank row device s h0
  | .writtenClearDone hall, _ => steady_execWrittenClearDone hall s h0
  | .revocationDrainDone hall, _ => steady_execRevocationDrainDone hall s h0
  | .revocationDrainTimeout hall, _ => steady_execRevocationDrainTimeout hall s h0
  | .keyCopyAck slot, _ => steady_execKeyCopyAck slot s h0
  | .sweepStep tenant, _ => steady_execSweepStep tenant s h0
  | .sweepEnd tenant, _ => steady_execSweepEnd tenant s h0
  | .keyTrafficDrained tenant, _ => steady_execKeyTrafficDrained tenant s h0
  | .tenantDrainTimeout tenant, _ => steady_execTenantDrainTimeout tenant s h0
  | .pfailNAssert, _ => steady_execPfailNAssert s h0
  | .pfailNRelease, _ => steady_execPfailNRelease s h0
  | .inputUndervoltage dv, _ => steady_execInputUndervoltage dv s h0
  | .inputOvervoltage dv, _ => steady_execInputOvervoltage dv s h0
  | .bus12vFault, _ => steady_execBus12vFault s h0
  | .powerLossRailsDown, _ => steady_execPowerLossRailsDown s h0
  | .powerLossRestart, _ => steady_execPowerLossRestart s h0
  | .overvoltageRestart, _ => steady_execOvervoltageRestart s h0
  | .inputLow dv, _ => steady_execInputLow dv s h0
  | .prechargeEnd, hc => steady_execPrechargeEnd s h0 (hc rfl)
  | .railInRegulation step, _ => steady_execRailInRegulation step s h0
  | .railTimeout, _ => steady_execRailTimeout s h0
  | .railRetry, _ => steady_execRailRetry s h0
  | .resetNAssert, _ => steady_execResetNAssert s h0
  | .resetNRelease, _ => steady_execResetNRelease s h0
  | .prsntNChange asserted, _ => steady_execPrsntNChange asserted s h0
  | .resetDelayExpiry, _ => steady_execResetDelayExpiry s h0
  | .quiesceTimeout, _ => steady_execQuiesceTimeout s h0
  | .readyReached, _ => steady_execReadyReached s h0
  | .startBoundFail, _ => steady_execStartBoundFail s h0
  | .poolTimeCheck, _ => steady_execPoolTimeCheck s h0
  | .rootPllUnlock, _ => steady_execRootPllUnlock s h0
  | .renewTimer, _ => steady_execRenewTimer s h0
  | .renew m, _ => steady_execRenew m s h0
  | .ack m, _ => steady_execAck m s h0
  | .release m, _ => steady_execRelease m s h0
  | .timeSyncTimer, _ => steady_execTimeSyncTimer s h0
  | .timeReq m, _ => steady_execTimeReq m s h0
  | .timeRsp m, _ => steady_execTimeRsp m s h0
  | .offsetSlewTick, _ => steady_execOffsetSlewTick s h0
  | .alignedLossTimeout, _ => steady_execAlignedLossTimeout s h0
  | .wireFrame bits, _ => steady_execWireFrame bits s h0
  | .wireIdleTimeout, _ => steady_execWireIdleTimeout s h0
  | .wireChatter, _ => steady_execWireChatter s h0
  | .wireChatterClear, _ => steady_execWireChatterClear s h0
  | .leaseActiveExpiry, _ => steady_execLeaseActiveExpiry s h0
  | .leaseStandbyExpiry answers, _ => steady_execLeaseStandbyExpiry answers s h0
  | .preemptDeadline, _ => steady_execPreemptDeadline s h0
  | .selfResumeCheck holders, _ => steady_execSelfResumeCheck holders s h0
  | .mirrorAck mseq, _ => steady_execMirrorAck mseq s h0
  | .mirrorAckTimeout, _ => steady_execMirrorAckTimeout s h0
  | .resyncStart, _ => steady_execResyncStart s h0
  | .resyncStep, _ => steady_execResyncStep s h0
  | .recoveryWindowEnd, _ => steady_execRecoveryWindowEnd s h0
  | .poisonedHallClearStep hall, _ => steady_execPoisonedHallClearStep hall s h0
  | .swapAtReached, _ => steady_execSwapAtReached s h0
  | .fatalFault arr src addr, _ => steady_execFatalFault arr src addr s h0
  | .fatalReset, _ => steady_execFatalReset s h0
  | .runClose event source hall, _ => steady_execRunClose event source hall s h0
  | .segmentCopy, _ => steady_execSegmentCopy s h0
  | .managementCoresStop, _ => steady_execManagementCoresStop s h0
  | .railOutOfRegulation step, _ => steady_execRailOutOfRegulation step s h0
  | .testPortUse, _ => steady_execTestPortUse s h0
  | .nvmeControllerReady port, _ => steady_execNvmeControllerReady port s h0
  | .nvmeIoComplete port cmd, _ => steady_execNvmeIoComplete port cmd s h0
  | .partnerReadyReport ready feature storeMax, _ => steady_execPartnerReadyReport ready feature storeMax s h0
  | .roleDecisionTimeout, _ => steady_execRoleDecisionTimeout s h0
  | .smbalertHoldoffExpiry, _ => steady_execSmbalertHoldoffExpiry s h0

/-- What a run of `s` keeps when it begins now; `cold` says whether it may be a power-up, `tidy` whether the DRAM's table is canonical. -/
def keptOf (s : State) (cold tidy : Bool) : Kept where
  queue := s.pending
  gradeD1 := s.hw.gradeD1
  lifecycle := s.hw.lifecycle
  fuses := s.hw.fuses
  minSvn := s.hw.fusedMinSvn
  now := s.now
  cold := cold
  tidy := tidy

theorem steady_keptOf {s : State} {cold tidy : Bool} (h : tidy = true → s.dram.mem.canon zeroGranule) : Steady (keptOf s cold tidy) s where
  queue := rfl
  gradeD1 := rfl
  lifecycle := rfl
  fuses := rfl
  minSvn := Nat.le_refl _
  canon := h
  now := .inr (Nat.le_refl _)

theorem now_le_of_steady {s t : State} {tidy : Bool} (h : Steady (keptOf s false tidy) t) : s.now ≤ t.now :=
  h.now.resolve_left Bool.false_ne_true

/-- No command but the power-up sets the count back (R22). -/
theorem now_le_exec {i : Instr} {s t : State} (hi : i ≠ .prechargeEnd) (ht : exec i s = .next t) : s.now ≤ t.now :=
  now_le_of_steady (steady_exec s (steady_keptOf (tidy := false) nofun) i (fun e => absurd e hi) t ht)

/-- A tick advances the count or, while it is held, leaves it (R22, R560). -/
theorem now_le_tick (s : State) : s.now ≤ (tick s).now := by
  unfold tick
  split
  · exact Nat.le_refl _
  · exact Nat.le_succ _

/-- Enabling the main rails leaves every clock alone (R527). -/
@[simp] theorem tryEnable_clk (s : State) : (tryEnable s).clk = s.clk := by
  unfold tryEnable
  dsimp only
  split <;> rfl

theorem now_le_step {s t : State} (hp : s.pending.head? ≠ some .prechargeEnd) (ht : step s = .next t) : s.now ≤ t.now := by
  unfold step at ht
  split at ht
  next => injection ht with ht; subst ht; exact now_le_tick s
  next c rest hq =>
    have hc : c ≠ .prechargeEnd := fun e => hp (by rw [hq, e]; rfl)
    exact now_le_exec (s := { s with pending := rest }) hc ht

/-- The power-up changes nothing in a powered part, and otherwise begins the count at zero (R22). -/
theorem prechargeEnd_now {s t : State} (ht : exec .prechargeEnd s = .next t) :
    (t = s ∧ s.pwr.precharged = true) ∨ t.now = 0 := by
  change execPrechargeEnd s = _ at ht
  unfold execPrechargeEnd at ht
  injection ht with ht
  split at ht
  next hon => exact .inl ⟨ht.symm, hon.1⟩
  next =>
    subst ht
    exact .inr (congrArg Clock.master (tryEnable_clk _))

/-- Settles O60: the count is part of what every command but the power-up keeps steady. -/
theorem poolTimeNeverStepsBack : Obligations.PoolTimeNeverStepsBack :=
  ⟨fun _ _ => now_le_step, fun _ _ => prechargeEnd_now⟩

end Sys2Proof.Proofs
end

section
/-! What the lease and time rows share: taking a message on a peer port (R115, R561). -/

namespace Sys2Proof.Proofs

open Sys2Proof.Machine Sys2Proof.Laws

theorem hbtTake_good {s : State} {m : MgtMsg} {op : Nat} (k : State → State) (hp : 8 ≤ m.port) (hh : heard s m.port false = true)
    (hb : hbtBad m.bytes op = false) : hbtTake s m op k = k s := by
  unfold hbtTake
  rw [if_neg (by simp [hh, hp]), hb, if_neg Bool.false_ne_true]

theorem hbtTake_bad {s : State} {m : MgtMsg} {op : Nat} (k : State → State) (hp : 8 ≤ m.port) (hh : heard s m.port false = true)
    (hb : hbtBad m.bytes op = true) : hbtTake s m op k = countBad s m.port := by
  unfold hbtTake
  rw [if_neg (by simp [hh, hp]), if_pos hb]

end Sys2Proof.Proofs
end

section
/-! The lease (O40): renewals, acknowledgements, releases and the lease's bounds, one lemma per case of each row's definition (R28, R257,
R558, R559, R565 to R568, R572). -/

namespace Sys2Proof.Proofs

open Sys2Proof.Machine Sys2Proof.Laws

/-! ### Renewals (R28, R558) -/

theorem renewTimer_eq {s : State} (hr : s.pair.role = .active) (he : s.pair.cfg.enable = true) (hf : s.pwr.feltiOn = true) :
    exec .renewTimer s = .next (if s.now < ms 10 + s.pair.lastRenew then s
      else leaseBoth { s with pair := { s.pair with
        lc := (s.pair.lc + 1) % 65536, lcExpiry := ms 50 + s.now, lcAcked := false, lastRenew := s.now, renews := satAdd 32 s.pair.renews 1 } }
        0 ((s.pair.lc + 1) % 65536) (ms 50 + s.now) 0) :=
  congrArg Host.Outcome.next (ite_congr (by simp [hr, he, hf]) (fun _ => rfl) (fun _ => rfl))

section Standby

variable {s : State} (hr : s.pair.role = .standby) (he : s.pair.cfg.enable = true)

include hr he

/-- A standby that is not aligned only notes that it heard its partner (R560). -/
theorem renewIn_unaligned (path : LeasePath) (lc expiry : Nat) (ha : s.pair.aligned = false) :
    renewIn s path lc expiry = { s with pair := { s.pair with lastHeard := s.now } } := by
  unfold renewIn
  rw [if_neg (by simp [hr, he])]
  exact if_pos ha

/-- An aligned one takes the expiry and acknowledges on the same path (R558). -/
theorem renewIn_aligned (path : LeasePath) (lc expiry : Nat) (ha : s.pair.aligned = true) :
    renewIn s path lc expiry = leaseSay { s with pair := { s.pair with
      lastHeard := s.now, eS := max s.pair.eS expiry, lc := lc, renews := satAdd 32 s.pair.renews 1
      expired := s.pair.expired && decide (expiry ≤ s.pair.eS), abandoned := s.pair.abandoned && decide (expiry ≤ s.pair.eS) } }
      path 1 lc expiry 0 := by
  unfold renewIn
  rw [if_neg (by simp [hr, he])]
  exact if_neg (by simp [ha])

/-- RELEASE on a peer path outside a planned swap: the lease has expired, and the standby may take over (R566). -/
theorem releaseIn_peer (p mseq : Nat) (hx : s.pair.expired = false) (hw : s.pair.whole = false) :
    releaseIn s (.peer p) mseq = tryTakeover { s with pair := { s.pair with
      expired := true, expiries := satAdd 32 s.pair.expiries 1, toldFinal := s.pair.toldFinal } } [] := by
  unfold releaseIn
  rw [if_neg (by simp [hr, he])]
  simp only [hx, Bool.false_eq_true, if_false, leaseGone, modPair, hw]

end Standby

section Active

variable {s : State} (hr : s.pair.role = .active) (he : s.pair.cfg.enable = true)

include hr he

/-- The first acknowledgement of the latest LC sets E_a, a later one leaves it (R558). -/
theorem ackIn_latest (hn : s.pair.renews ≠ 0) {lc : Nat} (hl : lc = s.pair.lc) :
    ackIn s lc = { s with pair := { s.pair with
      lastHeard := s.now, eA := if s.pair.lcAcked = true then s.pair.eA else s.pair.lcExpiry, lcAcked := true } } := by
  unfold ackIn
  rw [if_neg (by simp [hr, he, hn, hl])]
  rfl

theorem leaseActiveExpiry_eq (ha : s.pair.eA ≠ 0) :
    exec .leaseActiveExpiry s = .next (if s.pair.eA ≤ s.now then selfFence s 1 true else s) :=
  congrArg Host.Outcome.next (ite_congr (by simp [hr, he, ha]) (fun _ => rfl) (fun _ => rfl))

end Active

theorem ackIn_other {s : State} {lc : Nat} (hl : lc ≠ s.pair.lc) : ackIn s lc = s := if_pos (.inr (.inr (.inl hl)))

/-! ### The standby's bounds (R257, R559, R568, R572) -/

/-- May a standby whose granted lease has expired take over? -/
theorem mayTakeOver_iff {s : State} (hr : s.pair.role = .standby) (he : s.pair.cfg.enable = true) (hx : s.pair.expired = true)
    (h0 : s.pair.eS ≠ 0) : mayTakeOver s = true ↔ s.pwr.ready = true ∧ s.pair.aligned = true ∧ s.now < ms 100 + s.pair.eS ∧
      (s.pair.toldFinal.all (fun m => decide (m ≤ s.pair.applied)) = true ∨ s.pair.whole = false ∨ s.pair.sync ≠ .synced) := by
  simp only [mayTakeOver, hr, he, hx, h0, decide_true, decide_false, Bool.true_and, Bool.and_true, Bool.false_or, Bool.and_eq_true,
    Bool.or_eq_true, Bool.not_eq_true', decide_eq_true_eq, and_assoc, or_assoc]

theorem leaseStandbyExpiry_eq {s : State} (answers : List Bool) (hr : s.pair.role = .standby) (he : s.pair.cfg.enable = true)
    (h0 : s.pair.eS ≠ 0) (hx : s.pair.expired = false) : exec (.leaseStandbyExpiry answers) s =
      .next (if s.now < ms 10 + s.pair.eS then s else tryTakeover (leaseGone s) answers) :=
  congrArg Host.Outcome.next (ite_congr (by simp [hr, he, h0]) (fun _ => rfl) (fun _ => by rw [if_neg (by simp [hx])]))

theorem preemptDeadline_eq {s : State} (hr : s.pair.role = .standby) (hx : s.pair.expired = true) (ha : s.pair.abandoned = false)
    (h0 : s.pair.eS ≠ 0) : exec .preemptDeadline s =
      .next (if ms 100 + s.pair.eS ≤ s.now then registerAll { s with pair := { s.pair with abandoned := true } } else s) :=
  congrArg Host.Outcome.next (ite_congr (by simp [hr, hx, ha, h0]) (fun _ => rfl) (fun _ => rfl))

/-! ### Self-resume (R567) -/

/-- At E_a + 200 ms every drive is asked for its reservation, and the unit resumes unless fewer than five answer or one names another
key. -/
theorem selfResume_eq {s : State} (holders : List (Option Nat)) (hr : s.pair.role = .fenced) (hx : s.pair.atExpiry = true)
    (hd : ms 200 + s.pair.eA ≤ s.now) : exec (.selfResumeCheck holders) s =
      let t : State := { s with out := s.out ++ (List.range 8).map fun p => .nvmeResv p 0x0E 0 0 }
      .next (if (holders.filterMap id).length < 5 ∨ (holders.filterMap id).any (fun k => decide (k ≠ resvKey s)) = true then t
        else dispatchAll (settleTier (raiseEpoch (becomeActive (loseSync (endOldEpoch { t with flash := { t.flash with stopped := false } })))))) := by
  change Host.Outcome.next (selfResume s holders) = _
  unfold selfResume
  rw [if_neg (by simp [hr, hx, hd])]
  rfl

/-! ### The rows together -/

/-- Settles O40, row by row. -/
theorem leaseRowsComplete : Obligations.LeaseRowsComplete := by
  refine ⟨?timer, ?renew, ?ack, ?reserved, ?release, fun _ => leaseActiveExpiry_eq, ?standby, fun _ => preemptDeadline_eq, ?resume⟩
  case timer =>
    intro s hr he hf
    rw [renewTimer_eq hr he hf]
    exact ⟨fun h => congrArg _ (if_pos h), fun h => congrArg _ (if_neg (Nat.not_lt.2 h))⟩
  case renew =>
    intro s m hp hh hb hr he
    have htake : exec (.renew m) s = .next (renewIn s (.peer m.port) (hbtLc m.bytes) (hbtExpiry m.bytes)) :=
      congrArg _ (hbtTake_good _ hp hh hb)
    rw [htake]
    exact ⟨fun ha => congrArg _ (renewIn_unaligned hr he _ _ _ ha), fun ha => congrArg _ (renewIn_aligned hr he _ _ _ ha)⟩
  case ack =>
    intro s m hp hh hb hr he hn
    have htake : exec (.ack m) s = .next (ackIn s (hbtLc m.bytes)) := congrArg _ (hbtTake_good _ hp hh hb)
    rw [htake]
    exact ⟨fun hl => congrArg _ (ackIn_latest hr he hn hl), fun hl => congrArg _ (ackIn_other hl)⟩
  case reserved =>
    intro s m hp hh
    exact ⟨fun hb => congrArg _ (hbtTake_bad _ hp hh hb), fun hb => congrArg _ (hbtTake_bad _ hp hh hb),
      fun hb => congrArg _ (hbtTake_bad _ hp hh hb)⟩
  case release =>
    intro s m hp hh hb hr he hx hw
    exact congrArg _ ((hbtTake_good _ hp hh hb).trans (releaseIn_peer hr he _ _ hx hw))
  case standby =>
    intro s l hr he h0 hx
    rw [leaseStandbyExpiry_eq l hr he h0 hx]
    refine ⟨fun h => congrArg _ (if_pos h), fun h => ?_⟩
    intro t
    rw [if_neg (Nat.not_lt.2 h)]
    exact congrArg _ (ite_congr (propext (mayTakeOver_iff (s := t) hr he rfl h0)) (fun _ => rfl) (fun _ => rfl))
  case resume =>
    intro s l hr hx hd t
    rw [selfResume_eq l hr hx hd]
    refine ⟨fun h5 hk => congrArg _ (if_neg ?_), fun h5 => congrArg _ (if_pos (.inl h5))⟩
    rintro (h | h)
    · omega
    · obtain ⟨k, hmem, hne⟩ := List.any_eq_true.1 h
      exact of_decide_eq_true hne (hk k hmem)

end Sys2Proof.Proofs
end

section
/-! FATAL faults and the guard die's own watch (O34): what each row does, one lemma per case of its definition (R23 to R27, R445,
R584 to R589). -/

namespace Sys2Proof.Proofs

open Sys2Proof.Machine Sys2Proof.Laws

/-! ### FATAL faults (R584 to R586, R589) -/

/-- A FATAL fault: once `fatalGuard` has fenced the module, the dies are held, or a further fault starts the recovery, or the
first one takes the dump. -/
theorem fatalFault_eq {s : State} (arr : FatalArray) (src addr : Nat) (hd : s.pwr.diesHeld = false) : fatalFault s arr src addr =
    let u := logFault (event s .metadataUe src none none addr [(0, 1, arrayCode arr)]) .metadataUe src
    let v := if arr = .sramControl ∧ src / 1024 = 0x06 ∧ src % 1024 < 68 then commitSelf (fenceSlice u (src % 1024) 1 3) else u
    let g := fatalGuard v
    if g.2 = true then g.1
    else if s.pwr.fatalAt.isSome = true then recoveryStart (cutDump g.1)
    else
      let d := writeDump g.1 false g.1.pwr.feltiOn (evCode .metadataUe) src s.evr.next
      { d with pwr := { d.pwr with fatalAt := some d.now, fatalDumpDone := d.pwr.feltiOn } } := by
  unfold fatalFault
  rw [if_neg (by simp [hd])]

/-! ### The reset that follows, and the root PLL (R24, R584, R585) -/

theorem fatalReset_eq {s : State} {t : Nat} (ht : s.pwr.fatalAt = some t) (hd : s.pwr.diesHeld = false) :
    exec .fatalReset s = .next (if s.pwr.fatalDumpDone = true ∨ ms 200 + t ≤ s.now then recoveryStart s else s) := by
  change execFatalReset s = _
  unfold execFatalReset
  simp only [ht, hd, true_and]

theorem rootPllUnlock_eq {s : State} (hd : s.pwr.diesHeld = false) : rootPllUnlock s =
    let g := fatalGuard (logFault (event s .rootPllLoss srcGuard none none 0 []) .rootPllLoss srcGuard)
    if g.2 = true then g.1
    else recoveryStart (if g.1.pwr.fatalAt.isSome = true then cutDump g.1
      else writeDump g.1 false false (evCode .rootPllLoss) srcGuard s.evr.next) := by
  unfold rootPllUnlock
  rw [if_neg (by simp [hd])]

/-! ### Rails out of regulation (R529, R530) -/

theorem railOutOfRegulation_drops {s : State} {n : Nat} (hr : s.pwr.rails = 10) (h1 : 1 ≤ n) (h10 : n ≤ 10) (h3 : n ≠ 3)
    (hin : s.pwr.railsOut.contains n = false) : exec (.railOutOfRegulation n) s =
      .next (setPwrok { s with pwr := { s.pwr with railsOut := s.pwr.railsOut ++ [n] } } false) :=
  congrArg Host.Outcome.next (if_pos ⟨hr, h1, h10, h3, hin⟩)

/-- The 12 V bus is no such rail: losing it is a power loss (R530). -/
theorem railOutOfRegulation_bus (s : State) : exec (.railOutOfRegulation 3) s = .next s :=
  congrArg Host.Outcome.next (if_neg fun ⟨_, _, _, h, _⟩ => h rfl)

/-! ### The copies of the pool time (R23) -/

/-- Every copy of a clock takes the master's count. -/
def copiesSet (c : Clock) : Clock := { c with core := c.master, fab0 := c.master, fab1 := c.master }

theorem copiesSet_same {c : Clock} (hc : c.core = c.master) (h0 : c.fab0 = c.master) (h1 : c.fab1 = c.master) : copiesSet c = c := by
  cases c
  simp_all [copiesSet]

theorem copiesSet_core {c : Clock} (h0 : c.fab0 = c.master) (h1 : c.fab1 = c.master) : copiesSet c = { c with core := c.master } := by
  cases c
  simp_all [copiesSet]

theorem fixCopy_same {s : State} {which copy : Nat} (h : copy = s.clk.master) : fixCopy s which copy = s := if_pos h

theorem fixCopy_differs {s : State} {which copy : Nat} (h : copy ≠ s.clk.master) : fixCopy s which copy =
    event s .poolTimeFix srcGuard none none 0 [(0, 1, which), (8, 8, (2 ^ 64 + copy - s.clk.master) % 2 ^ 64)] := if_neg h

@[simp] theorem event_clk (s : State) (e : Ev) (src : Nat) (tenant hall : Option Nat) (addr : Nat) (detail : List (Nat × Nat × Nat)) :
    (event s e src tenant hall addr detail).clk = s.clk := by
  simpa [Safety.quiet] using congrArg State.clk (event_quiet s e src tenant hall addr detail)

@[simp] theorem fixCopy_clk (s : State) (which copy : Nat) : (fixCopy s which copy).clk = s.clk := by
  unfold fixCopy
  split
  · rfl
  · exact event_clk ..

theorem poolTimeCheck_eq {s : State} (hd : s.pwr.diesHeld = false) (h0 : s.clk.fab0 = s.clk.master) (h1 : s.clk.fab1 = s.clk.master) :
    exec .poolTimeCheck s = .next { fixCopy s 0 s.clk.core with clk := copiesSet s.clk } := by
  refine congrArg Host.Outcome.next ((if_neg (by simp [hd])).trans ?_)
  have hf0 : fixCopy (fixCopy s 0 s.clk.core) 1 s.clk.fab0 = fixCopy s 0 s.clk.core := fixCopy_same (by simpa using h0)
  have hf1 : fixCopy (fixCopy s 0 s.clk.core) 2 s.clk.fab1 = fixCopy s 0 s.clk.core := fixCopy_same (by simpa using h1)
  dsimp only
  rw [fixCopy_clk, hf0, hf1]
  simp only [fixCopy_clk, copiesSet]

/-- Copies that agree with the master are left as they are. -/
theorem poolTimeCheck_agree {s : State} (hd : s.pwr.diesHeld = false) (hc : s.clk.core = s.clk.master)
    (h0 : s.clk.fab0 = s.clk.master) (h1 : s.clk.fab1 = s.clk.master) : exec .poolTimeCheck s = .next s := by
  rw [poolTimeCheck_eq hd h0 h1, fixCopy_same hc, copiesSet_same hc h0 h1]

/-- A core copy that differs is rewritten, with its event. -/
theorem poolTimeCheck_core {s : State} (hd : s.pwr.diesHeld = false) (hc : s.clk.core ≠ s.clk.master)
    (h0 : s.clk.fab0 = s.clk.master) (h1 : s.clk.fab1 = s.clk.master) : ∃ t, exec .poolTimeCheck s = .next t ∧
      t.clk = { s.clk with core := s.clk.master } ∧ t.evr = (event s .poolTimeFix srcGuard none none 0
        [(0, 1, 0), (8, 8, (2 ^ 64 + s.clk.core - s.clk.master) % 2 ^ 64)]).evr :=
  ⟨_, poolTimeCheck_eq hd h0 h1, copiesSet_core h0 h1, by rw [← fixCopy_differs hc]⟩

/-! ### The rows together -/

/-- Settles O34, row by row. -/
theorem fatalRowsComplete : Obligations.FatalRowsComplete := by
  refine ⟨?fault, ?reset, ?pll, fun _ => rfl, ?rail, fun _ => rfl, ?copies⟩
  case fault =>
    intro s arr src addr hd
    have h : exec (.fatalFault arr src addr) s = _ := congrArg Host.Outcome.next (fatalFault_eq arr src addr hd)
    rw [h]
    dsimp only
    generalize fatalGuard _ = g
    exact ⟨fun hg => by rw [if_pos hg], fun hg ha => by rw [hg, if_neg Bool.false_ne_true, if_pos ha],
      fun hg ha => by rw [hg, ha, if_neg Bool.false_ne_true]; rfl⟩
  case reset =>
    intro s t ht hd
    rw [fatalReset_eq ht hd]
    exact ⟨fun h => congrArg _ (if_pos h), fun hf hn => congrArg _ (if_neg (by simp [hf, hn]))⟩
  case pll =>
    intro s hd
    exact congrArg Host.Outcome.next (rootPllUnlock_eq hd)
  case rail =>
    intro s n hr h1 h10 hin
    refine ⟨fun h3 => railOutOfRegulation_drops hr h1 h10 h3 hin, ?_⟩
    rintro rfl
    exact railOutOfRegulation_bus s
  case copies =>
    intro s hd
    exact ⟨poolTimeCheck_agree hd, poolTimeCheck_core hd⟩

end Sys2Proof.Proofs
end

section
/-! The precharge, the rails, RESET_N and PRSNT_N (O37): what each row does, one lemma per case of its definition (R22, R527, R529,
R533, R586, R601, R602). -/

namespace Sys2Proof.Proofs

open Sys2Proof.Machine Sys2Proof.Laws

/-! ### Rails (R527, R529) -/

/-- While the rails come up, the rail being enabled is the next one; in regulation it enables its successor, and the tenth releases the
dies (R527, R529). -/
theorem railInRegulation_next {s : State} (hat : s.pwr.railAt.isNone = false) (hr : s.pwr.rails < 10) :
    railInRegulation s (s.pwr.rails + 1) =
      if s.pwr.rails + 1 < 10 then
        railOn (let u := modPwr s fun p => { p with rails := s.pwr.rails + 1 }
          if s.pwr.rails + 1 = 3 then say u [.pin 2 true] else u) (s.pwr.rails + 1 + 1)
      else releaseDies (modPwr s fun p => { p with rails := 10, railAt := none, railTries := 0 }) := by
  unfold railInRegulation
  rw [if_neg (by omega), if_neg (by simp [hat])]

/-- The 12 V bus, step 3, starts the drives' clocks too (R619). -/
theorem railInRegulation_enables {s : State} {n t : Nat} (hat : s.pwr.railAt = some t) (hn : n = s.pwr.rails + 1) (h10 : n < 10) :
    exec (.railInRegulation n) s = .next { s with
      pwr := { s.pwr with rails := n, railAt := some s.now }
      out := (s.out ++ if n = 3 then [.pin 2 true] else []) ++ [.rail (n + 1) true] } := by
  subst hn
  refine congrArg Host.Outcome.next ((railInRegulation_next (by rw [hat]; rfl) (by omega)).trans ((if_pos h10).trans ?_))
  by_cases h3 : s.pwr.rails + 1 = 3
  · simp only [h3, if_true]; rfl
  · simp only [h3, if_false, List.append_nil]; rfl

theorem railInRegulation_releases {s : State} {n t : Nat} (hat : s.pwr.railAt = some t) (hn : n = s.pwr.rails + 1) (h10 : n = 10) :
    exec (.railInRegulation n) s = .next (releaseDies { s with pwr := { s.pwr with rails := 10, railAt := none, railTries := 0 } }) := by
  subst hn
  exact congrArg Host.Outcome.next ((railInRegulation_next (by rw [hat]; rfl) (by omega)).trans (if_neg (by omega)))

theorem railTimeout_due {s : State} {t : Nat} (hat : s.pwr.railAt = some t) (hdue : ms 10 + t ≤ s.now) :
    exec .railTimeout s = .next (modPwr (railsOff s) fun p => { p with
      railTries := p.railTries + 1
      railRetryAt := if p.railTries = 0 then some (sec 1 + s.now) else none
      powerLog := if p.railTries = 0 then p.powerLog else p.powerLog ++ [(s.pwr.rails + 1, p.railTries + 1)] }) := by
  change execRailTimeout s = _
  unfold execRailTimeout
  rw [hat]
  exact congrArg _ (if_neg (Nat.not_lt.2 hdue))

theorem railsOff_pwr (s : State) : (railsOff s).pwr = { s.pwr with rails := 2, railAt := none, railsOut := [] } := rfl

/-- A first failure leaves a second attempt, 1 s later (R527). -/
theorem railTimeout_first {s : State} {t : Nat} (hat : s.pwr.railAt = some t) (hdue : ms 10 + t ≤ s.now) (h0 : s.pwr.railTries = 0) :
    exec .railTimeout s = .next { railsOff s with pwr := { (railsOff s).pwr with
      railTries := 1, railRetryAt := some (sec 1 + s.now) } } := by
  rw [railTimeout_due hat hdue]
  simp only [modPwr, railsOff_pwr, h0, if_true]

/-- A second one is final, and noted (R527). -/
theorem railTimeout_second {s : State} {t : Nat} (hat : s.pwr.railAt = some t) (hdue : ms 10 + t ≤ s.now) (h1 : s.pwr.railTries = 1) :
    exec .railTimeout s = .next { railsOff s with pwr := { (railsOff s).pwr with
      railTries := 2, railRetryAt := none, powerLog := s.pwr.powerLog ++ [(s.pwr.rails + 1, 2)] } } := by
  rw [railTimeout_due hat hdue]
  simp only [modPwr, railsOff_pwr, h1, Nat.one_ne_zero, if_false]

theorem railInRegulation_lastBack {s : State} {n : Nat} (hr : s.pwr.rails = 10) (ho : s.pwr.railsOut = [n]) (hl : s.pwr.loss = none)
    (hd : s.pwr.diesHeld = false) :
    exec (.railInRegulation n) s = .next (setPwrok { s with pwr := { s.pwr with railsOut := [] } } true) := by
  change Host.Outcome.next (railInRegulation s n) = _
  unfold railInRegulation
  rw [if_pos hr, if_pos (by simp [ho])]
  simp only [modPwr, ho, hl, hd, List.filter_cons, List.filter_nil, ne_eq, not_true_eq_false, decide_false, Bool.false_eq_true, if_false,
    Option.isNone_none, and_self, if_true]

theorem railRetry_due {s : State} {t : Nat} (hat : s.pwr.railRetryAt = some t) (hdue : t ≤ s.now) :
    exec .railRetry s = .next (tryEnable { s with pwr := { s.pwr with railRetryAt := none } }) := by
  change execRailRetry s = _
  unfold execRailRetry
  rw [hat]
  exact congrArg _ (if_neg (Nat.not_lt.2 hdue))

/-! ### RESET_N (R533, R586, R601) -/

theorem resetHeeded_up {s : State} (hr : s.pwr.rails = 10) (hl : s.pwr.loss = none) : resetHeeded s = true := by
  simp [resetHeeded, hr, hl]

theorem resetNAssert_holds {s : State} (hn : s.pwr.resetN = true) (hc : s.pwr.resetChatter = false) (hr : s.pwr.rails = 10)
    (hl : s.pwr.loss = none) :
    let old := s.pwr.resetAsserts.filter fun t => decide (s.now < sec 10 + t)
    let u : State := { s with pwr := { s.pwr with resetN := false, resetSince := s.now, resetAsserts := old ++ [s.now], resetChatter := false } }
    let during := s.pwr.starting && !s.pwr.diesHeld
    let v := holdDies u (during && decide (s.pwr.startKind = .warm))
    old.length < 4 → exec .resetNAssert s = .next { v with pwr := { v.pwr with resetHits := v.pwr.resetHits || during } } := by
  intro old u during v hlen
  have hfew : decide (4 < (s.pwr.resetAsserts.filter fun t => decide (s.now < sec 10 + t)).length + 1) = false :=
    decide_eq_false (Nat.not_lt.2 hlen)
  refine congrArg Host.Outcome.next ?_
  unfold resetNAssert
  rw [if_neg (by simp [hn])]
  simp only [hc, hfew, Bool.false_and, Bool.false_eq_true, if_false, Bool.false_or]
  exact if_neg (by simp [resetHeeded, hr, hl])

/-- RESET_N released, its level not chattering and heeded: the state before the start that follows. -/
theorem resetNRelease_eq {s : State} (hn : s.pwr.resetN = false) (hr : s.pwr.rails = 10) (hl : s.pwr.loss = none)
    (hs : s.pwr.resetStuck = false) (hc : s.pwr.resetChatter = false) :
    exec .resetNRelease s = .next (
      let u : State := { s with pwr := { s.pwr with resetN := true, resetSince := s.now } }
      if s.pwr.resetHits = true then restartStart u
      else if sec 1 ≤ s.now - s.pwr.resetSince then coldStart u .cold false
      else if s.pwr.fatalHold = true then u
      else recoveryStart u) := by
  refine congrArg Host.Outcome.next ?_
  unfold resetNRelease
  rw [if_neg (by simp [hn])]
  dsimp only
  rw [if_neg (by simp [resetHeeded, hr, hl]), modPwr_pwr, if_neg (by simp [hs]), if_neg (by simp [hc])]
  rfl

/-! ### PRSNT_N (R601, R602) -/

/-- PRSNT_N changes its level, with too few changes before it to be chatter. -/
theorem prsntNChange_eq {s : State} (b : Bool) (hc : s.pwr.prsntChatter = false) (hb : b ≠ s.pwr.prsnt)
    (hlen : (s.pwr.prsntChanges.filter fun t => decide (s.now < sec 10 + t)).length < 8) :
    exec (.prsntNChange b) s = .next (
      let u : State := { s with pwr := { s.pwr with
        prsnt := b, prsntChanges := (s.pwr.prsntChanges.filter fun t => decide (s.now < sec 10 + t)) ++ [s.now], prsntChatter := false } }
      if b = true then tryEnable u
      else if s.pwr.rails = 10 then event u .prsntReleased (srcInput 2) none none 0 []
      else u) := by
  have hfew : decide (8 < (s.pwr.prsntChanges.filter fun t => decide (s.now < sec 10 + t)).length + 1) = false :=
    decide_eq_false (Nat.not_lt.2 hlen)
  refine congrArg Host.Outcome.next ?_
  unfold prsntNChange
  rw [if_neg hb]
  simp only [hc, hfew, Bool.false_and, Bool.false_eq_true, if_false, Bool.false_or, modPwr, and_true]

/-! ### The rows together -/

/-- Settles O37, row by row. -/
theorem railAndPinRowsComplete : Obligations.RailAndPinRowsComplete := by
  refine ⟨?precharge, ?rails, ?back, fun _ _ => railRetry_due, fun _ => resetNAssert_holds, ?release, ?prsnt⟩
  case precharge =>
    intro s h
    exact congrArg Host.Outcome.next (if_neg fun ⟨hp, hl⟩ => by simp [hp, hl] at h)
  case rails =>
    intro s n t hat _ hn
    refine ⟨railInRegulation_enables hat hn, railInRegulation_releases hat hn, railTimeout_first hat, ?_, railsOff_pwr s⟩
    subst hn
    exact railTimeout_second hat
  case back =>
    intro s n hr ho hl hd
    exact railInRegulation_lastBack hr ho hl hd
  case release =>
    intro s hn hr hl hs hc
    rw [resetNRelease_eq hn hr hl hs hc]
    dsimp only
    refine ⟨fun hh => by rw [if_pos hh], fun hh ht => ?_, fun hh ht hf => ?_, fun hh ht hf => ?_⟩
    · rw [hh, if_neg Bool.false_ne_true, if_pos ht]
    · rw [hh, if_neg Bool.false_ne_true, if_neg (Nat.not_le.2 ht), hf, if_neg Bool.false_ne_true]
    · rw [hh, if_neg Bool.false_ne_true, if_neg (Nat.not_le.2 ht), if_pos hf]
  case prsnt =>
    intro s hc old u hlen
    refine ⟨fun hp hr => ?_, fun hp => ?_⟩
    · rw [prsntNChange_eq false hc (by simp [hp]) hlen]
      exact congrArg _ (if_pos hr)
    · rw [prsntNChange_eq true hc (by simp [hp]) hlen]
      rfl

end Sys2Proof.Proofs
end

section
/-! Pool time over the pair and the heartbeat wire (O41): one lemma per case of each row's definition (R22, R560, R562, R563). -/

namespace Sys2Proof.Proofs

open Sys2Proof.Machine Sys2Proof.Laws

/-! ### Time messages (R22, R560) -/

theorem timeSyncTimer_eq {s : State} (he : s.pair.cfg.enable = true) (hr : s.pair.role ≠ .active) (hu : s.pair.peerPath = true) :
    exec .timeSyncTimer s = .next (if s.now < ms 10 + s.pair.timeReqAt then s
      else hbtSay { s with pair := { s.pair with timeReqAt := s.now } } 8 3 0 0 0 0) :=
  congrArg Host.Outcome.next (ite_congr (by simp [he, hr, hu]) (fun _ => rfl) (fun _ => rfl))

theorem timeReq_answered {s : State} {m : MgtMsg} (hp : 8 ≤ m.port) (hh : heard s m.port false = true)
    (hb : hbtBad m.bytes 0x73 = false) (he : s.pair.cfg.enable = true) :
    exec (.timeReq m) s = .next (hbtSay s m.port 4 0 0 (hbtSend m.bytes) 0) := by
  change execTimeReq m s = _
  unfold execTimeReq
  rw [hbtTake_good _ hp hh hb, he, if_neg (by decide)]

/-- Offset of the active's time plus half the round trip (R560). -/
def timeOffset (s : State) (sent echo : Nat) : Int := (sent + (s.now - echo) / 2 : Nat) - (s.now : Nat)

section TimeRsp

variable {s : State} {sent echo : Nat} (hr : s.pair.role ≠ .active) (he : s.pair.cfg.enable = true) (ht : echo ≤ s.now)

include hr he ht

/-- Before READY the count jumps forward to the active's (R22). -/
theorem timeRsp_jumps (hd : s.pwr.ready = false) (ho : 0 < timeOffset s sent echo) : timeRsp s sent echo =
    addTicks { s with pair := { s.pair with offset := timeOffset s sent echo, toRemove := 0, aligned := true } }
      (timeOffset s sent echo).toNat := by
  unfold timeOffset at *
  unfold timeRsp
  rw [if_neg (by simp [hr, he, ht])]
  simp only [hd, ho, Bool.not_false, decide_true, Bool.and_self, if_true]
  rfl

/-- Otherwise the offset is to be removed (R560). -/
theorem timeRsp_slews (h : s.pwr.ready = true ∨ timeOffset s sent echo ≤ 0) : timeRsp s sent echo =
    { s with pair := { s.pair with
      offset := timeOffset s sent echo, toRemove := timeOffset s sent echo, aligned := within (timeOffset s sent echo) } } := by
  unfold timeOffset at *
  have hj : (!s.pwr.ready && decide (0 < ((sent + (s.now - echo) / 2 : Nat) - (s.now : Nat) : Int))) = false := by
    rcases h with h | h
    · rw [h]; rfl
    · rw [decide_eq_false (Int.not_lt.2 h), Bool.and_false]
  unfold timeRsp
  rw [if_neg (by simp [hr, he, ht])]
  simp only [hj, Bool.false_eq_true, if_false]
  rfl

end TimeRsp

/-! ### Slewing (R560) -/

section Slew

variable {s : State} (hr : s.pair.role ≠ .active) (hd : us 100 + s.pair.slewAt ≤ s.now)

include hr hd

theorem offsetSlewTick_adds (h : 0 < s.pair.toRemove) : exec .offsetSlewTick s = .next (addTicks { s with pair := { s.pair with
    slewAt := s.now, toRemove := s.pair.toRemove - 1, aligned := s.pair.aligned || within (s.pair.toRemove - 1) } } 1) := by
  change execOffsetSlewTick s = _
  unfold execOffsetSlewTick
  rw [if_neg (by simp [hr, hd, Int.ne_of_gt h])]
  simp only [h, decide_true, if_true]
  rfl

theorem offsetSlewTick_holds (h : s.pair.toRemove < 0) : exec .offsetSlewTick s = .next { s with
    clk := { s.clk with hold := s.clk.hold + 1 }
    pair := { s.pair with
      slewAt := s.now, toRemove := s.pair.toRemove + 1, aligned := s.pair.aligned || within (s.pair.toRemove + 1) } } := by
  have hn : ¬0 < s.pair.toRemove := Int.not_lt.2 (Int.le_of_lt h)
  change execOffsetSlewTick s = _
  unfold execOffsetSlewTick
  rw [if_neg (by simp [hr, hd, Int.ne_of_lt h])]
  simp only [hn, decide_false, Bool.false_eq_true, if_false]
  rfl

end Slew

theorem alignedLossTimeout_eq {s : State} (hu : s.pair.peerPath = false) (hr : s.pair.role ≠ .active) : exec .alignedLossTimeout s =
    .next (if sec 10 + s.pair.peerSince ≤ s.now then { s with pair := { s.pair with aligned := false } } else s) :=
  congrArg Host.Outcome.next (ite_congr (by simp [hu, hr]) (fun _ => rfl) (fun _ => rfl))

/-! ### The heartbeat wire (R562, R563) -/

/-- The wire path takes another state, with its event. -/
theorem setWire_changes {s : State} {st : WireSt} (h : s.pair.wire ≠ st) : setWire s st =
    event { s with pair := { s.pair with wire := st } } .pathState srcWire none none 0 [(0, 1, 0), (1, 1, wireCode st)] := if_neg h

theorem wireFrame_bad {s : State} {f : BitVec 72} (h : frameOk f = false) :
    wireFrame s f = { s with pair := { s.pair with wireErr := satAdd 32 s.pair.wireErr 1 } } := if_pos h

section GoodFrame

variable {s : State} {f : BitVec 72} (h : frameOk f = true)

include h

/-- A frame in CHATTER is dropped. -/
theorem wireFrame_chatter (hw : s.pair.wire = .chatter) :
    wireFrame s f = { s with pair := { s.pair with wireFrameAt := s.now } } := by
  unfold wireFrame
  rw [if_neg (by simp [h]), hw]
  rfl

/-- A frame on a path that is DOWN brings it up. -/
theorem wireFrame_down (hw : s.pair.wire = .down) :
    wireFrame s f = setWire { s with pair := { s.pair with wireFrameAt := s.now } } .up := by
  unfold wireFrame
  rw [if_neg (by simp [h]), hw]
  rfl

/-- A frame on a path that is UP is taken by its kind. -/
theorem wireFrame_up (hw : s.pair.wire = .up) : wireFrame s f =
    let t : State := { s with pair := { s.pair with wireFrameAt := s.now } }
    let lc := (f.extractLsb' 16 16).toNat
    if (f.extractLsb' 8 4).toNat = 0 then renewIn t .wire lc (nearestTime t.now (f.extractLsb' 32 32).toNat)
    else if (f.extractLsb' 8 4).toNat = 1 then ackIn t lc
    else releaseIn t .wire 0 := by
  unfold wireFrame
  rw [if_neg (by simp [h]), hw]
  dsimp only
  split
  next hk => rw [hk]; rfl
  next hk => rw [hk]; rfl
  next h0 h1 => rw [if_neg h0, if_neg h1]; rfl

end GoodFrame

theorem wireChatterClear_eq {s : State} (hw : s.pair.wire = .chatter) : exec .wireChatterClear s =
    .next (if ms 100 + s.pair.chatterAt ≤ s.now then setWire s (if s.now < ms 30 + s.pair.wireFrameAt then .up else .down) else s) :=
  congrArg Host.Outcome.next (ite_congr (by simp [hw]) (fun _ => rfl) (fun _ => rfl))

/-! ### The rows together -/

/-- Settles O41, row by row. -/
theorem timeAndWireRowsComplete : Obligations.TimeAndWireRowsComplete := by
  refine ⟨?timer, ?messages, ?rsp, fun _ hr hd => ⟨offsetSlewTick_adds hr hd, offsetSlewTick_holds hr hd⟩, fun _ => alignedLossTimeout_eq,
    ?frame, ?idle, ?chatter, fun _ => wireChatterClear_eq⟩
  case timer =>
    intro s he hr hu
    rw [timeSyncTimer_eq he hr hu]
    exact ⟨fun h => congrArg _ (if_pos h), fun h => congrArg _ (if_neg (Nat.not_lt.2 h))⟩
  case messages =>
    intro s m hp hh
    exact ⟨fun hb he => timeReq_answered hp hh hb he,
      fun hb => congrArg _ (hbtTake_bad _ hp hh hb), fun hb => congrArg _ (hbtTake_bad _ hp hh hb)⟩
  case rsp =>
    intro s m hp hh hb he a e hr ht off
    have htake : exec (.timeRsp m) s = .next (timeRsp s a e) := congrArg _ (hbtTake_good _ hp hh hb)
    rw [htake]
    exact ⟨fun hd ho => congrArg _ (timeRsp_jumps hr he ht hd ho), fun h => congrArg _ (timeRsp_slews hr he ht h)⟩
  case frame =>
    intro s f t lc
    refine ⟨fun h => congrArg _ (wireFrame_bad h), fun h hw => congrArg _ (wireFrame_chatter h hw), fun h hw => ?_, fun h hw hk => ?_,
      fun h hw hk => ?_, fun h hw hk => ?_⟩
    · exact congrArg _ ((wireFrame_down h hw).trans (setWire_changes (s := t) (by simp [t, hw])))
    all_goals refine congrArg Host.Outcome.next ((wireFrame_up h hw).trans ?_); rw [hk]; rfl
  case idle =>
    intro s hw
    exact congrArg Host.Outcome.next ((if_pos hw).trans (setWire_changes (by rw [hw]; nofun)))
  case chatter =>
    intro s hw
    exact congrArg Host.Outcome.next (setWire_changes (s := { s with pair := { s.pair with chatterAt := s.now } }) hw)

end Sys2Proof.Proofs
end

section
/-! The state after reset (O57): its tables are tabulated or empty, so a read of one gives the tabulated value or nothing. -/

namespace Sys2Proof.Proofs

open Sys2Proof.Machine Sys2Proof.Laws

/-- A read of a tabulated table. -/
theorem get?_tabulate {α : Type} (l : List Nat) (f : Nat → α) (k : Nat) :
    NMap.get? (l.map fun c => (c, f c)) k = if k ∈ l then some (f k) else none := by
  induction l with
  | nil => simp
  | cons c l ih =>
    by_cases hc : c = k
    · subst hc; simp [NMap.get?]
    · simp [NMap.get?, hc, Ne.symm hc, ih]

/-- The window that R482 describes: a BMC window that nobody has used. -/
theorem reset_win_get? (n : Nat) : State.reset.win.get? n = if n < 2 then some { cls := .bmc } else none := by
  match n with
  | 0 => rfl
  | 1 => rfl
  | n + 2 =>
    rw [if_neg (by omega)]
    simp [State.reset, NMap.get?]

theorem reset_flt_get? (r : Nat) :
    State.reset.flt.get? r = if r ∈ resourceCodes then some { active := bareFlight } else none :=
  get?_tabulate resourceCodes _ r

theorem reset_ports_get? (p : Nat) : State.reset.ports.get? p = if p < 10 then some {} else none :=
  (get?_tabulate (List.range 10) (fun _ => ({} : Port)) p).trans (by simp only [List.mem_range])

/-- Every resource runs the bare flight (R389). -/
theorem reset_seqr {r : Nat} {q : Seqr} (h : State.reset.flt.get? r = some q) : q = { active := bareFlight } := by
  rw [reset_flt_get?] at h
  split at h
  · exact (Option.some.inj h).symm
  · cases h

/-- Windows 0 and 1 stand at reset, and no other. -/
theorem reset_win {n : Nat} {x : Win} (h : State.reset.win.get? n = some x) : n < 2 ∧ x = { cls := .bmc } := by
  rw [reset_win_get?] at h
  split at h
  next hn => exact ⟨hn, (Option.some.inj h).symm⟩
  next => cases h

theorem distOf_reset (a b : Nat) : distOf State.reset a b = 15 := by
  unfold distOf
  exact ite_self (c := a = 0x3FF ∨ b = 0x3FF) 15

/-- Settles O57, table by table. -/
theorem resetState : Obligations.ResetState := by
  refine ⟨rfl, rfl, rfl, ?windows, rfl, rfl, rfl, rfl, rfl, rfl, rfl, ?flights, ?resources, rfl, fun _ => rfl, distOf_reset,
    fun _ => rfl, ?ports, reset_memory_wf.1⟩
  case windows =>
    intro n x h
    obtain ⟨hn, rfl⟩ := reset_win h
    exact ⟨hn, rfl, rfl, rfl, rfl, rfl, rfl, rfl, rfl, rfl, rfl, rfl⟩
  case flights =>
    intro r q h
    obtain rfl := reset_seqr h
    exact ⟨rfl, rfl, rfl⟩
  case resources =>
    intro r hr
    rw [reset_flt_get?, if_pos hr]
    rfl
  case ports =>
    intro p hp
    exact ⟨{}, by rw [reset_ports_get?, if_pos hp], rfl, rfl, rfl, rfl, rfl, rfl, rfl⟩

end Sys2Proof.Proofs
end

section
/-! What the rows of arriving flits share: the checks of a control flit, one lemma per outcome (R71, R79, R84, R87, R476). -/

namespace Sys2Proof.Proofs

open Sys2Proof.Machine Sys2Proof.Laws

theorem alive_of_get? {s : State} {p : Nat} {q : Port} (hq : s.ports.get? p = some q) : alive s p = linkAlive q := by
  unfold alive
  rw [hq]
  rfl

/-- A SEQ or NEGOTIATE flit has come: its time is noted (R87). -/
def flitHeard (s : State) (p : Nat) : State := modPort s p fun q => { q with lastValid := s.now }

/-- A control flit has come: its time and its CCTR are noted (R87, R476, R477). -/
def controlHeard (s : State) (p : Nat) (f : List Byte) : State :=
  modPort s p fun q => switchRx { q with
    lastValid := s.now
    key := { q.key with cctrRx := if q.key.keyed then some (flitCctr f) else none } }

/-- A reserved encoding in a control flit: in its link header or in a slot header (R68, R71). -/
def controlReserved (f : List Byte) : Bool := hdrBad f || !((fourSlots (flitSlots f)).all fun a => zeros a 0 1)

section ControlFlit

variable {s : State} {p typ : Nat} {q : Port} {f : List Byte} (k : State → State)

theorem controlFlit_noPort (hq : s.ports.get? p = none) : controlFlit s p typ f k = s := by
  unfold controlFlit
  rw [hq]

/-- Without a link, or of another row's type. -/
theorem controlFlit_passed (hq : s.ports.get? p = some q) (h : linkAlive q = false ∨ (flitType f ≠ typ ∧ flitType f ≤ 4)) :
    controlFlit s p typ f k = s := by
  unfold controlFlit
  rw [hq]
  exact if_pos h

variable (hq : s.ports.get? p = some q) (hl : linkAlive q = true) (ht : flitType f = typ ∨ 4 < flitType f)

include hq hl ht

/-- The checks in their order, on a flit for this row. -/
theorem controlFlit_checked : controlFlit s p typ f k =
    if controlOk q f = false then integrityFail s p
    else if controlReserved f = true then linkDown (controlHeard s p f) p 3
    else if alive (takeAcks (controlHeard s p f) p f) p then k (takeAcks (controlHeard s p f) p f)
    else takeAcks (controlHeard s p f) p f := by
  unfold controlFlit
  rw [hq]
  exact if_neg (by simp only [hl, Bool.true_eq_false, false_or]; omega)

theorem controlFlit_integrity (hi : controlOk q f = false) : controlFlit s p typ f k = integrityFail s p :=
  (controlFlit_checked k hq hl ht).trans (if_pos hi)

theorem controlFlit_reserved (hi : controlOk q f = true) (hb : controlReserved f = true) :
    controlFlit s p typ f k = linkDown (controlHeard s p f) p 3 := by
  rw [controlFlit_checked k hq hl ht, if_neg (by simp [hi]), if_pos hb]

/-- Its acknowledgements took the link down. -/
theorem controlFlit_lost (hi : controlOk q f = true) (hb : controlReserved f = false)
    (ha : alive (takeAcks (controlHeard s p f) p f) p = false) :
    controlFlit s p typ f k = takeAcks (controlHeard s p f) p f := by
  rw [controlFlit_checked k hq hl ht, if_neg (by simp [hi]), if_neg (by simp [hb]), if_neg (by simp [ha])]

theorem controlFlit_taken (hi : controlOk q f = true) (hb : controlReserved f = false) {r : Port}
    (hr : (takeAcks (controlHeard s p f) p f).ports.get? p = some r) (ha : linkAlive r = true) :
    controlFlit s p typ f k = k (takeAcks (controlHeard s p f) p f) := by
  rw [controlFlit_checked k hq hl ht, if_neg (by simp [hi]), if_neg (by simp [hb]), if_pos (by rw [alive_of_get? hr, ha])]

end ControlFlit

end Sys2Proof.Proofs
end

section
/-! Arriving SEQ, IDLE and NAK flits and the link's timers (O45): one lemma per case of each row's definition (R77 to R87, R93, R103). -/

namespace Sys2Proof.Proofs

open Sys2Proof.Machine Sys2Proof.Laws

/-! ### SEQ flits (R77 to R79, R84, R103) -/

/-- What a SEQ flit of a class of R77 does on a port in this state. -/
def seqEffect (s : State) (p : Nat) (q : Port) (priv : Bool) : SeqClass → State
  | .accept =>
    sendIdle { s with ports := s.ports.set p (switchRx (setSpace q priv
      { portSpace q priv with next := (portSpace q priv).next + 1, gapAt := none })) } p
  | .gap => if (portSpace q priv).gapAt.isSome then s else sendNak s p priv
  | .duplicate => s
  | .outside => linkDown s p 2

/-- The first flit past a gap draws a NAK (R78). -/
theorem seqEffect_firstGap {s : State} {p : Nat} {q : Port} {priv : Bool} (h : (portSpace q priv).gapAt = none) :
    seqEffect s p q priv .gap = sendNak s p priv := if_neg (by simp [h])

section SeqAccept

variable {s : State} {p : Nat} {q : Port} {f : List Byte} {mgtOnly : Bool} (hq : s.ports.get? p = some q)

include hq

/-- In KEYING a flit with other than MGT messages is discarded. -/
theorem seqAccept_keying (hk : q.st = .keying) (hm : mgtOnly = false) : seqAccept s p f mgtOnly = s := by
  unfold seqAccept
  rw [hq]
  exact if_pos ⟨hk, hm⟩

theorem seqAccept_eq (h : q.st ≠ .keying ∨ mgtOnly = true) : seqAccept s p f mgtOnly =
    seqEffect s p q (flitSpace f = 1) (seqClass ((portSpace q (flitSpace f = 1)).next % 4096) (flitSeq f) (flitSpace f = 1)) := by
  have hn : ¬(q.st = .keying ∧ mgtOnly = false) := fun ⟨hk, hm⟩ => h.elim (· hk) (by simp [hm])
  unfold seqAccept
  rw [hq]
  refine (if_neg hn).trans ?_
  dsimp only
  split
  next hc => rw [hc]; rfl
  next hc => rw [hc]; rfl
  next hc => rw [hc]; rfl
  next hc => rw [hc]; rfl

end SeqAccept

section SeqFlit

variable {s : State} {p : Nat} {q : Port} {f : List Byte}

theorem seqFlit_noPort (hq : s.ports.get? p = none) : seqFlit s p f = s := by
  unfold seqFlit
  rw [hq]

variable (hq : s.ports.get? p = some q)

include hq

theorem seqFlit_passed (h : linkAlive q = false ∨ inRange (flitType f) 1 4 = true) : seqFlit s p f = s := by
  unfold seqFlit
  rw [hq]
  exact if_pos h

variable (hl : linkAlive q = true) (ht : inRange (flitType f) 1 4 = false)

include hl ht

theorem seqFlit_integrity (hb : openSeq q f = none) : seqFlit s p f = integrityFail s p := by
  unfold seqFlit
  rw [hq]
  refine (if_neg (by simp [hl, ht])).trans ?_
  rw [hb]

variable {b : List Byte} (hb : openSeq q f = some b)

include hb

/-- Past the integrity check. -/
theorem seqFlit_heard : seqFlit s p f =
    if (hdrBad f || slotsBad (fourSlots b)) = true then linkDown (flitHeard s p) p 3
    else if slotsWrong p (flitSpace f) (fourSlots b) = true then linkDown (flitHeard s p) p 2
    else if alive (takeAcks (flitHeard s p) p f) p then
      seqAccept (takeAcks (flitHeard s p) p f) p f (onlyMgt (flitSpace f) (fourSlots b))
    else takeAcks (flitHeard s p) p f := by
  unfold seqFlit
  rw [hq]
  refine (if_neg (by simp [hl, ht])).trans ?_
  rw [hb]
  rfl

theorem seqFlit_reserved (hr : (hdrBad f || slotsBad (fourSlots b)) = true) : seqFlit s p f = linkDown (flitHeard s p) p 3 :=
  (seqFlit_heard hq hl ht hb).trans (if_pos hr)

variable (hr : (hdrBad f || slotsBad (fourSlots b)) = false)

include hr

theorem seqFlit_wrongSlots (hw : slotsWrong p (flitSpace f) (fourSlots b) = true) : seqFlit s p f = linkDown (flitHeard s p) p 2 := by
  rw [seqFlit_heard hq hl ht hb, if_neg (by simp [hr]), if_pos hw]

variable (hw : slotsWrong p (flitSpace f) (fourSlots b) = false)

include hw

/-- Its acknowledgements took the link down. -/
theorem seqFlit_lost (ha : alive (takeAcks (flitHeard s p) p f) p = false) : seqFlit s p f = takeAcks (flitHeard s p) p f := by
  rw [seqFlit_heard hq hl ht hb, if_neg (by simp [hr]), if_neg (by simp [hw]), if_neg (by simp [ha])]

theorem seqFlit_taken {r : Port} (hp : (takeAcks (flitHeard s p) p f).ports.get? p = some r) (ha : linkAlive r = true) :
    seqFlit s p f = seqAccept (takeAcks (flitHeard s p) p f) p f (onlyMgt (flitSpace f) (fourSlots b)) := by
  rw [seqFlit_heard hq hl ht hb, if_neg (by simp [hr]), if_neg (by simp [hw]), if_pos (by rw [alive_of_get? hp, ha])]

end SeqFlit

/-- Without keys a flit with KEYED set fails (log 93). -/
theorem openSeq_unkeyed {q : Port} {f : List Byte} (h : q.key.keyed = false) :
    openSeq q f = if flitKeyed f = true then none else some (flitSlots f) := by
  unfold openSeq
  rw [if_neg (by simp [h])]

/-- With keys one with KEYED clear fails (R475, R477). -/
theorem openSeq_keyed_clear {q : Port} {f : List Byte} (h : q.key.keyed = true) (hf : flitKeyed f = false) : openSeq q f = none := by
  unfold openSeq
  rw [if_pos h]
  exact if_neg (by simp [hf])

/-! ### IDLE and NAK flits (R79, R80) -/

/-- How far behind the last flit sent the number of a NAK lies (R80). -/
def nakBehind (x : Space) (f : List Byte) : Nat := (x.txNext + 4095 - flitSeq f) % 4096

/-- The flit that a NAK asks for (R80, R81). -/
def nakAsked (x : Space) (f : List Byte) : Nat := x.txNext - 1 - nakBehind x f

section Nak

variable {s : State} {p : Nat} {q : Port} {f : List Byte} (hq : s.ports.get? p = some q)

include hq

theorem nakTake_unsent (h : 2048 ≤ nakBehind (portSpace q (flitSpace f = 1)) f ∨
    (portSpace q (flitSpace f = 1)).txNext ≤ nakBehind (portSpace q (flitSpace f = 1)) f) : nakTake f p s = linkDown s p 2 := by
  unfold nakTake
  rw [hq]
  exact if_neg (by unfold nakBehind at h; omega)

variable (hw : nakBehind (portSpace q (flitSpace f = 1)) f < 2048)
  (hs : nakBehind (portSpace q (flitSpace f = 1)) f < (portSpace q (flitSpace f = 1)).txNext)

include hw hs

theorem nakTake_sent : nakTake f p s =
    if ((portSpace q (flitSpace f = 1)).unack.any fun g => g.seq = nakAsked (portSpace q (flitSpace f = 1)) f) = true then
      replayFrom s p (flitSpace f = 1) (nakAsked (portSpace q (flitSpace f = 1)) f) true
    else s := by
  unfold nakTake
  rw [hq]
  exact if_pos ⟨hw, hs⟩

theorem nakTake_resends (hu : ((portSpace q (flitSpace f = 1)).unack.any fun g => g.seq = nakAsked (portSpace q (flitSpace f = 1)) f) = true) :
    nakTake f p s = replayFrom s p (flitSpace f = 1) (nakAsked (portSpace q (flitSpace f = 1)) f) true :=
  (nakTake_sent hq hw hs).trans (if_pos hu)

theorem nakTake_freed (hu : ((portSpace q (flitSpace f = 1)).unack.any fun g => g.seq = nakAsked (portSpace q (flitSpace f = 1)) f) = false) :
    nakTake f p s = s := by
  rw [nakTake_sent hq hw hs, if_neg (by simp only [hu, Bool.false_eq_true, not_false_iff])]

end Nak

/-! ### NAK and replay timers (R78, R82) -/

section Timers

variable {s : State} {p sp : Nat} {q : Port}

theorem nakRepeat_noGap (hq : s.ports.get? p = some q) (hx : (portSpace q (sp = 1)).gapAt = none) : exec (.nakRepeat p sp) s = .next s := by
  change execNakRepeat p sp s = _
  simp only [execNakRepeat, hq, hx]

theorem nakRepeat_gap (hq : s.ports.get? p = some q) {t : Nat} (hx : (portSpace q (sp = 1)).gapAt = some t) : exec (.nakRepeat p sp) s =
    .next (if t + 10 * q.cfg.replayTmo ≤ s.now ∧ linkSends q = true then sendNak s p (sp = 1) else s) := by
  change execNakRepeat p sp s = _
  simp only [execNakRepeat, hq, hx]

theorem replayTimeout_noneSent (hq : s.ports.get? p = some q) (hx : (portSpace q (sp = 1)).unack = []) :
    exec (.replayTimeout p sp) s = .next s := by
  change execReplayTimeout p sp s = _
  simp only [execReplayTimeout, hq, hx]

theorem replayTimeout_sent (hq : s.ports.get? p = some q) {f : Flit} {l : List Flit} (hx : (portSpace q (sp = 1)).unack = f :: l) :
    exec (.replayTimeout p sp) s = .next (if (portSpace q (sp = 1)).progressAt + 10 * q.cfg.replayTmo ≤ s.now ∧ (q.st = .keying ∨ q.st = .up)
      then replayFrom s p (sp = 1) f.seq true else s) := by
  change execReplayTimeout p sp s = _
  simp only [execReplayTimeout, hq, hx]

/-! ### Silence, loss and recovery (R83, R86, R87) -/

theorem keepAlive_eq (hq : s.ports.get? p = some q) :
    exec (.keepAlive p) s = .next (if linkSends q = true ∧ us 1 + q.lastSent ≤ s.now then sendIdle s p else s) := by
  change execKeepAlive p s = _
  simp only [execKeepAlive, hq]

/-- No valid flit for DOWN_TMO. -/
theorem downTimeout_silent (hq : s.ports.get? p = some q) (hn : q.recoverySince = none) : exec (.downTimeout p) s =
    .next (if linkAlive q = true ∧ q.lastValid + us q.cfg.downTmo ≤ s.now then linkDown s p 0 else s) := by
  change execDownTimeout p s = _
  simp only [execDownTimeout, hq, hn]

/-- Recovery not completed for DOWN_TMO. -/
theorem downTimeout_recovering (hq : s.ports.get? p = some q) {t : Nat} (hr : q.recoverySince = some t) : exec (.downTimeout p) s =
    .next (if t + us q.cfg.downTmo ≤ s.now then linkDown s p 1 else s) := by
  change execDownTimeout p s = _
  simp only [execDownTimeout, hq, hr]

theorem recoveryDone_other (hq : s.ports.get? p = some q) (hs : q.st ≠ .recovery) : recoveryDone s p = s := by
  unfold recoveryDone
  rw [hq]
  exact if_pos hs

/-- The sends of a space's flits count afresh (log 89). -/
def freshSends (x : Space) : Space := { x with unack := x.unack.map fun f => { f with sends := 0 } }

/-- A port whose recovery has ended. -/
def recoveredPort (s : State) (p : Nat) (q : Port) : Port := { q with
  st := if q.key.keyed || (q.cfg.keyOff && decide (p < 8)) then .up else .keying
  recoverySince := none, lastValid := s.now, sn := freshSends q.sn, sp := freshSends q.sp }

theorem recoveryDone_resends (hq : s.ports.get? p = some q) (hs : q.st = .recovery) : recoveryDone s p =
    linkResumes (replayFrom (replayFrom { s with ports := s.ports.set p (recoveredPort s p q) } p true 0 false) p false 0 false) p := by
  unfold recoveryDone
  rw [hq]
  exact if_neg (not_not_intro hs)

/-! ### Failing back (R93) -/

theorem failBack_noPartner (hr : s.ports.get? (partnerPort p) = none) : failBack s p = s := by
  unfold failBack
  rw [hr]
  split
  next h => cases h
  next => rfl

theorem failBack_eq (hq : s.ports.get? p = some q) {r : Port} (hr : s.ports.get? (partnerPort p) = some r) : failBack s p =
    if q.st = .up ∧ q.routedAway = true ∧ sec 1 + q.upSince ≤ s.now then
      recomputeLevels { s with ports := s.ports.set p { q with
        routedAway := false, movingBack := (epsOn r).filter fun e => routePort s e = p } }
    else s := by
  unfold failBack
  rw [hq, hr]

/-- On a port that is not there a timer of the link does nothing. -/
theorem linkTimers_noPort (hq : s.ports.get? p = none) (n : Nat) :
    ∀ i ∈ [Instr.nakRepeat p n, .replayTimeout p n, .keepAlive p, .downTimeout p, .failBackHoldExpiry p, .phyRecoveryDone p],
      exec i s = .next s := by
  simp only [List.forall_mem_cons, List.not_mem_nil, false_implies, implies_true, and_true]
  refine ⟨?nak, ?replay, ?keep, ?down, ?back, ?phy⟩
  case nak => change execNakRepeat p n s = _; simp only [execNakRepeat, hq]
  case replay => change execReplayTimeout p n s = _; simp only [execReplayTimeout, hq]
  case keep => change execKeepAlive p s = _; simp only [execKeepAlive, hq]
  case down => change execDownTimeout p s = _; simp only [execDownTimeout, hq]
  case back => change execFailBackHoldExpiry p s = _; simp only [execFailBackHoldExpiry, failBack, hq]
  case phy => change execPhyRecoveryDone p s = _; simp only [execPhyRecoveryDone, recoveryDone, hq]

end Timers

/-! ### The rows together -/

/-- A row that ends with the lasts that waited for pushes (R291). -/
theorem exec_goLasts_of {s t u : State} {i : Instr} (h : exec i s = .next (goLasts t)) (e : t = u) : exec i s = .next (goLasts u) := e ▸ h

/-- What IDLE_FLIT_RECEIVE and NAK_RECEIVE do with a flit that passes its checks. -/
theorem controlRow_runs {s : State} {p : Nat} {f : List Byte} {e : Nat × Instr}
    (he : e ∈ [(1, Instr.idleFlitReceive p f), (2, Instr.nakReceive p f)]) :
    ∃ k, exec e.2 s = .next (goLasts (controlFlit s p e.1 f k)) ∧ (e.1 = 1 → k = id) ∧ (e.1 = 2 → k = nakTake f p) := by
  simp only [List.mem_cons, List.not_mem_nil, or_false] at he
  rcases he with rfl | rfl
  · exact ⟨id, rfl, fun _ => rfl, nofun⟩
  · exact ⟨nakTake f p, rfl, nofun, fun _ => rfl⟩

/-- Settles O45, row by row. -/
theorem linkFlitRowsComplete : Obligations.LinkFlitRowsComplete := by
  refine ⟨?seq, ?control, ?none, ?repeats, ?timers⟩
  case seq =>
    intro s p q f hq
    have row {t : State} : seqFlit s p f = t → exec (.seqFlitReceive p f) s = .next (goLasts t) := exec_goLasts_of rfl
    refine ⟨fun h => row (seqFlit_passed hq h), openSeq_unkeyed, openSeq_keyed_clear, fun hl ht =>
      ⟨fun hb => row (seqFlit_integrity hq hl ht hb), fun b hb => ?_⟩⟩
    intro t l u
    refine ⟨fun hr => row (seqFlit_reserved hq hl ht hb hr), fun hr hw => row (seqFlit_wrongSlots hq hl ht hb hr hw),
      fun hr hw ha => row (seqFlit_lost hq hl ht hb hr hw ha), fun r hr hw hp ha => ?_⟩
    have htaken := seqFlit_taken hq hl ht hb hr hw hp ha
    intro priv x
    refine ⟨fun hk hm => row (htaken.trans (seqAccept_keying hp hk hm)), fun hk => ?_⟩
    have hclass {c : SeqClass} (hc : seqClass (x.next % 4096) (flitSeq f) priv = c) : seqFlit s p f = seqEffect u p r priv c :=
      hc ▸ htaken.trans (seqAccept_eq hp hk)
    exact ⟨fun hc => row (hclass hc), fun hc hg => row ((hclass hc).trans (seqEffect_firstGap hg)),
      fun hc hg => row ((hclass hc).trans (if_pos hg)), fun hc => row (hclass hc), fun hc => row (hclass hc)⟩
  case control =>
    intro s p q f hq e he t u bad
    obtain ⟨k, hrun, hidle, hnak⟩ := controlRow_runs (s := s) he
    have row {t : State} : controlFlit s p e.1 f k = t → exec e.2 s = .next (goLasts t) := exec_goLasts_of hrun
    refine ⟨fun h => row (controlFlit_passed k hq h), fun hl ht => ⟨fun hi => row (controlFlit_integrity k hq hl ht hi),
      fun hi hb => row (controlFlit_reserved k hq hl ht hi hb), fun hi hb ha => row (controlFlit_lost k hq hl ht hi hb ha),
      fun r hi hb hr ha => ?_⟩⟩
    have htaken : controlFlit s p e.1 f k = k u := controlFlit_taken k hq hl ht hi hb hr ha
    refine ⟨fun h1 => row (htaken.trans (congrFun (hidle h1) u)), fun h2 => ?_⟩
    have hasked : controlFlit s p e.1 f k = nakTake f p u := htaken.trans (congrFun (hnak h2) u)
    exact ⟨fun hw hs hu => row (hasked.trans (nakTake_resends hr hw hs hu)), fun hw hs hu => row (hasked.trans (nakTake_freed hr hw hs hu)),
      fun h => row (hasked.trans (nakTake_unsent hr h))⟩
  case none =>
    intro s p n f
    refine ⟨rfl, fun hq => ⟨?_, linkTimers_noPort hq n⟩⟩
    simp only [List.forall_mem_cons, List.not_mem_nil, false_implies, implies_true, and_true]
    exact ⟨exec_goLasts_of rfl (seqFlit_noPort hq), exec_goLasts_of rfl (controlFlit_noPort id hq),
      exec_goLasts_of rfl (controlFlit_noPort (nakTake f p) hq)⟩
  case repeats =>
    intro s p sp q hq x
    exact ⟨nakRepeat_noGap hq, replayTimeout_noneSent hq, fun _ => nakRepeat_gap hq, fun _ _ => replayTimeout_sent hq⟩
  case timers =>
    intro s p q hq
    exact ⟨keepAlive_eq hq, downTimeout_silent hq, fun _ => downTimeout_recovering hq, fun hs => congrArg _ (recoveryDone_other hq hs),
      fun hs => congrArg _ (recoveryDone_resends hq hs), fun hr => congrArg _ (failBack_noPartner hr), fun _ hr => congrArg _ (failBack_eq hq hr)⟩

end Sys2Proof.Proofs
end

section
/-! The classes of a sequence number (O55, R77). -/

namespace Sys2Proof.Proofs

open Sys2Proof.Machine

/-- How far a space's numbers may lie ahead of NEXT or behind it (R77). -/
def seqWindow (priv : Bool) : Nat := if priv then 2048 else 512

/-- The distance of SEQ ahead of NEXT, and behind it. -/
def seqAhead (next seq : Nat) : Nat := (seq + 4096 - next) % 4096
def seqBehind (next seq : Nat) : Nat := (next + 4096 - seq) % 4096

section Classes

variable {next seq : Nat} (hn : next < 4096) (hs : seq < 4096) (priv : Bool)

include hn

theorem seqClass_eq : seqClass next seq priv =
    if seqAhead next seq = 0 then .accept
    else if seqAhead next seq < seqWindow priv then .gap
    else if seqBehind next seq ≤ seqWindow priv then .duplicate
    else .outside := by
  unfold seqClass
  rw [Nat.mod_eq_of_lt hn]
  rfl

theorem seqClass_gap_iff : seqClass next seq priv = .gap ↔ 1 ≤ seqAhead next seq ∧ seqAhead next seq < seqWindow priv := by
  rw [seqClass_eq hn]
  split
  · exact ⟨nofun, fun _ => by omega⟩
  split
  · exact ⟨fun _ => by omega, fun _ => rfl⟩
  split
  · exact ⟨nofun, fun _ => by omega⟩
  · exact ⟨nofun, fun _ => by omega⟩

include hs

/-- What lies ahead lies behind by the rest of the space. -/
theorem seqBehind_eq : seqBehind next seq = (4096 - seqAhead next seq) % 4096 := by
  unfold seqBehind seqAhead
  omega

theorem seqClass_accept_iff : seqClass next seq priv = .accept ↔ seq = next := by
  have hsame : seqAhead next seq = 0 ↔ seq = next := by unfold seqAhead; omega
  rw [seqClass_eq hn]
  split
  · exact ⟨fun _ => by omega, fun _ => rfl⟩
  split
  · exact ⟨nofun, fun _ => by omega⟩
  split
  · exact ⟨nofun, fun _ => by omega⟩
  · exact ⟨nofun, fun _ => by omega⟩

/-- No number is both ahead and behind within the window, which is at most half the space. -/
theorem seqClass_duplicate_iff : seqClass next seq priv = .duplicate ↔ 1 ≤ seqBehind next seq ∧ seqBehind next seq ≤ seqWindow priv := by
  have hw : seqWindow priv ≤ 2048 := by cases priv <;> decide
  have hb := seqBehind_eq hn hs
  have ha : seqAhead next seq < 4096 := Nat.mod_lt _ (by decide)
  rw [seqClass_eq hn]
  split
  · exact ⟨nofun, fun _ => by omega⟩
  split
  · exact ⟨nofun, fun _ => by omega⟩
  split
  · exact ⟨fun _ => by omega, fun _ => rfl⟩
  · exact ⟨nofun, fun _ => by omega⟩

theorem seqClass_outside_iff : seqClass next seq priv = .outside ↔
    seqWindow priv ≤ seqAhead next seq ∧ seqAhead next seq + seqWindow priv < 4096 := by
  have hw : 0 < seqWindow priv := by cases priv <;> decide
  have hb := seqBehind_eq hn hs
  have ha : seqAhead next seq < 4096 := Nat.mod_lt _ (by decide)
  rw [seqClass_eq hn]
  split
  · exact ⟨nofun, fun _ => by omega⟩
  split
  · exact ⟨nofun, fun _ => by omega⟩
  split
  · exact ⟨nofun, fun _ => by omega⟩
  · exact ⟨fun _ => by omega, fun _ => rfl⟩

end Classes

/-- Settles O55: the classes with the windows of the two spaces, 2,048 and 512. -/
theorem seqClasses : Obligations.SeqClasses := by
  intro next seq hn hs a b
  have hpriv : seqWindow true = 2048 := rfl
  have hnorm : seqWindow false = 512 := rfl
  have ha : seqAhead next seq = a := rfl
  refine ⟨seqClass_accept_iff hn hs, (seqClass_gap_iff hn true).trans ?_, seqClass_duplicate_iff hn hs true,
    mt (seqClass_outside_iff hn hs true).1 ?_, (seqClass_gap_iff hn false).trans ?_, seqClass_duplicate_iff hn hs false,
    (seqClass_outside_iff hn hs false).trans ?_⟩ <;> omega

end Sys2Proof.Proofs
end

section
/-! Budgets that come into force (O9): an acknowledgement taken up from its endpoint, and the millisecond that passes (R110, R503). -/

namespace Sys2Proof.Proofs

open Sys2Proof.Machine

/-- A mailbox message of a living endpoint on a fabric port is taken up, and its port learned (R142, R498). -/
theorem mbxTake_port {s : State} {p src : Nat} {bad : Bool} (k : State → State) (hh : heard s p true = true) (hb : bad = false)
    (hd : isDead s src = false) : mbxTake s (.port p) src bad k = k (learn s src p) := by
  unfold mbxTake pathPort pathEp learnPath
  simp only [Option.any_some, hh, hb, hd, Bool.not_true, Bool.false_eq_true, if_false]

theorem budgetInForce_eq {s : State} {ep hall : Nat} {a : AclEntry} (ha : aclOf s hall ep = some a) : budgetInForce s ep hall =
    { s with acl := s.acl.set (aclKey hall ep) { a with inForce := a.budget, notice := none } } := by
  have hg : s.acl.get? (aclKey hall ep) = some a := ha
  unfold budgetInForce NMap.modify
  rw [hg]

/-- An acknowledgement of the latest notice alone brings the decrease into force. -/
theorem budgetAck_eq {s : State} {m : MgtMsg} {a : AclEntry} {t : Nat} (hh : heard s m.port true = true)
    (hb : budgetAckBad m.bytes = false) (hd : isDead s (subNat m.bytes 1 3) = false)
    (ha : aclOf (learn s (subNat m.bytes 1 3) m.port) (subNat m.bytes 4 2) (subNat m.bytes 1 3) = some a) (hn : a.notice = some t) :
    exec (.budgetAck m) s = .next (if a.nseq = subNat m.bytes 8 2
      then budgetInForce (learn s (subNat m.bytes 1 3) m.port) (subNat m.bytes 1 3) (subNat m.bytes 4 2)
      else learn s (subNat m.bytes 1 3) m.port) := by
  refine congrArg Host.Outcome.next ((mbxTake_port _ hh hb hd).trans ?_)
  rw [ha]
  simp only [hn, Option.isSome_some, true_and]

theorem budgetDecreaseTimeout_due {s : State} {h ep : Nat} {a : AclEntry} {t : Nat} (ha : aclOf s h ep = some a) (hn : a.notice = some t)
    (hd : ms 1 + t ≤ s.now) : exec (.budgetDecreaseTimeout ep h) s = .next (budgetInForce s ep h) := by
  change execBudgetDecreaseTimeout ep h s = _
  simp only [execBudgetDecreaseTimeout, ha, hn, hd, if_true]

/-- Settles O9: by acknowledgement, and by time. -/
theorem budgetsComeIntoForce : Obligations.BudgetsComeIntoForce := by
  refine ⟨?acknowledged, ?timedOut⟩
  case acknowledged =>
    intro s m a t hh hb ep h u hd ha hn v
    rw [budgetAck_eq hh hb hd ha hn]
    exact ⟨fun hs => congrArg _ ((if_pos hs.symm).trans (budgetInForce_eq ha)), fun hs => congrArg _ (if_neg (Ne.symm hs))⟩
  case timedOut =>
    intro s h ep a t ha hn hd v
    rw [budgetDecreaseTimeout_due ha hn hd]
    exact congrArg _ (budgetInForce_eq ha)

end Sys2Proof.Proofs
end

section
/-! Training and negotiation (O46): one lemma per case of each row's definition (R65, R66, R88, R99 to R102, R386, R542). -/

namespace Sys2Proof.Proofs

open Sys2Proof.Machine Sys2Proof.Laws

/-! ### Training (R65, R66, R100) -/

/-- The lanes a port has after a training: those that margining chose, or of a x8 retrain the half that is left; none where it
failed. -/
def trainedLanes (p : Nat) (q : Port) (trained : Bool) (lanes : Nat) : Option (Nat × Nat) :=
  if trained = true then (if q.half = true then halfLanes q.badLanes else fullLanes p lanes) else none

/-- A port that trained, with the lane that the spare replaced (31 for none). -/
def trainedPort (s : State) (q : Port) (rate32 : Bool) (swapped : Nat) : Port := { q with
  st := .negotiating, rate32 := rate32, degraded := q.half, half := false, spareUsed := decide (swapped ≠ 31), swappedLane := swapped
  badLanes := if q.half = true then q.badLanes else if swapped = 31 then [] else [swapped], lastValid := s.now }

section Training

variable {s : State} {p : Nat} {q : Port} (hq : s.ports.get? p = some q) (rate32 : Bool) {trained : Bool} {lanes : Nat} (highest : Nat)

include hq

theorem trainingDone_other (hs : q.st ≠ .training) : trainingDone s p rate32 trained lanes highest = s := by
  unfold trainingDone
  rw [hq]
  exact if_pos hs

variable (hs : q.st = .training)

include hs

theorem trainingDone_fails (hl : trainedLanes p q trained lanes = none) : trainingDone s p rate32 trained lanes highest =
    event { s with ports := s.ports.set p { q with st := .down } } .trainFail (srcPort p) none none 0
      [(0, 1, (setBits 17 lanes).length), (1, 1, highest)] := by
  unfold trainedLanes at hl
  unfold trainingDone
  rw [hq]
  refine (if_neg (not_not_intro hs)).trans ?_
  rw [hl]

variable {mask swapped : Nat} (hl : trainedLanes p q trained lanes = some (mask, swapped))

include hl

/-- The port negotiates; a width that changed is recorded, and the port's flights follow it. -/
theorem trainingDone_trained : trainingDone s p rate32 trained lanes highest =
    let u := sendNegotiate { s with ports := s.ports.set p (trainedPort s q rate32 swapped) } p
    widthChange (if q.degraded ≠ q.half then event u .portDegraded (srcPort p) none none 0 [(0, 1, b2n q.half), (4, 4, mask)] else u)
      p q.degraded q.half (resLimit s p) := by
  unfold trainedLanes at hl
  unfold trainingDone
  rw [hq]
  refine (if_neg (not_not_intro hs)).trans ?_
  rw [hl]
  rfl

theorem trainingDone_sameWidth (hw : q.degraded = q.half) : trainingDone s p rate32 trained lanes highest =
    sendNegotiate { s with ports := s.ports.set p (trainedPort s q rate32 swapped) } p := by
  rw [trainingDone_trained hq rate32 highest hs hl]
  dsimp only
  rw [if_neg (not_not_intro hw)]
  exact if_neg fun ⟨_, h⟩ => h hw

theorem trainingDone_newWidth (hw : q.degraded ≠ q.half) : trainingDone s p rate32 trained lanes highest =
    widthChange (event (sendNegotiate { s with ports := s.ports.set p (trainedPort s q rate32 swapped) } p) .portDegraded (srcPort p)
      none none 0 [(0, 1, b2n q.half), (4, 4, mask)]) p q.degraded q.half (resLimit s p) := by
  rw [trainingDone_trained hq rate32 highest hs hl]
  dsimp only
  rw [if_pos hw]

end Training

/-! ### Negotiation (R88, R99, R101, R102, R542) -/

section Negotiation

variable {s : State} {p : Nat} {q : Port} {f : List Byte}

theorem negotiateResend_eq (hq : s.ports.get? p = some q) : exec (.negotiateResend p) s =
    .next (if q.st = .negotiating ∧ q.partner = none ∧ us 1 + q.lastNegotiate ≤ s.now then sendNegotiate s p else s) := by
  change execNegotiateResend p s = _
  simp only [execNegotiateResend, hq]

theorem sendNegotiate_eq (hq : s.ports.get? p = some q) : sendNegotiate s p =
    let caps := if p < 8 then 3 else 1
    sendControl (modPort s p fun q => { q with lastNegotiate := s.now }) p 3 0 0 (msgOf 47 [(1, 2), (1, 1), (2, q.cfg.downTmo), (1, caps)])
      (.negotiate p 2 1 q.cfg.downTmo caps) := by
  unfold sendNegotiate
  rw [hq]

/-- On a port that is not there training and negotiation do nothing. -/
theorem training_noPort (hq : s.ports.get? p = none) (r t : Bool) (l hi : Nat) (f : List Byte) :
    ∀ i ∈ [Instr.phyTrainingDone p r t l hi, .negotiateResend p, .negotiate p f], exec i s = .next s := by
  simp only [List.forall_mem_cons, List.not_mem_nil, false_implies, implies_true, and_true]
  refine ⟨?training, ?resend, ?flit⟩
  case training => change execPhyTrainingDone p r t l hi s = _; simp only [execPhyTrainingDone, trainingDone, hq]
  case resend => change execNegotiateResend p s = _; simp only [execNegotiateResend, hq]
  case flit => change execNegotiate p f s = _; simp only [execNegotiate, negotiateTake, hq]

variable (hq : s.ports.get? p = some q)

include hq

theorem negotiateTake_passed (h : (q.st ≠ .negotiating ∧ linkAlive q = false) ∨ (flitType f ≠ 3 ∧ flitType f ≤ 4)) : negotiateTake s p f = s := by
  unfold negotiateTake
  rw [hq]
  exact if_pos h

variable (hl : q.st = .negotiating ∨ linkAlive q = true) (ht : flitType f = 3 ∨ 4 < flitType f)

include hl ht

/-- The checks in their order, on a flit for this row. -/
theorem negotiateTake_checked : negotiateTake s p f =
    let u := takeAcks (flitHeard s p) p f
    if flitKeyed f = true then integrityFail s p
    else if controlReserved f = true then linkDown (flitHeard s p) p 3
    else if ((u.ports.get? p).any fun q => decide (q.st = .negotiating)) = true then
      negotiated u p (subNat f 1 1) (subNat f 2 1) (subNat f 3 2) (subNat f 5 1)
    else u := by
  have hn : ¬((q.st ≠ .negotiating ∧ linkAlive q = false) ∨ (flitType f ≠ 3 ∧ flitType f ≤ 4)) := by
    rintro (⟨hs, ha⟩ | h)
    · exact hl.elim hs (by simp [ha])
    · omega
  unfold negotiateTake
  rw [hq]
  exact if_neg hn

theorem negotiateTake_integrity (hk : flitKeyed f = true) : negotiateTake s p f = integrityFail s p :=
  (negotiateTake_checked hq hl ht).trans (if_pos hk)

variable (hk : flitKeyed f = false)

include hk

theorem negotiateTake_reserved (hb : controlReserved f = true) : negotiateTake s p f = linkDown (flitHeard s p) p 3 :=
  (negotiateTake_checked hq hl ht).trans ((if_neg (by simp [hk])).trans (if_pos hb))

variable (hb : controlReserved f = false)

include hb

/-- On a link that stands already it only acknowledges. -/
theorem negotiateTake_acknowledges (hn : (((takeAcks (flitHeard s p) p f).ports.get? p).any fun q => decide (q.st = .negotiating)) = false) :
    negotiateTake s p f = takeAcks (flitHeard s p) p f :=
  (negotiateTake_checked hq hl ht).trans ((if_neg (by simp [hk])).trans ((if_neg (by simp [hb])).trans
    (if_neg (by simp only [hn, Bool.false_eq_true, not_false_iff]))))

theorem negotiateTake_negotiates {x : Port} (hx : (takeAcks (flitHeard s p) p f).ports.get? p = some x) (hn : x.st = .negotiating) :
    negotiateTake s p f = negotiated (takeAcks (flitHeard s p) p f) p (subNat f 1 1) (subNat f 2 1) (subNat f 3 2) (subNat f 5 1) :=
  (negotiateTake_checked hq hl ht).trans ((if_neg (by simp [hk])).trans ((if_neg (by simp [hb])).trans
    (if_pos (by rw [hx]; exact decide_eq_true hn))))

end Negotiation

/-- A port at the highest common revision, to be keyed. -/
def negotiatedPort (s : State) (q : Port) (revMax revMin downTmo caps : Nat) : Port := { q with
  partner := some (revMax, revMin, downTmo, caps), st := .keying, dfp1 := decide (min 2 revMax = 1)
  swapEn := decide (32 ≤ q.cfg.downTmo ∧ 32 ≤ downTmo) && caps.testBit 0, key := { q.key with retryAt := sec 10 + s.now } }

section Announced

variable {s : State} {p : Nat} {q : Port} (hq : s.ports.get? p = some q) {revMax revMin : Nat} (downTmo caps : Nat)

include hq

theorem negotiated_noCommonRev (hr : min 2 revMax < max 1 revMin) : negotiated s p revMax revMin downTmo caps =
    event { s with ports := s.ports.set p { q with partner := some (revMax, revMin, downTmo, caps), st := .down } } .noCommonRev (srcPort p)
      none none 0 [(0, 1, revMin), (1, 1, revMax)] := by
  unfold negotiated
  rw [hq]
  exact if_pos hr

/-- The requester asks for keying; an unkeyed port of a READY unit comes up. -/
theorem negotiated_common (hr : max 1 revMin ≤ min 2 revMax) : negotiated s p revMax revMin downTmo caps =
    let r := negotiatedPort s q revMax revMin downTmo caps
    let w := recomputeLevels { s with ports := s.ports.set p r }
    let t := if (r.cfg.keyOff && decide (p < 8)) = true then w else askVersion w p
    if mayComeUp t p r = true then portComesUp t p else t := by
  unfold negotiated
  rw [hq]
  exact if_neg (Nat.not_lt.2 hr)

end Announced

/-! ### The rows together -/

/-- Settles O46, row by row. -/
theorem linkTrainingRowsComplete : Obligations.LinkTrainingRowsComplete := by
  refine ⟨?training, fun s p q hq => ⟨negotiateResend_eq hq, sendNegotiate_eq hq⟩, fun s p r t l hi f hq => training_noPort hq r t l hi f, ?flit⟩
  case training =>
    intro s p q r t l hi hq lanes
    refine ⟨fun hs => congrArg _ (trainingDone_other hq r hi hs), fun hs hl => congrArg _ (trainingDone_fails hq r hi hs hl),
      fun m w hs hl => ?_⟩
    exact ⟨fun hw => congrArg _ (trainingDone_sameWidth hq r hi hs hl hw), fun hw => congrArg _ (trainingDone_newWidth hq r hi hs hl hw)⟩
  case flit =>
    intro s p q f hq v u bad
    refine ⟨fun h => congrArg _ (negotiateTake_passed hq h), fun hl ht => ⟨fun hk => congrArg _ (negotiateTake_integrity hq hl ht hk),
      fun hk hb => congrArg _ (negotiateTake_reserved hq hl ht hk hb), fun hk hb hn => congrArg _ (negotiateTake_acknowledges hq hl ht hk hb hn),
      fun x hk hb hx hn => ?_⟩⟩
    have htaken := negotiateTake_negotiates hq hl ht hk hb hx hn
    exact ⟨fun hr => congrArg _ (htaken.trans (negotiated_noCommonRev hx _ _ hr)), fun hr => congrArg _ (htaken.trans (negotiated_common hx _ _ hr))⟩

end Sys2Proof.Proofs
end

section
/-! Lane errors and the lane swap (O47): one lemma per case of each row's definition (R71, R96 to R100, R112). -/

namespace Sys2Proof.Proofs

open Sys2Proof.Machine Sys2Proof.Laws

/-! ### Lane errors (R96, R99, R100, R112) -/

/-- A port whose next counting interval has begun, with the LANE_THR set by then (R112). -/
def intervalPort (q : Port) : Port := { q with laneThr := q.cfg.laneThr }

def intervalState (s : State) (p : Nat) (q : Port) : State := { s with ports := s.ports.set p (intervalPort q) }

/-- The first lane over the LANE_THR of the interval that ends. -/
def laneOver (q : Port) (counts : List Nat) : Option Nat :=
  (List.range counts.length).find? fun i => decide (q.laneThr < (counts[i]?).getD 0)

section LaneErrors

variable {s : State} {p : Nat} {q : Port} (hq : s.ports.get? p = some q) {counts : List Nat}

include hq

theorem laneInterval_notUp (hs : q.st ≠ .up) : laneInterval s p counts = intervalState s p q := by
  unfold laneInterval
  rw [hq]
  exact if_pos hs

variable (hs : q.st = .up)

include hs

theorem laneInterval_noneOver (hn : laneOver q counts = none) : laneInterval s p counts = intervalState s p q := by
  unfold laneOver at hn
  unfold laneInterval
  rw [hq]
  refine (if_neg (not_not_intro hs)).trans ?_
  rw [hn]
  rfl

variable {i : Nat} (hi : laneOver q counts = some i)

include hi

theorem laneInterval_over : laneInterval s p counts =
    let n := (counts[i]?).getD 0
    if q.spareUsed = true then
      linkDown { intervalState s p q with ports := (intervalState s p q).ports.set p { intervalPort q with
        badLanes := q.badLanes ++ [i], half := decide (p < 8), outOfUse := decide (8 ≤ p) } } p 6
    else if q.swapEn = false then laneCrossing (intervalState s p q) p i 0 n
    else if q.swap.isSome then intervalState s p q
    else requestSwap (intervalState s p q) p i n (intervalPort q) := by
  unfold laneOver at hi
  unfold laneInterval
  rw [hq]
  refine (if_neg (not_not_intro hs)).trans ?_
  rw [hi]
  rfl

/-- With the spare in use the link goes down, a fabric port to train at x8, a peer port for good (R100). -/
theorem laneInterval_noSpare (hu : q.spareUsed = true) : laneInterval s p counts =
    linkDown { intervalState s p q with ports := (intervalState s p q).ports.set p { intervalPort q with
      badLanes := q.badLanes ++ [i], half := decide (p < 8), outOfUse := decide (8 ≤ p) } } p 6 :=
  (laneInterval_over hq hs hi).trans (if_pos hu)

variable (hu : q.spareUsed = false)

include hu

theorem laneInterval_swapDisabled (he : q.swapEn = false) :
    laneInterval s p counts = laneCrossing (intervalState s p q) p i 0 ((counts[i]?).getD 0) :=
  (laneInterval_over hq hs hi).trans ((if_neg (by simp [hu])).trans (if_pos he))

variable (he : q.swapEn = true)

include he

theorem laneInterval_swapUnderWay (hw : q.swap.isSome = true) : laneInterval s p counts = intervalState s p q :=
  (laneInterval_over hq hs hi).trans ((if_neg (by simp [hu])).trans ((if_neg (by simp [he])).trans (if_pos hw)))

theorem laneInterval_requests (hw : q.swap = none) :
    laneInterval s p counts = requestSwap (intervalState s p q) p i ((counts[i]?).getD 0) (intervalPort q) :=
  (laneInterval_over hq hs hi).trans ((if_neg (by simp [hu])).trans ((if_neg (by simp [he])).trans (if_neg (by simp [hw]))))

end LaneErrors

/-! ### Lane swap messages (R97) -/

/-- The other end's request is accepted: its lane is one that failed. -/
def acceptSwap (s : State) (p lane id : Nat) (q : Port) : State :=
  sendLaneSwap { s with
    ports := s.ports.set p { q with
      badLanes := q.badLanes ++ [lane]
      swap := some { lane := lane, id := id, mine := false, sentAt := s.now, accepted := some s.now } } } p 1 lane id

/-- Lanes that take the place of others: 16 of a fabric port, 8 of a peer port (R66). -/
def laneCount (p : Nat) : Nat := if p < 8 then 16 else 8

section SwapMessages

variable {s : State} {p lane id : Nat} {q : Port} (hq : s.ports.get? p = some q)

include hq

/-- A lane the port does not have, or a reserved KIND, changes nothing (log 89). -/
theorem swapTake_reserved {kind : Nat} (h : laneCount p ≤ lane ∨ 3 ≤ kind) : swapTake s p kind lane id = s := by
  unfold swapTake
  rw [hq]
  rcases h with hl | hk
  · exact if_pos hl
  · obtain ⟨k, rfl⟩ := Nat.exists_eq_add_of_le' hk
    exact ite_self s

variable (hl : lane < laneCount p)

include hl

/-- A REQUEST: it is refused, or passed over for the SH940's own, or taken once again, or accepted. -/
theorem swapTake_request : swapTake s p 0 lane id =
    let own := q.swap.any fun w => w.mine && w.accepted.isNone
    if q.swapEn = false ∨ q.spareUsed = true then sendLaneSwap s p 2 lane id
    else if (own && (decide (p < 8) || s.pair.cfg.side = 0)) = true then s
    else if (q.swap.isSome && !own) = true then
      if (q.swap.any fun w => !w.mine && w.lane = lane && w.id = id) = true then sendLaneSwap s p 1 lane id else s
    else acceptSwap s p lane id q := by
  unfold swapTake
  rw [hq]
  exact if_neg (Nat.not_le.2 hl)

theorem swapTake_refuses (h : q.swapEn = false ∨ q.spareUsed = true) : swapTake s p 0 lane id = sendLaneSwap s p 2 lane id :=
  (swapTake_request hq hl).trans (if_pos h)

section Swappable

variable (he : q.swapEn = true) (hu : q.spareUsed = false)

include he hu

theorem swapTake_accepts (hw : q.swap = none) : swapTake s p 0 lane id = acceptSwap s p lane id q := by
  rw [swapTake_request hq hl]
  simp [he, hu, hw]

variable {w : Swap} (hw : q.swap = some w) (hm : w.mine = true) (ha : w.accepted = none)

include hw hm ha

/-- Of two crossing requests the SH940's stands on a fabric port, and on a peer port side 0's. -/
theorem swapTake_ownStands (h : p < 8 ∨ s.pair.cfg.side = 0) : swapTake s p 0 lane id = s := by
  rw [swapTake_request hq hl]
  simp [he, hu, hw, hm, ha, h]

theorem swapTake_yields (hp : 8 ≤ p) (hs : s.pair.cfg.side ≠ 0) : swapTake s p 0 lane id = acceptSwap s p lane id q := by
  rw [swapTake_request hq hl]
  simp [he, hu, hw, hm, ha, hs, Nat.not_lt.2 hp]

end Swappable

section Answer

variable {w : Swap} (hw : q.swap = some w) (hm : w.mine = true) (hlane : w.lane = lane) (hid : w.id = id) (ha : w.accepted = none)

include hw hm hlane hid ha

theorem swapTake_accepted : swapTake s p 1 lane id = { s with ports := s.ports.set p { q with
    badLanes := q.badLanes ++ [lane], swap := some { w with accepted := some s.now } } } := by
  unfold swapTake
  rw [hq]
  refine (if_neg (Nat.not_le.2 hl)).trans ?_
  dsimp only
  rw [hw]
  exact if_pos ⟨hm, hlane, hid, ha⟩

theorem swapTake_refused : swapTake s p 2 lane id =
    laneCrossing { s with ports := s.ports.set p { q with swap := none } } p lane 2 w.count := by
  unfold swapTake
  rw [hq]
  refine (if_neg (Nat.not_le.2 hl)).trans ?_
  dsimp only
  rw [hw]
  exact if_pos ⟨hm, hlane, hid, ha⟩

end Answer

end SwapMessages

/-! ### The bounds of a swap (R96 to R98) -/

section SwapTimers

variable {s : State} {p : Nat} {q : Port}

/-- On a port that is not there a lane swap does nothing. -/
theorem laneSwap_noPort (hq : s.ports.get? p = none) (l : List Nat) (f : List Byte) :
    ∀ i ∈ [Instr.laneErrorInterval p l, .laneSwapReceive p f, .laneSwapRequestTimeout p, .laneSwapQuietStart p, .laneSwapQuietEnd p],
      exec i s = .next s := by
  simp only [List.forall_mem_cons, List.not_mem_nil, false_implies, implies_true, and_true]
  refine ⟨?interval, congrArg _ (controlFlit_noPort _ hq), ?timeout, ?start, ?finish⟩
  case interval => change execLaneErrorInterval p l s = _; simp only [execLaneErrorInterval, laneInterval, hq]
  case timeout => change execLaneSwapRequestTimeout p s = _; simp only [execLaneSwapRequestTimeout, hq]
  case start => change execLaneSwapQuietStart p s = _; simp only [execLaneSwapQuietStart, hq]
  case finish => change execLaneSwapQuietEnd p s = _; simp only [execLaneSwapQuietEnd, hq]

variable (hq : s.ports.get? p = some q)

include hq

theorem laneSwapQuietStart_eq : exec (.laneSwapQuietStart p) s =
    .next (if q.st = .up ∧ (q.swap.any fun w => w.accepted.any fun t => decide (us 1 + t ≤ s.now)) = true then
      { s with ports := s.ports.set p { q with st := .swapping } } else s) := by
  change execLaneSwapQuietStart p s = _
  simp only [execLaneSwapQuietStart, hq]

/-- Without a swap its bounds do nothing. -/
theorem laneSwap_noSwap (hw : q.swap = none) :
    ∀ i ∈ [Instr.laneSwapRequestTimeout p, .laneSwapQuietStart p, .laneSwapQuietEnd p], exec i s = .next s := by
  simp only [List.forall_mem_cons, List.not_mem_nil, false_implies, implies_true, and_true]
  refine ⟨?timeout, ?start, ?finish⟩
  case timeout => change execLaneSwapRequestTimeout p s = _; simp only [execLaneSwapRequestTimeout, hq, hw]
  case start => rw [laneSwapQuietStart_eq hq, if_neg (by simp [hw])]
  case finish => change execLaneSwapQuietEnd p s = _; simp only [execLaneSwapQuietEnd, hq, hw]

variable {w : Swap} (hw : q.swap = some w)

include hw

theorem laneSwapRequestTimeout_eq : exec (.laneSwapRequestTimeout p) s =
    .next (if w.mine = false ∨ w.accepted.isSome = true ∨ s.now < us 10 + w.sentAt then s
      else if w.tries < 5 then sendLaneSwap { s with
        ports := s.ports.set p { q with swap := some { w with tries := w.tries + 1, sentAt := s.now } } } p 0 w.lane w.id
      else laneCrossing { s with ports := s.ports.set p { q with swap := none } } p w.lane 1 w.count) := by
  change execLaneSwapRequestTimeout p s = _
  simp only [execLaneSwapRequestTimeout, hq, hw]

theorem laneSwapQuietStart_waits (h : q.st ≠ .up ∨ w.accepted = none) : exec (.laneSwapQuietStart p) s = .next s := by
  rw [laneSwapQuietStart_eq hq, if_neg]
  rintro ⟨hs, ha⟩
  exact h.elim (· hs) fun h => by simp [hw, h] at ha

theorem laneSwapQuietStart_accepted {t : Nat} (ha : w.accepted = some t) (hs : q.st = .up) : exec (.laneSwapQuietStart p) s =
    .next (if us 1 + t ≤ s.now then { s with ports := s.ports.set p { q with st := .swapping } } else s) := by
  rw [laneSwapQuietStart_eq hq]
  simp only [hw, ha, hs, Option.any_some, decide_eq_true_eq, true_and]

theorem laneSwapQuietEnd_eq : exec (.laneSwapQuietEnd p) s =
    .next (if q.st = .swapping then linkResumes (event { s with ports := s.ports.set p { q with
      st := .up, spareUsed := true, swappedLane := w.lane, swap := none, lastValid := s.now } } .laneSwap (srcPort p) none none 0
      [(0, 1, w.lane), (1, 1, w.id)]) p else s) := by
  change execLaneSwapQuietEnd p s = _
  simp only [execLaneSwapQuietEnd, hq, hw]

section Request

variable (hm : w.mine = true) (ha : w.accepted = none) (hd : us 10 + w.sentAt ≤ s.now)

include hm ha hd

theorem laneSwapRequestTimeout_due : exec (.laneSwapRequestTimeout p) s =
    .next (if w.tries < 5 then sendLaneSwap { s with
        ports := s.ports.set p { q with swap := some { w with tries := w.tries + 1, sentAt := s.now } } } p 0 w.lane w.id
      else laneCrossing { s with ports := s.ports.set p { q with swap := none } } p w.lane 1 w.count) := by
  rw [laneSwapRequestTimeout_eq hq hw, if_neg]
  rintro (h | h | h)
  · exact absurd (hm.symm.trans h) (by decide)
  · simp [ha] at h
  · exact Nat.not_le.2 h hd

end Request

end SwapTimers

/-! ### The rows together -/

/-- Settles O47, row by row. -/
theorem laneSwapRowsComplete : Obligations.LaneSwapRowsComplete := by
  refine ⟨?interval, fun s p l f hq => laneSwap_noPort hq l f, ?message, fun s p q hq hw => laneSwap_noSwap hq hw, ?timers⟩
  case interval =>
    intro s p q l hq
    refine ⟨fun hs => congrArg _ (laneInterval_notUp hq hs), fun hs hn => congrArg _ (laneInterval_noneOver hq hs hn), fun i => ?_⟩
    intro n hs hi
    exact ⟨fun hu => congrArg _ (laneInterval_noSpare hq hs hi hu), fun hu he => congrArg _ (laneInterval_swapDisabled hq hs hi hu he),
      fun hu he hw => congrArg _ (laneInterval_swapUnderWay hq hs hi hu he hw),
      fun hu he hw => congrArg _ (laneInterval_requests hq hs hi hu he hw)⟩
  case message =>
    intro s p q f hq v t bad k i j
    refine ⟨fun h => congrArg _ (controlFlit_passed _ hq h), fun hl ht4 => ?_⟩
    have ht : flitType f = 4 ∨ 4 < flitType f := by omega
    refine ⟨fun hi => congrArg _ (controlFlit_integrity _ hq hl ht hi), fun hi hb => congrArg _ (controlFlit_reserved _ hq hl ht hi hb),
      fun hi hb ha => congrArg _ (controlFlit_lost _ hq hl ht hi hb ha), fun r hi hb hr ha => ?_⟩
    have row {kind : Nat} {u : State} (hk : k = kind) (h : swapTake t p kind i j = u) : exec (.laneSwapReceive p f) s = .next u :=
      congrArg Host.Outcome.next ((controlFlit_taken _ hq hl ht hi hb hr ha).trans ((congrArg (swapTake t p · i j) hk).trans h))
    refine ⟨fun h => row rfl (swapTake_reserved hr h), fun hlane => ⟨?_, ?_, ?_, ?_, ?_⟩⟩
    · intro hk h
      exact row hk (swapTake_refuses hr hlane h)
    · intro hk he hu hw
      exact row hk (swapTake_accepts hr hlane he hu hw)
    · intro w hk he hu hw hm ha h
      exact row hk (swapTake_ownStands hr hlane he hu hw hm ha h)
    · intro w hk he hu hw hm ha hp hs
      exact row hk (swapTake_yields hr hlane he hu hw hm ha hp hs)
    · intro w hw hm hi hj ha
      exact ⟨fun hk => row hk (swapTake_accepted hr hlane hw hm hi hj ha), fun hk => row hk (swapTake_refused hr hlane hw hm hi hj ha)⟩
  case timers =>
    intro s p q w hq hw
    refine ⟨fun h => ?_, fun hm ha hd ht => ?_, fun hm ha hd ht => ?_, laneSwapQuietStart_waits hq hw, fun t => laneSwapQuietStart_accepted hq hw,
      fun hs => ?_, fun hs => ?_⟩
    · rw [laneSwapRequestTimeout_eq hq hw, if_pos h]
    · rw [laneSwapRequestTimeout_due hq hw hm ha hd, if_pos ht]
    · rw [laneSwapRequestTimeout_due hq hw hm ha hd, if_neg (Nat.not_lt.2 ht)]
      rfl
    · rw [laneSwapQuietEnd_eq hq hw, if_neg hs]
    · rw [laneSwapQuietEnd_eq hq hw, if_pos hs]

end Sys2Proof.Proofs
end

section
/-! A message of the REQ or WLT channel on its arrival (R5, R108, R115, R142, R154, R555): what learning its port leaves alone, and how
`arrive` ends for a home that serves its sender. -/

namespace Sys2Proof.Proofs

open Sys2Proof.Machine Sys2Proof.Laws

/-! ### Learning the port (R49, R142) -/

/-- Learning a port touches the endpoint and, where its route port moves, the levels of the halls. -/
theorem learn_eq_or (s : State) (ep port : Nat) :
    learn s ep port = noteRoute s ep port ∨ learn s ep port = recomputeLevels (noteRoute s ep port) := by
  by_cases h : routePort (noteRoute s ep port) ep = routePort s ep
  · exact .inl (if_pos h)
  · exact .inr (if_neg h)

@[simp] theorem learn_home (s : State) (ep port : Nat) : (learn s ep port).home = s.home := by
  rcases learn_eq_or s ep port with h | h <;> rw [h] <;> rfl

@[simp] theorem learn_pair (s : State) (ep port : Nat) : (learn s ep port).pair = s.pair := by
  rcases learn_eq_or s ep port with h | h <;> rw [h] <;> rfl

@[simp] theorem learn_acl (s : State) (ep port : Nat) : (learn s ep port).acl = s.acl := by
  rcases learn_eq_or s ep port with h | h <;> rw [h] <;> rfl

/-- A read of a table whose entries were changed in place, each by its key. -/
theorem get?_mapEntries {α β : Type} (m : NMap α) (f : Nat → α → β) (k : Nat) :
    NMap.get? (m.map fun e => (e.1, f e.1 e.2)) k = (m.get? k).map (f k) := by
  induction m with
  | nil => rfl
  | cons e m ih =>
    by_cases hk : e.1 = k
    · simp [NMap.get?, hk]
    · simp [NMap.get?, hk, ih]

theorem recomputeLevels_get? (s : State) (hid : Nat) : (recomputeLevels s).halls.get? hid =
    (s.halls.get? hid).map fun h => { h with levelDfp1 := hallDfp1 s hid } :=
  get?_mapEntries (β := Hall) s.halls (fun i h => { h with levelDfp1 := hallDfp1 s i }) hid

/-- A hall lies where it lay: only its LEVEL follows a learned port (R49). -/
theorem learn_lineOf {s : State} {ep port hid : Nat} {h : Hall} (hh : (learn s ep port).halls.get? hid = some h) (off : Nat) :
    (s.halls.get? hid).map (fun g => lineOf g off) = some (lineOf h off) := by
  rcases learn_eq_or s ep port with hl | hl <;> rw [hl] at hh
  · exact congrArg (Option.map fun g => lineOf g off) hh
  · obtain ⟨g, hg, rfl⟩ := Option.map_eq_some_iff.1 ((recomputeLevels_get? (noteRoute s ep port) hid).symm.trans hh)
    exact congrArg (Option.map fun g => lineOf g off) hg

/-! ### The checks on arrival (R5, R108, R109, R115, R150, R154, R555) -/

/-- A message has come in from a living endpoint, and the home serves it: no standby, not fenced, its dies running, no quiesce. -/
structure Served (s : State) (port ep : Nat) : Prop where
  heard : heard s port false = true
  notStandby : s.pair.role ≠ .standby
  notFenced : s.pair.role ≠ .fenced
  running : s.pwr.diesHeld = false
  living : isDead s ep = false
  noQuiesce : s.pwr.quiesceSince = none

/-- The state once a message's port is learned and its tracker is taken. -/
def tracked (s : State) (port tag ep : Nat) (v : Tracker) : State :=
  { learn s ep port with home := { s.home with trackers := s.home.trackers.set (trkKey ep tag) v } }

theorem arrive_unheard {s : State} {port : Nat} (hh : heard s port false = false) (tag ep hid epoch kind line : Nat) (rsvd : Bool) :
    arrive s port tag ep hid epoch kind line rsvd = .over s :=
  if_pos hh

section Serving

variable {s : State} {port ep : Nat} (hs : Served s port ep)

include hs

/-- Served, a message's port is learned; then its form, epoch, tag and entry are looked at. -/
theorem arrive_served (tag hid epoch kind line : Nat) (rsvd : Bool) :
    arrive s port tag ep hid epoch kind line rsvd =
      let t := learn s ep port
      let deny := answerNote (modPort t port fun q => { q with budgetDeny := satAdd 32 q.budgetDeny 1 }) port ep tag .denied
      if rsvd then .over (answerNote (countBad t port) port ep tag .denied)
      else if epoch ≠ s.homeEpoch then .over (answerNote t port ep tag .epoch)
      else match s.home.trackers.get? (trkKey ep tag) with
        | some v => .reissue t v
        | none => match aclOf s hid ep with
          | none => .noEntry deny
          | some a => if a.inForce ≤ charged s hid ep then .over deny
            else .taken (tracked s port tag ep { hall := hid, kind := kind, line := line, port := port }) := by
  unfold arrive
  rw [if_neg (by simp [hs.heard]), if_neg hs.notStandby, if_neg (by simp [hs.notFenced, hs.running]), if_neg (by simp [hs.living]),
    if_neg (by simp [hs.noQuiesce])]
  simp only [learn_home, learn_pair, State.homeEpoch, aclOf, learn_acl, charged, tracked] <;> rfl

theorem arrive_reserved (tag hid epoch kind line : Nat) :
    arrive s port tag ep hid epoch kind line true = .over (answerNote (countBad (learn s ep port) port) port ep tag .denied) :=
  arrive_served hs ..

/-- Of the home's epoch, on a free tag and within its entry's budget, a message takes a tracker. -/
theorem arrive_taken {tag hid epoch : Nat} {a : AclEntry} (he : epoch = s.homeEpoch) (hf : s.home.trackers.get? (trkKey ep tag) = none)
    (ha : aclOf s hid ep = some a) (hb : charged s hid ep < a.inForce) (kind line : Nat) :
    arrive s port tag ep hid epoch kind line false =
      .taken (tracked s port tag ep { hall := hid, kind := kind, line := line, port := port }) := by
  rw [arrive_served hs]
  simp only [he, hf, ha, Nat.not_le.2 hb, ne_eq, not_true_eq_false, Bool.false_eq_true, if_false]

end Serving

end Sys2Proof.Proofs
end

section
/-! WB_M and the answers to snoops (O49): one lemma per case of each row's definition (R115, R118, R131, R132, R138, R139, R154, R175, R198,
R206, R574, R638). -/

namespace Sys2Proof.Proofs

open Sys2Proof.Machine Sys2Proof.Laws

/-! ### WB_M (R131, R132, R138, R175, R198, R574, R638) -/

theorem wbArrive_unheard {s : State} {m : ReqMsg} (hh : heard s m.port false = false) : wbArrive s m = s := by
  unfold wbArrive
  simp only [arrive_unheard hh]

theorem wbArrive_reserved {s : State} {m : ReqMsg} (hs : Served s m.port m.src) (hb : m.bad 0x07 = true) :
    wbArrive s m = answerNote (countBad (learn s m.src m.port) m.port) m.port m.src m.tag .denied := by
  unfold wbArrive
  simp only [hb, arrive_reserved hs]

/-- A writeback of a line, as the request its completion names. -/
def wbReq (m : ReqMsg) (line : Nat) : Req := { reqOf .wrFull m with line := line, d := m.line }

/-- The data of a writeback is held until it is written, its block landing if need be (R206, R638). -/
def holdWb (s : State) (m : ReqMsg) (h : Hall) (line : Nat) : State :=
  takeWb (landFor s m.hall h m.offset m.src) line m.port m.src m.tag m.line

/-- The state once a WB_M of a line has taken its tracker. -/
def wbTracked (s : State) (m : ReqMsg) (line : Nat) : State :=
  tracked s m.port m.tag m.src { hall := m.hall, kind := 7, line := line, port := m.port }

section Taken

variable {s : State} {m : ReqMsg} {a : AclEntry} {h : Hall} (hs : Served s m.port m.src) (hb : m.bad 0x07 = false)
  (hf : s.home.trackers.get? (trkKey m.src m.tag) = none) (ha : aclOf s m.hall m.src = some a)
  (hc : charged s m.hall m.src < a.inForce) (hh : (learn s m.src m.port).halls.get? m.hall = some h)

include hs hb hf ha hc hh

/-- A WB_M that takes a tracker, of the home's epoch or of the recovery window (R131, R574). -/
theorem wbArrive_taken (he : oldWb s m = false → m.epoch = s.homeEpoch) : wbArrive s m =
    let line := lineOf h m.offset
    let u := wbTracked s m line
    if hallTakes u m.hall m.offset = false then wbDrain (completeCode u (reqOf .wrFull m) .denied) m
    else if oldWb s m then holdWb (if ((dirAt u line).bind fun e => e.owner) = some m.src then freeDir u line else u) m h line
    else writeBackMsg u m m.line h := by
  have hepoch : (if oldWb s m = true then s.homeEpoch else m.epoch) = s.homeEpoch :=
    ite_eq_left_iff.2 fun ho => he (eq_false_of_ne_true ho)
  have hhall (v : Tracker) : (tracked s m.port m.tag m.src v).halls.get? m.hall = some h := hh
  unfold wbArrive
  dsimp only
  rw [hepoch, learn_lineOf hh, hb, arrive_taken hs rfl hf ha hc]
  dsimp only
  rw [hhall]
  rfl

/-- To a hall that does not take requests (R47). -/
theorem wbArrive_denied (he : oldWb s m = false → m.epoch = s.homeEpoch)
    (ht : hallTakes (wbTracked s m (lineOf h m.offset)) m.hall m.offset = false) :
    wbArrive s m = wbDrain (completeCode (wbTracked s m (lineOf h m.offset)) (reqOf .wrFull m) .denied) m :=
  (wbArrive_taken hs hb hf ha hc hh he).trans (if_pos ht)

variable (ht : hallTakes (wbTracked s m (lineOf h m.offset)) m.hall m.offset = true)

include ht

/-- In the recovery window a writer's is taken whatever the entry says (R574). -/
theorem wbArrive_window (ho : oldWb s m = true) : wbArrive s m =
    holdWb (if ((dirAt (wbTracked s m (lineOf h m.offset)) (lineOf h m.offset)).bind fun e => e.owner) = some m.src
      then freeDir (wbTracked s m (lineOf h m.offset)) (lineOf h m.offset) else wbTracked s m (lineOf h m.offset))
      m h (lineOf h m.offset) :=
  (wbArrive_taken hs hb hf ha hc hh fun hn => absurd (ho.symm.trans hn) (by decide)).trans
    ((if_neg (ne_false_of_eq_true ht)).trans (if_pos ho))

theorem wbArrive_byDirectory (ho : oldWb s m = false) (he : m.epoch = s.homeEpoch) :
    wbArrive s m = writeBackMsg (wbTracked s m (lineOf h m.offset)) m m.line h :=
  (wbArrive_taken hs hb hf ha hc hh fun _ => he).trans ((if_neg (ne_false_of_eq_true ht)).trans (if_neg (ne_true_of_eq_false ho)))

end Taken

section ByDirectory

variable {s : State} {m : ReqMsg} {h : Hall}

/-- A line not recorded to its sender (R138). -/
theorem writeBackMsg_notOwner (hn : ((dirAt s (lineOf h m.offset)).bind fun e => e.owner) ≠ some m.src) :
    writeBackMsg s m m.line h = completeCode s (wbReq m (lineOf h m.offset)) .denied := by
  unfold writeBackMsg
  dsimp only
  cases he : dirAt s (lineOf h m.offset) with
  | none => rfl
  | some e => exact if_pos (by simpa [he] using hn)

variable {e : DirEntry} (he : dirAt s (lineOf h m.offset) = some e) (ho : e.owner = some m.src)

include he ho

/-- The line is its sender's: the pin decides (R138, R175, R198). -/
theorem writeBackMsg_owner : writeBackMsg s m m.line h =
    match e.pin with
    | some slot =>
      if (weltAt s slot).owner = m.src ∧ (weltAt s slot).writes.contains (lineOf h m.offset) = true then
        settleTier (noteWb (completeCode (if (weltAt s slot).st = .aborting then s
          else modWelt s slot fun w => { w with buf := w.buf.set (lineOf h m.offset) m.line })
          (wbReq m (lineOf h m.offset)) .ok) (lineOf h m.offset) m.src)
      else holdWb (freeDir s (lineOf h m.offset)) m h (lineOf h m.offset)
    | none => holdWb (freeDir s (lineOf h m.offset)) m h (lineOf h m.offset) := by
  unfold writeBackMsg
  dsimp only
  rw [he]
  exact if_neg (not_not_intro ho)

theorem writeBackMsg_unpinned (hp : e.pin = none) :
    writeBackMsg s m m.line h = holdWb (freeDir s (lineOf h m.offset)) m h (lineOf h m.offset) := by
  rw [writeBackMsg_owner he ho, hp]

variable {slot : Nat} (hp : e.pin = some slot)

include hp

/-- A line its sender's welt writes joins the welt's buffer, unless the welt aborts (R175, R198). -/
theorem writeBackMsg_ownWelt (hw : (weltAt s slot).owner = m.src) (hl : (weltAt s slot).writes.contains (lineOf h m.offset) = true) :
    writeBackMsg s m m.line h =
      settleTier (noteWb (completeCode (if (weltAt s slot).st = .aborting then s
        else modWelt s slot fun w => { w with buf := w.buf.set (lineOf h m.offset) m.line })
        (wbReq m (lineOf h m.offset)) .ok) (lineOf h m.offset) m.src) := by
  rw [writeBackMsg_owner he ho, hp]
  exact if_pos ⟨hw, hl⟩

theorem writeBackMsg_otherWelt
    (hw : (weltAt s slot).owner ≠ m.src ∨ (weltAt s slot).writes.contains (lineOf h m.offset) = false) :
    writeBackMsg s m m.line h = holdWb (freeDir s (lineOf h m.offset)) m h (lineOf h m.offset) := by
  rw [writeBackMsg_owner he ho, hp]
  refine if_neg fun hc => ?_
  rcases hw with hw | hw
  · exact hw hc.1
  · exact Bool.false_ne_true (hw.symm.trans hc.2)

end ByDirectory

/-! ### Answers to snoops (R115, R118, R132, R139, R154) -/

/-- The checks every snoop answer meets; `k` deals with the snoop it answers. -/
def takeAnswer (s : State) (m : RspMsg) (bad : Bool) (k : Snoop → SnoopUse → State) : State :=
  if heard s m.port false = false then s
  else if bad then countBad s m.port
  else if isDead s m.ep then s
  else match findSnoop s m.ep m.stag with
    | none => s
    | some (x, use) => k x use

/-- The answer `v` is dealt with by what the snoop, no longer outstanding, was for. -/
def answered (s : State) (m : RspMsg) (v : Resp) (x : Snoop) (use : SnoopUse) : State :=
  settleTier (answerSnoop (dropSnoop s m.ep m.stag) x use v)

/-- The snoop an answer names waits for the WB_M that is on its way (R132). -/
def waitsForWb (s : State) (m : RspMsg) : State :=
  { s with home := { s.home with snoops := s.home.snoops.map fun y =>
    if y.1.ep = m.ep ∧ y.1.stag = m.stag then ({ y.1 with wbPend := true }, y.2) else y } }

theorem snoopResponse_eq (s : State) (m : RspMsg) (bad : Bool) (v : Resp) :
    snoopResponse s m bad v = takeAnswer s m bad (answered s m v) := rfl

theorem wbPendResponse_eq (s : State) (m : RspMsg) : wbPendResponse s m = takeAnswer s m (m.bad 0x45) fun x use =>
    if wbTaken s x then answered s m .i x use else waitsForWb s m := rfl

section TakeAnswer

variable {s : State} {m : RspMsg} {bad : Bool} (k : Snoop → SnoopUse → State)

theorem takeAnswer_unheard (hh : heard s m.port false = false) : takeAnswer s m bad k = s := if_pos hh

variable (hh : heard s m.port false = true)

include hh

theorem takeAnswer_reserved (hb : bad = true) : takeAnswer s m bad k = countBad s m.port :=
  (if_neg (by simp [hh])).trans (if_pos hb)

variable (hb : bad = false)

include hb

/-- From a dead endpoint, or of an STAG that is not outstanding, an answer is discarded (R118, R154). -/
theorem takeAnswer_discarded (h : isDead s m.ep = true ∨ findSnoop s m.ep m.stag = none) : takeAnswer s m bad k = s := by
  unfold takeAnswer
  rw [if_neg (by simp [hh]), if_neg (by simp [hb])]
  rcases h with hd | hn
  · exact if_pos hd
  · rw [hn]
    exact ite_self s

theorem takeAnswer_outstanding (hd : isDead s m.ep = false) {x : Snoop} {use : SnoopUse}
    (hf : findSnoop s m.ep m.stag = some (x, use)) : takeAnswer s m bad k = k x use := by
  unfold takeAnswer
  rw [if_neg (by simp [hh]), if_neg (by simp [hb]), if_neg (by simp [hd]), hf]

end TakeAnswer

/-- The rows of the answers that settle a snoop at once, each with the answer it gives and its reserved forms. -/
theorem exec_answer {s : State} {m : RspMsg} {c : Instr} {v : Resp} {bad : Bool}
    (hc : (c, v, bad) ∈ [(.rspI m, .i, m.bad 0x41), (.rspS m, .s, m.bad 0x42), (.rspFwdS m, .fwdS, m.bad 0x43),
      (.rspFwdI m, .fwdI, m.bad 0x44), (.dataWb m, .wb m.line, m.badData)]) :
    exec c s = .next (takeAnswer s m bad (answered s m v)) := by
  simp only [List.mem_cons, List.not_mem_nil, or_false, Prod.mk.injEq] at hc
  rcases hc with ⟨rfl, rfl, rfl⟩ | ⟨rfl, rfl, rfl⟩ | ⟨rfl, rfl, rfl⟩ | ⟨rfl, rfl, rfl⟩ | ⟨rfl, rfl, rfl⟩ <;>
    exact congrArg Host.Outcome.next (snoopResponse_eq ..)

theorem exec_rspWbPend (s : State) (m : RspMsg) : exec (.rspWbPend m) s = .next (takeAnswer s m (m.bad 0x45) fun x use =>
    if wbTaken s x then answered s m .i x use else waitsForWb s m) :=
  congrArg Host.Outcome.next (wbPendResponse_eq s m)

/-! ### The rows together -/

/-- Settles O49, row by row. -/
theorem writebackAndSnoopAnswerRowsComplete : Obligations.WritebackAndSnoopAnswerRowsComplete := by
  refine ⟨?unserved, ?served, ?answers, ?pending⟩
  case unserved =>
    intro s m
    exact ⟨fun hh => congrArg _ (wbArrive_unheard hh),
      fun hh hst hfe hr hl hq hb => congrArg _ (wbArrive_reserved ⟨hh, hst, hfe, hr, hl, hq⟩ hb)⟩
  case served =>
    intro s m a h hb hh hst hfe hr hl hq hf ha hc hhall d line v t u r take
    have hs : Served s m.port m.src := ⟨hh, hst, hfe, hr, hl, hq⟩
    refine ⟨fun he hold => ⟨fun ht => ?_, fun ht => ?_⟩, fun hold ht => ?_⟩
    · exact congrArg Host.Outcome.next (wbArrive_denied hs hb hf ha hc hhall (fun _ => he) ht)
    · have row {t : State} (hw : writeBackMsg u m m.line h = t) : exec (.wbM m) s = .next t :=
        congrArg Host.Outcome.next ((wbArrive_byDirectory hs hb hf ha hc hhall ht hold he).trans hw)
      exact ⟨fun hn => row (writeBackMsg_notOwner hn), fun e hd ho => ⟨fun hp => row (writeBackMsg_unpinned hd ho hp),
        fun slot hp => ⟨fun hw hl => row (writeBackMsg_ownWelt hd ho hp hw hl), fun hw => row (writeBackMsg_otherWelt hd ho hp hw)⟩⟩⟩
    · exact congrArg Host.Outcome.next (wbArrive_window hs hb hf ha hc hhall ht hold)
  case answers =>
    intro s m c v bad hc
    rw [exec_answer hc]
    exact ⟨fun hh => congrArg _ (takeAnswer_unheard _ hh), fun hh hb => congrArg _ (takeAnswer_reserved _ hh hb),
      fun hh hb h => congrArg _ (takeAnswer_discarded _ hh hb h),
      fun x use hh hb hd hf => congrArg _ (takeAnswer_outstanding _ hh hb hd hf)⟩
  case pending =>
    intro s m
    rw [exec_rspWbPend]
    refine ⟨fun hh => congrArg _ (takeAnswer_unheard _ hh), fun hh hb => congrArg _ (takeAnswer_reserved _ hh hb),
      fun hh hb h => congrArg _ (takeAnswer_discarded _ hh hb h), fun x use hh hb hd hf => ?_⟩
    rw [takeAnswer_outstanding _ hh hb hd hf]
    exact ⟨fun ht => congrArg _ (if_pos ht), fun ht => congrArg _ (if_neg (by simp [ht]))⟩

end Sys2Proof.Proofs
end

section
/-! Mirroring, resynchronisation, the recovery window, the clear of POISONED halls and the planned swap (O42): one lemma per case of each
row's definition (R193, R422, R494, R535, R569, R571, R574, R575, R577). -/

namespace Sys2Proof.Proofs

open Sys2Proof.Machine Sys2Proof.Laws

/-! ### Mirror acknowledgements (R494, R569, R571) -/

/-- An acknowledgement ends the waits it covers, if there are any (R569). -/
theorem mirrorAck_eq (s : State) (mseq : Nat) : exec (.mirrorAck mseq) s =
    .next (if ∃ v ∈ s.pair.waits, v.mseq ≤ mseq then settleTier (endWaits s true fun v => decide (v.mseq ≤ mseq)) else s) :=
  congrArg Host.Outcome.next (ite_congr (by simp) (fun _ => rfl) (fun _ => rfl))

/-- The standby of an active unit that falls out of step is told so while a path stands (R571). -/
def toldNotSynced (s : State) : State :=
  if s.pair.role = .active ∧ s.pair.peerPath = true ∧ s.pair.sync ≠ .notSynced then (sendMirror s (.sync 2 false)).1 else s

/-- Waits stand as long as the mirror is live and none of them is 1 ms old (R571). -/
theorem mirrorAckTimeout_eq {s : State} (hw : s.pair.waits ≠ []) (hr : s.pair.role ≠ .fenced) : exec .mirrorAckTimeout s =
    .next (if mirrorLive s = true ∧ ∀ v ∈ s.pair.waits, s.now < ms 1 + v.sentAt then s
      else settleTier (endWaits (loseSync (toldNotSynced s)) false fun _ => true)) :=
  congrArg Host.Outcome.next ((if_neg (by simp [hw, hr])).trans (ite_congr (by simp) (fun _ => rfl) (fun _ => rfl)))

/-! ### Resynchronisation (R571, R577) -/

theorem resyncDue_iff (s : State) : resyncDue s = true ↔
    s.pair.role = .active ∧ s.pair.peerPath = true ∧ s.pair.partnerReady = true ∧ sec 1 + s.pair.peerSince ≤ s.now := by
  simp only [resyncDue, Bool.and_eq_true, decide_eq_true_eq, and_assoc]

theorem resyncStart_due {s : State} (h : resyncDue s = true) :
    exec .resyncStart s = .next (if s.pair.sync = .notSynced then startResync s else s) :=
  congrArg Host.Outcome.next (ite_congr (by simp [h]) (fun _ => rfl) (fun _ => rfl))

/-- The state once every line has been copied: SYNCED, the standby told so. -/
def resynced (s : State) : State :=
  mirrorNote { s with pair := { s.pair with sync := .synced, resyncPos := 0, resyncTotal := 0 } } (.sync 0 s.pair.whole)

theorem endResync_noSwap {s : State} (h : (resynced s).pair.swap = none) : endResync s = resynced s := by
  unfold resynced at *
  simp only [endResync, modPair, h]

/-- A planned swap that sought it completes its command (R577). -/
theorem endResync_swap {s : State} {at_ w since : Nat} (h : (resynced s).pair.swap = some (at_, w, since)) (hw : w < 1024)
    (hall : (resynced s).pair.whole = true) : endResync s =
      finishCmd { resynced s with pair := { (resynced s).pair with swap := some (at_, 1024, since) } } w stOk 0 [] := by
  unfold resynced at *
  simp only [endResync, modPair, h]
  exact if_neg (by simp [hall, hw])

/-- The copy is past a line: `rest` is left (R571). -/
def resyncPast (s : State) (rest : List Nat) : State :=
  let n := max 1 s.pair.resyncTotal
  { s with pair := { s.pair with resyncLeft := rest, resyncPos := 65535 * (n - rest.length) / n } }

section Copying

variable {s : State} (hr : s.pair.role = .active) (hs : s.pair.sync = .resyncing) (hp : s.pair.peerPath = true)

include hr hs hp

theorem resyncStep_last (hl : s.pair.resyncLeft = []) : resyncStep s = endResync s := by
  unfold resyncStep
  rw [if_neg (by simp [hr, hs, hp]), hl]

variable {line : Nat} {rest : List Nat} (hl : s.pair.resyncLeft = line :: rest)

include hl

/-- The next line is looked up in the hall that holds it now. -/
theorem resyncStep_next : resyncStep s = match hallAt (resyncPast s rest) (line * 64) with
    | none => resyncPast s rest
    | some (hid, h) =>
      let off := line * 64 - 2 ^ 30 * h.base
      if isLanded (resyncPast s rest) hid h off = false then resyncPast s rest
      else mirrorNote (xfer (readLine (resyncPast s rest) hid h off).1 0x20 sysSub 6 64 0)
        (.lines hid [(off / 64, (readLine (resyncPast s rest) hid h off).2)]) := by
  unfold resyncStep
  rw [if_neg (by simp [hr, hs, hp]), hl]
  rfl

/-- A line whose hall is gone is passed over. -/
theorem resyncStep_hallGone (hh : hallAt (resyncPast s rest) (line * 64) = none) : resyncStep s = resyncPast s rest := by
  rw [resyncStep_next hr hs hp hl, hh]

variable {hid : Nat} {h : Hall} (hh : hallAt (resyncPast s rest) (line * 64) = some (hid, h))

include hh

/-- So is one whose block is no longer landed. -/
theorem resyncStep_unlanded (hn : isLanded (resyncPast s rest) hid h (line * 64 - 2 ^ 30 * h.base) = false) :
    resyncStep s = resyncPast s rest := by
  rw [resyncStep_next hr hs hp hl, hh]
  exact if_pos hn

/-- A landed line is read and sent under S6. -/
theorem resyncStep_sends (hn : isLanded (resyncPast s rest) hid h (line * 64 - 2 ^ 30 * h.base) = true) :
    let read := readLine (resyncPast s rest) hid h (line * 64 - 2 ^ 30 * h.base)
    resyncStep s = mirrorNote (xfer read.1 0x20 sysSub 6 64 0) (.lines hid [((line * 64 - 2 ^ 30 * h.base) / 64, read.2)]) := by
  rw [resyncStep_next hr hs hp hl, hh]
  exact if_neg (ne_false_of_eq_true hn)

end Copying

/-! ### Recovery (R193, R422, R574, R575) -/

theorem recoveryWindowEnd_eq {s : State} (h : s.home.recoveryEnd ≠ 0) : exec .recoveryWindowEnd s =
    .next (if s.home.recoveryEnd ≤ s.now then settleTier ((s.home.lines.map fun e => e.1).foldl activate s) else s) := by
  refine congrArg Host.Outcome.next ?_
  by_cases hd : s.home.recoveryEnd ≤ s.now
  · rw [if_pos hd]
    exact if_neg (by simp [h, hd])
  · rw [if_neg hd]
    exact if_pos (.inr (Nat.not_le.1 hd))

theorem poisonedHallClearStep_eq {s : State} {hid : Nat} {h : Hall} (hh : s.halls.get? hid = some h) :
    exec (.poisonedHallClearStep hid) s =
      .next (if h.poisoned = true ∧ h.clearPos < 2 ^ 24 * h.size then clearAdvance s hid h else s) := by
  change execPoisonedHallClearStep hid s = _
  unfold execPoisonedHallClearStep
  rw [hh]

/-! ### The planned swap (R535, R577) -/

/-- The quiesce of the swap instant, unless one is under way. -/
def swapQuiescing (s : State) : State :=
  if s.pwr.quiesceSince.isSome = true then s
  else { s with pwr := { s.pwr with quiesceSince := some s.now, swapQuiesce := true } }

/-- At an active unit whose PAIR_SWAP has completed, the instant alone decides. -/
theorem swapAtReached_eq {s : State} {at_ since : Nat} (hs : s.pair.swap = some (at_, 1024, since)) (hr : s.pair.role = .active) :
    exec .swapAtReached s = .next (if s.now < at_ then s
      else if quiesced (swapQuiescing s) = true ∨
          (swapQuiescing s).pwr.quiesceSince.any (fun q => decide (ms 25 + q ≤ (swapQuiescing s).now)) = true then
        recoveryStart (selfFence (swapQuiescing s) 3)
      else swapQuiescing s) := by
  change Host.Outcome.next (swapAtReached s) = _
  unfold swapAtReached
  rw [hs]
  exact congrArg _ (ite_congr (by simp [hr]) (fun _ => rfl) (fun _ => rfl))

/-! ### The rows together -/

/-- Settles O42, row by row. The record that tells SYNC, the step of the clear and what a resynchronisation sends again are the model's choices
(logs 36, 49, 74). -/
theorem mirrorAndRecoveryRowsComplete : Obligations.MirrorAndRecoveryRowsComplete := by
  refine ⟨?ack, ?late, ?start, ?step, fun _ => recoveryWindowEnd_eq, fun _ _ _ => poisonedHallClearStep_eq, ?swap⟩
  case ack =>
    intro s m
    rw [mirrorAck_eq]
    exact ⟨fun h => congrArg _ (if_pos h), fun h => congrArg _ (if_neg fun ⟨v, hv, hm⟩ => Nat.not_lt.2 hm (h v hv))⟩
  case late =>
    intro s hw hr
    rw [mirrorAckTimeout_eq hw hr]
    refine ⟨fun hl hv => congrArg _ (if_pos ⟨hl, hv⟩), fun h => congrArg _ (if_neg fun ⟨hl, hv⟩ => ?_)⟩
    rcases h with h | ⟨v, hm, hd⟩
    · exact Bool.false_ne_true (h.symm.trans hl)
    · exact Nat.not_lt.2 hd (hv v hm)
  case start =>
    intro s hr hp hready hd
    rw [resyncStart_due ((resyncDue_iff s).2 ⟨hr, hp, hready, hd⟩)]
    exact ⟨fun h => congrArg _ (if_pos h), fun h => congrArg _ (if_neg h)⟩
  case step =>
    intro s hr hs hp
    refine ⟨fun hl => ⟨fun _ hn => ?_, fun a w d hn hw hall => ?_⟩, fun line rest hl =>
      ⟨fun hh => congrArg _ (resyncStep_hallGone hr hs hp hl hh), fun hid h hh =>
        ⟨fun hn => congrArg _ (resyncStep_unlanded hr hs hp hl hh hn), fun hn => congrArg _ (resyncStep_sends hr hs hp hl hh hn)⟩⟩⟩
    · exact congrArg _ ((resyncStep_last hr hs hp hl).trans (endResync_noSwap hn))
    · exact congrArg _ ((resyncStep_last hr hs hp hl).trans (endResync_swap hn hw hall))
  case swap =>
    intro s a d hs hr
    rw [swapAtReached_eq hs hr]
    exact ⟨fun h => congrArg _ (if_pos h), fun h => congrArg _ (if_neg (Nat.not_lt.2 h))⟩

end Sys2Proof.Proofs
end

section
/-! The bounds of welts, the durable journal record and AGE_LIMIT (O52): one lemma per case of each row's definition (R167, R170, R187,
R189, R191). -/

namespace Sys2Proof.Proofs

open Sys2Proof.Machine Sys2Proof.Laws

/-! ### Welt bounds (R170, R189) -/

theorem weltLate_due {s : State} {slot : Nat} (hst : (weltAt s slot).st = .open_)
    (hd : (weltAt s slot).openedAt + (weltAt s slot).tmo ≤ s.now) : weltLate s slot = abortWelt s slot stTimeout false :=
  if_pos ⟨hst, hd⟩

theorem weltLate_passed {s : State} {slot : Nat}
    (h : (weltAt s slot).st ≠ .open_ ∨ s.now < (weltAt s slot).openedAt + (weltAt s slot).tmo) : weltLate s slot = s :=
  if_neg fun ⟨hst, hd⟩ => h.elim (fun hn => hn hst) (Nat.not_lt.2 hd)

/-- A commit that does not collect, or has not done so for 2 ms, is left alone (R189). -/
theorem commitCollectionTimeout_passed {s : State} {slot : Nat} (h : (weltAt s slot).st ≠ .committing ∨ (weltAt s slot).phase ≠ .collect ∨
    s.now < ms 2 + (weltAt s slot).phaseAt) : exec (.commitCollectionTimeout slot) s = .next s := by
  refine congrArg Host.Outcome.next (if_neg fun ⟨hst, hph, hd⟩ => ?_)
  rcases h with h | h | h
  · exact h hst
  · exact h hph
  · exact Nat.not_lt.2 hd h

/-- The owner of one that has is declared dead, by the snoop it owes (R189). -/
theorem commitCollectionTimeout_due {s : State} {slot : Nat} (hst : (weltAt s slot).st = .committing) (hph : (weltAt s slot).phase = .collect)
    (hd : ms 2 + (weltAt s slot).phaseAt ≤ s.now) {x : Snoop × SnoopUse}
    (hx : (s.home.snoops.find? fun x => decide (x.2 = .weltCommit slot)) = some x) : exec (.commitCollectionTimeout slot) s =
      .next (endpointDead s (weltAt s slot).owner 1 x.1.stag (weltAt s slot).hall) := by
  refine congrArg Host.Outcome.next ((if_pos ⟨hst, hph, hd⟩).trans ?_)
  rw [hx]

theorem journalDurableTimeout_passed {s : State} {slot : Nat} (h : (weltAt s slot).st ≠ .committing ∨ (weltAt s slot).phase ≠ .durable ∨
    (weltAt s slot).jwait = false ∨ s.now < ms 12 + (weltAt s slot).phaseAt) : exec (.journalDurableTimeout slot) s = .next s := by
  refine congrArg Host.Outcome.next (if_neg fun ⟨hst, hph, hj, hd⟩ => ?_)
  rcases h with h | h | h | h
  · exact h hst
  · exact h hph
  · exact Bool.false_ne_true (h.symm.trans hj)
  · exact Nat.not_lt.2 hd h

theorem journalDurableTimeout_due {s : State} {slot : Nat} (hst : (weltAt s slot).st = .committing) (hph : (weltAt s slot).phase = .durable)
    (hj : (weltAt s slot).jwait = true) (hd : ms 12 + (weltAt s slot).phaseAt ≤ s.now) : exec (.journalDurableTimeout slot) s =
      .next (settleTier (abortWelt s slot (if (weltAt s slot).jissued = true then stFault else stAbortCapacity) false)) :=
  congrArg Host.Outcome.next (if_pos ⟨hst, hph, hj, hd⟩)

/-! ### The durable journal record (R187, R191) -/

/-- The running writes of a hall's journal record. -/
def recordJob (s : State) (hid : Nat) : Option FlashJob :=
  s.flash.jobs.find? fun j => (match j.kind with
    | .record x _ => decide (x = hid)
    | _ => false) && decide (j.st = .running)

/-- The record of a hall's journal that is not durable yet. -/
def openRecord (s : State) (hid : Nat) : Option JRec := (s.jrn.get? hid).bind fun j => j.recs.find? fun r => !r.durable

/-- The state once a record's writes have ended and it is marked durable. -/
def recordDurable (s : State) (hid : Nat) (job : FlashJob) (r : JRec) : State :=
  let u := endJob s job true
  { u with jrn := u.jrn.modify hid fun j => { j with recs := j.recs.map fun x => if x.jseq = r.jseq then { x with durable := true } else x } }

/-- Does the welt of a record wait for it, one that it issued itself? -/
abbrev awaitsRecord (w : Welt) (r : JRec) : Prop := w.st = .committing ∧ w.jwait = true ∧ w.jissued = true ∧ w.age = r.age

/-- Without running writes, or with the flash tier offline, nothing becomes durable. -/
theorem journalDurable_passed {s : State} {hid : Nat} (h : recordJob s hid = none ∨ flashOff s = true) : journalDurable s hid = s := by
  unfold journalDurable
  split
  next => rfl
  next job hj => exact if_pos (h.resolve_left fun hn => Option.some_ne_none job (hj.symm.trans hn))

section Durable

variable {s : State} {hid : Nat} {job : FlashJob} (hj : recordJob s hid = some job) (hf : flashOff s = false)

include hj hf

/-- Writes that end make the open record durable, and the welt that waits for it goes on (R187). -/
theorem journalDurable_running : journalDurable s hid = match openRecord s hid with
    | none => settleTier (endJob s job false)
    | some r =>
      let t := recordDurable s hid job r
      settleTier (if awaitsRecord (weltAt t r.slot) r then durableGo (modWelt t r.slot fun w => { w with jwait := false }) r.slot else t) := by
  unfold journalDurable
  split
  next hn => exact absurd (hn.symm.trans hj) (Option.some_ne_none job).symm
  next j hs =>
    obtain rfl : j = job := Option.some.inj (hs.symm.trans hj)
    exact if_neg (ne_true_of_eq_false hf)

theorem journalDurable_noRecord (hr : openRecord s hid = none) : journalDurable s hid = settleTier (endJob s job false) := by
  rw [journalDurable_running hj hf, hr]

variable {r : JRec} (hr : openRecord s hid = some r)

include hr

theorem journalDurable_awaited (hw : awaitsRecord (weltAt (recordDurable s hid job r) r.slot) r) : journalDurable s hid =
    settleTier (durableGo (modWelt (recordDurable s hid job r) r.slot fun w => { w with jwait := false }) r.slot) := by
  rw [journalDurable_running hj hf, hr]
  exact congrArg settleTier (if_pos hw)

theorem journalDurable_unawaited (hw : ¬awaitsRecord (weltAt (recordDurable s hid job r) r.slot) r) :
    journalDurable s hid = settleTier (recordDurable s hid job r) := by
  rw [journalDurable_running hj hf, hr]
  exact congrArg settleTier (if_neg hw)

end Durable

/-! ### AGE_LIMIT (R167) -/

/-- The state whose commit raises AGE_LIMIT. -/
def ageRaised (s : State) : State :=
  { s with welt := { s.welt with ageLimit := 2 ^ 36 + s.welt.ageLimit, limitFailed := false } }

/-- What waited for a limit that could not be committed is answered with ST_FAULT; the commit is tried again 10 ms later. -/
def ageFailed (s : State) : State :=
  s.welt.waiting.foldl (fun s e => wltAnswer s e.1.port e.1.ep e.1.tag fun p => .wltEnd p e.1.ep e.1.tag e.1.hall 0 false false stFault 0 s.homeEpoch)
    { s with welt := { s.welt with limitFailed := true, retryAt := ms 10 + s.now, waiting := [] } }

theorem commit_snd (s : State) : (commit s).2 = s.store.writable := by
  cases h : s.store.writable <;> simp [commit, commitWith, h]

theorem ageCommit_committed {s : State} {ok : Bool} (ho : ok = true) (hw : s.store.writable = true)
    (hm : mirrorLive (commit (ageRaised s)).1 = false) : ageCommit s ok = openWaiting (commit (ageRaised s)).1 := by
  have hd : (ok && (commit (ageRaised s)).2) = true := by rw [ho, commit_snd]; exact hw
  exact (if_pos hd).trans (congrArg openWaiting (if_neg (ne_true_of_eq_false hm)))

theorem ageCommit_failed {s : State} {ok : Bool} (h : ok = false ∨ s.store.writable = false) : ageCommit s ok = ageFailed s := by
  have hd : (ok && (commit (ageRaised s)).2) = false := by
    rw [commit_snd, Bool.and_eq_false_iff]
    exact h
  exact if_neg (ne_true_of_eq_false hd)

/-- AGE_LIMIT is committed when AGE has come within 2^32 of it, and no failed commit waits to be retried. -/
theorem ageLimitCommit_due {s : State} (ok : Bool) (hf : s.pwr.feltiOn = true) (hl : s.welt.limitFailed = false)
    (hd : s.welt.ageLimit ≤ 2 ^ 32 + s.welt.age) : exec (.ageLimitCommit ok) s = .next (ageCommit s ok) :=
  congrArg Host.Outcome.next (if_pos ⟨hf, hl, hd⟩)

theorem ageLimitCommit_passed {s : State} (ok : Bool)
    (h : s.pwr.feltiOn = false ∨ s.welt.limitFailed = true ∨ 2 ^ 32 + s.welt.age < s.welt.ageLimit) :
    exec (.ageLimitCommit ok) s = .next s := by
  refine congrArg Host.Outcome.next (if_neg fun ⟨hf, hl, hd⟩ => ?_)
  rcases h with h | h | h
  · exact Bool.false_ne_true (h.symm.trans hf)
  · exact Bool.false_ne_true (hl.symm.trans h)
  · exact Nat.not_lt.2 hd h

theorem ageLimitRetry_due {s : State} (ok : Bool) (hf : s.pwr.feltiOn = true) (hl : s.welt.limitFailed = true)
    (hd : s.welt.retryAt ≤ s.now) : exec (.ageLimitRetry ok) s = .next (ageCommit s ok) :=
  congrArg Host.Outcome.next (if_pos ⟨hf, hl, hd⟩)

theorem ageLimitRetry_passed {s : State} (ok : Bool)
    (h : s.pwr.feltiOn = false ∨ s.welt.limitFailed = false ∨ s.now < s.welt.retryAt) : exec (.ageLimitRetry ok) s = .next s := by
  refine congrArg Host.Outcome.next (if_neg fun ⟨hf, hl, hd⟩ => ?_)
  rcases h with h | h | h
  · exact Bool.false_ne_true (h.symm.trans hf)
  · exact Bool.false_ne_true (h.symm.trans hl)
  · exact Nat.not_lt.2 hd h

/-! ### The rows together -/

/-- Settles O52, row by row. That a commit waiting behind another's record ends with ST_ABORT_CAPACITY is the model's choice (log 90). -/
theorem weltBoundRowsComplete : Obligations.WeltBoundRowsComplete := by
  refine ⟨?bounds, ?undue, ?record, ?off, ?age⟩
  case bounds =>
    intro s k w
    refine ⟨fun hst hd => ?_, fun h => ?_,
      fun hst hph => ⟨fun hd => commitCollectionTimeout_passed (.inr (.inr hd)), fun x hd hx => commitCollectionTimeout_due hst hph hd hx⟩,
      fun hst hph hj => ⟨fun hd => journalDurableTimeout_passed (.inr (.inr (.inr hd))), journalDurableTimeout_due hst hph hj⟩⟩
    · exact congrArg (fun t => Host.Outcome.next (settleTier t)) (weltLate_due hst hd)
    · exact congrArg (fun t => Host.Outcome.next (settleTier t)) (weltLate_passed h)
  case undue =>
    intro s k w
    exact ⟨fun h => commitCollectionTimeout_passed (h.imp_right .inl),
      fun h => journalDurableTimeout_passed (h.imp_right fun h => h.imp_right .inl)⟩
  case record =>
    intro s hid kind mine rec_
    refine ⟨fun h => congrArg Host.Outcome.next (journalDurable_passed h), fun b hj hf =>
      ⟨fun hr => congrArg Host.Outcome.next (journalDurable_noRecord hj hf hr), fun r hr => ?_⟩⟩
    refine ⟨fun hst hw hi ha => congrArg Host.Outcome.next (journalDurable_awaited hj hf hr ⟨hst, hw, hi, ha⟩),
      fun h => congrArg Host.Outcome.next (journalDurable_unawaited hj hf hr ?_)⟩
    rintro ⟨hst, hw, hi, ha⟩
    rcases h with h | h | h | h
    · exact h hst
    · exact Bool.false_ne_true (h.symm.trans hw)
    · exact Bool.false_ne_true (h.symm.trans hi)
    · exact h ha
  case off => exact fun s ok hf => ⟨ageLimitCommit_passed ok (.inl hf), ageLimitRetry_passed ok (.inl hf)⟩
  case age =>
    intro s ok hf t failed
    refine ⟨fun hl hd => ?_, fun h => ageLimitCommit_passed ok (.inr h), fun hl hd => ?_, fun h => ageLimitRetry_passed ok (.inr h)⟩
    · rw [ageLimitCommit_due ok hf hl hd]
      exact ⟨fun ho hl hm => congrArg _ (ageCommit_committed ho hl.2 hm), fun h => congrArg _ (ageCommit_failed h)⟩
    · rw [ageLimitRetry_due ok hf hl hd]
      exact ⟨fun ho hl hm => congrArg _ (ageCommit_committed ho hl.2 hm), fun h => congrArg _ (ageCommit_failed h)⟩

end Sys2Proof.Proofs
end

section
/-! The tier engine's rows (O26): one lemma per case of each row's definition (R192, R211, R214, R217, R218, R220, R222, R223, R227, R229,
R230, R632). -/

namespace Sys2Proof.Proofs

open Sys2Proof.Machine Sys2Proof.Laws

/-! ### Landings, writebacks and superblocks (R192, R211, R217, R218, R236, R632) -/

/-- A landing block whose reads are done: the slots that read bad, or hold a misplaced unit, are noted, each once (R236). -/
def landingRead (s : State) (hid b : Nat) (h : Hall) (x : Block) (bad : List (Nat × Nat)) : Block :=
  let t := nvEnd s (.land hid b)
  let odd := ((blockUnits t hid h b).filter (misplaced t hid)).map fun u => (driveOf u, rowOf u)
  { x with bad := x.bad ++ ((bad ++ odd).eraseDups).filter fun k => x.asked.contains k && !x.bad.contains k }

section Block

variable {s : State} {hid b : Nat} {h : Hall} {x : Block} (hh : hallOf s hid = some h) (hx : blockOf s hid b = some x)

include hh hx

/-- A landing reads on where more slots are needed, else its block lands (R211, R236). -/
theorem landingReadDone_landing (bad : List (Nat × Nat)) (hst : x.st = .landing) : exec (.landingReadDone hid b bad) s =
    let y := landingRead s hid b h x bad
    let u := modBlock (nvEnd s (.land hid b)) hid b fun z => { z with bad := y.bad }
    .next (if !flashOff u && !(landSlots u hid h b y).isEmpty then landReads u hid h b else settleTier (landFinish u hid h b y)) := by
  refine congrArg Host.Outcome.next ?_
  unfold landingDone
  rw [hh, hx]
  exact if_neg (not_not_intro hst)

theorem maxDirtyExpiry_due (hst : x.st = .dirty) (hd : x.dirtyAt + x.maxDirty ≤ s.now) :
    exec (.maxDirtyExpiry hid b) s = .next (writeBack s hid h b false) := by
  change execMaxDirtyExpiry hid b s = _
  unfold execMaxDirtyExpiry
  rw [hh, hx]
  exact congrArg _ (if_pos ⟨hst, hd⟩)

end Block

/-- A writeback ends, the standby is told, and what waited for the block goes on (R192, R218, R570). -/
theorem writebackDone_running {s : State} {hid b : Nat} {h : Hall} {j : FlashJob} (hh : hallOf s hid = some h)
    (hj : runningJob s (.block hid b) = some j) (hf : flashOff s = false) : exec (.writebackDone hid b) s =
    let u := writebackEnd s hid h b j
    let v := if mirrors u h = true then mirrorNote u (.clean hid b) else u
    .next (settleTier (hintBlockDone (goalDone v hid h b) hid h b)) := by
  refine congrArg Host.Outcome.next ?_
  unfold writebackDone
  rw [hj]
  refine (if_neg (ne_true_of_eq_false hf)).trans ?_
  rw [hh]

/-- The written superblocks take effect and the records they cover leave the journal (R632). -/
def checkpointTaken (j : Journal) : Journal :=
  let k := j.sbWrite.foldl (fun (j : Journal) w => if w.2 = true then { j with sb1 := w.1 } else { j with sb0 := w.1 }) j
  { k with sbWrite := [], recs := k.recs.filter fun r => decide ((checkpoint k).ckptJ < r.jseq) }

theorem superblockWriteDone_running {s : State} {hid : Nat} {j : FlashJob} (hj : runningJob s (.super hid) = some j)
    (hf : flashOff s = false) : exec (.superblockWriteDone hid) s =
      .next (settleTier { endJob s j true with jrn := (endJob s j true).jrn.modify hid checkpointTaken }) := by
  refine congrArg Host.Outcome.next ?_
  unfold superblockDone
  rw [hj]
  exact if_neg (ne_true_of_eq_false hf)

/-! ### Heat and policy (R220, R222, R223) -/

theorem decayPeriodExpiry_eq {s : State} {hid : Nat} (hh : (hallOf s hid).isSome = true) : exec (.decayPeriodExpiry hid) s =
    .next (if s.now < ms (tierRec s hid).decayIn + (tierRec s hid).lastDecay then s
      else
        let u := modTier s hid fun t => { t with lastDecay := s.now, decayIn := t.decayPeriod, hintIn := t.hintHeat }
        (hallBlocks u hid).foldl (fun s' e => if landed e.2 = true then
          modBlock s' hid e.1 fun x => { x with heat := x.heat / 2 ^ (tierRec s hid).decayShift } else s') u) :=
  congrArg Host.Outcome.next (ite_congr (by simp [Option.isNone_eq_false_iff.2 hh]) (fun _ => rfl) (fun _ => rfl))

theorem tierPolicyPass_due {s : State} (hf : s.pwr.feltiOn = true) (hd : ms 10 + s.tier.lastPolicy ≤ s.now) : exec .tierPolicyPass s =
    .next (((s.halls.map fun (e : Nat × Hall) => e.1) ++ [4095]).foldl (fun (s : State) hid => match hallOf s hid with
      | some h => if h.cls = HallClass.resident then s else policyHall s hid h
      | none => s) { s with tier := { s.tier with lastPolicy := s.now } }) :=
  congrArg Host.Outcome.next (if_neg (by simp [hf, hd]))

theorem decayAdaptPass_due {s : State} (hf : s.pwr.feltiOn = true) (hd : sec 1 + s.tier.lastAdapt ≤ s.now) : exec .decayAdaptPass s =
    .next { s with tier := { s.tier with lastAdapt := s.now, halls := s.tier.halls.map fun e => (e.1, adaptRec e.2) } } :=
  congrArg Host.Outcome.next (if_neg (by simp [hf, hd]))

/-! ### Holds, orders and hints (R214, R227, R229, R230) -/

/-- Changing a block that is there writes it back changed. -/
theorem modBlock_of_blockOf {s : State} {hid b : Nat} {x : Block} (hx : blockOf s hid b = some x) (f : Block → Block) :
    modBlock s hid b f = { s with tier := { s.tier with blocks := s.tier.blocks.set (blkKey hid b) (f x) } } := by
  unfold blockOf at hx
  simp only [modBlock, NMap.modify, hx]

section Hold

variable {s : State} {hid b t : Nat} {x : Block} (hx : blockOf s hid b = some x) (ht : t ≤ s.now)

include hx ht

theorem keepExpiry_past (hk : x.keepUntil = some t) : exec (.keepExpiry hid b) s =
    .next (settleTier { s with tier := { s.tier with blocks := s.tier.blocks.set (blkKey hid b) { x with keepUntil := none } } }) := by
  change Host.Outcome.next (settleTier (modBlock s hid b _)) = _
  rw [modBlock_of_blockOf hx, hk]
  simp only [ht, if_true]

theorem orderHoldExpiry_past (hk : x.holdUntil = some t) : exec (.orderHoldExpiry hid b) s =
    .next (settleTier { s with tier := { s.tier with blocks := s.tier.blocks.set (blkKey hid b) { x with holdUntil := none } } }) := by
  change Host.Outcome.next (settleTier (modBlock s hid b _)) = _
  rw [modBlock_of_blockOf hx, hk]
  simp only [ht, if_true]

end Hold

theorem orderDeadlinePassed_past {s : State} {i : Nat} {o : LandOrder} (ho : s.tier.orders[i]? = some o) (hd : o.deadline ≤ s.now) :
    exec (.orderDeadlinePassed i) s = .next { s with tier := { s.tier with
      orders := s.tier.orders.eraseIdx i, ordersDropped := satAdd 32 s.tier.ordersDropped 1 } } := by
  change execOrderDeadlinePassed i s = _
  unfold execOrderDeadlinePassed
  rw [ho]
  exact congrArg _ (if_pos hd)

/-- The hint's window completes; the hint goes on without one (R227). -/
theorem hintTimeout_due {s : State} {w : Nat} {h : Hint} (hh : (s.tier.hints.find? fun h => h.w = some w) = some h)
    (hd : sec 2 + h.since ≤ s.now) : exec (.hintTimeout w) s = .next (finishCmd { s with tier := { s.tier with
      hints := s.tier.hints.map fun x => if x.w = some w then { x with w := none } else x } } w stTimeout 0 []) := by
  change execHintTimeout w s = _
  unfold execHintTimeout
  rw [hh]
  exact congrArg _ (if_pos hd)

/-! ### The rows together -/

/-- Settles O26, row by row. -/
theorem tierRowsComplete : Obligations.TierRowsComplete := by
  refine ⟨?block, fun _ _ _ => superblockWriteDone_running, ?decay, fun _ => tierPolicyPass_due, fun _ => decayAdaptPass_due, ?hold,
    fun _ _ _ => orderDeadlinePassed_past, fun _ _ _ => hintTimeout_due⟩
  case block =>
    intro s hid b bad h x hh hx
    exact ⟨landingReadDone_landing hh hx bad, fun _ => writebackDone_running hh, maxDirtyExpiry_due hh hx⟩
  case decay =>
    intro s hid hh t
    rw [decayPeriodExpiry_eq hh]
    exact ⟨fun h => congrArg _ (if_pos h), fun h => congrArg _ (if_neg (Nat.not_lt.2 h))⟩
  case hold =>
    intro s hid b x t hx ht
    exact ⟨keepExpiry_past hx ht, orderHoldExpiry_past hx ht⟩

end Sys2Proof.Proofs
end

section
/-! The intent map, the resync and the rebuild (O28): one lemma per case of each row's definition (R239 to R241, R250 to R252, R256). -/

namespace Sys2Proof.Proofs

open Sys2Proof.Machine Sys2Proof.Laws

/-! ### Intent bits (R239, R240) -/

theorem intentBitClear_eq {s : State} {g t : Nat} (ht : s.flash.intent.get? g = some t) : exec (.intentBitClear g) s =
    .next (if sec 1 + t ≤ s.now ∧ regionBusy s g = false ∧ s.flash.resync.contains g = false
      then settleTier (ctlSettle (ctlWrite { s with flash := { s.flash with intent := s.flash.intent.erase g } }).1) else s) := by
  change execIntentBitClear g s = _
  unfold execIntentBitClear
  rw [ht]

/-! ### Resync of a marked region (R240, R252, R256) -/

theorem not_backWaits {s : State} {r : Nat} (hf : flashHalt s = false) (hb : rowBusy s r = false) :
    ¬(backMay s = false ∨ rowBusy s r = true) := by
  simp [backMay, hf, hb]

section Resync

variable {s : State} {g : Nat} {rest : List Nat} (hq : s.flash.resync = g :: rest)

include hq

/-- The row to recompute is the next one of the first region that waits. -/
theorem intentResync_cons : intentResync s =
    let r := 4096 * g + s.flash.resyncRow
    if backMay s = false ∨ rowBusy s r = true then s
    else if 4096 ≤ s.flash.resyncRow + 1 ∨ s.flash.cmin - 262144 ≤ r + 1 then
      let u := if r < s.flash.cmin - 262144 then fixParity s r else s
      settleTier (ctlSettle (ctlWrite { u with flash := { u.flash with resync := rest, resyncRow := 0, intent := u.flash.intent.erase g } }).1)
    else fixParity { s with flash := { s.flash with resyncRow := s.flash.resyncRow + 1 } } r := by
  unfold intentResync
  split
  next hn => exact absurd (hn.symm.trans hq) (List.cons_ne_nil g rest).symm
  next hs =>
    obtain ⟨rfl, rfl⟩ := List.cons.inj (hs.symm.trans hq)
    rfl

theorem intentResync_waits (h : flashHalt s = true ∨ rowBusy s (4096 * g + s.flash.resyncRow) = true) : intentResync s = s := by
  rw [intentResync_cons hq]
  exact if_pos (h.imp_left fun hf => by rw [backMay, hf, Bool.not_true])

section Runs

variable (hf : flashHalt s = false) (hb : rowBusy s (4096 * g + s.flash.resyncRow) = false)

include hf hb

theorem intentResync_next (hr : s.flash.resyncRow + 1 < 4096) (hc : 4096 * g + s.flash.resyncRow + 1 < s.flash.cmin - 262144) :
    intentResync s = fixParity { s with flash := { s.flash with resyncRow := s.flash.resyncRow + 1 } } (4096 * g + s.flash.resyncRow) := by
  rw [intentResync_cons hq]
  exact (if_neg (not_backWaits hf hb)).trans (if_neg (by omega))

/-- Past the region's last row its bit is cleared in the control areas (R238, R240). -/
theorem intentResync_last (hl : 4096 ≤ s.flash.resyncRow + 1 ∨ s.flash.cmin - 262144 ≤ 4096 * g + s.flash.resyncRow + 1) :
    intentResync s =
      let r := 4096 * g + s.flash.resyncRow
      let u := if r < s.flash.cmin - 262144 then fixParity s r else s
      settleTier (ctlSettle (ctlWrite
        { u with flash := { u.flash with resync := rest, resyncRow := 0, intent := u.flash.intent.erase g } }).1) := by
  rw [intentResync_cons hq]
  exact (if_neg (not_backWaits hf hb)).trans (if_pos hl)

end Runs

end Resync

/-! ### Rebuild (R241, R250, R251) -/

/-- Row `r` after drive `d`'s slot of it was rebuilt: deallocated where nothing of the row is stored, else reconstructed from the other
slots where all of them hold the current value (R250). -/
def slotRebuilt (s : State) (d r : Nat) : State :=
  let stored := (List.range 7).any fun p => storedBit s (4096 * (7 * r + p))
  let whole := (List.range 8).all fun q => decide (q = d) || slotGood s [] q r
  let fresh := s.flash.fresh.contains (d, r)
  let u := if stored = false then nvIssue s d .dsm r 1 (.row r) (.nvme d 0x09 (rowLba r) 1 [])
    else if whole = true then writeRows (readRows s (((List.range 8).filter fun q => q ≠ d).map fun q => (q, r)) (.row r) sysSub 5)
      [] [(d, r)] .s5write (.row r) sysSub 5
    else s
  { u with flash := { u.flash with
    rebuild := u.flash.rebuild.set d (r + 1)
    fresh := dropSlot u.flash.fresh (d, r)
    missing := if stored = false ∨ whole = true ∨ fresh = true then dropSlot u.flash.missing (d, r)
      else addSlot u.flash.missing (d, r) } }

theorem rebuildRow_eq {s : State} {d r : Nat} (hd : s.flash.rebuild.head? = some (d, r)) (hs : s.flash.stopped = false)
    (hb : rowBusy s r = false) : rebuildRow s =
      if s.flash.cmin - 262144 ≤ r then settleTier (driveTo s d .online 0xFF) else slotRebuilt s d r := by
  unfold rebuildRow
  rw [hd]
  refine (if_neg (by simp [hs, hb])).trans ?_
  simp only [slotRebuilt, Bool.not_eq_true', Bool.or_eq_true, or_assoc]

/-! ### The rows together -/

/-- Settles O28, row by row. -/
theorem intentAndRebuildRowsComplete : Obligations.IntentAndRebuildRowsComplete := by
  refine ⟨fun _ _ _ => intentBitClear_eq, ?resync, ?rebuild⟩
  case resync =>
    intro s g rest hq
    dsimp only
    exact ⟨fun h => congrArg Host.Outcome.next (intentResync_waits hq h),
      fun hf hb hr hc => congrArg Host.Outcome.next (intentResync_next hq hf hb hr hc),
      fun hf hb hl => congrArg Host.Outcome.next (intentResync_last hq hf hb hl)⟩
  case rebuild =>
    intro s d r hd hs hb
    exact ⟨fun h => congrArg Host.Outcome.next ((rebuildRow_eq hd hs hb).trans (if_pos h)),
      fun h => congrArg Host.Outcome.next ((rebuildRow_eq hd hs hb).trans (if_neg (Nat.not_le.2 h)))⟩

end Sys2Proof.Proofs
end

section
/-! The drives' rows (O27): NVMe timeouts, errors, completions, logs, controller resets, removals and reservation conflicts, one lemma per
case of each row's definition (R238, R241, R243 to R246, R249, R250, R254, R256). -/

namespace Sys2Proof.Proofs

open Sys2Proof.Machine Sys2Proof.Laws

/-! ### Timeouts, errors and completions of I/O (R238, R241, R243 to R246, R254, R256) -/

/-- The timeouts of a drive within the last second, with the one now (R246). -/
def recentTimeouts (s : State) (p : Nat) : List Nat := ((driveAt s p).timeouts.filter fun t => s.now < sec 1 + t) ++ [s.now]

/-- A command of a drive is aborted and its timeout noted (R243, R246). -/
def ioAborted (s : State) (p cmd : Nat) : State :=
  say (modDrive s p fun d => { d with timeouts := recentTimeouts s p }) [.nvmeAdmin p 0x08 cmd]

/-- A command is no longer outstanding on its drive. -/
def cmdGone (s : State) (p cmd : Nat) : State := modDrive s p fun d => { d with cmds := d.cmds.filter fun x => x.id ≠ cmd }

section Command

variable {s : State} {p cmd : Nat} {c : NvCmd} (hc : ((driveAt s p).cmds.find? fun c => c.id = cmd) = some c)

include hc

section Timeout

variable (hd : ms 4 + c.issued ≤ s.now) (hq : queuesDown (driveAt s p) = false)

include hd hq

theorem ioTimeout_due : ioTimeout s p cmd =
    if 8 ≤ (recentTimeouts s p).length then failDrive (ioAborted s p cmd) p 2
    else if s.flash.stopped = true ∧ c.for_ ≠ .resv then cmdGone (ioAborted s p cmd) p cmd
    else if c.op = .read then readLate (ioAborted s p cmd) p c
    else retryWrite (ioAborted s p cmd) p c 2 := by
  unfold ioTimeout
  simp only [hc]
  refine (if_neg (by simp [hd, hq])).trans (ite_congr rfl (fun _ => rfl) fun _ => ite_congr rfl (fun _ => rfl) fun _ => ?_)
  split
  next h => exact (if_pos h).symm
  next h => exact (if_neg h).symm

/-- The eighth timeout within a second fails the drive. -/
theorem ioTimeout_eighth (h8 : 8 ≤ (recentTimeouts s p).length) : ioTimeout s p cmd = failDrive (ioAborted s p cmd) p 2 :=
  (ioTimeout_due hc hd hq).trans (if_pos h8)

variable (h8 : (recentTimeouts s p).length < 8)

include h8

theorem ioTimeout_issuedAgain (ha : s.flash.stopped = false ∨ c.for_ = .resv) : ioTimeout s p cmd =
    if c.op = .read then readLate (ioAborted s p cmd) p c else retryWrite (ioAborted s p cmd) p c 2 := by
  rw [ioTimeout_due hc hd hq, if_neg (Nat.not_le.2 h8)]
  exact if_neg (by rcases ha with h | h <;> simp [h])

/-- With all NVMe I/O stopped nothing but a reservation command goes out again (R256). -/
theorem ioTimeout_stopped (hs : s.flash.stopped = true) (hr : c.for_ ≠ .resv) : ioTimeout s p cmd = cmdGone (ioAborted s p cmd) p cmd := by
  rw [ioTimeout_due hc hd hq, if_neg (Nat.not_le.2 h8)]
  exact if_pos ⟨hs, hr⟩

end Timeout

theorem writeError_write (ho : c.op = .write ∨ c.op = .control) : exec (.nvmeWriteError p cmd) s =
    .next (if s.flash.stopped = true then s else retryWrite s p c 3) := by
  change execNvmeWriteError p cmd s = _
  unfold execNvmeWriteError
  rcases ho with ho | ho <;> simp only [hc, ho]

theorem writeError_rewrite (ho : c.op = .s5write) : exec (.nvmeWriteError p cmd) s = .next (failDrive s p 1) := by
  change execNvmeWriteError p cmd s = _
  unfold execNvmeWriteError
  simp only [hc, ho]

/-! A command that completes leaves the queue; what it does then, by what it was. -/

theorem ioComplete_register (ho : c.op = .resvRegister) :
    ioComplete s p cmd = modDrive (cmdGone s p cmd) p fun d => { d with key := resvKey (cmdGone s p cmd) } := by
  unfold ioComplete
  simp only [hc, ho]
  rfl

theorem ioComplete_acquire (ho : c.op = .resvAcquire) :
    ioComplete s p cmd = modDrive (cmdGone s p cmd) p fun d => { d with holder := some (resvKey (cmdGone s p cmd)) } := by
  unfold ioComplete
  simp only [hc, ho]
  rfl

theorem ioComplete_control (ho : c.op = .control) : ioComplete s p cmd = settleTier (ctlAck (cmdGone s p cmd) p c) := by
  unfold ioComplete
  simp only [hc, ho]
  rfl

/-- A deallocation may have been the last command of its job; a replay that waited for the job's range may then run (R193, R241). -/
theorem ioComplete_free {id lo hi : Nat} {j : FlashJob} (ho : c.op = .dsm) (hf : c.for_ = .job id)
    (hj : jobAt (cmdGone s p cmd) id = some j) (hk : j.kind = .free lo hi) :
    ioComplete s p cmd = settleTier (replaySkipped (freeOver (cmdGone s p cmd) j)) := by
  unfold cmdGone at hj
  unfold ioComplete
  simp only [hc, ho, hf, hj, hk]
  rfl

theorem ioComplete_row {r : Nat} (ho : c.op = .s5write ∨ c.op = .dsm) (hf : c.for_ = .row r) : ioComplete s p cmd = cmdGone s p cmd := by
  unfold ioComplete
  rcases ho with ho | ho <;> simp only [hc, ho, hf] <;> rfl

end Command

/-! ### Admin commands, set-up and adoption (R243, R245, R249) -/

section Admin

variable {s : State} {p : Nat}

theorem adminNext_goesOn {a b : Nat × Nat} {rest : List (Nat × Nat)} (hl : (driveAt s p).todo = a :: b :: rest) :
    adminNext s p = say (modDrive s p fun d => { d with todo := b :: rest, admin := some s.now }) [adminOut p b] := by
  unfold adminNext
  rw [hl]
  rfl

theorem endSetUp_adopt (s : State) (p : Nat) : (endSetUp s p).flash.adopt = s.flash.adopt := rfl

/-! After the last command of a set-up the set-up is over, and with it the adoption it was for. -/

theorem adminNext_ends (hl : (driveAt s p).todo.length ≤ 1) (ha : s.flash.adopt.get? p = none) : adminNext s p = endSetUp s p := by
  unfold adminNext
  simp only [List.drop_eq_nil_of_le hl, endSetUp_adopt, ha]

theorem adminNext_adopts {w : Nat} (hl : (driveAt s p).todo.length ≤ 1) (ha : s.flash.adopt.get? p = some w) :
    adminNext s p = adoptEnd (endSetUp s p) p w := by
  unfold adminNext
  simp only [List.drop_eq_nil_of_le hl, endSetUp_adopt, ha]

variable {t : Nat} (ht : (driveAt s p).admin = some t)

include ht

theorem adminComplete_waited : exec (.nvmeAdminComplete p) s = .next (adminNext s p) :=
  congrArg Host.Outcome.next (if_neg (by simp [ht]))

theorem adminTimeout_due (hd : sec 1 + t ≤ s.now) : exec (.nvmeAdminTimeout p) s = .next (adminNext (say s [.nvmeAdmin p 0x08 0]) p) := by
  change execNvmeAdminTimeout p s = _
  unfold execNvmeAdminTimeout
  rw [ht]
  exact congrArg _ (if_pos hd)

end Admin

/-! ### Logs and controllers (R243, R246) -/

section Controller

variable {s : State} {p : Nat}

theorem asyncEvent_outstanding (e : DriveEvent) (ha : (driveAt s p).aen = true) :
    exec (.nvmeAsyncEvent p e) s = .next (driveLog (say s (logPages p ++ [.nvmeAdmin p 0x0C 0])) p e) :=
  congrArg Host.Outcome.next (if_pos ha)

theorem logPoll_due (e : DriveEvent) (hd : sec 10 + (driveAt s p).lastPoll ≤ s.now) (hp : driveTakes s p = true) :
    exec (.nvmeLogPoll p e) s = .next (driveLog (say s (logPages p)) p e) :=
  congrArg Host.Outcome.next (if_neg (by simp [hd, hp]))

theorem logPoll_early (e : DriveEvent) (hd : s.now < sec 10 + (driveAt s p).lastPoll) : exec (.nvmeLogPoll p e) s = .next s :=
  congrArg Host.Outcome.next (if_pos (.inl hd))

theorem controllerFatal_eq (hp : driveTakes s p = true) : exec (.nvmeControllerFatal p) s =
    .next (if ((driveAt s p).lastFatal.any fun t => decide (s.now < sec 60 + t)) = true then failDrive s p 4
      else say (modDrive s p fun d => { d with resetting := some s.now, lastFatal := some s.now, aen := false }) (deleteQueues p)) :=
  congrArg Host.Outcome.next (if_neg (ne_false_of_eq_true hp))

section Resetting

variable {t : Nat} (ht : (driveAt s p).resetting = some t)

include ht

theorem readyTimeout_due (hd : sec 10 + t ≤ s.now) : exec (.nvmeReadyTimeout p) s = .next (failDrive s p 4) := by
  change execNvmeReadyTimeout p s = _
  unfold execNvmeReadyTimeout
  rw [ht]
  exact congrArg _ (if_pos hd)

theorem controllerReady_resetting : exec (.nvmeControllerReady p) s =
    .next (beginSetUp (modDrive s p fun d => { d with resetting := none }) p (setUp false false)) :=
  congrArg Host.Outcome.next (if_pos (by rw [ht]; rfl))

end Resetting

theorem driveRemoved_present (hp : driveSt s p ≠ .absent) : exec (.driveRemoved p) s =
    .next (settleTier (driveTo { s with hw := { s.hw with media := s.hw.media.erase p } } p .failed 6)) :=
  congrArg Host.Outcome.next (if_neg hp)

/-- A conflict on a drive of the active unit: the other unit holds the drives, so this one stops and fences (R256, R257). -/
theorem reservationConflict_active (hr : s.pair.role = .active) (hp : driveTakes s p = true) : exec (.reservationConflict p) s =
    let t := modDrive s.tickFree p fun d => { d with holder := none }
    .next (selfFence { t with flash := { t.flash with stopped := true } } (Config.freeChoice s.free % 4)) :=
  congrArg Host.Outcome.next (if_neg (by simp [hr, hp]))

end Controller

/-! ### The rows together -/

/-- Settles O27, row by row. That a deallocation or a reservation command goes out once more at its timeout is the model's choice (log 94),
as it is that a set-up goes on past a command given up (log 90). -/
theorem driveRowsComplete : Obligations.DriveRowsComplete := by
  refine ⟨?command, ?admin, ?log, ?controller⟩
  case command =>
    intro s p cmd c hc times u gone
    have hcomplete {t : State} (h : ioComplete s p cmd = t) : exec (.nvmeIoComplete p cmd) s = .next t := congrArg _ h
    refine ⟨fun hd hq => ⟨fun h8 => congrArg _ (ioTimeout_eighth hc hd hq h8), fun h8 ha => congrArg _ (ioTimeout_issuedAgain hc hd hq h8 ha),
      fun h8 hs hr => congrArg _ (ioTimeout_stopped hc hd hq h8 hs hr)⟩, writeError_write hc, writeError_rewrite hc,
      fun ho => hcomplete (ioComplete_register hc ho), fun ho => hcomplete (ioComplete_acquire hc ho),
      fun ho => hcomplete (ioComplete_control hc ho), fun _ _ _ _ ho hf hj hk => hcomplete (ioComplete_free hc ho hf hj hk),
      fun _ ho hf => hcomplete (ioComplete_row hc ho hf)⟩
  case admin =>
    intro s p t ht
    rw [adminComplete_waited ht]
    exact ⟨fun a c rest hl => congrArg _ (adminNext_goesOn hl), fun w hl ha => congrArg _ (adminNext_adopts hl ha),
      fun hl ha => congrArg _ (adminNext_ends hl ha), adminTimeout_due ht⟩
  case log =>
    intro s p e
    exact ⟨asyncEvent_outstanding e, logPoll_due e, logPoll_early e⟩
  case controller =>
    intro s p
    refine ⟨fun hp hf => ?_, fun hp hf => ?_, fun t => readyTimeout_due, fun t => controllerReady_resetting, driveRemoved_present,
      reservationConflict_active⟩
    · exact (controllerFatal_eq hp).trans (congrArg _ (if_pos hf))
    · exact (controllerFatal_eq hp).trans (congrArg _ (if_neg (ne_true_of_eq_false hf)))

end Sys2Proof.Proofs
end

section
/-! The tier commands (O25): one lemma per case of each command's body (R224 to R227, R249, R252, R510, R519, R635). -/

namespace Sys2Proof.Proofs

open Sys2Proof.Machine Sys2Proof.Laws Sys2Proof.Safety

/-! ### What a due command answers, by its body's answer -/

section Due

variable {s u : State} {w op : Nat} {x : Win} {body : State → Win → Answer} (h : Due s w op x)

include h

theorem runCmd_good {res : List Byte} (hb : body s x = good u res) : runCmd s w op body = finishCmd u w stOk 0 res := by
  rw [runCmd_due body h, hb, settle_good]

theorem runCmd_fail {st d : Nat} (hb : body s x = fail s st d) : runCmd s w op body = finishCmd s w st d [] := by
  rw [runCmd_due body h, hb, settle_fail]

theorem runCmd_goesOn (hb : body s x = goesOn u) : runCmd s w op body = markBegun u w := by
  rw [runCmd_due body h, hb, settle_goesOn]

end Due

/-! ### The tier record (R224, R225, R635) -/

theorem tierHallQueryBody_eq (s : State) (x : Win) : tierHallQueryBody s x =
    if (hallOf s (x.arg 0 2)).any (fun h => decide (h.cls ≠ .resident)) = true then good s (tierBytes s (x.arg 0 2)) else fail s stBadArg 0 := by
  unfold tierHallQueryBody
  cases hh : hallOf s (x.arg 0 2) with
  | none => simp only [hh]; rfl
  | some h => by_cases hr : h.cls = .resident <;> simp [hh, hr]

theorem bits_lt (x lo w : Nat) : bits x lo w < 2 ^ w := Nat.mod_lt _ (Nat.two_pow_pos w)

/-- A retained change of an unmirrored command: committed and answered, or refused with ST_FAULT (R494). -/
theorem settle_retain (w : Nat) (old new : State) (k : State → Answer) : settle w (retain old new k) =
    if new.store.writable = true then settle w (k (commit new).1) else finishCmd old w stFault 0 [] := by
  cases hw : new.store.writable with
  | true => rw [retain_ok hw]; rfl
  | false => rw [retain_failed hw]; rfl

/-- The checks of TIER_HALL_SET on a hall, in the order of their statuses (R10, R225). -/
def tierSetChecks (h : Hall) (x : Win) : List (Bool × Nat × Nat) :=
  let v := x.arg 8 32
  [ (h.cls = .resident, stBadArg, 0), (h.state = .destroying, stDraining, 0), (decide (x.arg 2 6 ≠ 0), stBadArg, 2),
    (decide (bits v 12 4 ≠ 0), stBadArg, 9), (decide (bits v 56 8 ≠ 0), stBadArg, 15), (decide (bits v 86 2 ≠ 0), stBadArg, 18),
    (decide (bits v 120 8 ≠ 0), stBadArg, 23),
    (!inRange (bits v 64 16) 10 10000, stBadArg, 16), (!inRange (bits v 80 4) 1 4, stBadArg, 18),
    (!inRange (bits v 88 8) 1 255, stBadArg, 19), (!inRange (bits v 96 8) 1 255, stBadArg, 20),
    (decide (50 < bits v 112 8), stBadArg, 22) ]

theorem tierSetChecks_resident {h : Hall} (x : Win) (hr : h.cls = .resident) : firstFail (tierSetChecks h x) = some (stBadArg, 0) := by
  rw [tierSetChecks, hr]
  rfl

theorem tierSetChecks_destroying {h : Hall} (x : Win) (hr : h.cls ≠ .resident) (hd : h.state = .destroying) :
    firstFail (tierSetChecks h x) = some (stDraining, 0) := by
  rw [tierSetChecks, hd, decide_eq_false hr]
  rfl

theorem tierSetChecks_passed_iff {h : Hall} {x : Win} : firstFail (tierSetChecks h x) = none ↔
    let v := x.arg 8 32
    h.cls ≠ .resident ∧ h.state ≠ .destroying ∧ x.arg 2 6 = 0 ∧ bits v 12 4 = 0 ∧ bits v 56 8 = 0 ∧ bits v 86 2 = 0 ∧ bits v 120 8 = 0 ∧
      (10 ≤ bits v 64 16 ∧ bits v 64 16 ≤ 10000) ∧ (1 ≤ bits v 80 4 ∧ bits v 80 4 ≤ 4) ∧ 1 ≤ bits v 88 8 ∧ 1 ≤ bits v 96 8 ∧
      bits v 112 8 ≤ 50 := by
  have h88 : bits (x.arg 8 32) 88 8 ≤ 255 := Nat.le_of_lt_succ (bits_lt _ _ _)
  have h96 : bits (x.arg 8 32) 96 8 ≤ 255 := Nat.le_of_lt_succ (bits_lt _ _ _)
  rw [firstFail_none]
  simp [tierSetChecks, inRange, h88, h96]

/-- A tier record with the eight RW fields of an argument (R224). -/
def tierRecWritten (t : TierRec) (v : Nat) : TierRec :=
  { t with
    decayPeriod := bits v 64 16, decayShift := bits v 80 4, adapt := v.testBit 84, engineHeat := v.testBit 85
    maxDirty := bits v 88 8, hintHeat := bits v 96 8, wbHeat := bits v 104 8, freePct := bits v 112 8 }

section TierHallSet

variable {s : State} {x : Win}

theorem tierHallSetBody_noHall (hh : s.halls.get? (x.arg 0 2) = none) : tierHallSetBody s x = fail s stBadArg 0 := by
  unfold tierHallSetBody
  simp only [hh]

theorem tierHallSetBody_hall {h : Hall} (hh : s.halls.get? (x.arg 0 2) = some h) : tierHallSetBody s x =
    guardArg s (firstFail (tierSetChecks h x)) fun _ =>
      retain s { s with tier := { s.tier with halls := s.tier.halls.set (x.arg 0 2) (tierRecWritten (tierRec s (x.arg 0 2)) (x.arg 8 32)) } }
        fun u => good u (tierBytes u (x.arg 0 2)) := by
  unfold tierHallSetBody
  simp only [hh]
  rfl

end TierHallSet

/-! ### Hints (R226, R227) -/

/-- The blocks of a hint's range. -/
def hintBlocks (x : Win) (h : Hall) : List Nat := (List.range (x.arg 16 8 / blockBytes h)).map fun i => x.arg 8 8 / blockBytes h + i

/-- A hint that waits for blocks; KEEP holds them (R226). -/
def newHint (s u : State) (x : Win) (blocks : List Nat) : Hint :=
  { w := cmdWin s x, hall := x.arg 0 2, verb := x.arg 2 1, blocks := blocks, since := u.now, until_ := x.arg 24 8
    hold := if x.arg 2 1 = 1 then blocks else [] }

/-- A hint completes at once when its blocks are done, else later (R226, R227). -/
def hintAnswer (s : State) (x : Win) (u : State) (blocks : List Nat) : Answer :=
  let n := newHint s u x blocks
  let v := holdKept u n
  if hintDone v n = true then good v (leBytes 4 0) else goesOn { v with tier := { v.tier with hints := v.tier.hints ++ [n] } }

/-- The blocks a WRITEBACK hint waits for: the DIRTY ones once, one being written and rewritten since twice (R226). -/
def writebackBlocks (s : State) (hid : Nat) (bs : List Nat) : List Nat :=
  bs.flatMap fun b => match blockOf s hid b with
    | some y => if y.st = .dirty ∨ y.st = .evicting true then [b]
        else if y.st = .flushing then (if y.redirty then [b, b] else [b]) else []
    | none => []

/-- A DISCARD hint skips a block that a transfer moves or a directory entry names (R226). -/
def discardSkips (s : State) (h : Hall) (b : Nat) (y : Block) : Bool :=
  y.st = .landing || y.st = .flushing || y.st = .evicting true ||
    s.home.dir.any fun e => decide (lineOf h 0 + b * (blockBytes h / 64) ≤ e.1 ∧ e.1 < lineOf h 0 + (b + 1) * (blockBytes h / 64))

section TierHint

variable {s : State} {x : Win}

theorem tierHintBody_noHall (hh : s.halls.get? (x.arg 0 2) = none) : tierHintBody s x = fail s stBadArg 0 := by
  unfold tierHintBody
  simp only [hh]

variable {h : Hall} (hh : s.halls.get? (x.arg 0 2) = some h)

include hh

theorem tierHintBody_refused {st d : Nat} (hc : hintCheck s x h = some (st, d)) : tierHintBody s x = fail s st d := by
  unfold tierHintBody
  simp only [hh, hc, guardArg_some]

variable (hc : hintCheck s x h = none)

include hc

theorem tierHintBody_land (hv : x.arg 2 1 ≤ 1) : tierHintBody s x = hintAnswer s x
    ((hintBlocks x h).foldl (fun s b => settleTier (land s (x.arg 0 2) h b .hint sysSub)) s) (hintBlocks x h) := by
  unfold tierHintBody hintAnswer newHint
  rcases Nat.le_one_iff_eq_zero_or_eq_one.1 hv with hv | hv <;> simp only [hh, hc, guardArg_none, hv] <;> rfl

theorem tierHintBody_release (hv : x.arg 2 1 = 2) : tierHintBody s x = good (settleTier
    ((hintBlocks x h).foldl (fun s b => modBlock s (x.arg 0 2) b fun y => { y with keepUntil := none }) { s with tier := { s.tier with
      hints := s.tier.hints.map fun y =>
        if y.hall = x.arg 0 2 then { y with hold := y.hold.filter fun b => !(hintBlocks x h).contains b } else y } })) (leBytes 4 0) := by
  unfold tierHintBody
  simp only [hh, hc, guardArg_none, hv]
  rfl

theorem tierHintBody_cool (hv : x.arg 2 1 = 3) : tierHintBody s x =
    good ((hintBlocks x h).foldl (fun s b => modBlock s (x.arg 0 2) b fun y => { y with heat := 0 }) s) (leBytes 4 0) := by
  unfold tierHintBody
  simp only [hh, hc, guardArg_none, hv]
  rfl

theorem tierHintBody_writeback (hv : x.arg 2 1 = 4) : tierHintBody s x =
    let out := writebackBlocks s (x.arg 0 2) (hintBlocks x h)
    hintAnswer s x (out.foldl (fun s b => writeBack s (x.arg 0 2) h b false) s) out := by
  unfold tierHintBody hintAnswer newHint
  simp only [hh, hc, guardArg_none, hv]
  rfl

theorem tierHintBody_discard (hv : x.arg 2 1 = 5) : tierHintBody s x =
    let skip := (hintBlocks x h).filter fun b => (blockOf s (x.arg 0 2) b).any (discardSkips s h b)
    let drop := (hintBlocks x h).filter fun b => (blockOf s (x.arg 0 2) b).any fun y => !discardSkips s h b y
    good (settleTier (drop.foldl (fun s b => dropBlock s (x.arg 0 2) b) s)) (leBytes 4 skip.length) := by
  unfold tierHintBody
  simp only [hh, hc, guardArg_none, hv]
  rfl

end TierHint

/-! ### The state of the flash tier (R519) -/

/-- Later fields leave the bytes of the earlier ones as they are. -/
theorem lay_append_fields (l t : List (Nat × Nat)) : ∃ rest, lay (l ++ t) = lay l ++ rest := by
  unfold lay
  rw [List.foldl_append]
  generalize l.foldl _ [] = acc
  induction t generalizing acc with
  | nil => exact ⟨[], (List.append_nil _).symm⟩
  | cons f t ih =>
    obtain ⟨rest, hrest⟩ := ih (acc ++ List.replicate ((f.1 - acc.length % f.1) % f.1) 0 ++ leBytes f.1 f.2)
    exact ⟨List.replicate ((f.1 - acc.length % f.1) % f.1) 0 ++ leBytes f.1 f.2 ++ rest, by simpa using hrest⟩

/-- The first five fields of TIER_QUERY's result: FLASH_STATE is one byte, and one byte of padding follows it. -/
theorem lay_tierState (dropped orders state gib free : Nat) : lay [(4, dropped), (2, orders), (1, state), (4, gib), (4, free)] =
    leBytes 4 dropped ++ leBytes 2 orders ++ leBytes 1 state ++ [0] ++ leBytes 4 gib ++ leBytes 4 free := by
  simp [lay]

/-- TIER_QUERY answers those fields, then the drives, the rebuild and the media errors. -/
theorem tierQueryBody_eq (s : State) (x : Win) : ∃ rest, tierQueryBody s x = good s (leBytes 4 s.tier.ordersDropped ++
    leBytes 2 s.tier.orders.length ++ leBytes 1 (flashState s) ++ [0] ++ leBytes 4 (flashGib s) ++ leBytes 4 (flashUsable s - flashUsed s) ++ rest) := by
  obtain ⟨rest, hrest⟩ := lay_append_fields [(4, s.tier.ordersDropped), (2, s.tier.orders.length), (1, flashState s), (4, flashGib s),
    (4, flashUsable s - flashUsed s)] _
  rw [lay_tierState] at hrest
  exact ⟨rest, congrArg (good s ·) hrest⟩

/-! ### Adoption of a drive (R249) -/

section Adopt

variable {s : State} {x : Win}

theorem driveAdoptBody_refused (h : 8 ≤ x.arg 0 1 ∨ driveTakes s (x.arg 0 1) = true) : driveAdoptBody s x = fail s stBadArg 0 := if_pos h

variable (hp : x.arg 0 1 < 8) (ht : driveTakes s (x.arg 0 1) = false)

include hp ht

theorem not_adoptRefused : ¬(8 ≤ x.arg 0 1 ∨ driveTakes s (x.arg 0 1) = true) :=
  not_or.2 ⟨Nat.not_le.2 hp, ne_true_of_eq_false ht⟩

theorem driveAdoptBody_unsuitable (hm : (s.hw.media.get? (x.arg 0 1)).any (fun m => m.meets) = false) :
    driveAdoptBody s x = fail s stFault := by
  refine (if_neg (not_adoptRefused hp ht)).trans ?_
  split
  next m w hmedia _ =>
    rw [hmedia] at hm
    exact if_pos hm
  next => rfl

theorem driveAdoptBody_suitable {m : Media} {w : Nat} (hm : s.hw.media.get? (x.arg 0 1) = some m) (hw : cmdWin s x = some w)
    (hmeets : m.meets = true) : driveAdoptBody s x =
      if m.lbas < s.flash.cmin then fail s stNoSpace
      else if (s.flash.adopt.get? (x.arg 0 1)).isSome = true then fail s stBusy
      else goesOn (beginSetUp { s with flash := { s.flash with adopt := s.flash.adopt.set (x.arg 0 1) w } } (x.arg 0 1) (setUp true !m.formatted)) := by
  refine (if_neg (not_adoptRefused hp ht)).trans ?_
  simp only [hm, hw, hmeets, Bool.true_eq_false, if_false]

end Adopt

/-! ### The commands together -/

/-- Settles O25, command by command. That a position without a suitable drive ends ST_FAULT and a second adoption ST_BUSY is the model's
choice (logs 23 and 90). -/
theorem tierCommandsComplete : Obligations.TierCommandsComplete := by
  refine ⟨?hallQuery, ?hallSet, fun _ _ _ hd hh => congrArg Host.Outcome.next (runCmd_fail hd (tierHintBody_noHall hh)), ?hint, ?query, ?adopt⟩
  case hallQuery =>
    intro s w x hd
    refine congrArg Host.Outcome.next ((runCmd_due _ hd).trans ?_)
    rw [tierHallQueryBody_eq, apply_ite (settle w), settle_good, settle_fail]
  case hallSet =>
    intro s w x hd hm
    refine ⟨fun hh => congrArg Host.Outcome.next (runRetained_fail _ hd (tierHallSetBody_noHall hh) (by decide)), fun h hh => ?_⟩
    have hbody := tierHallSetBody_hall hh
    refine ⟨fun hr => ?_, fun hr hs => ?_, fun hr hs ha h12 h56 h86 h120 h64 h64' h80 h80' h88 h96 h112 => ?_⟩
    · rw [tierSetChecks_resident x hr] at hbody
      exact congrArg Host.Outcome.next (runRetained_fail _ hd hbody (by decide))
    · rw [tierSetChecks_destroying x hr hs] at hbody
      exact congrArg Host.Outcome.next (runRetained_fail _ hd hbody (by decide))
    · rw [tierSetChecks_passed_iff.2 ⟨hr, hs, ha, h12, h56, h86, h120, ⟨h64, h64'⟩, ⟨h80, h80'⟩, h88, h96, h112⟩] at hbody
      exact congrArg Host.Outcome.next ((runRetained_due _ hd hm).trans ((congrArg (settle w) hbody).trans (settle_retain _ _ _ _)))
  case hint =>
    intro s w x h hd hh
    dsimp only
    have hwait {u : State} {blocks : List Nat} (hb : tierHintBody s x = hintAnswer s x u blocks) := (runCmd_due _ hd).trans
      ((congrArg (settle w) hb).trans (apply_ite (settle w) _ _ _))
    exact ⟨fun st d hc => congrArg Host.Outcome.next (runCmd_fail hd (tierHintBody_refused hh hc)),
      fun hc => ⟨fun hv => congrArg Host.Outcome.next (hwait (tierHintBody_land hh hc hv)),
        fun hv => congrArg Host.Outcome.next (runCmd_good hd (tierHintBody_release hh hc hv)),
        fun hv => congrArg Host.Outcome.next (runCmd_good hd (tierHintBody_cool hh hc hv)),
        fun hv => congrArg Host.Outcome.next (hwait (tierHintBody_writeback hh hc hv)),
        fun hv => congrArg Host.Outcome.next (runCmd_good hd (tierHintBody_discard hh hc hv))⟩⟩
  case query =>
    intro s w x hd
    obtain ⟨rest, hrest⟩ := tierQueryBody_eq s x
    exact ⟨_, congrArg Host.Outcome.next (runCmd_good hd hrest), rfl, rfl, rfl, rfl, rfl⟩
  case adopt =>
    intro s w x hd
    refine ⟨fun h => congrArg Host.Outcome.next (runCmd_fail hd (driveAdoptBody_refused h)),
      fun hp ht hm => congrArg Host.Outcome.next (runCmd_fail hd (driveAdoptBody_unsuitable hp ht hm)), fun m hp ht hm hw hmeets => ?_⟩
    have hbody := driveAdoptBody_suitable hp ht hm hw hmeets
    refine ⟨fun hl => ?_, fun hl ha => ?_, fun hl ha => ?_⟩
    · exact congrArg Host.Outcome.next (runCmd_fail hd (hbody.trans (if_pos hl)))
    · rw [if_neg (Nat.not_lt.2 hl), if_pos ha] at hbody
      exact congrArg Host.Outcome.next (runCmd_fail hd hbody)
    · rw [if_neg (Nat.not_lt.2 hl), ha] at hbody
      exact congrArg Host.Outcome.next (runCmd_goesOn hd hbody)

end Sys2Proof.Proofs
end

section
/-! Descriptors (O21): starts, table descriptors with their drains, and RESUME, one lemma per case of each row's definition (R272 to R276,
R350, R357 to R360, R368, R370, R371). -/

namespace Sys2Proof.Proofs

open Sys2Proof.Machine Sys2Proof.Laws

theorem modify_of_get? {α : Type} {m : NMap α} {k : Nat} {x : α} (h : m.get? k = some x) (f : α → α) : m.modify k f = m.set k (f x) := by
  simp only [NMap.modify, h]

/-! ### Starts (R272 to R276) -/

/-- The image a start names. -/
def startImage (s : State) (d : Desc) : List Byte := ((s.eng.loaded.get? (subNat d.bytes 8 2)).map fun x => x.image).getD []

/-- The cores an admitted start takes: CPG free ones of each gallery of its image (R277). -/
def startCores (s : State) (d : Desc) : List Nat :=
  (imgGals (startImage s d)).flatMap fun g => (freeCores s g).take (hdrCpg (startImage s d))

/-- The last of an admitted start whose START lies ahead (R275, R276). -/
def waitingLast (s : State) (qid : Nat) (q : Queue) (d : Desc) : Last :=
  let shadow := ((s.eng.ctxs.get? q.ctx).map fun c => c.shadow).getD 0
  { qid := qid, sqIdx := d.idx, handle := subNat d.bytes 8 2, ctx := q.ctx, args := (List.range 4).map fun i => subNat d.bytes (24 + 8 * i) 8
    start := subNat d.bytes 16 8, cores := startCores s d, shadow := shadow, bound := boundNs (startImage s d) shadow }

/-- The state with that last, its cores taken, its descriptor running and counted in STARTS. -/
def startWaiting (s : State) (qid : Nat) (q : Queue) (d : Desc) : State :=
  let lid := s.eng.nextLid
  let u := (startCores s d).foldl (fun s p => setCore s p { coreAt s p with holder := some lid }) s
  modQueue { u with eng := { u.eng with nextLid := lid + 1, lasts := u.eng.lasts.set lid (waitingLast s qid q d) } } qid fun q => { q with
    starts := satAdd 32 q.starts 1
    descs := q.descs.map fun x => if x.idx = d.idx then { x with running := true, lid := some lid } else x }

section Start

variable {s : State} {qid : Nat} {q : Queue} {d : Desc} (hf : s.pwr.feltiOn = true) (hp : presented s qid 0x01 = some (q, d))

include hf hp

theorem presentStart_refused {st : Nat} (hr : startRefusal s qid q d = some st) :
    presentStart s qid = settleQueue (endDesc s qid d st) qid := by
  unfold presentStart
  rw [if_neg (by simp [hf])]
  simp only [hp, hr]

theorem presentStart_waits (hr : startRefusal s qid q d = none) (hs : s.now < subNat d.bytes 16 8) :
    presentStart s qid = settleQueue (startWaiting s qid q d) qid := by
  have hmax : max (subNat d.bytes 16 8) s.now = subNat d.bytes 16 8 := Nat.max_eq_left (Nat.le_of_lt hs)
  unfold presentStart
  rw [if_neg (by simp [hf])]
  simp only [hp, hr, decide_eq_false (Nat.not_le.2 hs), Bool.false_eq_true, if_false, hmax]
  rfl

end Start

/-! ### Table descriptors (R357 to R360, R371) -/

section Table

variable {s : State} {qid : Nat} {q : Queue} {d : Desc} {c : Ctx}

/-- A table descriptor on the control queue of an ACTIVE context without a drain runs when it is presented (R350, R371). -/
theorem runTable_runs {op : Nat} (body : State → Queue → Desc → Ctx → State) (hctl : isCtl s qid q = true)
    (hc : s.eng.ctxs.get? q.ctx = some c) (ha : c.st = .active) (hd : c.drain = none) (hp : presented s qid op = some (q, d)) :
    runTable s qid op body = body s q d c := by
  have hwait : behindDrain s q d = false := by simp [behindDrain, hc, hd]
  unfold runTable
  simp [hp, hwait, hctl, hc, ha]

theorem modCtx_congr {cid : Nat} {f g : Ctx → Ctx} (hc : s.eng.ctxs.get? cid = some c) (h : f c = g c) :
    modCtx s cid f = modCtx s cid g := by
  simp only [modCtx, modify_of_get? hc, h]

/-- A MAP of one 4 KiB page into a context without leaves maps it and needs no drain (R357). -/
theorem mapBody_firstPage {hid : Nat} {h : Hall} (hc : s.eng.ctxs.get? q.ctx = some c) (hh : hallAt s (subNat d.bytes 16 8) = some (hid, h))
    (hb : c.halls.contains hid = true) (hn : subNat d.bytes 24 4 = 1) (hz : subNat d.bytes 28 1 = 0)
    (hva : subNat d.bytes 8 8 % 4096 = 0) (hpa : subNat d.bytes 16 8 % 4096 = 0) (hcan : subNat d.bytes 8 8 + 4096 ≤ 2 ^ c.vaBits)
    (hfit : subNat d.bytes 16 8 + 4096 ≤ 2 ^ 30 * (h.base + h.size)) (hl : c.leaves = []) :
    let c' : Ctx := { c with leaves := [(subNat d.bytes 8 8 / 4096,
      { size := 0, ppa := subNat d.bytes 16 8, w := (subNat d.bytes 29 1).testBit 0 })] }
    allTablePages s - tablePages c + tablePages c' ≤ 524288 →
      mapBody s qid d q c = tableDone (modCtx s q.ctx fun _ => c') qid d q.ctx 0 := by
  intro c' hroom
  have hpages : leafPages 0 = 1 := rfl
  have hone : inRange 1 1 262144 = true := rfl
  have hleaf : (List.range 1).foldl (fun (m : NMap Leaf) i => m.set (subNat d.bytes 8 8 / 4096 + i)
      { size := 0, ppa := subNat d.bytes 16 8 + 4096 * i, w := (subNat d.bytes 29 1).testBit 0 }) [] = c'.leaves := by
    simp [NMap.set, c']
  unfold mapBody
  simp only [hn, hz, hh, hpages, hone, hb, hl, leavesIn, leavesOut, List.filter_nil, List.any_nil, Nat.mul_one, hleaf, hva, hpa,
    Nat.not_lt.2 hcan, hfit, ne_eq, not_true_eq_false, false_or, decide_false, decide_true, Bool.not_true, Bool.and_self,
    Bool.or_self, Bool.false_eq_true, if_false, if_true]
  exact (if_neg (Nat.not_lt.2 hroom)).trans (congrArg (tableDone · qid d q.ctx 0) (modCtx_congr hc rfl))

theorem unmapBody_unmaps (hva : subNat d.bytes 8 8 % 4096 = 0) (hlen : subNat d.bytes 16 8 % 4096 = 0) (hmax : subNat d.bytes 16 8 ≤ 2 ^ 40) :
    let lo := subNat d.bytes 8 8 / 4096
    let hi := lo + subNat d.bytes 16 8 / 4096
    ((leavesIn c lo hi).any fun e => !wholly lo hi e) = false →
      unmapBody s qid d q c = epochStep (modCtx s q.ctx fun c => { c with leaves := leavesOut c lo hi }) qid d q.ctx lo hi := by
  intro lo hi hw
  unfold unmapBody
  exact if_neg (by simp only [hva, hlen, Nat.not_lt.2 hmax, ne_eq, not_true_eq_false, false_or]; exact Bool.eq_false_iff.1 hw)

theorem syncBody_digests (hva : subNat d.bytes 8 8 % 4096 = 0) (hlen : subNat d.bytes 16 8 % 4096 = 0) (hmax : subNat d.bytes 16 8 ≤ 2 ^ 30) :
    syncBody s qid d q c = tableDone s qid d q.ctx (leNat ((Config.sha384 ((List.range (subNat d.bytes 16 8 / 4096)).flatMap
      fun i => leBytes 8 (syncEntry c (subNat d.bytes 8 8 / 4096 + i)))).take 8)) := by
  unfold syncBody
  exact if_neg (by simp only [hva, hlen, Nat.not_lt.2 hmax, ne_eq, not_true_eq_false, or_self, not_false_eq_true])

end Table

/-! ### RESUME (R368) -/

theorem resume_open {s : State} {qid : Nat} {q : Queue} {d : Desc} {f : FaultRec} (hp : presented s qid 0x13 = some (q, d))
    (hf : (q.open_.find? fun f => f.fseq = subNat d.bytes 8 4) = some f) : exec (.resume qid) s = .next (settleQueue (endDesc
      (if subNat d.bytes 12 1 = 0 then replayRecord s qid f else lastStop s f.lid) qid d stOk) qid) := by
  change execResume qid s = _
  unfold execResume
  simp only [hp, hf]

/-! ### Drains of tables (R370, R515) -/

section Drain

variable {s : State} {cid : Nat} {c : Ctx} {t : TDrain} (hc : s.eng.ctxs.get? cid = some c) (hd : c.drain = some t)

include hc hd

theorem epochDrainDone_window {w : Nat} (ho : drainOver s t = true) (hn : t.desc = none) (hw : t.win = some w) :
    epochDrainDone s cid = finishCmd (modCtx s cid fun c => { c with drain := none }) w stOk 0 [] := by
  unfold epochDrainDone
  simp only [hc, hd, ho, Bool.true_eq_false, if_false, hn, hw]

theorem epochDrainDone_descriptor {qid idx : Nat} {x : Desc} (ho : drainOver s t = true) (hn : t.desc = some (qid, idx)) (hw : t.win = none)
    (hx : ((s.eng.queues.get? qid).bind fun q => q.descs.find? fun x => x.idx = idx) = some x) :
    epochDrainDone s cid = settleQueue (endDesc (modCtx (modCtx s cid fun c => { c with drain := none }) cid
      fun c => { c with tseq := (c.tseq + 1) % 2 ^ 32 }) qid x stOk 0 t.ended) qid := by
  unfold epochDrainDone
  simp only [hc, hd, ho, Bool.true_eq_false, if_false, hn, hw, modCtx_eng, hx]

/-- 50 ms after the step the lasts that still wait are stopped, each once, and counted (R370). -/
theorem epochDrainTimeout_due (hb : ms 50 + t.at_ ≤ s.now) :
    let ls := ((t.waits.filter fun w => (s.eng.lasts.get? w.1).any fun l => (l.trans.get? w.2).isSome && l.ending.isNone).map
      fun w => w.1).eraseDups
    epochDrainTimeout s cid = modCtx (ls.foldl lastStop s) cid fun c =>
      { c with drain := c.drain.map fun d => { d with ended := d.ended + ls.length } } := by
  unfold epochDrainTimeout
  simp only [hc, hd, Option.bind_some, if_neg (Nat.not_lt.2 hb)]

end Drain

/-! ### The rows together -/

/-- Settles O21, row by row. -/
theorem descriptorsComplete : Obligations.DescriptorsComplete := by
  refine ⟨?start, ?table, fun s qid q d f => resume_open, ?drain⟩
  case start =>
    intro s qid q d hf hp
    exact ⟨fun st hr => congrArg _ (presentStart_refused hf hp hr), fun hr hs => congrArg _ (presentStart_waits hf hp hr hs)⟩
  case table =>
    intro s qid q d c hctl hc ha hd
    refine ⟨fun hp => congrArg _ (runTable_runs _ hctl hc ha hd hp), ?_, ?_, ?_⟩
    · intro h hid hp hh hb hn hz hva hpa hcan hfit hl leaf c' hroom
      exact congrArg Host.Outcome.next ((runTable_runs _ hctl hc ha hd hp).trans (mapBody_firstPage hc hh hb hn hz hva hpa hcan hfit hl hroom))
    · intro hp hva hlen hmax lo hi hw
      exact congrArg Host.Outcome.next ((runTable_runs _ hctl hc ha hd hp).trans (unmapBody_unmaps hva hlen hmax hw))
    · intro hp hva hlen hmax
      exact congrArg Host.Outcome.next ((runTable_runs _ hctl hc ha hd hp).trans (syncBody_digests hva hlen hmax))
  case drain =>
    intro s cid c t hc hd
    exact ⟨fun ho hn w hw => congrArg _ (epochDrainDone_window hc hd ho hn hw),
      fun qid idx x ho hn hw hx => congrArg _ (epochDrainDone_descriptor hc hd ho hn hw hx), fun hb => congrArg _ (epochDrainTimeout_due hc hd hb)⟩

end Sys2Proof.Proofs
end

section
/-! The commands on contexts, queues and receive windows (O18): what each command's body answers, case by case (R288, R341 to R345, R371,
R372, R514 to R516, R635). -/

namespace Sys2Proof.Proofs

open Sys2Proof.Machine Sys2Proof.Laws Sys2Proof.Safety

/-! ### Argument checks that pass (R495) -/

theorem guardArg_badArg {s : State} {l : List (Bool × Nat)} (k : Unit → Answer) (h : ∀ e ∈ l, e.1 = false) :
    guardArg s (badArg l) k = k () := by
  rw [badArg_none.2 h, guardArg_none]

theorem guardArg_firstFail {s : State} {l : List (Bool × Nat × Nat)} (k : Unit → Answer) (h : ∀ e ∈ l, e.1 = false) :
    guardArg s (firstFail l) k = k () := by
  rw [firstFail_none.2 h, guardArg_none]

/-! ### Contexts (R341, R342, R514, R515, R635) -/

/-- The state with a context under an ID. -/
def putCtx (s : State) (cid : Nat) (c : Ctx) : State := { s with eng := { s.eng with ctxs := s.eng.ctxs.set cid c } }

theorem modCtx_of_get? {s : State} {cid : Nat} {c : Ctx} (hc : s.eng.ctxs.get? cid = some c) (f : Ctx → Ctx) :
    modCtx s cid f = putCtx s cid (f c) := by
  simp only [modCtx, putCtx, modify_of_get? hc]

theorem modCtx_putCtx (s : State) (cid : Nat) (c : Ctx) (f : Ctx → Ctx) : modCtx (putCtx s cid c) cid f = putCtx (putCtx s cid c) cid (f c) :=
  modCtx_of_get? (get?_set_self _ _ _) f

/-- The context that CTX_CREATE makes: FAULT_TMO 0 asks for 1,000 ms (R342, R514). -/
def newCtx (x : Win) : Ctx :=
  { tenant := x.arg 0 2, vaBits := x.arg 4 1, shadow := x.arg 5 1, ctlQueue := x.arg 2 2, faultTmo := if x.arg 6 2 = 0 then 1000 else x.arg 6 2 }

theorem ctxCreateBody_creates {s : State} {x : Win} {r : Tenant} {cid : Nat} (hr : s.ten.recs.get? (x.arg 0 2) = some r) (ha : r.st = .active)
    (hq : x.arg 2 2 < 8192) (hfree : s.eng.queues.get? (x.arg 2 2) = none) (hheld : qidHeld s (x.arg 2 2) = none)
    (hva : 39 ≤ x.arg 4 1 ∧ x.arg 4 1 ≤ 57) (hsh : x.arg 5 1 ≤ 5) (htmo : x.arg 6 2 ≤ 10000) (hcid : s.eng.ctxs.freeKey 0 65536 = some cid) :
    ctxCreateBody s x = good (putCtx s cid (newCtx x)) (ctxRecord (putCtx s cid (newCtx x)) cid) := by
  unfold ctxCreateBody
  rw [guardArg_badArg _ (by simp [hr, ha, hq, hfree, hheld, inRange, hva, hsh, htmo])]
  simp only [hcid]
  rfl

/-- The positions that CTX_UNBIND_HALL waits for: those that used a page of the hall (R515). -/
def unbindWaits (s : State) (x : Win) : List (Nat × Nat) :=
  drainWaits s (x.arg 0 2) fun p => (s.halls.get? (x.arg 2 2)).any fun h =>
    decide (2 ^ 18 * h.base ≤ p.2 ∧ p.2 < 2 ^ 18 * (h.base + h.size))

/-- The drain that the unbinding waits for (R370, R515). -/
def unbindDrain (s : State) (x : Win) : TDrain :=
  { lo := 0, hi := 0, at_ := s.now, win := cmdWin s x, hall := some (x.arg 2 2), waits := unbindWaits s x }

section Context

variable {s : State} {x : Win} {c : Ctx} (hc : s.eng.ctxs.get? (x.arg 0 2) = some c)

include hc

theorem ctxSetBody_sets (hsh : x.arg 2 1 ≤ 5) (hz : x.arg 3 1 = 0) (htmo : 1 ≤ x.arg 4 2 ∧ x.arg 4 2 ≤ 10000) :
    let t := putCtx s (x.arg 0 2) { c with shadow := x.arg 2 1, faultTmo := x.arg 4 2 }
    ctxSetBody s x = good t (ctxRecord t (x.arg 0 2)) := by
  unfold ctxSetBody
  rw [guardArg_badArg _ (by simp [noCtx, hc, hsh, hz, inRange, htmo])]
  simp only [modCtx_of_get? hc]

theorem ctxDestroyBody_frees (hq : (s.eng.queues.any fun e => e.2.ctx = x.arg 0 2) = false) :
    ctxDestroyBody s x = good { s with eng := { s.eng with
      ctxs := s.eng.ctxs.erase (x.arg 0 2)
      gals := s.eng.gals.map fun e => (e.1, { e.2 with cache := e.2.cache.filter fun y => y.1 ≠ x.arg 0 2 }) } } := by
  unfold ctxDestroyBody
  exact guardArg_firstFail _ (by simpa [noCtx, hc] using hq)

/-- CTX_BIND_HALL on a context and a hall that exist, check by check (R341, R635). -/
theorem ctxBindBody_eq {h : Hall} (hh : s.halls.get? (x.arg 2 2) = some h) : ctxBindBody s x =
    if h.state = .destroying then fail s stDraining
    else if h.tenant ≠ c.tenant then fail s stDenied
    else if c.halls.contains (x.arg 2 2) = true then good s
    else if 256 ≤ c.halls.length then fail s stNoSpace
    else good (putCtx s (x.arg 0 2) { c with halls := c.halls ++ [x.arg 2 2] }) := by
  unfold ctxBindBody
  simp only [hc, hh, modCtx_of_get? hc]

theorem ctxUnbindBody_bound (hb : c.halls.contains (x.arg 2 2) = true) :
    let c' : Ctx := { c with halls := c.halls.filter fun n => n ≠ x.arg 2 2 }
    let u := putCtx s (x.arg 0 2) c'
    ctxUnbindBody s x = if unbindWaits s x = [] then good u else goesOn (putCtx u (x.arg 0 2) { c' with drain := some (unbindDrain s x) }) := by
  unfold ctxUnbindBody
  simp only [hc, hb, Bool.not_true, Bool.false_eq_true, if_false, modCtx_of_get? hc, modCtx_putCtx]
  rfl

theorem ctxUnbindHall_due {w : Nat} (hd : Due s w 0x0505 x) (hn : c.drain = none) :
    exec (.ctxUnbindHall w) s = .next (settle w (ctxUnbindBody s x)) := by
  have hrun : (if ((s.eng.ctxs.get? (x.arg 0 2)).any fun c => c.drain.isSome) = true then s else runCmd s w 0x0505 ctxUnbindBody) =
      settle w (ctxUnbindBody s x) := by
    rw [if_neg (by simp [hc, hn]), runCmd_due _ hd]
  change execCtxUnbindHall w s = _
  unfold execCtxUnbindHall
  simp only [hd.1, hrun]

end Context

/-! ### Queues and receive windows (R288, R344, R345, R372, R516) -/

/-- The queue that QUEUE_CREATE makes (R344). -/
def newQueue (x : Win) : Queue :=
  { owner := x.arg 4 4, ringHall := x.arg 8 2, ctx := x.arg 2 2, sub := x.arg 10 2, sqLog := x.arg 12 1, cqLog := x.arg 13 1
    fqLog := x.arg 14 1, cqNotify := decide (x.arg 15 1 = 1), sqBase := x.arg 16 4, cqBase := x.arg 20 4, fqBase := x.arg 24 4 }

/-- Does a new queue's ring run past its hall, into an earlier one of its rings, or into another queue's (R344)? -/
def ringClashes (s : State) (x : Win) (h : Option Hall) (i : Nat) : Bool :=
  let rs := ringRanges (newQueue x)
  let taken := (s.eng.queues.filter fun e => e.2.ringHall = x.arg 8 2).flatMap fun e => ringRanges e.2
  match rs[i]? with
  | some r => (taken ++ rs.take i).any (overlaps r) || h.all fun y => decide (2 ^ 30 * y.size < r.2)
  | none => false

theorem ringClashes_none {s : State} {x : Win} {h : Hall} (hr : ∀ i r, (ringRanges (newQueue x))[i]? = some r → r.2 ≤ 2 ^ 30 * h.size ∧
    (((s.eng.queues.filter fun e => e.2.ringHall = x.arg 8 2).flatMap fun e => ringRanges e.2) ++ (ringRanges (newQueue x)).take i).any
      (overlaps r) = false) (i : Nat) : ringClashes s x (some h) i = false := by
  unfold ringClashes
  cases hi : (ringRanges (newQueue x))[i]? with
  | none => simp only [hi]
  | some r =>
    obtain ⟨hfit, hfree⟩ := hr i r hi
    simp only [hi, hfree, Option.all_some, Bool.false_or, decide_eq_false (Nat.not_lt.2 hfit)]

/-- The checks of QUEUE_CREATE on its fields, under a context and a ring hall that exist (R344, R376, R635). -/
def queueChecks (s : State) (x : Win) (c : Ctx) (h : Hall) : List (Bool × Nat) :=
  [ (decide (8192 ≤ x.arg 0 2) || (s.eng.queues.get? (x.arg 0 2)).isSome || (qidHeld s (x.arg 0 2)).any (fun n => n ≠ x.arg 2 2) ||
      (!c.opened && decide (c.ctlQueue ≠ x.arg 0 2)), 0),
    (decide (c.st ≠ .active), 2),
    (decide (2 ^ 18 ≤ x.arg 4 4) || !((rightsOf s (x.arg 8 2) (x.arg 4 4)).any fun a => a.read && a.write), 4),
    (!(h.cls = .resident && decide (h.tenant = c.tenant)), 8),
    (decide (sysSub ≤ x.arg 10 2), 10), (!inRange (x.arg 12 1) 6 15, 12), (!inRange (x.arg 13 1) 6 15, 13), (!inRange (x.arg 14 1) 4 9, 14),
    (decide (1 < x.arg 15 1), 15), (ringClashes s x (some h) 0, 16), (ringClashes s x (some h) 1, 20), (ringClashes s x (some h) 2, 24) ]

/-- The state with the queue made and its context opened. -/
def queueCreated (s : State) (x : Win) (c : Ctx) : State :=
  putCtx { s with eng := { s.eng with queues := s.eng.queues.set (x.arg 0 2) (newQueue x) } } (x.arg 2 2) { c with opened := true }

theorem queueCreateBody_hall {s : State} {x : Win} {c : Ctx} {h : Hall} (hc : s.eng.ctxs.get? (x.arg 2 2) = some c)
    (hh : s.halls.get? (x.arg 8 2) = some h) (hd : h.state ≠ .destroying) : queueCreateBody s x =
      guardArg s (badArg (queueChecks s x c h)) fun _ => good (queueCreated s x c) (queueRecord (queueCreated s x c) (x.arg 0 2)) := by
  have hopen := modCtx_of_get? (s := { s with eng := { s.eng with queues := s.eng.queues.set (x.arg 0 2) (newQueue x) } }) hc
    fun c => { c with opened := true }
  unfold queueCreateBody
  simp only [hc, hh]
  rw [if_neg (by simp [hd])]
  exact congrArg (guardArg s (badArg (queueChecks s x c h))) (funext fun _ => congrArg (fun u => good u (queueRecord u (x.arg 0 2))) hopen)

section Queue

variable {s : State} {x : Win} {q : Queue} (hq : s.eng.queues.get? (x.arg 0 2) = some q)

include hq

theorem queueSetBody_sets (hn : x.arg 2 1 ≤ 1) :
    let t : State := { s with eng := { s.eng with queues := s.eng.queues.set (x.arg 0 2) { q with cqNotify := decide (x.arg 2 1 = 1) } } }
    queueSetBody s x = good t (queueRecord t (x.arg 0 2)) := by
  unfold queueSetBody
  rw [guardArg_badArg _ (by simp [hq, hn])]
  simp only [modQueue, modify_of_get? hq]

theorem queueDestroyBody_stops {w : Nat} (hw : cmdWin s x = some w) :
    queueDestroyBody s x = goesOn (stopQueue (markBegun s w) (x.arg 0 2) (some w)) := by
  unfold queueDestroyBody
  simp only [hq, hw]

end Queue

theorem rxwinSetBody_sets {s : State} {x : Win} (ht : (s.ten.recs.get? (x.arg 2 2)).isSome = true) (hep : x.arg 4 4 < 2 ^ 18)
    (hsz : x.arg 8 8 ≤ 2 ^ 40) (hown : x.cls = .host → x.arg 4 4 = x.owner)
    (hrx : ∀ r, s.eng.rx.get? (x.arg 0 2) = some r → r.ep = x.arg 4 4) :
    rxwinSetBody s x = good { s with eng := { s.eng with
      rx := if x.arg 8 8 = 0 then s.eng.rx.erase (x.arg 0 2) else s.eng.rx.set (x.arg 0 2) ⟨x.arg 2 2, x.arg 4 4, x.arg 8 8⟩ } } := by
  have hbusy : ((s.eng.rx.get? (x.arg 0 2)).any fun r => r.ep ≠ x.arg 4 4) = false := by
    cases hr : s.eng.rx.get? (x.arg 0 2) with
    | none => rfl
    | some r => simp [hrx r hr]
  have hhost : (x.cls = .host && decide (x.arg 4 4 ≠ x.owner)) = false := by simpa using hown
  unfold rxwinSetBody
  refine guardArg_firstFail _ ?_
  simp only [List.forall_mem_cons, ht, hbusy, hhost, Nat.not_le.2 hep, Nat.not_lt.2 hsz, Bool.not_true, decide_false]
  simp

/-! ### The commands together -/

/-- Settles O18, command by command. That a record named by no context or queue reads zero is the model's choice (log 38). -/
theorem contextAndQueueCommandsComplete : Obligations.ContextAndQueueCommandsComplete := by
  refine ⟨?create, fun _ _ _ hd => congrArg Host.Outcome.next (runCmd_good hd rfl), ?context, ?queueCreate, ?queue⟩
  case create =>
    intro s w cid x r hd hr ha hq hfree hheld hlo hhi hsh htmo hcid c t
    exact congrArg Host.Outcome.next (runCmd_good hd (ctxCreateBody_creates hr ha hq hfree hheld ⟨hlo, hhi⟩ hsh htmo hcid))
  case context =>
    intro s w x c hc cid put
    refine ⟨fun hd hsh hz hlo hhi => congrArg Host.Outcome.next (runCmd_good hd (ctxSetBody_sets hc hsh hz ⟨hlo, hhi⟩)),
      fun hd hq => congrArg Host.Outcome.next (runCmd_good hd (ctxDestroyBody_frees hc hq)), ?bind, ?unbind⟩
    case bind =>
      intro h hd hh
      have hbody := ctxBindBody_eq hc hh
      refine ⟨fun hs => ?_, fun hs ht => ?_, fun hs ht => ⟨fun hb => ?_, fun hb hn => ?_, fun hb hn => ?_⟩⟩
      · exact congrArg Host.Outcome.next (runCmd_fail hd (hbody.trans (if_pos hs)))
      · rw [if_neg hs, if_pos ht] at hbody
        exact congrArg Host.Outcome.next (runCmd_fail hd hbody)
      · rw [if_neg hs, if_neg (not_not_intro ht), if_pos hb] at hbody
        exact congrArg Host.Outcome.next (runCmd_good hd hbody)
      · rw [if_neg hs, if_neg (not_not_intro ht), hb, if_neg Bool.false_ne_true, if_pos hn] at hbody
        exact congrArg Host.Outcome.next (runCmd_fail hd hbody)
      · rw [if_neg hs, if_neg (not_not_intro ht), hb, if_neg Bool.false_ne_true, if_neg (Nat.not_le.2 hn)] at hbody
        exact congrArg Host.Outcome.next (runCmd_good hd hbody)
    case unbind =>
      intro hd hn hb waits c' d
      rw [ctxUnbindHall_due hc hd hn, ctxUnbindBody_bound hc hb]
      refine ⟨fun hw => ?_, fun hw => ?_⟩
      · rw [if_pos (show unbindWaits s x = [] from hw), settle_good]
        rfl
      · rw [if_neg (show unbindWaits s x ≠ [] from hw), settle_goesOn]
        rfl
  case queueCreate =>
    intro s w x c h a hd hc ha hh hcls hten hst hctl hid hfree hheld hown hr hrd hwr hsub hsq hsq' hcq hcq' hfq hfq' hnot q taken hrings t
    have hclash := ringClashes_none hrings
    have hkept : ((qidHeld s (x.arg 0 2)).any fun n => n ≠ x.arg 2 2) = false := by
      cases hn : qidHeld s (x.arg 0 2) with
      | none => rfl
      | some n => simp [hheld n hn]
    have hfirst : (!c.opened && decide (c.ctlQueue ≠ x.arg 0 2)) = false := by rcases hctl with ho | ho <;> simp [ho]
    have hpass : ∀ e ∈ queueChecks s x c h, e.1 = false := by
      simp only [queueChecks, List.forall_mem_cons, hclash, hkept, hfirst, Nat.not_le.2 hown, Nat.not_le.2 (show x.arg 10 2 < sysSub from hsub)]
      simp [ha, hr, hrd, hwr, hcls, hten, hid, hfree, inRange, hsq, hsq', hcq, hcq', hfq, hfq', hnot]
    have hbody := (queueCreateBody_hall hc hh hst).trans (guardArg_badArg _ hpass)
    exact congrArg Host.Outcome.next (runCmd_good hd hbody)
  case queue =>
    intro s w x
    refine ⟨fun hd hid => congrArg Host.Outcome.next (runCmd_good hd (if_neg (Nat.not_le.2 hid))), fun q hq => ⟨fun hd hn => ?_, fun hd hw => ?_⟩,
      fun hd ht hep hsz hown hrx => congrArg Host.Outcome.next (runCmd_good hd (rxwinSetBody_sets ht hep hsz hown hrx))⟩
    · exact congrArg Host.Outcome.next (runCmd_good hd (queueSetBody_sets hq hn))
    · exact congrArg Host.Outcome.next (runCmd_goesOn hd (queueDestroyBody_stops hq hw))

end Sys2Proof.Proofs
end

section
/-! LAST_LOAD, LAST_UNLOAD, LAST_STOP and LAST_QUERY (O19): one lemma per case of each command (R262, R263, R271, R293, R517). -/

namespace Sys2Proof.Proofs

open Sys2Proof.Machine Sys2Proof.Laws Sys2Proof.Safety

/-! ### LAST_LOAD (R262, R271) -/

/-- The load that LAST_LOAD begins. -/
def newLoad (x : Win) (lines : List Nat) : Load := { ctx := x.arg 0 2, va := x.arg 8 8, len := x.arg 4 4, lines := lines }

theorem lastLoad_begins {s : State} {w : Nat} (h : s.eng.loads.get? w = none) :
    exec (.lastLoad w) s = .next (runCmd s w 0x0600 lastLoadBody) := by
  change execLastLoad w s = _
  unfold execLastLoad
  simp only [h]

theorem lastLoadBody_reads {s : State} {w : Nat} {x : Win} {c : Ctx} {lines : List Nat} (hc : s.eng.ctxs.get? (x.arg 0 2) = some c)
    (ha : c.st = .active) (hz : x.arg 2 2 = 0) (hlen : 256 ≤ x.arg 4 4 ∧ x.arg 4 4 ≤ 13568) (hw : cmdWin s x = some w)
    (hl : vaLines s c (x.arg 8 8) (x.arg 4 4) = some lines) : lastLoadBody s x =
      goesOn (readImage { s with eng := { s.eng with loads := s.eng.loads.set w (newLoad x lines) } } w (x.arg 0 2) lines) := by
  unfold lastLoadBody
  rw [guardArg_badArg _ (by simp [hc, ha, hz, inRange, hlen])]
  simp only [hc, hw, hl]
  rfl

/-- Every line has come and none of it is poison: the load is ready to be checked. -/
theorem loadDone_ok {l : Load} (hb : l.bad = none) (hg : l.lines.length ≤ l.got.length) (hp : ∀ e ∈ l.got, e.2.poison = 0) :
    loadDone l = some stOk := by
  have hclean : (l.got.any fun e => e.2.poison ≠ 0) = false := List.any_eq_false.2 fun e he => by simp [hp e he]
  unfold loadDone
  simp only [hb, if_neg (Nat.not_lt.2 hg), hclean, Bool.false_eq_true, if_false]

theorem lastLoad_ends {s : State} {w st : Nat} {l : Load} (hl : s.eng.loads.get? w = some l) (hf : s.pwr.feltiOn = true)
    (hd : loadDone l = some st) : exec (.lastLoad w) s = .next (finishLoad s w l st) := by
  change execLastLoad w s = _
  unfold execLastLoad
  simp only [hl, hd, hf, if_true]

theorem finishLoad_checked {s : State} {w hd : Nat} {l : Load} {c : Ctx} (hc : s.eng.ctxs.get? l.ctx = some c)
    (hh : s.eng.loaded.freeKey 0 1024 = some hd) :
    let t : State := { s with eng := { s.eng with loads := s.eng.loads.erase w } }
    finishLoad s w l stOk = if imageOk (loadBytes l) then finishCmd { t with eng := { t.eng with
        loaded := s.eng.loaded.set hd { image := loadBytes l, tenant := c.tenant } } } w stOk 0 (leBytes 2 hd)
      else finishCmd t w stBadArg 8 [] := by
  unfold finishLoad
  cases hi : imageOk (loadBytes l) <;> simp [hc, hh, hi]

/-! ### Loaded images and admitted lasts (R263, R293, R517) -/

section Handle

variable {s : State} {x : Win} {l : Loaded} (hl : s.eng.loaded.get? (x.arg 0 2) = some l)

include hl

theorem lastUnloadBody_frees (hn : handleLasts s (x.arg 0 2) = 0) :
    lastUnloadBody s x = good { s with eng := { s.eng with loaded := s.eng.loaded.erase (x.arg 0 2) } } := by
  unfold lastUnloadBody
  simp only [hl, if_neg (not_not_intro hn)]

theorem lastQueryBody_answers : lastQueryBody s x = good s (sub l.image 0 256 ++ leBytes 2 (handleLasts s (x.arg 0 2))) := by
  unfold lastQueryBody
  simp only [hl]

end Handle

theorem lastStopBody_stops {s : State} {x : Win} {w lid : Nat} {l : Last}
    (hl : (s.eng.lasts.find? fun e => e.2.qid = x.arg 0 2 ∧ e.2.sqIdx = x.arg 2 2) = some (lid, l)) (hw : cmdWin s x = some w) :
    lastStopBody s x = goesOn (lastStop (markBegun (modLast s lid fun l => { l with stopBy := some w }) w) lid) := by
  unfold lastStopBody
  simp only [hl, hw]

/-! ### The commands together -/

/-- Settles O19, command by command. -/
theorem lastCommandsComplete : Obligations.LastCommandsComplete := by
  refine ⟨?begins, ?ends, ?handle, fun _ _ _ _ _ hd hl hw => congrArg Host.Outcome.next (runCmd_goesOn hd (lastStopBody_stops hl hw))⟩
  case begins =>
    intro s w x c lines hd hn hc ha hz hlo hhi hw hl
    exact (lastLoad_begins hn).trans (congrArg Host.Outcome.next (runCmd_goesOn hd (lastLoadBody_reads hc ha hz ⟨hlo, hhi⟩ hw hl)))
  case ends =>
    intro s w hd l c hl hf hb hg hp hc hh t
    exact (lastLoad_ends hl hf (loadDone_ok hb hg hp)).trans (congrArg Host.Outcome.next (finishLoad_checked hc hh))
  case handle =>
    intro s w x l hl
    exact ⟨fun hd hn => congrArg Host.Outcome.next (runCmd_good hd (lastUnloadBody_frees hl hn)),
      fun hd => congrArg Host.Outcome.next (runCmd_good hd (lastQueryBody_answers hl))⟩

end Sys2Proof.Proofs
end

section
/-! The commands on flights and shapers (O23): what each command's body answers, case by case (R297, R381, R382, R390, R391, R393, R399, R518,
R552). -/

namespace Sys2Proof.Proofs

open Sys2Proof.Machine Sys2Proof.Laws Sys2Proof.Safety

/-! ### Flights (R297, R381, R382, R399) -/

/-- The state in which a takeover reached at acceptance has occurred and the pending bank holds what a command puts there (R382). -/
def pendingSet (s : State) (r accept : Nat) (f : Option Flight) : State :=
  let t := settleTakeover s r accept
  { t with flt := t.flt.modify r fun q => { q with pending := f, pendDerived := false } }

/-- The image of FLIGHT_LOAD. -/
def loadImage (x : Win) : List Byte := x.bytes 0 (flightLen (x.arg 6 2) (x.arg 8 2))

/-- The check of R381 on it, against the limit of its resource. -/
def loadCheck (s : State) (x : Win) : Option (Nat × Nat) :=
  flightCheck (resLimit s (subNat (loadImage x) 5 1)) (cmdAccept x) (loadImage x)

section FlightLoad

variable {s : State} {x : Win}

theorem flightLoadBody_eq : flightLoadBody s x = guardArg s (loadCheck s x) fun _ =>
    let f := imageFlight (loadImage x)
    if f.force = false ∧ breaksClaims s (subNat (loadImage x) 5 1) f = true then fail s stBusy
    else retain s (pendingSet s (subNat (loadImage x) 5 1) (cmdAccept x) (some f)) fun u => good u := rfl

theorem flightLoadBody_refused {st d : Nat} (hk : loadCheck s x = some (st, d)) : flightLoadBody s x = fail s st d := by
  rw [flightLoadBody_eq, hk, guardArg_some]

theorem flightLoadBody_passed (hk : loadCheck s x = none) : flightLoadBody s x =
    let f := imageFlight (loadImage x)
    if f.force = false ∧ breaksClaims s (subNat (loadImage x) 5 1) f = true then fail s stBusy
    else retain s (pendingSet s (subNat (loadImage x) 5 1) (cmdAccept x) (some f)) fun u => good u := by
  rw [flightLoadBody_eq, hk, guardArg_none]

end FlightLoad

section Known

variable {s : State} {x : Win}

theorem flightCancelBody_unknown (hr : resKnown s (x.arg 0 1) = false) : flightCancelBody s x = fail s stBadArg 0 := by
  unfold flightCancelBody
  simp only [hr]
  rfl

theorem flightReadBody_unknown (hr : resKnown s (x.arg 0 1) = false) : flightReadBody s x = fail s stBadArg 0 := by
  unfold flightReadBody
  simp only [hr]
  rfl

theorem flightQueryBody_eq : flightQueryBody s x = if resKnown s (x.arg 0 1) = true
    then good s (flightRecord s (x.arg 0 1) (s.flt.getD (x.arg 0 1) { active := bareFlight })) else fail s stBadArg 0 := by
  unfold flightQueryBody
  cases hr : resKnown s (x.arg 0 1) <;> simp only [hr] <;> rfl

variable (hr : resKnown s (x.arg 0 1) = true)

include hr

theorem flightCancelBody_empty (hp : (((settleTakeover s (x.arg 0 1) (cmdAccept x)).flt.get? (x.arg 0 1)).bind fun q => q.pending) = none) :
    flightCancelBody s x = fail (settleTakeover s (x.arg 0 1) (cmdAccept x)) stNotActive := by
  unfold flightCancelBody
  rw [guardArg_badArg _ (by simp [hr])]
  simp only [hp]

theorem flightCancelBody_pending {f : Flight}
    (hp : (((settleTakeover s (x.arg 0 1) (cmdAccept x)).flt.get? (x.arg 0 1)).bind fun q => q.pending) = some f) :
    flightCancelBody s x = retain s (pendingSet s (x.arg 0 1) (cmdAccept x) none) fun u => good u := by
  unfold flightCancelBody
  rw [guardArg_badArg _ (by simp [hr])]
  simp only [hp]
  rfl

theorem flightReadBody_noBank (hb : 1 < x.arg 1 1) : flightReadBody s x = fail s stBadArg 1 := by
  unfold flightReadBody
  simp only [hr, hb, decide_true]
  rfl

/-- FLIGHT_READ of the active bank, number 0, or the pending one, number 1 (R518). -/
theorem flightReadBody_bank (hb : x.arg 1 1 ≤ 1) : flightReadBody s x =
    let q := s.flt.getD (x.arg 0 1) { active := bareFlight }
    if x.arg 1 1 = 0 then good s (flightBytes (x.arg 0 1) q.active)
    else match q.pending with
      | some f => good s (flightBytes (x.arg 0 1) f)
      | none => fail s stNotActive := by
  unfold flightReadBody
  exact guardArg_badArg _ (by simp [hr, hb])

end Known

/-! ### Shapers (R390, R391, R393, R552) -/

/-- The sequencer of the resource a shaper command names. -/
def namedSeqr (s : State) (x : Win) : Seqr := s.flt.getD (x.arg 0 1) { active := bareFlight }

/-- The shaper of the pair it names. -/
def namedShaper (s : State) (x : Win) : Shaper := shaperOf s (x.arg 0 1) (namedSeqr s x) (x.arg 2 2) (x.arg 1 1)

/-- It with a new configuration and its buckets reset (R390). -/
def shaperReset (s : State) (x : Win) (cfg : ShaperCfg) (explicit : Bool) : Shaper :=
  reconfig s.now { namedShaper s x with cfg := cfg, explicit_ := explicit }

/-- The sequencer with that entry written. -/
def shaperWritten (s : State) (x : Win) (cfg : ShaperCfg) (explicit : Bool) : Seqr :=
  { namedSeqr s x with shapers := (namedSeqr s x).shapers.set (shKey (x.arg 2 2) (x.arg 1 1)) (shaperReset s x cfg explicit) }

/-- It is retained, and the pair's record answered. -/
def shaperAnswer (s : State) (x : Win) (cfg : ShaperCfg) (explicit : Bool) : Answer :=
  retain s { s with flt := s.flt.set (x.arg 0 1) (shaperWritten s x cfg explicit) } fun u =>
    good u (shaperRecord u (x.arg 0 1) (x.arg 2 2) (x.arg 1 1) (shaperWritten s x cfg explicit))

/-- The configuration a record gives (R393). -/
def recordCfg (v : Nat) : ShaperCfg := { pir := bits v 24 24, cbs := bits v 48 16, pbs := bits v 64 16, latTgt := bits v 80 16 }

section ShaperSet

variable {s : State} {x : Win}

theorem shaperSetBody_refused {st d : Nat} (hk : shaperCheck s x = some (st, d)) : shaperSetBody s x = fail s st d := by
  unfold shaperSetBody
  rw [hk, guardArg_some]

variable (hk : shaperCheck s x = none)

include hk

/-- A record makes an explicit entry, of which there are 4,096; a LAT_TGT has no place in format 2 (R393, R552). -/
theorem shaperSetBody_record (hd : x.arg 4 1 = 0) : shaperSetBody s x =
    if bits (x.arg 8 32) 80 16 ≠ 0 ∧ s.store.fmtWrite = 2 then fail s stVersion
    else if (namedShaper s x).explicit_ = false ∧ 4096 ≤ ((namedSeqr s x).shapers.filter fun e => e.2.explicit_).length then fail s stNoSpace
    else shaperAnswer s x (recordCfg (x.arg 8 32)) true := by
  unfold shaperSetBody
  rw [hk, guardArg_none]
  simp only [hd, Nat.zero_ne_one, if_false, true_and, decide_true]
  rfl

/-- DEFAULT frees the entry: the pair has the default shaper again (R391, R393). -/
theorem shaperSetBody_default (hd : x.arg 4 1 = 1) : shaperSetBody s x = shaperAnswer s x (defaultShaper s (x.arg 0 1)) false := by
  unfold shaperSetBody
  rw [hk, guardArg_none]
  simp only [hd, Nat.one_ne_zero, if_true, false_and, if_false, decide_false]
  rfl

end ShaperSet

theorem shaperAnswer_committed {s : State} (hw : s.store.writable = true) (w : Nat) (x : Win) (cfg : ShaperCfg) (explicit : Bool) :
    let q := shaperWritten s x cfg explicit
    let u := (commit { s with flt := s.flt.set (x.arg 0 1) q }).1
    settle w (shaperAnswer s x cfg explicit) = finishCmd u w stOk 0 (shaperRecord u (x.arg 0 1) (x.arg 2 2) (x.arg 1 1) q) :=
  congrArg (settle w) (retain_ok (new := { s with flt := s.flt.set (x.arg 0 1) (shaperWritten s x cfg explicit) }) hw _ _)

theorem shaperQueryBody_passed {s : State} {x : Win} (hr : resKnown s (x.arg 0 1) = true) (hv : x.arg 1 1 < 8) (hs : x.arg 2 2 < 2048) :
    shaperQueryBody s x = good s (shaperRecord s (x.arg 0 1) (x.arg 2 2) (x.arg 1 1) (s.flt.getD (x.arg 0 1) { active := bareFlight })) := by
  unfold shaperQueryBody
  exact guardArg_badArg _ (by simp [hr, hv, hs])

theorem shaperQueryBody_refused {s : State} {x : Win} {d : Nat} (hb : badArg [(!resKnown s (x.arg 0 1), 0), (decide (8 ≤ x.arg 1 1), 1),
    (decide (2048 ≤ x.arg 2 2), 2)] = some (stBadArg, d)) : shaperQueryBody s x = fail s stBadArg d := by
  unfold shaperQueryBody
  simp only [hb, guardArg_some]

/-! ### The commands together -/

/-- Settles O23, command by command. That FLIGHT_CANCEL of a pending bank never loaded ends ST_NOT_ACTIVE is the model's choice (log 82). -/
theorem flightAndShaperCommandsComplete : Obligations.FlightAndShaperCommandsComplete := by
  refine ⟨?load, ?cancel, ?query, ?read, ?shaperSet, ?shaperQuery⟩
  case load =>
    intro s w x hd hl b r f chk t u
    have hrun {a : Answer} (hb : flightLoadBody s x = a) : exec (.flightLoad w) s = .next (settle w a) :=
      congrArg Host.Outcome.next ((runRetained_due _ hd hl.1).trans (congrArg (settle w) hb))
    refine ⟨fun st d hk => hrun (flightLoadBody_refused hk), fun hk hf hc => ?_, fun hk hf => ?_⟩
    · exact hrun ((flightLoadBody_passed hk).trans (if_pos ⟨hf, hc⟩))
    · have hkeeps : ¬(f.force = false ∧ breaksClaims s r f = true) := by
        rintro ⟨hn, hc⟩
        rcases hf with h | h
        · exact Bool.false_ne_true (hn.symm.trans h)
        · exact Bool.false_ne_true (h.symm.trans hc)
      exact (hrun ((flightLoadBody_passed hk).trans (if_neg hkeeps))).trans (congrArg Host.Outcome.next (settle_retain w _ _ _))
  case cancel =>
    intro s w x hd hl r t u
    have hrun {a : Answer} (hb : flightCancelBody s x = a) : exec (.flightCancel w) s = .next (settle w a) :=
      congrArg Host.Outcome.next ((runRetained_due _ hd hl.1).trans (congrArg (settle w) hb))
    refine ⟨fun hr => hrun (flightCancelBody_unknown hr), fun hr => ⟨fun hp => hrun (flightCancelBody_empty hr hp), fun hp => ?_⟩⟩
    obtain ⟨f, hf⟩ := Option.isSome_iff_exists.1 hp
    exact (hrun (flightCancelBody_pending hr hf)).trans (congrArg Host.Outcome.next (settle_retain w _ _ _))
  case query =>
    intro s w x hd
    refine congrArg Host.Outcome.next ((runCmd_due _ hd).trans ?_)
    rw [flightQueryBody_eq, apply_ite (settle w), settle_good, settle_fail]
  case read =>
    intro s w x hd q
    have hrun {a : Answer} (hb : flightReadBody s x = a) : exec (.flightRead w) s = .next (settle w a) :=
      congrArg Host.Outcome.next ((runCmd_due _ hd).trans (congrArg (settle w) hb))
    refine ⟨fun hr => hrun (flightReadBody_unknown hr), fun hr => ⟨fun h0 => ?_, fun h1 => ?_, fun hb => hrun (flightReadBody_noBank hr hb)⟩⟩
    · exact hrun ((flightReadBody_bank hr (by omega)).trans (if_pos h0))
    · refine (hrun ((flightReadBody_bank hr (Nat.le_of_eq h1)).trans (if_neg (by omega)))).trans (congrArg Host.Outcome.next ?_)
      cases q.pending <;> rfl
  case shaperSet =>
    intro s w x hd hl r q v old n
    have hrun {a : Answer} (hb : shaperSetBody s x = a) : exec (.shaperSet w) s = .next (settle w a) :=
      congrArg Host.Outcome.next ((runRetained_due _ hd hl.1).trans (congrArg (settle w) hb))
    refine ⟨fun st d hk => hrun (shaperSetBody_refused hk), fun hk h0 hlat hfmt => ?_, fun hk h0 hlat he hn => ?_, fun hk h0 hlat hroom => ?_,
      fun hk h1 => ?_⟩
    · exact hrun ((shaperSetBody_record hk h0).trans (if_pos ⟨hlat, hfmt⟩))
    · have hfmt : ¬(bits v 80 16 ≠ 0 ∧ s.store.fmtWrite = 2) := fun ⟨hne, hf⟩ => hlat.elim hne (· hf)
      exact hrun ((shaperSetBody_record hk h0).trans ((if_neg hfmt).trans (if_pos ⟨he, hn⟩)))
    · have hfmt : ¬(bits v 80 16 ≠ 0 ∧ s.store.fmtWrite = 2) := fun ⟨hne, hf⟩ => hlat.elim hne (· hf)
      have hfree : ¬(old.explicit_ = false ∧ 4096 ≤ n) := by
        rintro ⟨he, hn⟩
        rcases hroom with h | h
        · exact Bool.false_ne_true (he.symm.trans h)
        · exact Nat.not_le.2 h hn
      exact (hrun ((shaperSetBody_record hk h0).trans ((if_neg hfmt).trans (if_neg hfree)))).trans
        (congrArg Host.Outcome.next (shaperAnswer_committed hl.2 w x _ _))
    · exact (hrun (shaperSetBody_default hk h1)).trans (congrArg Host.Outcome.next (shaperAnswer_committed hl.2 w x _ _))
  case shaperQuery =>
    intro s w x hd q
    exact ⟨fun ⟨hr, hv, hs⟩ => congrArg Host.Outcome.next (runCmd_good hd (shaperQueryBody_passed hr hv hs)),
      fun d hb => congrArg Host.Outcome.next (runCmd_fail hd (shaperQueryBody_refused hb))⟩

end Sys2Proof.Proofs
end

section
/-! Temperatures (O32): one lemma per case of each row's definition (R299, R409, R628, R629, R636). -/

namespace Sys2Proof.Proofs

open Sys2Proof.Machine Sys2Proof.Laws

/-! ### A sensor's new temperature (R409, R628) -/

/-- Without a trip no cooling is timed (R629). -/
theorem coolClock_untripped {s : State} (h : s.pwr.tripped = false) : coolClock s = s := if_pos h

/-- The state with a sensor's new temperature, a DIMM's in its channel too (R409, R636). -/
def sensorRead (s : State) (n : Nat) (t : Int) : State :=
  let u : State := { s with hw := { s.hw with temps := s.hw.temps.set n t } }
  if 20 ≤ n ∧ n < 36 then modChan u (n - 20) fun c => { c with temp := t } else u

theorem sensorRead_pwr (s : State) (n : Nat) (t : Int) : (sensorRead s n t).pwr = s.pwr := by
  unfold sensorRead
  split <;> rfl

/-- A sensor outside the galleries and below its trip threshold takes its value, with the event when it crosses (R628). -/
theorem thermalThreshold_below {s : State} {n : Nat} {t : Int} (hlo : 19 ≤ n) (hhi : n < 37) (ht : ∀ tr, thermalTrip n = some tr → t < tr) :
    thermalThreshold s n t = coolClock
    (if decide ((s.hw.temps.get? n).getD 0 < thermalEvent n) ≠ decide (t < thermalEvent n) then
      event (sensorRead s n t) .thermalEvent (srcSensor n) none none 0 (thermalDetail t (thermalEvent n) (decide (t < thermalEvent n)))
    else sensorRead s n t) := by
  have hgal : ¬n < 16 := by omega
  unfold thermalThreshold
  rw [if_neg (Nat.not_le.2 hhi)]
  simp only [hgal, decide_false, Bool.false_and, Bool.not_false, true_and, if_false]
  cases htr : thermalTrip n with
  | none => rfl
  | some tr =>
    simp only [Int.not_le.2 (ht tr htr), false_and, if_false]
    rfl

/-! ### The end of a gallery's gate (R299, R628) -/

theorem gateResume_cooled {s : State} {g t : Nat} (hc : (s.eng.gals.getD g {}).coolSince = some t)
    (hg : (s.eng.gals.getD g {}).gated = true) (hd : ms 10 + t ≤ s.now) :
    let u := event s .thermalGate (srcSensor g) none none 0 [(0, 1, 0), (2, 2, tempBits ((s.hw.temps.get? g).getD 0))]
    let v : State := { u with eng := { u.eng with gals := u.eng.gals.set g { s.eng.gals.getD g {} with gated := false, coolSince := none } } }
    gateResume s g = if fencedNow v = true then v else (galleryLasts v g).foldl dispatch v := by
  unfold gateResume
  simp only [hc]
  rw [if_neg (by simp [hg, hd])]

/-! ### The restart after a trip (R629) -/

theorem tripCooldownRestart_eq {s : State} {t : Nat} (hc : s.pwr.coolSince = some t) (ht : s.pwr.tripped = true) :
    exec .tripCooldownRestart s = .next (if s.now < sec 60 + t then s else tryEnable { s with pwr := { s.pwr with
      tripped := false, coolSince := none, startKind := .cold, railTries := 0 } }) := by
  change execTripCooldownRestart s = _
  unfold execTripCooldownRestart
  simp only [hc, ht, Bool.true_eq_false, false_or]
  rfl

/-! ### The rows together -/

/-- Settles O32, row by row. Sensors 19 to 36 are the HBM stack, the DIMMs and the power stage (R636). -/
theorem thermalRowsComplete : Obligations.ThermalRowsComplete := by
  refine ⟨?sensor, fun s g t hc hg hd => congrArg Host.Outcome.next (gateResume_cooled hc hg hd), fun s t hc ht => ?restart⟩
  case sensor =>
    intro s n t hlo hhi hp ht old u v
    have hrow : exec (.thermalThreshold n t) s = .next _ := congrArg Host.Outcome.next (thermalThreshold_below hlo hhi ht)
    rw [hrow]
    refine ⟨fun he => ?_, fun hne => congrArg Host.Outcome.next (congrArg coolClock (if_pos hne))⟩
    rw [if_neg (not_not_intro he), coolClock_untripped (by rw [sensorRead_pwr, hp])]
    rfl
  case restart =>
    rw [tripCooldownRestart_eq hc ht]
    exact ⟨fun hd => congrArg Host.Outcome.next (if_neg (Nat.not_lt.2 hd)), fun hd => congrArg Host.Outcome.next (if_pos hd)⟩

end Sys2Proof.Proofs
end

section
/-! The galleries' rows (O22): one lemma per case of each row's definition (R259, R276, R283, R287, R293, R361, R363, R365, R591, R594,
R595). -/

namespace Sys2Proof.Proofs

open Sys2Proof.Machine Sys2Proof.Laws

/-! ### Bench clears (R259) -/

theorem benchClearDone_clearing {s : State} {core t : Nat} (h : (coreAt s core).clearing = some t) : exec (.benchClearDone core) s =
    .next (setCore s core { coreAt s core with bench := [], poison := [], clearing := none, kept := [] }) :=
  congrArg Host.Outcome.next (if_pos (by rw [h]; rfl))

/-- A row of the galleries that waits while the role is FENCED. -/
theorem unlessFenced {s t u : State} (hf : fencedNow s = false) (h : t = u) :
    (.next (if fencedNow s = true then s else t) : Host.Outcome State Fault Refusal) = .next u :=
  congrArg Host.Outcome.next ((if_neg (ne_true_of_eq_false hf)).trans h)

/-! ### What requests and positions leave behind -/

/-- The state without a request of a last. -/
def reqGone (s : State) (lid idx : Nat) : State := modLast s lid fun l => { l with reqs := l.reqs.filter fun x => x.idx ≠ idx }

/-- The tile of the position a request is for. -/
def reqTile (l : Last) (r : EngReq) : Nat := ((l.seq[r.pos]?).map fun x => x.1).getD noTile

/-- The run of a position's stages on its core's bench. -/
def posRun (s : State) (l : Last) (p : Pos) (ue : BenchErrors) : RunSt :=
  runPosition (lastImage s l) l p (coreAt s (physCore l p.core)) ue

/-- Its output stream (R591). -/
def posOuts (s : State) (l : Last) (p : Pos) (ue : BenchErrors) : List OutOp :=
  streamOf (lastImage s l) p (posTouches s (lastImage s l) l p) (chainStages (lastImage s l) l.chain) (posRun s l p ue)

/-- The state without the position, what its gallery's arrays were found to hold bad dealt with. -/
def posLeft (s : State) (lid q : Nat) (l : Last) (p : Pos) (ue : BenchErrors) : State :=
  arrayErrors (dropPos s lid q) (runGallery (lastImage s l) l (physCore l p.core)) l.ctx ue

/-- Its bench is stored. -/
def benchStored (s : State) (lid q : Nat) (l : Last) (p : Pos) (ue : BenchErrors) : State :=
  let u := posLeft s lid q l p ue
  let r := posRun s l p ue
  let core := physCore l p.core
  setCore u core { coreAt u core with bench := r.bench, poison := r.poison, kept := r.kept }

/-- The tile of a position other than a rerun counts as done. -/
def posDone (s : State) (lid q : Nat) (l : Last) (p : Pos) (ue : BenchErrors) : State :=
  modLast (benchStored s lid q l p ue) lid fun l => { l with done := l.done ++ [q] }

/-- One run of a shadowed tile, kept for the comparison (R591). -/
def shadowRun (s : State) (l : Last) (p : Pos) (ue : BenchErrors) : RunOut :=
  { core := physCore l p.core, outs := posOuts s l p ue, input := p.reads
    bench := keptRegions (lastImage s l) l.chain (posRun s l p ue).bench }

/-- The runs of a shadowed tile with that one. -/
def runsHeld (s : State) (l : Last) (p : Pos) (ue : BenchErrors) : Held :=
  let h := heldOf l p.tile
  if p.shadow then { h with shad := some (shadowRun s l p ue) } else { h with prim := some (shadowRun s l p ue) }

/-- A SELECT view that has been read gives the chain its tiles, or ends the last (R284). -/
def selectRead (s : State) (u : State) (lid : Nat) (l : Last) (p : Pos) : State :=
  match selectList (lastImage s l) l p with
  | none => endLast u lid stBadArg (headStage (lastImage s l) l.chain) noTile
  | some ts => goLast (modLast u lid fun l => { l with seq := sequenceOf l.shadow l.chain ts, started := true }) lid

section Row

variable {s : State} {lid : Nat} {l : Last} (hl : s.eng.lasts.get? lid = some l)

include hl

/-! ### Starts (R276) -/

theorem lastStartTimeReached_begins (hb : l.begunAt = none) (hs : l.start ≤ s.now) (he : l.ending = none) (hf : fencedNow s = false) :
    exec (.lastStartTimeReached lid) s =
      .next (goLast (beginChain (modLast s lid fun l => { l with begunAt := some s.now }) lid 0) lid) := by
  change execLastStartTimeReached lid s = _
  unfold execLastStartTimeReached
  simp only [hl]
  rw [if_pos (by simp [hb, hs, he, hf])]

/-! ### Translation phases (R361, R363, R365) -/

section Translate

variable {q : Nat} {p : Pos} {c : Ctx} (hp : findPos l q = some p) (hc : s.eng.ctxs.get? l.ctx = some c) (ht : p.st = .translate)
  (hn : p.need = [])

include hp hc ht hn

theorem translatePos_faults {f : Nat × Nat × Bool × Nat × Nat} (hf : firstFault s c (posTouches s (lastImage s l) l p) = some f) :
    translatePos s lid q = faultPos s lid q p f := by
  unfold translatePos
  simp only [hl, hp, hc]
  rw [if_neg (by simp [ht, hn])]
  simp only [hf]

/-- A position that touches no pool memory runs at once. -/
theorem translatePos_untouched (h0 : posTouches s (lastImage s l) l p = []) : translatePos s lid q =
    modPos (modLast (modPos (modPos s lid q fun p => { p with trans := [] }) lid q fun p => { p with st := .running }) lid
      fun l => { l with trans := l.trans.set (posKey l q) [] }) lid q fun p => { p with need := [] } := by
  unfold translatePos
  simp only [hl, hp, hc]
  rw [if_neg (by simp [ht, hn]), h0]
  rfl

end Translate

/-! ### Engine requests (R287, R293) -/

section Request

variable {idx : Nat} {r : EngReq} (hr : (l.reqs.find? fun r => r.idx = idx) = some r)

include hr

theorem engineRequest_moved (hk : r.code = some .ok ∨ r.code = some .poison) : engineRequest s lid idx =
    goLast (if r.write.isSome then reqGone s lid idx else depositRead (reqGone s lid idx) lid r) lid := by
  unfold engineRequest
  rcases hk with hk | hk <;> simp only [hl, hr, hk] <;> rfl

theorem engineRequest_again (hk : r.code = some .timeout) (ha : r.again = false) : engineRequest s lid idx =
    sendEng (modLast s lid fun l =>
      { l with reqs := l.reqs.map fun x => if x.idx = idx then { x with again := true, code := none } else x }) lid idx := by
  unfold engineRequest
  simp only [hl, hr, hk, ha, Bool.false_eq_true, if_false]

theorem engineRequest_timeout (hk : r.code = some .timeout) (ha : r.again = true) :
    engineRequest s lid idx = endLast (reqGone s lid idx) lid stTimeout r.stage (reqTile l r) := by
  unfold engineRequest
  simp only [hl, hr, hk, ha, if_true]
  rfl

theorem engineRequest_refused {code : CmpCode} (hk : r.code = some code) (hc : code = .denied ∨ code = .revoked ∨ code = .epoch) :
    engineRequest s lid idx = endLast (reqGone s lid idx) lid (reqStatus s r code) r.stage (reqTile l r) := by
  unfold engineRequest
  rcases hc with rfl | rfl | rfl <;> simp only [hl, hr, hk] <;> rfl

end Request

/-! ### Tiles above their time (R283) -/

theorem tileOverrun_counts {q ns : Nat} {p : Pos} (hp : findPos l q = some p) (ho : p.overrun = false) (hq : q < selWrite)
    (hst : p.st = .running) (ht : sumNat ((chainStages (lastImage s l) l.chain).map fun i => (stageOf (lastImage s l) i).ns) < ns) :
    tileOverrun s lid q ns = event (modLast (modPos s lid q fun p => { p with overrun := true }) lid fun l =>
        { l with overruns := satAdd 32 l.overruns 1, late := true }) .tileOverrun (srcCore (physCore l p.core)) none none 0
      [(0, 2, l.qid), (2, 2, l.sqIdx), (4, 1, headStage (lastImage s l) l.chain), (8, 4, p.tile), (12, 4, ns)] := by
  unfold tileOverrun
  simp only [hl, hp]
  rw [if_neg (by simp only [ho, hst, Nat.not_le.2 ht, Nat.not_le.2 hq]; simp)]

/-! ### The end of a position (R287, R330, R591, R592) -/

/-- POSITION_END of a running position that waits for no staged line, by what the position was. -/
theorem positionEnd_running {q : Nat} {p : Pos} {ue : BenchErrors} (hp : findPos l q = some p) (hst : p.st = .running)
    (hw : stageWaits s (lastImage s l) l p (posOuts s l p ue) = false) : positionEnd s lid q ue =
      if q = selRead then selectRead s (posLeft s lid q l p ue) lid l p
      else if q = selWrite then goLast (issueOuts (modLast (posLeft s lid q l p ue) lid fun l => { l with done := l.done ++ [selWrite] })
        lid q noTile (selectOuts (lastImage s l) l p)) lid
      else if p.rerun = true then
        goLast (modLast (benchStored s lid q l p ue) lid fun l => { l with reruns := l.reruns.filter fun x => x ≠ q }) lid
      else if (!l.seq.contains (p.tile, true)) = true then goLast (issueOuts (posDone s lid q l p ue) lid q p.tile (posOuts s l p ue)) lid
      else if l.ending.isSome = true then goLast (posDone s lid q l p ue) lid
      else goLast (compareRuns (setHeld (posDone s lid q l p ue) lid (runsHeld s l p ue)) lid q p.tile) lid := by
  unfold positionEnd
  simp only [hl, hp]
  rw [if_neg (not_not_intro hst)]
  exact if_neg (ne_true_of_eq_false hw)

/-! ### Third runs (R594, R595) -/

/-- A third run on a core of the last that matches the primary issues its stream, and Felti fences the shadow's core. -/
theorem thirdRunEnd_primary {q : Nat} {h : Held} {a b : RunOut} {t : Nat}
    (hh : (l.held.find? fun h => h.tile = ((l.seq[q]?).map fun x => x.1).getD noTile) = some h) (ha : h.prim = some a)
    (hb : h.shad = some b) (ht : h.third = some t) (hc : l.cores.contains t = true) :
    let tile := ((l.seq[q]?).map fun x => x.1).getD noTile
    let u := event (dropHeld s lid tile) .shadowMismatch (srcGallery (runGallery (lastImage s l) l a.core)) none none 0
      [(0, 2, a.core), (2, 2, b.core), (4, 2, t), (6, 1, 0), (7, 1, b2n (!s.pwr.feltiOn)), (8, 4, tile), (12, 1, headStage (lastImage s l) l.chain)]
    let v := goLast (issueOuts (capture u a) lid q tile a.outs) lid
    thirdRunEnd s lid q 0 = if v.pwr.feltiOn = true then fenceCore v b.core 1 else v := by
  unfold thirdRunEnd
  simp only [hl, hh, ha, hb, ht, hc, if_true]
  rfl

end Row

/-! ### The rows together -/

/-- Settles O22, row by row. -/
theorem engineRowsComplete : Obligations.EngineRowsComplete := by
  refine ⟨fun s lid l hl => ⟨lastStartTimeReached_begins hl, ?fault, ?walk, ?request, ?overrun, ?position, ?third⟩,
    fun s core t => benchClearDone_clearing⟩
  case fault =>
    intro q p c hp hc ht hn hf f hff
    exact unlessFenced hf (translatePos_faults hl hp hc ht hn hff)
  case walk =>
    intro q p c hp hc ht hn hf h0
    exact ⟨_, unlessFenced hf (translatePos_untouched hl hp hc ht hn h0), rfl⟩
  case request =>
    intro idx r code hr hk u tile
    refine ⟨fun hc => congrArg Host.Outcome.next (engineRequest_moved hl hr ?_),
      fun hc ha => congrArg Host.Outcome.next (engineRequest_again hl hr (hc ▸ hk) ha),
      fun hc ha => congrArg Host.Outcome.next (engineRequest_timeout hl hr (hc ▸ hk) ha),
      fun hc => congrArg Host.Outcome.next (engineRequest_refused hl hr hk hc)⟩
    rw [hk]
    exact hc.imp (congrArg some) (congrArg some)
  case overrun =>
    intro q ns p hp hf ho hq hst ht
    exact unlessFenced hf (tileOverrun_counts hl hp ho hq hst ht)
  case position =>
    intro q p ue hp hf hst img core r outs u v d hw
    have hrow : exec (.positionEnd lid q ue) s = .next _ :=
      unlessFenced hf (positionEnd_running hl hp hst hw)
    rw [hrow]
    refine ⟨fun hq => congrArg Host.Outcome.next (if_pos hq), fun hq => ?_, fun hr hw => ⟨fun hrun => ?_, fun hrun hsh => ?_, fun hrun hsh he => ?_,
      fun hrun hsh he => ?_⟩⟩
    · rw [if_neg (by rw [hq]; decide), if_pos hq]
      rfl
    · rw [if_neg hr, if_neg hw, if_pos hrun]
      rfl
    · rw [if_neg hr, if_neg hw, if_neg (ne_true_of_eq_false hrun), if_pos (by rw [hsh]; rfl)]
      rfl
    · rw [if_neg hr, if_neg hw, if_neg (ne_true_of_eq_false hrun), if_neg (by rw [hsh]; decide), if_neg (by rw [he]; decide)]
      rfl
    · rw [if_neg hr, if_neg hw, if_neg (ne_true_of_eq_false hrun), if_neg (by rw [hsh]; decide), if_pos he]
      rfl
  case third =>
    intro q h a b t hf hh ha hb ht hc
    exact unlessFenced hf (thirdRunEnd_primary hl hh ha hb ht hc)

end Sys2Proof.Proofs
end

section
/-! The work queue rows (O20): doorbells, descriptor fetches, ring accesses and FAULT_TMO, one lemma per case of each row's definition
(R115, R154, R347 to R349, R351 to R353, R366, R368). -/

namespace Sys2Proof.Proofs

open Sys2Proof.Machine Sys2Proof.Laws

/-! ### Messages that are not taken up (R115, R154) -/

/-- A reserved form counts in MSG_BAD of its port, whoever sent it. -/
theorem mbxTake_reserved {s : State} {p src : Nat} {bad : Bool} (k : State → State) (hh : heard s p true = true) (hb : bad = true) :
    mbxTake s (.port p) src bad k = countBad s p := by
  unfold mbxTake pathPort
  simp only [Option.any_some, hh, hb, Bool.not_true, Bool.false_eq_true, if_false, if_true, Option.elim_some]

/-- A dead endpoint's message is discarded, and teaches no port. -/
theorem mbxTake_dead {s : State} {p src : Nat} {bad : Bool} (k : State → State) (hh : heard s p true = true) (hb : bad = false)
    (hd : isDead s src = true) : mbxTake s (.port p) src bad k = s := by
  unfold mbxTake pathPort pathEp
  simp only [Option.any_some, hh, hb, hd, Bool.not_true, Bool.false_eq_true, if_false, if_true]

/-! ### The record of a queue -/

/-- The state with `q` as the record of a queue. -/
def putQueue (s : State) (qid : Nat) (q : Queue) : State := { s with eng := { s.eng with queues := s.eng.queues.set qid q } }

theorem modQueue_of_get? {s : State} {qid : Nat} {q : Queue} (hq : s.eng.queues.get? qid = some q) (f : Queue → Queue) :
    modQueue s qid f = putQueue s qid (f q) := by
  simp only [modQueue, putQueue, modify_of_get? hq]

/-! ### Doorbells (R351, R352) -/

theorem qdb_noQueue {s : State} {qid : Nat} (hq : s.eng.queues.get? qid = none) (src a b c : Nat) : qdb s qid src a b c = s := by
  simp only [qdb, hq]

section Doorbell

variable {s : State} {qid src a b c : Nat} {q : Queue} (hq : s.eng.queues.get? qid = some q)

include hq

theorem qdb_accepted (hok : qdbOk q src a b c = true) : qdb s qid src a b c =
    retryFaults (putQueue s qid { q with sqTail := a, cqHead := b, fqHead := c, armed := true }) qid := by
  simp only [qdb, hq, hok, if_true, modQueue_of_get? hq]

theorem qdb_refused (hok : qdbOk q src a b c = false) : qdb s qid src a b c =
    putQueue s qid { q with dbBad := satAdd 32 q.dbBad 1 } := by
  simp only [qdb, hq, hok, Bool.false_eq_true, if_false, modQueue_of_get? hq]

end Doorbell

/-! ### Fetches, ring accesses and unanswered fault records (R347 to R349, R353, R366, R368) -/

/-- The state once an access has left its queue's record. -/
def accessLeft (s : State) (qid : Nat) (q : Queue) (idx : Nat) : State :=
  putQueue s qid { q with acc := q.acc.filter fun x => x.idx ≠ idx }

/-- A fault record is written: FQ_TAIL advances and OWNER gets a QFLT (R366). -/
def faultRecordWritten (s : State) (qid : Nat) (q : Queue) : State :=
  notice (modQueue s qid fun x => { x with fqTail := (q.fqTail + 1) % 1024 }) q fun p => .qflt p q.owner qid ((q.fqTail + 1) % 1024)

section Row

variable {s : State} {qid : Nat} {q : Queue} (hq : s.eng.queues.get? qid = some q)

include hq

theorem descriptorFetch_issues (ha : q.st = .active) (hn : q.sqHead ≠ q.sqTail) (hc : cqUsed q < 2 ^ q.cqLog) :
    exec (.descriptorFetch qid) s = .next (issueRing (modQueue s qid fun q =>
      { q with sqHead := (q.sqHead + 1) % 65536, descs := q.descs ++ [{ idx := q.sqHead, bytes := [], dtag := 0 }] }) qid 0 q.sqHead none) := by
  change execDescriptorFetch qid s = _
  simp only [execDescriptorFetch, hq]
  rw [if_pos ⟨ha, hn, hc⟩]

section Access

variable {idx : Nat} {a : RingAcc} {code : CmpCode} (hf : (q.acc.find? fun a => a.idx = idx) = some a) (hk : a.code = some code)

include hf hk

/-- A finished access leaves the queue, and its code and ring say what follows. -/
theorem ringAccessDone_finished : exec (.ringAccessDone qid idx) s = .next (
    if code ≠ .ok then ringFailed (accessLeft s qid q idx) qid q a code
    else if a.ring = 0 then descArrived (accessLeft s qid q idx) qid a
    else if a.ring = 1 then recordWritten (accessLeft s qid q idx) qid q
    else faultRecordWritten (accessLeft s qid q idx) qid q) := by
  change Host.Outcome.next (ringDone s qid idx) = _
  simp only [ringDone, hq, hf, hk, modQueue_of_get? hq]
  rfl

theorem ringAccessDone_failed (hc : code ≠ .ok) :
    exec (.ringAccessDone qid idx) s = .next (ringFailed (accessLeft s qid q idx) qid q a code) := by
  rw [ringAccessDone_finished hq hf hk, if_pos hc]

theorem ringAccessDone_descriptor (hc : code = .ok) (hr : a.ring = 0) :
    exec (.ringAccessDone qid idx) s = .next (descArrived (accessLeft s qid q idx) qid a) := by
  rw [ringAccessDone_finished hq hf hk, if_neg (not_not_intro hc), if_pos hr]

theorem ringAccessDone_completion (hc : code = .ok) (hr : a.ring = 1) :
    exec (.ringAccessDone qid idx) s = .next (recordWritten (accessLeft s qid q idx) qid q) := by
  rw [ringAccessDone_finished hq hf hk, if_neg (not_not_intro hc), if_neg (by omega), if_pos hr]

theorem ringAccessDone_fault (hc : code = .ok) (hr : a.ring = 2) :
    exec (.ringAccessDone qid idx) s = .next (faultRecordWritten (accessLeft s qid q idx) qid q) := by
  rw [ringAccessDone_finished hq hf hk, if_neg (not_not_intro hc), if_neg (by omega), if_neg (by omega)]

end Access

theorem faultTmoExpiry_due {fseq : Nat} {f : FaultRec} (hf : (q.open_.find? fun f => f.fseq = fseq) = some f)
    (hd : ms f.tmo + f.time ≤ s.now) : exec (.faultTmoExpiry qid fseq) s = .next (lastStop s f.lid) := by
  change execFaultTmoExpiry qid fseq s = _
  simp only [execFaultTmoExpiry, hq, hf, hd, if_true]

end Row

/-! ### The rows together -/

/-- Settles O20, row by row. -/
theorem queueRowsComplete : Obligations.QueueRowsComplete := by
  refine ⟨?doorbell, fun s qid q hq => ⟨descriptorFetch_issues hq, ?access, fun fseq f => faultTmoExpiry_due hq⟩⟩
  case doorbell =>
    intro s m hh qid src a b c u
    have taken : qdbBad m.bytes = false → isDead s src = false → exec (.qdb m) s = .next (qdb u qid src a b c) :=
      fun hb hd => congrArg Host.Outcome.next (mbxTake_port _ hh hb hd)
    refine ⟨fun hb => congrArg Host.Outcome.next (mbxTake_reserved _ hh hb),
      fun hb hd => congrArg Host.Outcome.next (mbxTake_dead _ hh hb hd), fun hb hd hq => ?none, fun q hb hd hq => ?some⟩
    case none => rw [taken hb hd, qdb_noQueue hq]
    case some =>
      rw [taken hb hd]
      exact ⟨fun hok => congrArg Host.Outcome.next (qdb_accepted hq hok), fun hok => congrArg Host.Outcome.next (qdb_refused hq hok)⟩
  case access =>
    exact fun idx a code hf hk => ⟨ringAccessDone_failed hq hf hk, ringAccessDone_descriptor hq hf hk, ringAccessDone_completion hq hf hk,
      ringAccessDone_fault hq hf hk⟩

end Sys2Proof.Proofs
end

section
/-! The flight rows (O24): takeovers, tread boundaries and arbitration, one lemma per case of each row's definition (R377, R383, R385, R394,
R396, R429). -/

namespace Sys2Proof.Proofs

open Sys2Proof.Machine Sys2Proof.Laws

/-! ### Takeovers (R383, R385) -/

/-- The sequencer once its pending flight f has become the active one. -/
def takenOver (q : Seqr) (f : Flight) : Seqr :=
  { q with
    active := f
    pending := none
    bank := 1 - q.bank
    t0 := f.takeover
    tread := 0
    derated := q.pendDerived
    keptFlight := if q.pendDerived then some (q.keptFlight.getD q.active) else none
    pendDerived := false
    takeovers := satAdd 32 q.takeovers 1
    shapers := q.shapers.map fun e => (e.1, reconfig f.takeover e.2)
    pools := [] }

/-- What a forced takeover records: its event for each last whose claims it cuts, or once where it cuts none (R385). -/
def recordForced (u : State) (r : Nat) (f : Flight) : State :=
  let lost := claimsCut u r f f.takeover
  if lost.isEmpty = true then event (markLost u lost) .forcedTakeover (srcFlight r) none none 0 [(0, 2, 0xFFFF), (8, 8, f.takeover)]
  else lost.foldl (fun s e => event s .forcedTakeover (srcFlight r) none none 0
    [(0, 2, e.2.qid), (2, 2, e.2.sqIdx % 65536), (8, 8, f.takeover)]) (markLost u lost)

section Takeover

variable {s : State} {r : Nat} {q : Seqr} {f : Flight} (hq : s.flt.get? r = some q) (hp : q.pending = some f)

include hq hp

theorem takeOver_pending : takeOver s r =
    let u : State := { s with flt := s.flt.set r (takenOver q f) }
    if f.force = true then recordForced u r f else u := by
  simp only [takeOver, hq, hp]
  rfl

/-- FLIGHT_TAKEOVER takes the pending flight over at or after its TAKEOVER and not before (R383). -/
theorem flightTakeover_pending : exec (.flightTakeover r) s = .next (if f.takeover ≤ s.now then takeOver s r else s) := by
  change Host.Outcome.next (settleTakeover s r s.now) = _
  simp only [settleTakeover, hq, Option.bind_some, hp]

theorem flightTakeover_early (ht : s.now < f.takeover) : exec (.flightTakeover r) s = .next s := by
  rw [flightTakeover_pending hq hp, if_neg (Nat.not_le.2 ht)]

theorem flightTakeover_unforced (ht : f.takeover ≤ s.now) (hf : f.force = false) :
    exec (.flightTakeover r) s = .next { s with flt := s.flt.set r (takenOver q f) } := by
  rw [flightTakeover_pending hq hp, if_pos ht, takeOver_pending hq hp, hf]
  rfl

theorem flightTakeover_forced (ht : f.takeover ≤ s.now) (hf : f.force = true) :
    exec (.flightTakeover r) s = .next (recordForced { s with flt := s.flt.set r (takenOver q f) } r f) := by
  rw [flightTakeover_pending hq hp, if_pos ht, takeOver_pending hq hp]
  exact congrArg Host.Outcome.next (if_pos hf)

end Takeover

/-! ### Tread boundaries (R377, R390) -/

theorem treadBoundary_eq {s : State} {r : Nat} {q : Seqr} (hq : s.flt.get? r = some q) :
    exec (.treadBoundary r) s = .next { s with flt := s.flt.set r { q with
      tread := (treadAt q.active (s.now - q.t0)).1
      shapers := q.shapers.map fun e => (e.1, fillShaper q (e.1 / 8) (e.1 % 8) s.now e.2)
      pools := q.pools.map fun e => (e.1, (poolTok q e.1 s.now, s.now)) } } := by
  change execTreadBoundary r s = _
  rw [execTreadBoundary, modify_of_get? hq]

/-! ### Arbitration (R394, R396) -/

section Arbitration

variable {s : State} {r : Nat} {q : Seqr} (hq : s.flt.get? r = some q)

include hq

theorem arbitrationGrant_none (hk : pickXfer s r (markRed s r q) = none) :
    exec (.arbitrationGrant r) s = .next { s with flt := s.flt.set r (markRed s r q) } := by
  change execArbitrationGrant r s = _
  simp only [execArbitrationGrant, arbitrate, hq, Option.map_some, Option.bind_some, hk, Option.bind_none]

/-- The transfer picked is granted; a pending rewrite is then issued (R429), a landing order then starts. -/
theorem arbitrationGrant_picked {i : Nat} {x : Xfer} (hk : pickXfer s r (markRed s r q) = some i) (hx : (markRed s r q).wait[i]? = some x) :
    exec (.arbitrationGrant r) s = .next (
      let u : State := { s with flt := s.flt.set r (grantXfer s r (markRed s r q) i x) }
      let t := if x.rewrite = true then issueRewrite u (r - 8) x.addr else u
      if x.order = true then grantOrder t x.sub else t) := by
  change execArbitrationGrant r s = _
  simp only [execArbitrationGrant, arbitrate, hq, Option.map_some, Option.bind_some, hk, hx]

end Arbitration

/-! ### The rows together -/

/-- Settles O24, row by row. -/
theorem flightRowsComplete : Obligations.FlightRowsComplete := by
  refine ⟨?takeover, fun s r q => treadBoundary_eq, ?grant⟩
  case takeover =>
    intro s r q f hq hp
    exact ⟨flightTakeover_early hq hp,
      fun ht hf => ⟨takenOver q f, flightTakeover_unforced hq hp ht hf, rfl, rfl, rfl, rfl, rfl, rfl, rfl, rfl, rfl⟩,
      fun ht hf => ⟨takenOver q f, rfl, rfl, flightTakeover_forced hq hp ht hf⟩⟩
  case grant =>
    intro s r q hq
    refine ⟨arbitrationGrant_none hq, fun i x hk hx hr ho => ?plain, fun i x hk hx hr ho => ?rewrite, fun i x hk hx hr ho => ?order⟩
    all_goals
      rw [arbitrationGrant_picked hq hk hx, hr, ho]
      rfl

end Sys2Proof.Proofs
end

section
/-! The start rows (O38): a due reset, the quiesce, READY, the starts' bounds and the roles decided later, one lemma per case of each row's
definition (R524, R535, R542, R550, R554). -/

namespace Sys2Proof.Proofs

open Sys2Proof.Machine Sys2Proof.Laws

/-! ### Resets and the quiesce (R524, R535) -/

/-- The state in which the quiesce has begun, now or before. -/
def quiescing (s : State) : State :=
  if s.pwr.quiesceSince.isSome = true then s else { s with pwr := { s.pwr with quiesceSince := some s.now } }

/-- A reset reached outside a start: cold at once, warm when what runs has completed. -/
theorem resetDelayExpiry_due {s : State} {cold : Bool} {t : Nat} (hd : s.pwr.resetDue = some (cold, t)) (ht : t ≤ s.now)
    (hs : s.pwr.starting = false) (hh : s.pwr.diesHeld = false) :
    exec .resetDelayExpiry s = .next (if cold = true then coldStart s .cold false
      else if quiesced (quiescing s) = true then warmStart (quiescing s) else quiescing s) := by
  have passed : ¬(s.now < t ∨ s.pwr.starting = true ∨ s.pwr.diesHeld = true) := by simp [ht, hs, hh]
  change Host.Outcome.next (resetDelay s) = _
  simp only [resetDelay, quiescing, hd, if_neg passed]

theorem quiesceTimeout_eq {s : State} {t : Nat} (hq : s.pwr.quiesceSince = some t) (hs : s.pwr.swapQuiesce = false) :
    exec .quiesceTimeout s = .next (if ms 25 + t ≤ s.now then recoveryStart s else s) := by
  change execQuiesceTimeout s = _
  simp only [execQuiesceTimeout, hq, hs, and_true]

/-! ### READY and the bounds of starts (R542, R550) -/

theorem readyReached_eq {s : State} (hs : s.pwr.starting = true) (hh : s.pwr.diesHeld = false) (hf : s.pwr.feltiOn = true)
    (ha : s.welt.limitFailed = false) (hl : (fencedSlices s.fence.list).length ≤ 4) :
    exec .readyReached s = .next (
      let cold := decide (s.pwr.startKind = .powerUp ∨ s.pwr.startKind = .cold)
      let u := resourceCodes.foldl readyFlight s
      let v := settleDumps (missingChannels { u with pwr := { u.pwr with
        stage := 6, readyTime := u.now, starting := false, ready := true, failedStarts := 0 } })
      portsUp (announce (if cold = true then coldRole v else warmRole v) cold)) :=
  congrArg Host.Outcome.next (if_neg (by simp [hs, hh, hf, ha, hl]))

/-- A start past its bound is counted, and the second in a row puts the other slot NEXT (R550). -/
theorem startBoundFail_missed {s : State} (hs : s.pwr.starting = true) (hh : s.pwr.diesHeld = false) (hm : s.pwr.missed = false)
    (ht : s.pwr.startTime + startBound s.pwr.startKind ≤ s.now) :
    exec .startBoundFail s = .next (
      let n := s.pwr.failedStarts + 1
      let u : State := { s with pwr := { s.pwr with failedStarts := if n < 2 then n else 0, missed := true } }
      if n < 2 then u
      else event { u with fw := { u.fw with nextB := !u.fw.runningB } } .firmwareFallback srcGuard none none 0
        [(0, 1, b2n (!u.fw.runningB)), (1, 1, 2)]) :=
  congrArg Host.Outcome.next (if_neg (by simp [hs, hh, hm, ht]))

/-! ### Roles decided later (R554; the report's FEATURE and STORE_MAX are log 41, side 1 waiting as a standby log 43) -/

theorem partnerReadyReport_eq (s : State) (ready : Bool) (feature storeMax : Nat) :
    exec (.partnerReadyReport ready feature storeMax) s = .next (
      let t := modPair s fun p => { p with
        partnerFeature := feature, partnerStore := storeMax, partnerReady := ready
        partnerAt := if ready && !p.partnerReady then s.now else p.partnerAt }
      let u := refreshFormat (if ready = true then t else releaseCopies t)
      if ready = true ∧ u.pair.roleDueAt.isSome = true then becomeStandby u else u) := by
  change execPartnerReadyReport ready feature storeMax s = _
  simp only [execPartnerReadyReport, Bool.and_eq_true]

theorem roleDecisionTimeout_eq {s : State} {t : Nat} (hr : s.pair.roleDueAt = some t) :
    exec .roleDecisionTimeout s = .next (if t ≤ s.now then sendEpochs (serveFrom s) (listedEps s) else s) := by
  change execRoleDecisionTimeout s = _
  simp only [execRoleDecisionTimeout, hr]

/-! ### The rows together -/

/-- Settles O38, row by row. -/
theorem startRowsComplete : Obligations.StartRowsComplete := by
  refine ⟨?reset, ?quiesce, fun s => readyReached_eq, ?bound, partnerReadyReport_eq, fun s t => roleDecisionTimeout_eq⟩
  case reset =>
    intro s cold t hd ht hs hh
    rw [resetDelayExpiry_due hd ht hs hh]
    exact ⟨fun hc => by rw [if_pos hc], fun hc => by rw [hc]; rfl⟩
  case quiesce =>
    intro s t hq hs
    rw [quiesceTimeout_eq hq hs]
    exact ⟨fun ht => by rw [if_pos ht], fun ht => by rw [if_neg (Nat.not_le.2 ht)]⟩
  case bound =>
    intro s hs hh hm ht
    rw [startBoundFail_missed hs hh hm ht]
    exact ⟨fun h0 => by rw [h0]; rfl, fun h1 => by rw [h1]; rfl⟩

end Sys2Proof.Proofs
end

section
/-! What every step holds on to (O59): a tick and every command keep the parts that `Kept` names, the DRAM's table among them (R413,
R421, R422). -/

namespace Sys2Proof.Proofs

open Sys2Proof.Machine Sys2Proof.Laws

/-- A step takes the front command from the queue and keeps the rest of `Kept`. -/
theorem steady_step {s t : State} {tidy : Bool} (hm : tidy = true → s.dram.mem.canon zeroGranule) (ht : step s = .next t) :
    Steady (keptOf { s with pending := s.pending.tail } true tidy) t := by
  unfold step at ht
  split at ht
  next hq =>
    injection ht with ht
    subst ht
    exact steady_tick s { steady_keptOf hm with queue := by simp [keptOf, hq] }
  next c rest hq =>
    rw [hq]
    exact steady_exec { s with pending := rest } (steady_keptOf hm) c (fun _ => rfl) t ht

/-- Settles O59: the canonical form is part of what every step keeps. -/
theorem dramTableStaysCanonical : Obligations.DramTableStaysCanonical :=
  fun _ _ hm ht => (steady_step (tidy := true) (fun _ => hm) ht).canon rfl

end Sys2Proof.Proofs
end

section
/-! The DRAM commands (O29): one lemma per case of each command's body (R402, R430 to R433, R441, R442, R520, R633). -/

namespace Sys2Proof.Proofs

open Sys2Proof.Machine Sys2Proof.Laws Sys2Proof.Safety

/-! ### Channel records (R402, R441, R442) -/

theorem dramQueryBody_eq (s : State) (x : Win) :
    dramQueryBody s x = if x.arg 0 1 < 16 then good s (chanRecord s (x.arg 0 1)) else fail s stBadArg 0 := by
  unfold dramQueryBody
  by_cases hc : x.arg 0 1 < 16
  · rw [guardArg_badArg _ (by simp [Nat.not_le.2 hc]), if_pos hc]
  · rw [if_neg hc, decide_eq_true (Nat.not_lt.1 hc)]
    rfl

/-- The three RW fields of a channel in the record that DRAM_SET brings (R441). -/
def dramRecordCfg (v : Nat) : ChanCfg := { scrubEn := v.testBit 7, scrubHours := bits v 64 8, retrainMs := bits v 72 13 }

/-- The state with the RW fields of such a record written: the channel's three and the module's RATE_CAP (R402, R442). -/
def dramRecordWritten (s : State) (c v : Nat) : State :=
  let t := modChan s c fun y => setChan y (dramRecordCfg v)
  { t with dram := { t.dram with rateCap := bits v 32 16 } }

/-- The checks of DRAM_SET in the order of the argument's fields (R10, R402, R442). -/
def dramSetChecks (x : Win) : List (Bool × Nat) :=
  let v := x.arg 8 32
  [ (decide (16 ≤ x.arg 0 1), 0), (decide (x.arg 1 7 ≠ 0), 1), (decide (bits v 10 6 ≠ 0), 9), (decide (bits v 57 7 ≠ 0), 15),
    (decide (bits v 85 11 ≠ 0), 18), (!rateBins.contains (bits v 32 16), 12),
    (!inRange (bits v 64 8) 1 168, 16), (!inRange (bits v 72 13) 64 4096, 17) ]

theorem dramSetBody_eq (s : State) (x : Win) : dramSetBody s x = guardArg s (badArg (dramSetChecks x)) fun _ =>
    retain s (dramRecordWritten s (x.arg 0 1) (x.arg 8 32)) fun u => good u (chanRecord u (x.arg 0 1)) := rfl

/-- An unmirrored DRAM_SET whose checks pass answers the record once the commit has succeeded, else ST_FAULT (R442, R494). -/
theorem dramSet_settles {s : State} {w : Nat} {x : Win} (hd : Due s w 0x0901 x) (hm : mirrorLive s = false)
    (hc : ∀ e ∈ dramSetChecks x, e.1 = false) :
    let u := (commit (dramRecordWritten s (x.arg 0 1) (x.arg 8 32))).1
    exec (.dramSet w) s = .next (if s.store.writable = true then finishCmd u w stOk 0 (chanRecord u (x.arg 0 1))
      else finishCmd s w stFault 0 []) := by
  refine congrArg Host.Outcome.next ((runRetained_due _ hd hm).trans ?_)
  rw [dramSetBody_eq, guardArg_badArg _ hc, settle_retain]
  rfl

/-! ### Diagnostic access (R430 to R433, R633) -/

/-- The granules a diagnostic read names, each with its PPA (R430, R432). -/
def diagGranules (s : State) (hid : Nat) (h : Hall) (off : Nat) : List (Nat × Granule) :=
  (diagLines h off).flatMap fun o => match locate s hid h o with
    | some (c, ca) => (List.range 4).map fun i => (ppaOf h o + 16 * i, granAt s c (ca + 16 * i))
    | none => []

/-- The result of a diagnostic read: the stored granules, and the decode's outcome and place (R432, R520). -/
def diagResult (s : State) (h : Hall) (gs : List (Nat × Granule)) : List Byte :=
  let out := if h.light = true then lightOut (gs.map fun g => decodeLight s g.2.err) else decodeOut (decodePair s (gs.map fun g => g.2.err))
  sub ((List.range gs.length).flatMap fun i => leBytes 20 (storedBits h.light gs i).toNat) 0 160 ++ leBytes 1 out.1 ++ leBytes 1 0 ++ leBytes 2 out.2

/-- The state in which a diagnostic write has set DEBUG[2] and queued its transactions (R430, R431, R520). -/
def diagQueued (s : State) (x : Win) (h : Hall) : State :=
  let ls := diagLines h (x.arg 8 8)
  (List.range ls.length).foldl (fun s i =>
    enqueue s { kind := .diag, ep := 2 ^ 18, org := .diag ((x.cmd.map fun c => c.order).getD 0) i, hall := x.arg 0 2, line := 0
                offset := (ls[i]?).getD 0, dmask := BitVec.ofNat 640 (x.arg (16 + 80 * i) 80) })
    { s with hw := { s.hw with dbgFlags := s.hw.dbgFlags ||| 4 } }

section Diagnostic

variable {s : State} {x : Win}

theorem dramDiagWriteBody_refused {st d : Nat} (hc : diagCheck s x = some (st, d)) : dramDiagWriteBody s x = fail s st d := by
  unfold dramDiagWriteBody
  rw [hc, guardArg_some]

theorem dramDiagReadBody_refused {st d : Nat} (hc : diagCheck s x = some (st, d)) : dramDiagReadBody s x = fail s st d := by
  unfold dramDiagReadBody
  rw [hc, guardArg_some]

variable {h : Hall} (hh : s.halls.get? (x.arg 0 2) = some h) (hc : diagCheck s x = none)

include hh hc

/-- A LIGHT hall's write reaches one line, and the second line's mask must be zero (R430, R520). -/
theorem dramDiagWriteBody_eq : dramDiagWriteBody s x =
    if h.light = true ∧ x.arg 96 80 ≠ 0 then fail s stBadArg 96 else goesOn (diagQueued s x h) := by
  unfold dramDiagWriteBody
  simp only [hc, guardArg_none, hh]
  rfl

theorem dramDiagReadBody_answers :
    dramDiagReadBody s x = good s.tickFree (diagResult s h (diagGranules s (x.arg 0 2) h (x.arg 8 8))) := by
  unfold dramDiagReadBody
  simp only [hc, guardArg_none, hh]
  rfl

end Diagnostic

/-- A refused or landed read runs as a command; any other lands its block first (R432; log 84). -/
theorem dramDiagRead_eq {s : State} {w : Nat} {x : Win} {h : Hall} (hd : Due s w 0x0903 x) (hh : s.halls.get? (x.arg 0 2) = some h) :
    exec (.dramDiagRead w) s = .next (if (diagCheck s x).isSome = true ∨ isLanded s (x.arg 0 2) h (x.arg 8 8) = true
      then runCmd s w 0x0903 dramDiagReadBody
      else settleTier (land s (x.arg 0 2) h (x.arg 8 8 / blockBytes h) .demand sysSub)) := by
  change execDramDiagRead w s = _
  unfold execDramDiagRead
  simp only [hd.1, hh, Bool.or_eq_true]

/-! ### The commands together -/

/-- Settles O29, command by command. That a diagnostic read of a block that is not landed lands it first is the model's choice (log 84). -/
theorem dramCommandsComplete : Obligations.DramCommandsComplete := by
  refine ⟨?query, ?set, ?write, ?read⟩
  case query =>
    intro s w x hd
    refine congrArg Host.Outcome.next ((runCmd_due _ hd).trans ?_)
    rw [dramQueryBody_eq, apply_ite (settle w), settle_good, settle_fail]
  case set =>
    intro s w x hd hm hc ha v h10 h57 h85 hrate h64 h64' h72 h72'
    have hbin : bits v 32 16 ∈ rateBins := List.contains_iff_mem.1 hrate
    refine dramSet_settles hd hm ?_
    simp only [dramSetChecks, List.forall_mem_cons]
    simp [Nat.not_le.2 hc, ha, h10, h57, h85, hbin, inRange, h64, h64', h72, h72', v]
  case write =>
    intro s w x h hd hh
    refine ⟨fun st d hc => congrArg Host.Outcome.next (runCmd_fail hd (dramDiagWriteBody_refused hc)), fun hc hl hm => ?_, fun hc hl => ?_⟩
    · exact congrArg Host.Outcome.next (runCmd_fail hd ((dramDiagWriteBody_eq hh hc).trans (if_pos ⟨hl, hm⟩)))
    · have hone : ¬(h.light = true ∧ x.arg 96 80 ≠ 0) := by rcases hl with hl | hl <;> simp [hl]
      exact congrArg Host.Outcome.next (runCmd_goesOn hd ((dramDiagWriteBody_eq hh hc).trans (if_neg hone)))
  case read =>
    intro s w x h hd hh
    rw [dramDiagRead_eq hd hh]
    refine ⟨fun st d hc => ?_, fun hc hl => ?_, fun hc hl => ?_⟩
    · rw [if_pos (.inl (by rw [hc]; rfl)), runCmd_fail hd (dramDiagReadBody_refused hc)]
    · rw [if_pos (.inr hl), runCmd_good hd (dramDiagReadBody_answers hh hc)]
      rfl
    · rw [if_neg (by simp [hc, hl])]

end Sys2Proof.Proofs
end

section
/-! The DRAM rows (O30): refresh, retraining pauses, the patrol scrub and row repair, one lemma per case of each row's definition (R397,
R407 to R409, R427, R434 to R436). -/

namespace Sys2Proof.Proofs

open Sys2Proof.Machine Sys2Proof.Laws

/-- A channel that is fitted, changed. -/
theorem modChan_fitted {s : State} {c : Nat} {x : Chan} (hx : s.dram.chans.get? c = some x) (f : Chan → Chan) :
    modChan s c f = { s with dram := { s.dram with chans := s.dram.chans.set c (f x) } } := by
  rw [modChan, modify_of_get? hx]

section Rows

variable {s : State} {c : Nat} {x : Chan} (hx : s.dram.chans.get? c = some x)

include hx

/-! ### Refresh (R397, R409) -/

theorem refreshDue_refreshes (hon : x.st = .online) {bank : Nat}
    (ht : x.refreshed.getD bank 0 + (if 340 < x.temp then 195 else 390) ≤ s.now) (hu : urgentOn s c (fun b => b = bank) = false) :
    exec (.refreshDue c bank) s = .next { s with
      dram := { s.dram with chans := s.dram.chans.set c { x with refreshed := x.refreshed.set bank s.now } }
      out := s.out ++ [.ddr c 0 bank] } := by
  change execRefreshDue c bank s = _
  unfold execRefreshDue
  simp only [hx]
  rw [if_neg (by simp [hon, ht, hu]), modChan_fitted hx]

/-! ### Retraining (R407, R408) -/

theorem retrainPause_due {rank : Nat} (hp : pauseDue s x rank = true) : exec (.retrainPause c rank) s =
    .next (if urgentOn s c (fun b => b / 32 = rank) = true
      then modChan s c fun y => if (y.deferSince.get? rank).isSome = true then y else { y with deferSince := y.deferSince.set rank s.now }
      else pauseRank s c rank) := by
  change execRetrainPause c rank s = _
  unfold execRetrainPause
  simp only [hx, hp, Bool.true_eq_false, if_false]

theorem retrainDeferExpiry_deferred {rank t : Nat} (ht : x.deferSince.get? rank = some t) : exec (.retrainDeferExpiry c rank) s =
    .next (if urgentOn s c (fun b => b / 32 = rank) = true ∧ s.now < ms 1 + t then s else pauseRank s c rank) := by
  change execRetrainDeferExpiry c rank s = _
  unfold execRetrainDeferExpiry
  simp only [hx, ht, Bool.and_eq_true, decide_eq_true_eq]

/-! ### Patrol scrub (R427; log 84) -/

theorem scrubStep_scrubs (hon : x.st = .online) (hen : x.cfg.scrubEn = true) (hb : chanBytes x ≠ 0) :
    let light := (frameOwner s c x.scrubAt).any fun e => e.2.light
    let at_ := if light = true then x.scrubAt else x.scrubAt / 128 * 128
    exec (.scrubStep c) s = .next (modChan (Machine.scrubAt s c at_) c fun y =>
      { y with scrubAt := (at_ + if light = true then 64 else 128) % chanBytes x }) := by
  change execScrubStep c s = _
  unfold execScrubStep
  simp only [hx]
  rw [if_neg (by simp [hon, hen, hb])]

/-! ### Row repair (R434 to R436) -/

/-- The repairs in the map that take a resource of a device of the DIMM (R434, R436). -/
def repairsUsed (s : State) (dimm : Dimm) (device : Nat) : Nat :=
  (s.dram.repairs.filter fun r => r.serial = dimm.serial ∧ r.device = device ∧ r.st ≠ 2).length

/-- A row due for repair and not yet repaired this start: the full map records a fault, a DIMM without a resource left changes nothing,
and any other row is repaired, counted, mapped and committed. -/
theorem spprRepair_due {rank bg bank row device : Nat} (hon : x.st = .online)
    (hr : x.repaired.contains (row * 64 + rank * 32 + bg * 4 + bank) = false)
    (hd : repairDue s x (row * 64 + rank * 32 + bg * 4 + bank) device = true) :
    let key := row * 64 + rank * 32 + bg * 4 + bank
    let dimm := s.hw.dimms.getD c { serial := 0 }
    exec (.spprRepair c rank bg bank row device) s = .next (
      if 1024 ≤ s.dram.repairs.length then
        event { s with dram := { s.dram with chans := s.dram.chans.set c { x with repaired := x.repaired ++ [key] } } } .repairMapFull (srcChan c)
          none none (rowAddr x.x4 x.ranks rank bg bank row)
          [(0, 1, rank), (1, 1, bg), (2, 1, bank), (3, 1, 0), (4, 4, row), (8, 2, 0), (10, 1, 0xFF)]
      else if dimm.sppr ≤ repairsUsed s dimm device then s
      else commitSelf { s with
        dram := { s.dram with
          chans := s.dram.chans.set c { x with repaired := x.repaired ++ [key], repairs := satAdd 16 x.repairs 1 }
          repairs := s.dram.repairs ++ [{ serial := dimm.serial, rank := rank, bg := bg, bank := bank, row := row, device := device, st := 0 }] }
        out := s.out ++ [.ddr c 2 row] }) := by
  change execSpprRepair c rank bg bank row device s = _
  unfold execSpprRepair
  simp only [hx]
  rw [if_neg (by simpa [hon, hd] using hr), modChan_fitted hx, modChan_fitted hx]
  rfl

end Rows

/-! ### The rows together -/

/-- Settles O30, row by row. The patrol scrub is R427's as log 84 reads it. -/
theorem dramRowsComplete : Obligations.DramRowsComplete := by
  intro s c x hx hon
  refine ⟨fun bank => refreshDue_refreshes hx hon, fun rank hp => ?pause, fun rank t => retrainDeferExpiry_deferred hx,
    scrubStep_scrubs hx hon, ?repair⟩
  case pause =>
    rw [retrainPause_due hx hp]
    refine ⟨fun hu => by rw [hu, if_neg Bool.false_ne_true], fun hu hn => ?_⟩
    rw [if_pos hu, modChan_fitted hx, hn]
    rfl
  case repair =>
    intro rank bg bank row device key dimm used hr hd
    rw [spprRepair_due hx hon hr hd]
    refine ⟨fun hfull => by rw [if_pos hfull], fun hroom hu => ?_, fun hroom hu => ?_⟩
    · rw [if_neg (Nat.not_le.2 hroom)]
      exact congrArg Host.Outcome.next (if_pos hu)
    · rw [if_neg (Nat.not_le.2 hroom)]
      exact congrArg Host.Outcome.next (if_neg (Nat.not_le.2 hu))

end Sys2Proof.Proofs
end

section
/-! The fence list and the scans (O31): one lemma per case of each command's body and each row's definition (R520, R587, R588, R597 to
R600). -/

namespace Sys2Proof.Proofs

open Sys2Proof.Machine Sys2Proof.Laws Sys2Proof.Safety

/-! ### FENCE_CLEAR (R520, R587) -/

/-- Does an entry of the fence list hold the unit that FENCE_CLEAR names? -/
def fenceNamed (x : Win) (f : Fenced) : Bool := f.slice == decide (x.arg 0 1 = 1) && f.unit == x.arg 2 2

/-- The state with the entry of the named unit marked for the next core-die reset. -/
def fenceMarked (s : State) (x : Win) : State :=
  { s with fence := { s.fence with list := s.fence.list.map fun f => if fenceNamed x f = true then { f with cleared := true } else f } }

theorem fenceClearBody_eq (s : State) (x : Win) : fenceClearBody s x =
    guardArg s (badArg [(decide (1 < x.arg 0 1), 0), (decide (x.arg 1 1 ≠ 0), 1), (!s.fence.list.any (fenceNamed x), 2)]) fun _ =>
      retain s (fenceMarked s x) fun u => good u := rfl

section FenceClear

variable {s : State} {x : Win} (ht : x.arg 0 1 ≤ 1) (hz : x.arg 1 1 = 0)

include ht hz

theorem fenceClearBody_listed (hl : s.fence.list.any (fenceNamed x) = true) (hw : s.store.writable = true) :
    fenceClearBody s x = good (commit (fenceMarked s x)).1 := by
  rw [fenceClearBody_eq, guardArg_badArg _ (by simp only [List.forall_mem_cons]; simp [Nat.not_lt.2 ht, hz, hl])]
  exact retain_ok (new := fenceMarked s x) hw _ _

theorem fenceClearBody_unlisted (hl : s.fence.list.any (fenceNamed x) = false) : fenceClearBody s x = fail s stBadArg 2 := by
  rw [fenceClearBody_eq, decide_eq_false (Nat.not_lt.2 ht), decide_eq_false (not_not_intro hz), hl]
  rfl

end FenceClear

/-! ### SCAN_RUN (R520, R599, R600) -/

section ScanRun

variable {s : State} {x : Win} (r : ScanResult) (hz : x.arg 1 1 = 0)

include hz

/-- TARGET 0 takes the next turn of the rotation. -/
theorem scanRunBody_next (ht : x.arg 0 1 = 0) : scanRunBody r s x = good (scanNext s r).1 (leBytes 1 (scanNext s r).2) := by
  unfold scanRunBody
  rw [guardArg_badArg _ (by simp [ht, hz]), if_pos ht]

theorem scanRunBody_core (ht : x.arg 0 1 = 1) (hu : x.arg 2 2 < 136) (hg : s.hw.gradeD1 = false) :
    scanRunBody r s x = good (scanUnit s false (x.arg 2 2) r).1 (leBytes 1 (scanUnit s false (x.arg 2 2) r).2) := by
  unfold scanRunBody
  rw [guardArg_badArg _ (by simp [ht, hz, Nat.not_le.2 hu, hg]), ht]
  rfl

theorem scanRunBody_slice (ht : x.arg 0 1 = 2) (hu : x.arg 2 2 < 68) :
    scanRunBody r s x = good (scanUnit s true (x.arg 2 2) r).1 (leBytes 1 (scanUnit s true (x.arg 2 2) r).2) := by
  unfold scanRunBody
  rw [guardArg_badArg _ (by simp [ht, hz, Nat.not_le.2 hu]), ht]
  rfl

/-- No core of that number, or a grade without awl cores (R2; log 90). -/
theorem scanRunBody_noCore (ht : x.arg 0 1 = 1) (hu : 136 ≤ x.arg 2 2 ∨ s.hw.gradeD1 = true) : scanRunBody r s x = fail s stBadArg 2 := by
  unfold scanRunBody
  simp [ht, hz, hu, badArg, guardArg]

end ScanRun

/-! ### The in-field scan and the sentinel replay (R588, R597, R598) -/

theorem infieldScan_ready {s : State} (r : ScanResult) (hits : List ArrayHit) (hf : s.pwr.feltiOn = true) (hr : s.pwr.ready = true) :
    exec (.infieldScan r hits) s = .next (if s.now < sec 600 + s.fence.lastScan then s
      else (scanNext (hits.foldl arrayHit { s with fence := { s.fence with lastScan := s.now } }) r).1) :=
  congrArg Host.Outcome.next (ite_congr (by simp [hf, hr]) (fun _ => rfl) (fun _ => rfl))

/-- On a free core that is not fenced only the streams' comparison decides. -/
theorem sentinelReplay_eq {s : State} {core entry : Nat} (differs : Bool) (hf : s.pwr.feltiOn = true) (hg : s.hw.gradeD1 = false)
    (hc : core < 136) (he : (s.fence.sentinels.get? entry).isSome = true) (hb : scanBusy s false core = false)
    (hn : coreFence s core = none) : exec (.sentinelReplay core entry differs) s = .next (if differs = false then s
      else fenceCore (event s .sentinelFail (srcCore core) none none 0 [(0, 1, entry)]) core 2) := by
  have hheld : (s.fence.sentinels.get? entry).isNone = false := by simpa using he
  exact congrArg Host.Outcome.next (ite_congr (by simp [hf, hg, Nat.not_le.2 hc, hheld, hb, hn]) (fun _ => rfl) (fun _ => rfl))

/-! ### The commands and rows together -/

/-- Settles O31, row by row. That SCAN_RUN of a core on grade D1 ends ST_BAD_ARG is the model's choice (log 90); FENCE_CLEAR's ST_BAD_ARG at
offset 2 for a unit without an entry is the model's too, given by no rule. -/
theorem fenceAndScanRowsComplete : Obligations.FenceAndScanRowsComplete := by
  refine ⟨fun s w x hd => congrArg Host.Outcome.next (runCmd_good hd rfl), ?clear, ?scan, ?infield, ?sentinel⟩
  case clear =>
    intro s w x hd hl ht hz isIt
    obtain ⟨hm, hw⟩ := hl
    have hrun := runRetained_due fenceClearBody hd hm
    refine ⟨fun hin => ?_, fun hout => ?_⟩
    · exact congrArg Host.Outcome.next (hrun.trans (congrArg (settle w) (fenceClearBody_listed ht hz hin hw)))
    · exact congrArg Host.Outcome.next (hrun.trans (congrArg (settle w) (fenceClearBody_unlisted ht hz hout)))
  case scan =>
    intro s w x r hd _ hz
    exact ⟨fun ht => congrArg Host.Outcome.next (runCmd_good hd (scanRunBody_next r hz ht)),
      fun ht hu hg => congrArg Host.Outcome.next (runCmd_good hd (scanRunBody_core r hz ht hu hg)),
      fun ht hu => congrArg Host.Outcome.next (runCmd_good hd (scanRunBody_slice r hz ht hu)),
      fun ht hu => congrArg Host.Outcome.next (runCmd_fail hd (scanRunBody_noCore r hz ht hu))⟩
  case infield =>
    intro s r hits hf hr
    rw [infieldScan_ready r hits hf hr]
    exact ⟨fun ht => by rw [if_neg (Nat.not_lt.2 ht)], fun ht => by rw [if_pos ht]⟩
  case sentinel =>
    intro s core entry hf hg hc he hb hn
    exact ⟨sentinelReplay_eq true hf hg hc he hb hn, sentinelReplay_eq false hf hg hc he hb hn⟩

end Sys2Proof.Proofs
end

section
/-! The fuses and the queue over every step (R445, R448, R523): parts of what every command keeps steady. -/

namespace Sys2Proof.Proofs

open Sys2Proof.Machine Sys2Proof.Laws

/-- Settles O58: the queue, the identity fuses and the least minimum version are part of what every step keeps. -/
theorem fusesAndQueueHold : Obligations.FusesAndQueueHold := by
  intro s t ht
  have h := steady_step (tidy := false) nofun ht
  exact ⟨h.queue, h.gradeD1, h.lifecycle, h.fuses, h.minSvn⟩

end Sys2Proof.Proofs
end

section
/-! Identity, trust and time (O11): one lemma per case of each command's body (R444, R446, R448, R451, R486, R508). -/

namespace Sys2Proof.Proofs

open Sys2Proof.Machine Sys2Proof.Laws Sys2Proof.Safety

/-- A retained change that no standby mirrors takes effect once committed, and the command goes on from there (R494). -/
theorem runRetained_commits {s new : State} {w op : Nat} {x : Win} {body : State → Win → Answer} {k : State → Answer} (hd : Due s w op x)
    (hm : mirrorLive s = false) (hb : body s x = retain s new k) (hw : new.store.writable = true) :
    runRetained s w op body = settle w (k (commit new).1) := by
  rw [runRetained_due _ hd hm, hb, retain_ok hw]

/-! ### IDENTITY_GET (R444) -/

/-- The bytes in the middle of a list. -/
theorem sub_append_middle (a b c : List Byte) : sub (a ++ b ++ c) a.length b.length = b := by
  refine List.ext_getElem (by simp [sub]) fun i _ hi => ?_
  have hat : (a ++ b ++ c)[a.length + i]? = b[i]? := by
    rw [List.append_assoc, List.getElem?_append_right (Nat.le_add_right ..), Nat.add_sub_cancel_left, List.getElem?_append_left hi]
  simp only [sub, List.getElem_map, List.getElem_range, hat, List.getElem?_eq_getElem hi, Option.getD_some]

/-- A field laid little-endian at an offset reads as its value modulo its width (R7). -/
theorem subNat_leBytes {a c : List Byte} {off : Nat} (h : a.length = off) (n v : Nat) :
    subNat (a ++ leBytes n v ++ c) off n = v % 256 ^ n := by
  have hs := sub_append_middle a (leBytes n v) c
  rw [length_leBytes, h] at hs
  rw [subNat, hs, leNat_leBytes]

/-- The first four bytes of the identity result: the grade, and what is the same for every part. -/
def identityHead (s : State) : List Byte := leBytes 1 (b2n s.hw.gradeD1) ++ [0xB1, 3, 2]

theorem length_identityHead (s : State) : (identityHead s).length = 4 := rfl

theorem identityGetBody_eq (s : State) (x : Win) : ∃ rest, identityGetBody s x =
    good s (identityHead s ++ leBytes 4 (runningSlot s).ver ++ leBytes 4 (runningSlot s).svn ++ rest) := by
  refine ⟨leBytes 4 (certChain s).length ++ leBytes 4 Config.bindCert.length ++ leBytes 4 0 ++ certChain s ++
    leBytes (align8 (certChain s).length - (certChain s).length) 0 ++ Config.bindCert, congrArg (good s ·) ?_⟩
  simp only [List.append_assoc]
  rfl

/-! ### TRUST_SET (R451) -/

/-- The anchors of a kind after TRUST_SET. -/
def anchorsSet (x : Win) (m : NMap (List Byte)) : NMap (List Byte) :=
  if x.arg 2 1 = 1 then m.erase (x.arg 1 1) else m.set (x.arg 1 1) (x.bytes 8 (x.arg 4 4))

/-- The state with the anchors of the named kind changed: KIND 0 names the operator's, another the links'. -/
def trustWritten (s : State) (x : Win) : State :=
  if x.arg 0 1 = 0 then { s with trust := { s.trust with op := anchorsSet x s.trust.op } }
  else { s with trust := { s.trust with link := anchorsSet x s.trust.link } }

@[simp] theorem trustWritten_store (s : State) (x : Win) : (trustWritten s x).store = s.store := by
  unfold trustWritten
  split <;> rfl

theorem trustSetBody_passed {s : State} {x : Win} (hc : trustCheck s x = none) :
    trustSetBody s x = retain s (trustWritten s x) fun u => good u := by
  unfold trustSetBody
  rw [hc]
  rfl

/-! ### BMC_KEY_SET (R486) -/

/-- By the BMC on window 0, in the clear, while no key exists. -/
theorem bmcKeySetBody_clear {s : State} {x : Win} (hn : x.session = none) (hk : s.trust.bmcKey = none) (hz : x.arg 68 36 = 0) :
    bmcKeySetBody 0 s x = if leNat (x.bytes 44 8) = Config.kcv (leNat (x.bytes 12 32))
      then retain s { s with trust := { s.trust with bmcKey := some (leNat (x.bytes 12 32)) } } fun u => good u
      else fail s stBadArg 12 := by
  unfold bmcKeySetBody
  rw [guardArg_firstFail _ (by simp [hk, hz]), bmcKeyArg, hn]
  exact ite_not ..

/-! ### The commands together -/

/-- Settles O11, command by command. -/
theorem identityCommandsComplete : Obligations.IdentityCommandsComplete := by
  refine ⟨?identity, fun s w x hd => congrArg Host.Outcome.next (runCmd_good hd rfl),
    fun s w x hd => congrArg Host.Outcome.next (runCmd_good hd rfl), ?trust, ?bmcKey⟩
  case identity =>
    intro s w x hd
    obtain ⟨rest, hbody⟩ := identityGetBody_eq s x
    refine ⟨_, congrArg Host.Outcome.next (runCmd_good hd hbody), rfl, ?_, ?_⟩
    · rw [List.append_assoc]
      exact subNat_leBytes (length_identityHead s) 4 _
    · exact subNat_leBytes (by rw [List.length_append, length_identityHead, length_leBytes]) 4 _
  case trust =>
    intro s w x hd hl hc
    obtain ⟨hm, hw⟩ := hl
    exact congrArg Host.Outcome.next (runRetained_commits hd hm (trustSetBody_passed hc) (by rw [trustWritten_store, hw]))
  case bmcKey =>
    intro s x hd hl _ hn hk hz
    obtain ⟨hm, hw⟩ := hl
    have hbody := bmcKeySetBody_clear hn hk hz
    refine congrArg Host.Outcome.next ?_
    split
    next hkcv =>
      rw [if_pos hkcv] at hbody
      exact runRetained_commits hd hm hbody hw
    next hkcv => exact runRetained_fail _ hd (hbody.trans (if_neg hkcv)) (by decide)

end Sys2Proof.Proofs
end

section
/-! Firmware, store and reset commands (O35): one lemma per case of each command's body (R450, R523, R524, R545, R548 to R552). -/

namespace Sys2Proof.Proofs

open Sys2Proof.Machine Sys2Proof.Laws Sys2Proof.Safety

/-! ### FW_WRITE (R523) -/

/-- The state with the slot not running filled with the bytes of an image not yet checked. -/
def slotFilled (s : State) (d : List Byte) : State := setOther s (slotOf 2 d)

section FwWrite

variable {s : State} {x : Win}

theorem fwWriteBody_outOfOrder (h0 : x.arg 0 4 ≠ 0) (ho : (otherSlot s).st ≠ 2 ∨ x.arg 0 4 ≠ (otherSlot s).data.length) :
    fwWriteBody s x = fail s stBadArg 0 := by
  unfold fwWriteBody
  dsimp only
  rw [decide_eq_true h0, decide_eq_true ho]
  rfl

variable (hlen : x.arg 4 4 ≤ 131072) (hend : x.arg 0 4 + x.arg 4 4 ≤ slotSize)

include hlen hend

/-- Bytes whose OFFSET is in order: 0, which erases the slot, or the end of what was written. -/
theorem fwWriteBody_inOrder (ho : x.arg 0 4 = 0 ∨ ((otherSlot s).st = 2 ∧ x.arg 0 4 = (otherSlot s).data.length)) : fwWriteBody s x =
    good (slotFilled s ((if x.arg 0 4 = 0 then [] else (otherSlot s).data) ++ x.bytes 8 (x.arg 4 4))) := by
  have hfits : ¬(131072 < x.arg 4 4 ∨ slotSize < x.arg 0 4 + x.arg 4 4) := by omega
  have horder : (decide (x.arg 0 4 ≠ 0) && decide ((otherSlot s).st ≠ 2 ∨ x.arg 0 4 ≠ (otherSlot s).data.length)) = false := by
    rcases ho with h0 | ⟨hst, hat⟩
    · rw [h0]; rfl
    · rw [decide_eq_false (p := (otherSlot s).st ≠ 2 ∨ _) (by simp [hst, hat]), Bool.and_false]
  unfold fwWriteBody
  rw [guardArg_badArg _ (by simp only [List.forall_mem_cons]; exact ⟨horder, decide_eq_false hfits, nofun⟩)]
  rfl

end FwWrite

/-! ### FW_ACTIVATE (R523, R551) -/

/-- A slot neither VALID nor just written holds no image that verifies. -/
theorem imageGood_none {x : FwSlot} (total : Nat) (h1 : x.st ≠ 1) (h2 : x.st ≠ 2) : imageGood x total = false := by
  simp [imageGood, h1, h2]

theorem imageGood_valid {x : FwSlot} (total : Nat) (h1 : x.st = 1) : imageGood x total = true := by
  simp [imageGood, h1]

/-- Does the image in the other slot read the store format being written (R552)? -/
def readsFormat (s : State) : Bool :=
  decide ((otherSlot s).storeMin ≤ s.store.fmtWrite) && decide (s.store.fmtWrite ≤ (otherSlot s).storeMax)

theorem readsFormat_false_iff (s : State) : readsFormat s = false ↔
    s.store.fmtWrite < (otherSlot s).storeMin ∨ (otherSlot s).storeMax < s.store.fmtWrite := by
  simp only [readsFormat, Bool.and_eq_false_iff, decide_eq_false_iff_not, Nat.not_le]

/-- The state with the other slot VALID and NEXT, and the failed starts forgotten. -/
def activated (s : State) : State :=
  let t := setOther s { otherSlot s with st := 1 }
  { t with fw := { t.fw with nextB := !t.fw.runningB }, pwr := { t.pwr with failedStarts := 0 } }

section FwActivate

variable {s : State} {x : Win} (hmode : x.arg 4 1 ≤ 1)

include hmode

theorem fwActivateBody_noImage (h1 : (otherSlot s).st ≠ 1) (h2 : (otherSlot s).st ≠ 2) : fwActivateBody s x = fail s stBadArg 0 := by
  unfold fwActivateBody
  dsimp only
  rw [if_neg (Nat.not_lt.2 hmode), if_pos (imageGood_none _ h1 h2), if_neg h2]

/-- An image that verifies is refused by the first of the version, the format and a reset not allowed, else activated. -/
theorem fwActivateBody_valid (h1 : (otherSlot s).st = 1) : fwActivateBody s x =
    if (otherSlot s).svn < s.hw.fusedMinSvn then fail s stDenied
    else if readsFormat s = false then fail s stVersion
    else if x.arg 4 1 = 1 ∧ resetRefused s = true then fail s stBusy
    else good (if x.arg 4 1 = 1 then resetAt (activated s) false 0 else activated s) := by
  unfold fwActivateBody
  dsimp only
  rw [if_neg (Nat.not_lt.2 hmode), if_neg (ne_false_of_eq_true (imageGood_valid _ h1))]
  exact ite_congr rfl (fun _ => rfl) fun _ => ite_congr (propext (readsFormat_false_iff s).symm) (fun _ => rfl) fun _ => rfl

end FwActivate

/-! ### FW_SVN_COMMIT, STORE_BARE (R523, R545) -/

theorem fwSvnCommitBody_eq (s : State) (x : Win) : fwSvnCommitBody s x =
    if s.fw.a.st = 1 ∧ s.fw.b.st = 1 ∧ x.arg 0 4 ≤ s.fw.a.svn ∧ x.arg 0 4 ≤ s.fw.b.svn
    then good { s with hw := { s.hw with fusedMinSvn := max s.hw.fusedMinSvn (x.arg 0 4) } } else fail s stDenied := by
  refine (ite_congr (propext ?_) (fun _ => rfl) fun _ => rfl).trans (ite_not ..)
  simp only [Classical.not_and_iff_not_or_not, Nat.not_le, ne_eq]

theorem storeBareBody_eq (s : State) (x : Win) : storeBareBody s x = if x.arg 0 4 = 0x45524142
    then retain s { s with store := { s.store with barePending := true } } fun u => good u else fail s stBadArg 0 := by
  unfold storeBareBody
  by_cases hm : x.arg 0 4 = 0x45524142
  · rw [guardArg_badArg _ (by simp [hm]), if_pos hm]
  · rw [if_neg hm, decide_eq_true hm]
    rfl

/-! ### RESET, CONSOLE_UNLOCK (R524) -/

section Reset

variable {s : State} {x : Win} (hk : x.arg 0 1 ≤ 1) (hf : x.arg 1 1 ≤ 1) (hz : x.arg 2 6 = 0)

include hk hf hz

theorem resetBody_refused (hr : resetRefused s = true) (h0 : x.arg 1 1 = 0) : resetBody s x = fail s stBusy 0 := by
  unfold resetBody
  dsimp only
  rw [decide_eq_false (Nat.not_lt.2 hk), decide_eq_false (Nat.not_lt.2 hf), decide_eq_false (not_not_intro hz), hr, h0]
  rfl

theorem resetBody_scheduled (hr : resetRefused s = false ∨ x.arg 1 1 = 1) :
    resetBody s x = good (resetAt s (decide (x.arg 0 1 = 1)) (x.arg 8 8)) := by
  have hpass : (resetRefused s && decide (x.arg 1 1 = 0)) = false := by
    rcases hr with hr | h1
    · rw [hr]; rfl
    · rw [h1]; exact Bool.and_false _
  unfold resetBody
  rw [guardArg_firstFail _ (by
    simp only [List.forall_mem_cons]
    exact ⟨decide_eq_false (Nat.not_lt.2 hk), decide_eq_false (Nat.not_lt.2 hf), decide_eq_false (not_not_intro hz), hpass, nofun⟩)]

end Reset

theorem consoleUnlockBody_opens {s : State} {x : Win} (h1 : 1 ≤ x.arg 0 4) (h60 : x.arg 0 4 ≤ 60) : consoleUnlockBody s x = good { s with
    pwr := { s.pwr with consoleUntil := some (sec (60 * x.arg 0 4) + s.now) }, hw := { s.hw with dbgFlags := s.hw.dbgFlags ||| 2 } } := by
  unfold consoleUnlockBody
  rw [guardArg_badArg _ (by simp [inRange, h1, h60])]

/-! ### The commands together -/

/-- Settles O35, command by command. That a commit after STORE_BARE writes the bare record is the model's reading (log 46). -/
theorem firmwareAndStoreCommandsComplete : Obligations.FirmwareAndStoreCommandsComplete := by
  refine ⟨fun s w x hd => congrArg Host.Outcome.next (runCmd_good hd rfl), ?write, ?activate, ?svn,
    fun s w x hd => congrArg Host.Outcome.next (runCmd_good hd rfl), ?bare, ?reset,
    fun s w x hd h1 h60 => congrArg Host.Outcome.next (runCmd_good hd (consoleUnlockBody_opens h1 h60))⟩
  case write =>
    intro s w x hd hlen hend
    refine ⟨fun h0 => ?_, fun h0 hst hat => ?_, fun h0 ho => congrArg Host.Outcome.next (runCmd_fail hd (fwWriteBody_outOfOrder h0 ho))⟩
    · have hbody := fwWriteBody_inOrder (s := s) hlen hend (.inl h0)
      rw [if_pos h0] at hbody
      exact congrArg Host.Outcome.next (runCmd_good hd hbody)
    · have hbody := fwWriteBody_inOrder hlen hend (.inr ⟨hst, hat⟩)
      rw [if_neg h0] at hbody
      exact congrArg Host.Outcome.next (runCmd_good hd hbody)
  case activate =>
    intro s w x hd hmode
    dsimp only
    refine ⟨fun h1 h2 => congrArg Host.Outcome.next (runCmd_fail hd (fwActivateBody_noImage hmode h1 h2)), fun h1 hv => ?_,
      fun h1 hv hf => ?_, fun h1 hv hf hm hr => ?_, fun h1 hv hf hr => ?_⟩
    · exact congrArg Host.Outcome.next (runCmd_fail hd ((fwActivateBody_valid hmode h1).trans (if_pos hv)))
    all_goals have hbody := (fwActivateBody_valid hmode h1).trans (if_neg (Nat.not_lt.2 hv))
    · exact congrArg Host.Outcome.next (runCmd_fail hd (hbody.trans (if_pos hf)))
    all_goals replace hbody := hbody.trans (if_neg (ne_false_of_eq_true hf))
    · exact congrArg Host.Outcome.next (runCmd_fail hd (hbody.trans (if_pos ⟨hm, hr⟩)))
    · have hallowed : ¬(x.arg 4 1 = 1 ∧ resetRefused s = true) := by
        rintro ⟨hm, hr'⟩
        rcases hr with h0 | hr
        · omega
        · exact Bool.false_ne_true (hr.symm.trans hr')
      exact congrArg Host.Outcome.next (runCmd_good hd (hbody.trans (if_neg hallowed)))
  case svn =>
    intro s w x hd
    refine congrArg Host.Outcome.next ((runCmd_due _ hd).trans ?_)
    rw [fwSvnCommitBody_eq, apply_ite (settle w), settle_good, settle_fail]
  case bare =>
    intro s w x hd hl
    obtain ⟨hm, hw⟩ := hl
    refine congrArg Host.Outcome.next ((runRetained_due _ hd hm).trans ?_)
    rw [storeBareBody_eq, apply_ite (settle w), settle_retain, if_pos (show _ = true from hw), settle_good, settle_fail]
  case reset =>
    intro s w x hd hk hf hz
    exact ⟨fun hr h0 => congrArg Host.Outcome.next (runCmd_fail hd (resetBody_refused hk hf hz hr h0)),
      fun hr => congrArg Host.Outcome.next (runCmd_good hd (resetBody_scheduled hk hf hz hr))⟩

end Sys2Proof.Proofs
end

section
/-! SPDM as responder (O43): what each request of a connection and of a session answers, one lemma per case of each row's definition (R443,
R444, R448 to R451, R479). -/

namespace Sys2Proof.Proofs

open Sys2Proof.Machine Sys2Proof.Laws

/-! ### Requests before and after the algorithms are agreed (R443, R444, R449, R450) -/

/-- A request that needs agreed algorithms is unexpected before them. -/
theorem exec_unready {s : State} {c : Nat} (h : (connOf s c).step < 3) (a b e : Nat) (g : Bool) (d : List Byte) :
    ∀ i ∈ [Instr.getDigests c, .getCertificate c a b e, .challenge c a d, .getMeasurements c a g d, .keyExchange c g, .chunkSend c a b g d],
      exec i s = .next (spdmError s c 4) := by
  have hr : connReady s c = false := decide_eq_false (Nat.not_le.2 h)
  simp only [List.forall_mem_cons]
  exact ⟨congrArg Host.Outcome.next (if_neg (ne_true_of_eq_false hr)), congrArg Host.Outcome.next (if_pos hr),
    congrArg Host.Outcome.next (if_pos hr), congrArg Host.Outcome.next (if_pos hr), congrArg Host.Outcome.next (if_pos hr),
    congrArg Host.Outcome.next (if_pos hr), nofun⟩

section Ready

variable {s : State} {c : Nat} (hr : connReady s c = true)

include hr

theorem getDigests_ready : exec (.getDigests c) s = .next (spdmSay s c 0x01 (sub (Config.sha384 (certChain s)) 0 48)) :=
  congrArg Host.Outcome.next (if_pos hr)

theorem getCertificate_ready (slot off len : Nat) : exec (.getCertificate c slot off len) s =
    .next (if slot = 0 ∧ off < (certChain s).length then spdmAnswer s c 0x02 (((certChain s).drop off).take len) else spdmError s c 1) := by
  refine congrArg Host.Outcome.next ((if_neg (ne_false_of_eq_true hr)).trans ?_)
  refine (ite_congr (propext ?_) (fun _ => rfl) fun _ => rfl).trans (ite_not ..)
  rw [Classical.not_and_iff_not_or_not, Nat.not_lt]

theorem challenge_ready (slot : Nat) (n : List Byte) : exec (.challenge c slot n) s = .next (
    let body := sub (Config.sha384 (certChain s)) 0 48 ++ sub n 0 32
    if slot ≠ 0 then spdmError s c 1 else spdmSay s c 0x03 (body ++ aliasSig s body)) :=
  congrArg Host.Outcome.next (if_neg (ne_false_of_eq_true hr))

theorem getMeasurements_known {i : Nat} {n m : List Byte} (g : Bool) (hm : measurement s c i n = some m) :
    exec (.getMeasurements c i g n) s = .next (spdmAnswer s c 0x60 (if g = true then m ++ aliasSig s (m ++ n) else m)) := by
  refine congrArg Host.Outcome.next ((if_neg (ne_false_of_eq_true hr)).trans ?_)
  rw [hm]

theorem getMeasurements_unknown {i : Nat} {n : List Byte} (g : Bool) (hm : measurement s c i n = none) :
    exec (.getMeasurements c i g n) s = .next (spdmError s c 1) := by
  refine congrArg Host.Outcome.next ((if_neg (ne_false_of_eq_true hr)).trans ?_)
  rw [hm]

theorem keyExchange_ready (m : Bool) : exec (.keyExchange c m) s = .next (if m = true ∧ s.spdm.sessions.length < 64
    then spdmSay (setConn s c { connOf s c with hs := some true }) c 0x64 [] else spdmError s c 1) := by
  refine congrArg Host.Outcome.next ((if_neg (ne_false_of_eq_true hr)).trans ?_)
  refine (ite_congr (propext ?_) (fun _ => rfl) fun _ => rfl).trans (ite_not ..)
  rw [Classical.not_and_iff_not_or_not, Nat.not_lt, Bool.not_eq_true]

/-- Chunk 0 begins a request. -/
theorem chunkSend_first (h : Nat) (l : Bool) (d : List Byte) : exec (.chunkSend c h 0 l d) s = .next (spdmSay (setConn s c { connOf s c with
    recv := d, chunkIn := if l = true then none else some (h, 1) }) c 0x05 (leBytes 1 h ++ leBytes 2 0)) :=
  congrArg Host.Outcome.next (if_neg (ne_false_of_eq_true hr))

/-- The chunk that comes next goes on with it. -/
theorem chunkSend_next {h q : Nat} (l : Bool) (d : List Byte) (hq : q ≠ 0) (hin : (connOf s c).chunkIn = some (h, q)) :
    exec (.chunkSend c h q l d) s = .next (spdmSay (setConn s c { connOf s c with
      recv := (connOf s c).recv ++ d, chunkIn := if l = true then none else some (h, q + 1) }) c 0x05 (leBytes 1 h ++ leBytes 2 q)) := by
  refine congrArg Host.Outcome.next ((if_neg (ne_false_of_eq_true hr)).trans ?_)
  rw [decide_eq_false hq, hin, decide_eq_true rfl]
  rfl

end Ready

/-- No measurement stands at an index above 6 but 0x10 (R450). -/
theorem measurement_unknown {i : Nat} (s : State) (c : Nat) (n : List Byte) (h6 : 6 < i) (h16 : i ≠ 0x10) : measurement s c i n = none := by
  unfold measurement
  split <;> first | rfl | omega

theorem chunkGet_eq (s : State) (c h q : Nat) : exec (.chunkGet c h q) s = .next (if 4096 * q < (connOf s c).large.length
    then spdmSay s c 0x06 (leBytes 1 h ++ leBytes 2 q ++ ((connOf s c).large.drop (4096 * q)).take 4096) else spdmError s c 4) := by
  refine congrArg Host.Outcome.next ((ite_congr (propext ?_) (fun _ => rfl) fun _ => rfl).trans (ite_not ..))
  exact Nat.not_lt.symm

/-! ### FINISH (R451, R479) -/

/-- The handshake that a FINISH ends, well or not. -/
def handshakeEnded (s : State) (c : Nat) : State := setConn s c { connOf s c with hs := none }

/-- The state with a session of a class in a free slot, and its window. -/
def sessionOpened (s : State) (c : Nat) (cls : WinClass) (t sid w : Nat) : State :=
  let x : Session := { conn := c, cls := cls, tenant := t, window := some w, lastBeat := s.now }
  { s with spdm := { s.spdm with sessions := s.spdm.sessions.set sid x }, win := s.win.set w { cls := cls, owner := t, session := some sid } }

section Finish

variable {s : State} {c : Nat} (k : ChainEnd)

theorem finish_noHandshake (g : Bool) (hh : (connOf s c).hs ≠ some true) : exec (.finish c k g) s = .next (spdmError s c 4) :=
  congrArg Host.Outcome.next (if_pos hh)

variable (hh : (connOf s c).hs = some true)

include hh

theorem finish_badSignature : exec (.finish c k false) s = .next (spdmError (handshakeEnded s c) c 6) :=
  congrArg Host.Outcome.next ((if_neg (not_not_intro hh)).trans (if_pos rfl))

/-- A chain under an operator or tenant anchor opens a session and its window, where both are free. -/
theorem finish_session {cls : WinClass} {t sid w : Nat} (hk : ∀ d, k ≠ .kyholt d) (hc : chainClass (handshakeEnded s c) k = some (cls, t))
    (hs : s.spdm.sessions.freeKey 0 65 = some sid) (hw : s.win.freeKey 2 64 = some w) :
    exec (.finish c k true) s = .next (spdmSay (sessionOpened (handshakeEnded s c) c cls t sid w) c 0x65 []) := by
  refine congrArg Host.Outcome.next ((if_neg (not_not_intro hh)).trans ((if_neg (by decide)).trans ?_))
  change chainClass (setConn s c { connOf s c with hs := none }) k = some (cls, t) at hc
  change (setConn s c { connOf s c with hs := none }).spdm.sessions.freeKey 0 65 = some sid at hs
  change (setConn s c { connOf s c with hs := none }).win.freeKey 2 64 = some w at hw
  cases k with
  | kyholt d => exact absurd rfl (hk d)
  | operator i => simp only [hc, hs, hw]; rfl
  | tenant i => simp only [hc, hs, hw]; rfl
  | link i => exact nomatch hc
  | other => exact nomatch hc

end Finish

/-! ### Requests of a session (R449, R479) -/

/-- The session's requests read its record: keys stepped on, time noted, session ended. -/
theorem sessionRequest_eq {s : State} {i : Nat} {x : Session} (hx : s.spdm.sessions.get? i = some x) :
    exec (.keyUpdate i) s = .next (spdmSay { s with spdm := { s.spdm with
      sessions := s.spdm.sessions.set i { x with keyGen := x.keyGen + 1 } } } x.conn 0x69 []) ∧
    exec (.heartbeat i) s = .next (spdmSay { s with spdm := { s.spdm with
      sessions := s.spdm.sessions.set i { x with lastBeat := s.now } } } x.conn 0x68 []) ∧
    exec (.endSession i) s = .next (spdmSay (dropSession s i) x.conn 0x6C []) := by
  refine ⟨?_, ?_, ?_⟩
  · change execKeyUpdate i s = _
    rw [execKeyUpdate, hx]
  · change execHeartbeat i s = _
    rw [execHeartbeat, hx]
  · change execEndSession i s = _
    rw [execEndSession, hx]

/-! ### The requests together -/

/-- Settles O43, request by request. The codes are those of the DMTF standard, the model's presumption (log 15). -/
theorem spdmRequestsComplete : Obligations.SpdmRequestsComplete := by
  refine ⟨fun _ _ => rfl, fun _ _ => rfl, ?algorithms, fun s c h => exec_unready h, ?ready, ?finish, chunkGet_eq,
    fun s i x hx => sessionRequest_eq hx⟩
  case algorithms =>
    intro s c b
    exact ⟨fun h => congrArg Host.Outcome.next (if_pos h), fun h => congrArg Host.Outcome.next (if_neg h)⟩
  case ready =>
    intro s c h3
    have hr : connReady s c = true := decide_eq_true h3
    refine ⟨getDigests_ready hr, getCertificate_ready hr, challenge_ready hr 0, fun slot n h0 => ?_,
      fun i g n m hm => getMeasurements_known hr g hm, fun i g n h6 h16 => getMeasurements_unknown hr g (measurement_unknown s c n h6 h16),
      keyExchange_ready hr, chunkSend_first hr, fun h q l d => chunkSend_next hr l d⟩
    exact (challenge_ready hr slot n).trans (congrArg Host.Outcome.next (if_pos h0))
  case finish =>
    intro s c k g
    exact ⟨finish_noHandshake k g, finish_badSignature k, fun cls t sid w hk hh hc hs hw => finish_session k hh hk hc hs hw⟩

end Sys2Proof.Proofs
end

section
/-! SPDM fragments, silent sessions, and the keying of links (O44): one lemma per case of each row's definition (R449, R474, R476 to R479,
R498). -/

namespace Sys2Proof.Proofs

open Sys2Proof.Machine Sys2Proof.Laws

/-! ### Fragments (R498) -/

/-- The bytes a fragment goes on from: none for FIRST, else what was gathered under its MSGSEQ, if anything was. -/
def fragGathered (b : List Byte) (frag : Option (Nat × List Byte)) : Option (List Byte) :=
  if (subNat b 4 1).testBit 0 = true then some []
  else match frag with
    | some (q, d) => if q = subNat b 6 2 then some d else none
    | none => none

/-- The connection's record after a fragment: dropped, over 4,096 bytes, completed by LAST, or still gathering. -/
def fragTaken (b : List Byte) (x : Conn) : Conn :=
  match fragGathered b x.frag with
  | none => { x with frag := none }
  | some old =>
    let d := old ++ sub b 11 (subNat b 5 1)
    if 4096 < d.length then { x with frag := none }
    else if (subNat b 4 1).testBit 1 = true then { x with frag := none, recv := if (subNat b 4 1).testBit 2 = true then x.recv else d }
    else { x with frag := some (subNat b 6 2, d) }

/-- The port of an endpoint's fragment is learned; the link partner's teaches nothing. -/
def fragLearned (s : State) (p ep : Nat) : State := if fragConn s p ep = ep then learn s ep p else s

section Fragment

variable {s : State} {m : MgtMsg} (hh : heard s m.port true = true)

include hh

theorem spdmFrag_reserved (hb : fragBad m.bytes = true) : exec (.spdmFrag m) s = .next (countBad s m.port) :=
  (if_neg (ne_false_of_eq_true hh)).trans (if_pos hb)

variable (hb : fragBad m.bytes = false)

include hb

theorem spdmFrag_dead (hd : isDead s (subNat m.bytes 1 3) = true) (hc : fragConn s m.port (subNat m.bytes 1 3) = subNat m.bytes 1 3) :
    exec (.spdmFrag m) s = .next s :=
  (if_neg (ne_false_of_eq_true hh)).trans ((if_neg (ne_true_of_eq_false hb)).trans (if_pos ⟨hd, hc⟩))

theorem spdmFrag_taken (hd : isDead s (subNat m.bytes 1 3) = false ∨ fragConn s m.port (subNat m.bytes 1 3) ≠ subNat m.bytes 1 3) :
    exec (.spdmFrag m) s = .next (
      let conn := fragConn s m.port (subNat m.bytes 1 3)
      let t := fragLearned s m.port (subNat m.bytes 1 3)
      setConn t conn (fragTaken m.bytes (connOf t conn))) := by
  have hlives : ¬(isDead s (subNat m.bytes 1 3) = true ∧ fragConn s m.port (subNat m.bytes 1 3) = subNat m.bytes 1 3) := by
    rintro ⟨hdead, hconn⟩
    exact hd.elim (fun h => Bool.false_ne_true (h.symm.trans hdead)) fun h => h hconn
  refine (if_neg (ne_false_of_eq_true hh)).trans ((if_neg (ne_true_of_eq_false hb)).trans ((if_neg hlives).trans ?_))
  refine congrArg Host.Outcome.next ?_
  dsimp only
  unfold fragTaken
  change (match fragGathered m.bytes (connOf (fragLearned s m.port _) _).frag with | none => _ | some d => _) = _
  cases fragGathered m.bytes _ with
  | none => rfl
  | some old =>
    exact ((apply_ite (setConn _ _) _ _ _).trans (ite_congr rfl (fun _ => rfl) fun _ => apply_ite (setConn _ _) _ _ _)).symm

end Fragment

section FragTaken

variable {b : List Byte} (x : Conn)

/-- FIRST goes on from nothing. -/
theorem fragTaken_first (hf : (subNat b 4 1).testBit 0 = true) (hl : (sub b 11 (subNat b 5 1)).length ≤ 4096) :
    fragTaken b x = if (subNat b 4 1).testBit 1 = true
      then { x with frag := none, recv := if (subNat b 4 1).testBit 2 = true then x.recv else sub b 11 (subNat b 5 1) }
      else { x with frag := some (subNat b 6 2, sub b 11 (subNat b 5 1)) } := by
  unfold fragTaken fragGathered
  rw [if_pos hf]
  exact if_neg (Nat.not_lt.2 hl)

variable {x} (hf : (subNat b 4 1).testBit 0 = false)

include hf

theorem fragTaken_next {old : List Byte} (hx : x.frag = some (subNat b 6 2, old)) :
    let d := old ++ sub b 11 (subNat b 5 1)
    fragTaken b x = if 4096 < d.length then { x with frag := none }
      else if (subNat b 4 1).testBit 1 = true then { x with frag := none, recv := if (subNat b 4 1).testBit 2 = true then x.recv else d }
      else { x with frag := some (subNat b 6 2, d) } := by
  unfold fragTaken fragGathered
  rw [if_neg (ne_true_of_eq_false hf), hx]
  simp only [if_true]

/-- Another MSGSEQ than the one being gathered drops it. -/
theorem fragTaken_other (hx : x.frag.all (fun f => decide (f.1 ≠ subNat b 6 2)) = true) : fragTaken b x = { x with frag := none } := by
  have hnone : fragGathered b x.frag = none := by
    unfold fragGathered
    rw [if_neg (ne_true_of_eq_false hf)]
    cases hfrag : x.frag with
    | none => rfl
    | some f =>
      rw [hfrag] at hx
      exact if_neg (of_decide_eq_true hx)
  unfold fragTaken
  rw [hnone]

end FragTaken

/-! ### The keying of a port (R474, R478) -/

theorem modPort_of_get? {s : State} {p : Nat} {q : Port} (hq : s.ports.get? p = some q) (f : Port → Port) :
    modPort s p f = { s with ports := s.ports.set p (f q) } := by
  rw [modPort, modify_of_get? hq]

section Keying

variable {s : State} {p : Nat} {q : Port} (hq : s.ports.get? p = some q) (hk : q.st = .keying) (hn : q.key.keyed = false)
  (ho : q.cfg.keyOff = false ∨ 8 ≤ p)

include hq hk hn ho

/-- A port in KEYING that is not yet keyed takes its partner's answer. -/
theorem linkKeyingResponse_keying (k : KeyingStep) : exec (.linkKeyingResponse p k) s = .next (match k with
    | .advance => { s with ports := s.ports.set p { q with key := { q.key with step := q.key.step + 1 } } }
    | .finish chain => if linkChainOk s p chain = true then installKeys s p else keyingFailed s p 0 0
    | .refused => keyingFailed s p 0 0
    | .failed code => keyingFailed s p code 1) := by
  have hopen : ¬(q.st ≠ .keying ∨ q.key.keyed = true ∨ (q.cfg.keyOff = true ∧ p < 8)) := by
    rcases ho with ho | ho <;> simp [hk, hn, ho]
  change execLinkKeyingResponse p k s = _
  unfold execLinkKeyingResponse
  rw [hq]
  refine congrArg Host.Outcome.next ((if_neg hopen).trans ?_)
  cases k with
  | advance => exact modPort_of_get? hq _
  | finish chain => rfl
  | refused => rfl
  | failed code => rfl

/-- At the retry time the authentication starts again. -/
theorem keyingRetry_keying : exec (.keyingRetry p) s = .next (if q.key.retryAt ≤ s.now
    then askVersion { s with ports := s.ports.set p { q with key := { q.key with step := 1, retryAt := sec 10 + s.now } } } p else s) := by
  have hopen : ¬(q.cfg.keyOff = true ∧ p < 8) := by
    rcases ho with ho | ho <;> simp [ho]
  change execKeyingRetry p s = _
  rw [execKeyingRetry, hq]
  refine congrArg Host.Outcome.next (ite_congr (propext ?_) (fun _ => ?_) fun _ => rfl)
  · simp only [hk, hn, hopen, true_and, not_false_eq_true, and_true]
  · rw [modPort_of_get? hq]

end Keying

/-! ### New keys (R477) -/

theorem linkRekeyDue_eq {s : State} {p : Nat} {q : Port} (hq : s.ports.get? p = some q) :
    exec (.linkRekeyDue p) s = .next (if rekeyDue s q = true then
      let sw := (q.sn.txNext + 4096, q.sp.txNext + 4096, q.key.cctrTx + 4096)
      sendHere { s with ports := s.ports.set p { q with key := { q.key with
        since := s.now, swTx := q.key.swTx ++ [sw], swTxAcked := false } } } p (.rekey p) (.linkRekey p sw.1 sw.2.1 sw.2.2)
    else s) := by
  change execLinkRekeyDue p s = _
  rw [execLinkRekeyDue, hq]

theorem linkRekey_heard {s : State} {m : MgtMsg} {q : Port} (hq : s.ports.get? m.port = some q) (hh : heard s m.port true = true) :
    exec (.linkRekey m) s = .next (if (mgtBad m.bytes 0x5F [(8, 24)] || !q.key.keyed) = true then countBad s m.port
      else { s with ports := s.ports.set m.port { q with key := { q.key with
        swRx := q.key.swRx ++ [(subNat m.bytes 8 8, subNat m.bytes 16 8, subNat m.bytes 24 8)] } } }) := by
  change execLinkRekey m s = _
  rw [execLinkRekey, hq]
  exact congrArg Host.Outcome.next (if_neg (ne_false_of_eq_true hh))

theorem spdmSessionExpiry_eq {s : State} {i : Nat} {x : Session} (hx : s.spdm.sessions.get? i = some x) :
    exec (.spdmSessionExpiry i) s = .next (if sec 90 + x.lastBeat ≤ s.now then dropSession s i else s) := by
  change execSpdmSessionExpiry i s = _
  rw [execSpdmSessionExpiry, hx]

/-! ### The rows together -/

/-- Settles O44, row by row. That a fragment with EP zero is the link partner's in KEYING and on a peer port is the model's reading
(log 93). -/
theorem spdmFragmentAndKeyingRowsComplete : Obligations.SpdmFragmentAndKeyingRowsComplete := by
  refine ⟨?frag, fun s i x hx => spdmSessionExpiry_eq hx, ?keying, ?due, ?rekey⟩
  case frag =>
    intro s m hh
    dsimp only
    refine ⟨spdmFrag_reserved hh, spdmFrag_dead hh, fun hb hd => ?_⟩
    have htaken := spdmFrag_taken hh hb hd
    refine ⟨fun hf hl hn => ?_, fun hf hl hn => ?_, fun old hf hx => ?_, fun hf hx => ?_⟩
    · rw [htaken]
      dsimp only
      rw [fragTaken_first _ hf hn, if_pos hl]
      rfl
    · rw [htaken]
      dsimp only
      rw [fragTaken_first _ hf hn, if_neg (ne_true_of_eq_false hl)]
      rfl
    · rw [htaken]
      exact congrArg Host.Outcome.next (congrArg (setConn _ _) (fragTaken_next hf hx))
    · rw [htaken]
      exact congrArg Host.Outcome.next (congrArg (setConn _ _) (fragTaken_other hf hx))
  case keying =>
    intro s p q hq hk hn ho
    have hresponse := linkKeyingResponse_keying hq hk hn ho
    have hretry := keyingRetry_keying hq hk hn ho
    exact ⟨hresponse .advance, fun k => hresponse (.finish k), hresponse .refused, fun c => hresponse (.failed c),
      fun ht => hretry.trans (congrArg Host.Outcome.next (if_neg (Nat.not_le.2 ht))),
      fun ht => hretry.trans (congrArg Host.Outcome.next (if_pos ht))⟩
  case due =>
    intro s p q hq
    have hrow := linkRekeyDue_eq hq
    refine ⟨fun hd => hrow.trans (congrArg Host.Outcome.next (if_neg (ne_true_of_eq_false hd))), fun hk ha hd => ?_⟩
    have hdue : rekeyDue s q = true := by
      simpa only [rekeyDue, hk, ha, Bool.true_and, Bool.or_eq_true, decide_eq_true_eq, or_assoc] using hd
    exact hrow.trans (congrArg Host.Outcome.next (if_pos hdue))
  case rekey =>
    intro s m q hq hh
    have hrow := linkRekey_heard hq hh
    refine ⟨fun h => hrow.trans (congrArg Host.Outcome.next (if_pos ?_)), fun hb hk => hrow.trans (congrArg Host.Outcome.next (if_neg ?_))⟩
    · simpa using h
    · simp [hb, hk]

end Sys2Proof.Proofs
end

section
/-! The tenant commands (O16): one lemma per case of each command's body (R452, R453, R455, R461 to R463, R467, R470, R473, R513). -/

namespace Sys2Proof.Proofs

open Sys2Proof.Machine Sys2Proof.Laws Sys2Proof.Safety

/-! ### What filling a key slot leaves alone (R455) -/

theorem store_of_quiet {s t : State} (h : quiet t = quiet s) : t.store = s.store :=
  congrArg (a₁ := quiet t) (a₂ := quiet s) State.store h

/-- A mirror record changes nothing of the store. -/
@[simp] theorem sendMirror_store (s : State) (b : MirrorBody) : (sendMirror s b).1.store = s.store := by
  unfold sendMirror
  dsimp only
  split
  · exact (store_of_quiet (sendFlit_quiet ..)).trans rfl
  · rfl

@[simp] theorem fillSlot_store (s : State) (t gen key : Nat) (man : List Byte) : (fillSlot s t gen key man).store = s.store := by
  unfold fillSlot
  dsimp only
  rw [apply_ite State.store, sendMirror_store, ite_self]
  rfl

theorem tenantAt_of_get? {s : State} {t : Nat} {r : Tenant} (hr : s.ten.recs.get? t = some r) : tenantAt s t = r := by
  rw [tenantAt, NMap.getD, hr]
  rfl

theorem noTenant_of_get? {s : State} {t : Nat} {r : Tenant} (hr : s.ten.recs.get? t = some r) : noTenant s t = false := by
  rw [noTenant, hr]
  rfl

/-- The state with a tenant's record replaced. -/
def putTenant (s : State) (t : Nat) (r : Tenant) : State := { s with ten := { s.ten with recs := s.ten.recs.set t r } }

theorem modTenant_of_get? {s : State} {t : Nat} {r : Tenant} (hr : s.ten.recs.get? t = some r) (f : Tenant → Tenant) :
    modTenant s t f = putTenant s t (f r) := by
  rw [modTenant, modify_of_get? hr]
  rfl

/-! ### TENANT_CREATE (R452, R461, R473) -/

/-- The record answered once a retained change of a tenant is committed. -/
def tenantCommitted (u : State) (w t : Nat) : State := finishCmd (commit u).1 w stOk 0 (tenantRecord (commit u).1 t)

section Create

variable {s : State} {x : Win}

/-- Offset of the manifest in TENANT_CREATE's argument: after the anchor, aligned. -/
def manifestOff (x : Win) : Nat := align8 (8 + x.arg 4 2)

/-- The new tenant with its key slot filled or awaiting, by its ORIGIN; a manifest that yields no key makes none. -/
def tenantMade (s : State) (x : Win) (r : Tenant) : Option State :=
  match r.origin with
  | .localKey => some (fillSlot (putTenant s (x.arg 0 2) r).tickFree (x.arg 0 2) 0 (Config.randomKey s.free) [])
  | .bound =>
    if x.arg 6 2 = 0 then some (putTenant s (x.arg 0 2) { r with slot0 := { st := .awaiting } })
    else (manifestKey s r 0 (x.bytes (manifestOff x) (x.arg 6 2))).map fun k =>
      fillSlot (putTenant s (x.arg 0 2) { r with manifestSeq := subNat (x.bytes (manifestOff x) (x.arg 6 2)) 16 8 }) (x.arg 0 2) 0 k
        (x.bytes (manifestOff x) (x.arg 6 2))
  | .released => some (putTenant s (x.arg 0 2) { r with slot0 := { st := .awaiting } })

theorem tenantMade_store {r : Tenant} {u : State} (h : tenantMade s x r = some u) : u.store = s.store := by
  unfold tenantMade at h
  split at h
  · obtain rfl := Option.some.inj h
    exact fillSlot_store ..
  · split at h
    · obtain rfl := Option.some.inj h
      rfl
    · obtain ⟨k, -, rfl⟩ := Option.map_eq_some_iff.1 h
      exact fillSlot_store ..
  · obtain rfl := Option.some.inj h
    rfl

/-- The tenant that TENANT_CREATE's argument describes. -/
def newTenant (x : Win) : Tenant :=
  { origin := if x.arg 2 1 = 0 then .localKey else if x.arg 2 1 = 1 then .bound else .released
    sealKeys := decide (x.arg 3 1 = 1), anchor := x.bytes 8 (x.arg 4 2) }

theorem tenantMade_localKey (h0 : x.arg 2 1 = 0) : tenantMade s x (newTenant x) = some (fillSlot (putTenant s (x.arg 0 2)
    { origin := .localKey, sealKeys := decide (x.arg 3 1 = 1), anchor := x.bytes 8 (x.arg 4 2) }).tickFree (x.arg 0 2) 0
    (Config.randomKey s.free) []) := by
  simp only [tenantMade, newTenant, h0, if_true]

theorem tenantMade_released (h2 : x.arg 2 1 = 2) (h3 : x.arg 3 1 = 0) : tenantMade s x (newTenant x) = some (putTenant s (x.arg 0 2)
    { origin := .released, sealKeys := false, anchor := x.bytes 8 (x.arg 4 2), slot0 := { st := .awaiting } }) := by
  unfold tenantMade newTenant
  rw [h2, h3]
  rfl

section Bound

variable (h1 : x.arg 2 1 = 1) (h3 : x.arg 3 1 = 0)

include h1 h3

theorem tenantMade_awaiting (hm : x.arg 6 2 = 0) : tenantMade s x (newTenant x) = some (putTenant s (x.arg 0 2)
    { origin := .bound, sealKeys := false, anchor := x.bytes 8 (x.arg 4 2), slot0 := { st := .awaiting } }) := by
  unfold tenantMade newTenant
  rw [h1, h3, hm]
  rfl

theorem tenantMade_manifest (hm : x.arg 6 2 = 2320) : tenantMade s x (newTenant x) =
    let man := x.bytes (manifestOff x) 2320
    let b : Tenant := { origin := .bound, sealKeys := false, anchor := x.bytes 8 (x.arg 4 2) }
    (manifestKey s b 0 man).map fun key => fillSlot (putTenant s (x.arg 0 2) { b with manifestSeq := subNat man 16 8 }) (x.arg 0 2) 0 key man := by
  unfold tenantMade newTenant
  rw [h1, h3, hm]
  rfl

end Bound

/-- The checks of TENANT_CREATE in the order of the argument's fields (R10, R459). -/
def tenantCreateChecks (s : State) (x : Win) : List (Bool × Nat) :=
  [ (decide (4095 < x.arg 0 2) || (s.ten.recs.get? (x.arg 0 2)).isSome, 0), (decide (2 < x.arg 2 1), 2),
    (decide (1 < x.arg 3 1 ∨ (x.arg 3 1 = 1 ∧ x.arg 2 1 ≠ 0)), 3), (decide (x.arg 4 2 = 0), 4),
    (decide (x.arg 6 2 ≠ 0 ∧ (x.arg 2 1 ≠ 1 ∨ x.arg 6 2 ≠ 2320)), 6),
    ((x.bytes (8 + x.arg 4 2) (manifestOff x - (8 + x.arg 4 2))).any (fun b => b ≠ 0), 8 + x.arg 4 2),
    (decide (x.arg 6 2 ≠ 0) && !manifestForm (x.bytes (manifestOff x) (x.arg 6 2)), manifestOff x) ]

/-- They pass for a free ID with an anchor, its padding zero, LOCAL where the keys are sealed, and BOUND where a manifest stands. -/
theorem tenantCreateChecks_pass (ht : x.arg 0 2 ≤ 4095) (hfree : s.ten.recs.get? (x.arg 0 2) = none) (hcl : x.arg 4 2 ≠ 0)
    (hpad : ((x.bytes (8 + x.arg 4 2) (manifestOff x - (8 + x.arg 4 2))).any fun b => b ≠ 0) = false) (horg : x.arg 2 1 ≤ 2)
    (hsld : x.arg 3 1 = 0 ∨ (x.arg 3 1 = 1 ∧ x.arg 2 1 = 0))
    (hman : x.arg 6 2 = 0 ∨ (x.arg 2 1 = 1 ∧ x.arg 6 2 = 2320 ∧ manifestForm (x.bytes (manifestOff x) 2320) = true)) :
    ∀ e ∈ tenantCreateChecks s x, e.1 = false := by
  simp only [tenantCreateChecks, List.forall_mem_cons]
  refine ⟨by simp [hfree, ht], decide_eq_false (Nat.not_lt.2 horg), decide_eq_false (by omega), decide_eq_false hcl, decide_eq_false (by omega),
    hpad, ?_, nofun⟩
  rcases hman with h0 | ⟨-, hlen, hform⟩
  · simp [h0]
  · simp [hlen, hform]

theorem tenantCreateBody_eq (s : State) (x : Win) : tenantCreateBody s x = guardArg s (badArg (tenantCreateChecks s x)) fun _ =>
    match tenantMade s x (newTenant x) with
    | none => fail s stDenied
    | some u => retain s u fun u => good u (tenantRecord u (x.arg 0 2)) := rfl

variable {w : Nat} (hd : Due s w 0x0400 x) (hc : ∀ e ∈ tenantCreateChecks s x, e.1 = false)

include hd hc

theorem tenantCreate_denied (hu : tenantMade s x (newTenant x) = none) : exec (.tenantCreate w) s = .next (finishCmd s w stDenied 0 []) := by
  refine congrArg Host.Outcome.next (runRetained_fail _ hd ?_ (by decide))
  rw [tenantCreateBody_eq, guardArg_badArg _ hc, hu]

theorem tenantCreate_made (hl : Local s) {u : State} (hu : tenantMade s x (newTenant x) = some u) :
    exec (.tenantCreate w) s = .next (tenantCommitted u w (x.arg 0 2)) := by
  obtain ⟨hm, hw⟩ := hl
  have hbody : tenantCreateBody s x = retain s u fun u => good u (tenantRecord u (x.arg 0 2)) := by
    rw [tenantCreateBody_eq, guardArg_badArg _ hc, hu]
  exact congrArg Host.Outcome.next (runRetained_commits hd hm hbody (by rw [tenantMade_store hu, hw]))

end Create

/-! ### TENANT_KEY_LOAD (R462, R473) -/

/-- A slot that awaits its key takes one that the session unwraps and whose check value fits. -/
theorem tenantKeyLoadBody_awaiting {s : State} {x : Win} {r : Tenant} {sid : Nat} (hr : s.ten.recs.get? (x.arg 0 2) = some r)
    (ho : r.origin = .released) (hg : x.arg 2 1 ≤ 1) (ha : (tenantSlot r (x.arg 2 1)).st = .awaiting)
    (hp : (tenantSlot r (x.arg 2 1)).copyPending = false) (h3 : x.arg 3 1 = 0) (h4 : x.arg 4 4 = 0) (h108 : x.arg 108 4 = 0)
    (hs : x.session = some sid) : tenantKeyLoadBody s x =
    if mayUnseal s = false then fail s stDenied
    else match Config.unwrapKey sid (x.bytes 8 104) with
      | none => fail s stDenied
      | some (key, kcv) =>
        if kcv ≠ Config.kcv key ∨ ((tenantSlot r (x.arg 2 1)).kcv ≠ 0 ∧ (tenantSlot r (x.arg 2 1)).kcv ≠ kcv) then fail s stBadArg 8
        else
          let u := commitSelf (fillSlot s (x.arg 0 2) (x.arg 2 1) key [])
          good u (tenantRecord u (x.arg 0 2)) := by
  unfold tenantKeyLoadBody
  dsimp only
  rw [tenantAt_of_get? hr, guardArg_badArg _ (by simp [noTenant_of_get? hr, ho, hg, ha, hp, h3, h4, h108]), hs]
  exact ite_congr (by rw [Bool.not_eq_true']) (fun _ => rfl) fun _ => rfl

/-! ### TENANT_KEY_ROTATE (R461 to R463) -/

/-- A rotation draws or unwraps its key without a change of the store. -/
theorem rotationKey_store {s u : State} {x : Win} {r : Tenant} {key : Option Nat} {man : List Byte}
    (h : rotationKey s x r = some (u, key, man)) : u.store = s.store := by
  unfold rotationKey at h
  dsimp only at h
  split at h
  · obtain ⟨rfl, -⟩ := Prod.mk.inj (Option.some.inj h)
    rfl
  · obtain ⟨k, -, hk⟩ := Option.map_eq_some_iff.1 h
    obtain ⟨rfl, -⟩ := Prod.mk.inj hk
    rfl
  · split at h
    · exact nomatch h
    · obtain ⟨k, -, hk⟩ := Option.map_eq_some_iff.1 h
      obtain ⟨rfl, -⟩ := Prod.mk.inj hk
      rfl

/-- The state with the rotation's key in the slot of ¬CUR, and its manifest's sequence noted. -/
def rotated (u : State) (t : Nat) (r : Tenant) (key : Nat) (man : List Byte) : State :=
  fillSlot (modTenant u t fun r => { r with manifestSeq := if man = [] then r.manifestSeq else subNat man 16 8 }) t (1 - r.cur) key man

theorem rotated_store (u : State) (t : Nat) (r : Tenant) (key : Nat) (man : List Byte) : (rotated u t r key man).store = u.store :=
  fillSlot_store ..

/-- The rotation under way in a tenant, until the partner has its copy. -/
def rotationBegun (z : State) (t gen : Nat) (w : Option Nat) : State :=
  { z with ten := { z.ten with rotation := z.ten.rotation.set t { w := w, step := 0, gen := gen } } }

/-- With no sweep running and the other slot EMPTY the rotation goes by the key that its ORIGIN brings. -/
theorem tenantRotateBody_allowed {s : State} {x : Win} {r : Tenant} (hr : s.ten.recs.get? (x.arg 0 2) = some r) (h4 : x.arg 4 4 = 0)
    (hs : r.sweep = none) (he : (tenantSlot r (1 - r.cur)).st = .empty) (hlocal : r.origin = .localKey → x.arg 2 2 = 0)
    (hbound : r.origin = .bound → x.arg 2 2 = 2320 ∧ manifestForm (x.bytes 8 2320) = true)
    (hreleased : r.origin = .released → x.arg 2 2 = 104 ∧ x.arg 108 4 = 0) : tenantRotateBody s x = match rotationKey s x r with
    | none => fail s stDenied
    | some (_, none, _) => fail s stBadArg 8
    | some (u, some key, man) =>
      let v := rotated u (x.arg 0 2) r key man
      if (tenantSlot (tenantAt v (x.arg 0 2)) (1 - r.cur)).st = .active
      then retain s (flipCur v (x.arg 0 2)) fun u => good u (tenantRecord u (x.arg 0 2))
      else retain s v fun u => goesOn (rotationBegun u (x.arg 0 2) (1 - r.cur) (cmdWin s x)) := by
  unfold tenantRotateBody
  dsimp only
  rw [tenantAt_of_get? hr, guardArg_firstFail]
  · rfl
  cases ho : r.origin with
  | localKey => simp [noTenant_of_get? hr, h4, hs, he, hlocal ho]
  | bound => simp [noTenant_of_get? hr, h4, hs, he, hbound ho]
  | released => simp [noTenant_of_get? hr, h4, hs, he, hreleased ho]

/-! ### TENANT_KEY_RETIRE, TENANT_REMOVE (R467, R470) -/

section Remove

variable {s : State} {x : Win} {r : Tenant} (hr : s.ten.recs.get? (x.arg 0 2) = some r)

include hr

theorem tenantRetireBody_eq : tenantRetireBody s x = retain s (putTenant s (x.arg 0 2) { r with st := .removing, retiring := true }) fun u =>
    goesOn (drainSlots (stopTenant u (x.arg 0 2)) (x.arg 0 2) { w := cmdWin s x, step := 4, gen := 1 }) := by
  unfold tenantRetireBody
  simp only [hr, modTenant_of_get? hr]

theorem tenantRemoveBody_eq (hs : r.st ≠ .retired) : tenantRemoveBody s x =
    retain s (putTenant s (x.arg 0 2) { r with st := .removing, retiring := false }) fun u => goesOn (settleRemoval
      (setRemoval (stopTenant (tenantRemoveBody.markWin u x) (x.arg 0 2)) (x.arg 0 2) { w := cmdWin s x, step := 3 }) (x.arg 0 2)) := by
  unfold tenantRemoveBody
  simp only [hr, modTenant_of_get? hr, if_neg hs]

end Remove

/-- A commit writes only the store. -/
@[simp] theorem commit_win (s : State) : (commit s).1.win = s.win := by
  unfold commit commitWith
  split <;> rfl

theorem markWin_eq {s : State} {x : Win} {w : Nat} (hw : cmdWin s x = some w) : tenantRemoveBody.markWin s x = markBegun s w := by
  rw [tenantRemoveBody.markWin, hw]

/-! ### The commands together -/

/-- Settles O16, command by command. ST_DENIED for a RELEASED key that does not unwrap, slot 0 AWAITING for a tenant made without its
key, and the waits for the partner's copy are the model's reading (logs 69 and 94). -/
theorem tenantCommandsComplete : Obligations.TenantCommandsComplete := by
  refine ⟨?query, ?create, ?load, ?rotate, ?remove⟩
  case query =>
    intro s w x hd ht
    exact congrArg Host.Outcome.next (runCmd_good hd (if_neg (Nat.not_lt.2 ht)))
  case create =>
    intro s w x hd hl ht hfree hcl
    dsimp only
    intro hpad
    have hchecks := tenantCreateChecks_pass ht hfree hcl hpad
    refine ⟨fun horg hsld hml _ => ?_, fun horg hsld hml => ?_, fun horg hsld hml => ?_, fun horg hsld hml hform => ?_⟩
    · exact tenantCreate_made hd (hchecks (by omega) (by omega) (.inl hml)) hl (tenantMade_localKey horg)
    · exact tenantCreate_made hd (hchecks (by omega) (.inl hsld) (.inl hml)) hl (tenantMade_released horg hsld)
    · exact tenantCreate_made hd (hchecks (by omega) (.inl hsld) (.inl hml)) hl (tenantMade_awaiting horg hsld hml)
    · have hpass := hchecks (by omega) (.inl hsld) (.inr ⟨horg, hml, hform⟩)
      have hmade := tenantMade_manifest (s := s) horg hsld hml
      split
      next hkey =>
        refine tenantCreate_denied hd hpass (hmade.trans ?_)
        exact Option.map_eq_none_iff.2 hkey
      next key hkey =>
        refine tenantCreate_made hd hpass hl (hmade.trans ?_)
        exact Option.map_eq_some_iff.2 ⟨key, hkey, rfl⟩
  case load =>
    intro s w sid x r hd hr ho hg ha hp h3 h4 h108 hs
    have hbody := tenantKeyLoadBody_awaiting hr ho hg ha hp h3 h4 h108 hs
    refine ⟨fun hu => congrArg Host.Outcome.next (runCmd_fail hd (hbody.trans (if_pos hu))), fun hu => ?_⟩
    replace hbody := hbody.trans (if_neg (ne_false_of_eq_true hu))
    refine congrArg Host.Outcome.next ((runCmd_due _ hd).trans ((congrArg (settle w) hbody).trans ?_))
    cases Config.unwrapKey sid (x.bytes 8 104) with
    | none => rfl
    | some k => exact apply_ite (settle w) _ _ _
  case rotate =>
    intro s w x r hd hl hr h4 hs _ he hlocal hbound hreleased
    obtain ⟨hm, hw⟩ := hl
    have hbody := tenantRotateBody_allowed hr h4 hs he hlocal hbound hreleased
    refine ⟨fun hk => ?_, fun u man hk => ?_, fun u key man hk => ?_⟩
    all_goals rw [hk] at hbody
    · exact congrArg Host.Outcome.next (runRetained_fail _ hd hbody (by decide))
    · exact congrArg Host.Outcome.next (runRetained_fail _ hd hbody (by decide))
    · have hstore : (rotated u (x.arg 0 2) r key man).store.writable = true := by rw [rotated_store, rotationKey_store hk, hw]
      exact ⟨fun hact => congrArg Host.Outcome.next (runRetained_commits hd hm (hbody.trans (if_pos hact)) hstore),
        fun hact => congrArg Host.Outcome.next (runRetained_commits hd hm (hbody.trans (if_neg hact)) hstore)⟩
  case remove =>
    intro s w x r hr hl
    obtain ⟨hm, hw⟩ := hl
    refine ⟨fun hd => congrArg Host.Outcome.next (runRetained_commits hd hm (tenantRetireBody_eq hr) hw), fun hd hs hwin => ?_⟩
    refine congrArg Host.Outcome.next ((runRetained_commits hd hm (tenantRemoveBody_eq hr hs) hw).trans ?_)
    rw [settle_goesOn, markWin_eq (by rw [cmdWin, commit_win]; exact hwin), hwin]
    rfl

end Sys2Proof.Proofs
end

section
/-! One step, and what every command of the catalogue shares (O1, O2, O3, O54): the front of the queue, the answer of every row, and a
management command that is not due. -/

namespace Sys2Proof.Proofs

open Sys2Proof.Machine Sys2Proof.Laws Sys2Proof.Safety

/-! ### A step -/

theorem step_front {c : Instr} {rest : List Instr} {s : State} (hp : s.pending = c :: rest) :
    step s = exec c { s with pending := rest } := by
  unfold step
  rw [hp]

theorem step_idle {s : State} (hp : s.pending = []) : step s = .next (tick s) := by
  unfold step
  rw [hp]

/-- Settles O1: the front of the queue is taken off before it runs. -/
theorem frontCommandRuns : Obligations.FrontCommandRuns := fun _ _ _ => step_front

/-- Settles O2: that an idle step is one tick is the model's choice (log 4). -/
theorem emptyQueueTicks : Obligations.EmptyQueueTicks := fun _ hp =>
  ⟨step_idle hp, fun h0 => if_neg (by omega), fun hpos => if_pos hpos⟩

/-! ### Every row answers a next state -/

/-- Most rows answer `.next` of one state; those named first look up their port, session or window, or check their message. -/
theorem exec_answers (c : Instr) (s : State) : ∃ t, exec c s = .next t := by
  cases c with
  | linkRekey | linkRekeyDue | linkKeyingResponse | keyingRetry | spdmFrag | keyUpdate | heartbeat | endSession | spdmSessionExpiry
  | smbusBlockRead | nakRepeat | replayTimeout | keepAlive | downTimeout | negotiateResend | laneSwapRequestTimeout
  | laneSwapQuietStart | laneSwapQuietEnd =>
    simp only [exec, execLinkRekey, execLinkRekeyDue, execLinkKeyingResponse, execKeyingRetry, execSpdmFrag, execKeyUpdate,
      execHeartbeat, execEndSession, execSpdmSessionExpiry, execSmbusBlockRead, execNakRepeat, execReplayTimeout, execKeepAlive,
      execDownTimeout, execNegotiateResend, execLaneSwapRequestTimeout, execLaneSwapQuietStart, execLaneSwapQuietEnd]
    repeat' split
    all_goals exact ⟨_, rfl⟩
  | _ => exact ⟨_, rfl⟩

/-- Settles O54: by the rows, and by whether a command waits. -/
theorem everyCommandAnswersNext : Obligations.EveryCommandAnswersNext := by
  refine ⟨exec_answers, fun s => ?_⟩
  cases hp : s.pending with
  | nil => exact ⟨_, step_idle hp⟩
  | cons c rest => exact step_front hp ▸ exec_answers ..

/-! ### A management command that is not due (R489, R492, R493) -/

/-- LAST_LOAD runs only where no image is being read (R517). -/
theorem lastLoad_undue {s : State} {w : Nat} (hd : dueCmd s w 0x0600 = none) (hl : s.eng.loads.get? w = none) :
    exec (.lastLoad w) s = .next s := by
  change execLastLoad w s = _
  unfold execLastLoad
  rw [hl]
  exact congrArg Host.Outcome.next (runCmd_undue _ hd)

theorem ctxUnbindHall_undue {s : State} {w : Nat} (hd : dueCmd s w 0x0505 = none) : exec (.ctxUnbindHall w) s = .next s := by
  change execCtxUnbindHall w s = _
  unfold execCtxUnbindHall
  rw [hd]

theorem dramDiagRead_undue {s : State} {w : Nat} (hd : dueCmd s w 0x0903 = none) : exec (.dramDiagRead w) s = .next s := by
  change execDramDiagRead w s = _
  unfold execDramDiagRead
  rw [hd]

/-- Settles O3, constructor by constructor: but for three rows of their own, a management command is `runCmd` of its opcode. That an undue
row changes nothing is the model's choice (log 5). -/
theorem undueCommandChangesNothing : Obligations.UndueCommandChangesNothing := by
  intro c s w op hc hd hl
  cases c with
  | lastLoad => cases hc; exact lastLoad_undue hd (hl rfl)
  | ctxUnbindHall => cases hc; exact ctxUnbindHall_undue hd
  | dramDiagRead => cases hc; exact dramDiagRead_undue hd
  | _ =>
    cases hc
    all_goals exact congrArg Host.Outcome.next (runCmd_undue _ hd)

end Sys2Proof.Proofs
end

section
/-! Completing a command (O4): the bytes of the header and the data buffer, and the message to the window's owner (R484, R487, R489). -/

namespace Sys2Proof.Proofs

open Sys2Proof.Machine Sys2Proof.Laws

/-! ### A byte memory after a number is laid into it -/

section Memory

variable {m : List Host.Cell} (hm : Memory.wf m)

include hm

theorem rdNat_wrBytes_self {off n v : Nat} (hv : v < 256 ^ n) : rdNat (wrBytes m off (leBytes n v)) off n = v := by
  have hread := rdBytes_wrBytes_self m off (leBytes n v) hm
  rw [length_leBytes] at hread
  rw [rdNat, hread, leNat_leBytes, Nat.mod_eq_of_lt hv]

theorem rdNat_wrBytes_ne {off o n : Nat} {b : List Byte} (hd : o + n ≤ off ∨ off + b.length ≤ o) :
    rdNat (wrBytes m off b) o n = rdNat m o n :=
  congrArg leNat (rdBytes_wrBytes_ne m off o n b hm hd)

theorem getD_wrBytes_ne {off a : Nat} {b : List Byte} (ha : a < off ∨ off + b.length ≤ a) :
    NMap.getD (wrBytes m off b) a 0 = NMap.getD m a 0 := by
  rw [getD_wrBytes b m off a hm, if_neg (by omega)]

end Memory

/-! ### The header of a completed command (R484) -/

/-- A window's memory with STATUS, RES_LEN, DONE_TIME, DETAIL and the results in place. -/
def doneMem (m : List Host.Cell) (now st d : Nat) (r : List Byte) : List Host.Cell :=
  wrBytes (wrBytes (wrBytes (wrBytes (wrBytes m 0x43 (leBytes 1 st)) 0x4C (leBytes 4 r.length)) 0x58 (leBytes 8 now))
    0x60 (leBytes 4 d)) 0x1000 r

/-- Each field is written once and no later one overlaps it, so it reads as written; every other byte is as before. -/
theorem doneMem_reads {m : List Host.Cell} (hm : Memory.wf m) {now st d : Nat} {r : List Byte} (hst : st < 256) (hd : d < 2 ^ 32)
    (hnow : now < 2 ^ 64) (hr : r.length ≤ 0x40000) :
    let y := doneMem m now st d r
    rdNat y 0x43 1 = st ∧ rdNat y 0x4C 4 = r.length ∧ rdNat y 0x58 8 = now ∧ rdNat y 0x60 4 = d ∧ rdBytes y 0x1000 r.length = r ∧
      Memory.wf y ∧ ∀ a, ¬(a = 0x43 ∨ (0x4C ≤ a ∧ a < 0x50) ∨ (0x58 ≤ a ∧ a < 0x64) ∨ (0x1000 ≤ a ∧ a < 0x1000 + r.length)) →
        NMap.getD y a 0 = NMap.getD m a 0 := by
  have h1 := wf_wrBytes m 0x43 (leBytes 1 st) hm
  have h2 := wf_wrBytes _ 0x4C (leBytes 4 r.length) h1
  have h3 := wf_wrBytes _ 0x58 (leBytes 8 now) h2
  have h4 := wf_wrBytes _ 0x60 (leBytes 4 d) h3
  refine ⟨?_, ?_, ?_, ?_, rdBytes_wrBytes_self _ _ _ h4, wf_wrBytes _ _ _ h4, fun a ha => ?_⟩
  · rw [doneMem, rdNat_wrBytes_ne h4 (by simp), rdNat_wrBytes_ne h3 (by simp), rdNat_wrBytes_ne h2 (by simp), rdNat_wrBytes_ne h1 (by simp),
      rdNat_wrBytes_self hm hst]
  · rw [doneMem, rdNat_wrBytes_ne h4 (by simp), rdNat_wrBytes_ne h3 (by simp), rdNat_wrBytes_ne h2 (by simp), rdNat_wrBytes_self h1 (by omega)]
  · rw [doneMem, rdNat_wrBytes_ne h4 (by simp), rdNat_wrBytes_ne h3 (by simp), rdNat_wrBytes_self h2 (by omega)]
  · rw [doneMem, rdNat_wrBytes_ne h4 (by simp), rdNat_wrBytes_self h3 (by omega)]
  · rw [doneMem, getD_wrBytes_ne h4 (by omega), getD_wrBytes_ne h3 (by simp; omega), getD_wrBytes_ne h2 (by simp; omega),
      getD_wrBytes_ne h1 (by simp; omega), getD_wrBytes_ne hm (by simp; omega)]

/-! ### The completion (R489) -/

/-- Completing the command of an open window while Felti runs: the window without its command, then MBX_DONE where it is due. -/
theorem finishCmd_open {s : State} {n : Nat} {w : Win} (hw : s.win.get? n = some w) (hf : s.pwr.feltiOn = true) (hc : w.cls ≠ .closed)
    (st d : Nat) (res : List Byte) :
    let r := if st = stOk then res else []
    let t : State := { s with win := s.win.set n { w with mem := doneMem w.mem s.now st d r, busy := false, cmd := none } }
    finishCmd s n st d res =
      if w.notify && winPathUp s n w then winSay t n w (.mbxDone n (winOwner w) w.lastCseq st r.length) else t := by
  unfold finishCmd
  simp only [hf, if_true, hw, if_neg hc]
  rfl

/-- Settles O4: the fields by the memory's laws, the rest by the definition of the completion. -/
theorem completionWritesHeader : Obligations.CompletionWritesHeader := by
  intro s n st d res w hw hf hc hm hst hd hnow hlen r
  have hr : r.length ≤ 0x40000 := by
    by_cases hok : st = stOk <;> simp [r, hok, hlen]
  obtain ⟨hstatus, hlength, htime, hdetail, hdata, hwf, hkeeps⟩ := doneMem_reads hm hst hd hnow hr
  exact ⟨_, hstatus, hlength, htime, hdetail, hdata, hwf, hkeeps, finishCmd_open hw hf hc st d res⟩

end Sys2Proof.Proofs
end

section
/-! Rings (O5, O6): which ring is accepted, and what accepting it does (R488, R489, R490, R492, R495). -/

namespace Sys2Proof.Proofs

open Sys2Proof.Machine Sys2Proof.Laws

theorem modWin_of_get? {s : State} {n : Nat} {x : Win} (hx : s.win.get? n = some x) (f : Win → Win) :
    modWin s n f = { s with win := s.win.set n (f x) } := by
  unfold modWin
  rw [modify_of_get? hx]

/-! ### Which ring is accepted (R488) -/

section Ring

variable {s : State} {n : Nat} {x : Win} (hx : s.win.get? n = some x) (hr : x.ring = true) (hf : s.pwr.feltiOn = true)

include hx hr hf

/-- A ring is taken by its CSEQ first, then by BUSY. -/
theorem ringTake_rung : ringTake s n =
    if hdr x 4 4 = x.lastCseq then { s with win := s.win.set n { x with ring := false } }
    else if x.busy = true ∨ hdr x 4 4 ≠ (x.lastCseq + 1) % 2 ^ 32 then { s with win := s.win.set n { x with ring := false, overrun := true } }
    else acceptRing s n x := by
  unfold ringTake
  simp only [hx, hr, hf, Bool.true_eq_false, or_self, if_false, modWin_of_get? hx]

theorem ringTake_repeated (hc : hdr x 4 4 = x.lastCseq) : ringTake s n = { s with win := s.win.set n { x with ring := false } } :=
  (ringTake_rung hx hr hf).trans (if_pos hc)

theorem ringTake_overruns (hc : hdr x 4 4 ≠ x.lastCseq) (ho : x.busy = true ∨ hdr x 4 4 ≠ (x.lastCseq + 1) % 2 ^ 32) :
    ringTake s n = { s with win := s.win.set n { x with ring := false, overrun := true } } :=
  (ringTake_rung hx hr hf).trans ((if_neg hc).trans (if_pos ho))

theorem ringTake_accepts (hc : hdr x 4 4 ≠ x.lastCseq) (hb : x.busy = false) (hn : hdr x 4 4 = (x.lastCseq + 1) % 2 ^ 32) :
    ringTake s n = acceptRing s n x :=
  (ringTake_rung hx hr hf).trans ((if_neg hc).trans (if_neg (by simp [hb, hn])))

end Ring

/-- Settles O5, in the order in which Felti tells the rings apart. -/
theorem ringsFollowTheSequenceNumber : Obligations.RingsFollowTheSequenceNumber := fun _ _ _ hx hr hf =>
  ⟨fun hc => congrArg Host.Outcome.next (ringTake_repeated hx hr hf hc),
    fun hc ho => congrArg Host.Outcome.next (ringTake_overruns hx hr hf hc ho),
    fun hc hb hn => congrArg Host.Outcome.next (ringTake_accepts hx hr hf hc hb hn)⟩

/-! ### What accepting it does (R489, R492) -/

/-- The registers of windows 2 and up are not retained (R482). -/
theorem retainWin_volatile {n : Nat} (h2 : 2 ≤ n) (s : State) : retainWin s n = s := if_neg (by omega)

/-- The next number of a 32-bit sequence is another one. -/
theorem next_cseq_ne (c : Nat) : (c + 1) % 2 ^ 32 ≠ c := by omega

/-- Settles O6: the ring is accepted, and a window from 2 on retains nothing. -/
theorem acceptedRingIsCheckedOrRuns : Obligations.AcceptedRingIsCheckedOrRuns := by
  intro s n x hx hr hf h2 hb hn _
  have haccept := ringTake_accepts hx hr hf (fun e => next_cseq_ne _ (hn.symm.trans e)) hb hn
  refine congrArg Host.Outcome.next (haccept.trans ?_)
  unfold acceptRing
  simp only [retainWin_volatile h2]

end Sys2Proof.Proofs
end

section
/-! A window that is busy (O53): its header and data buffer take no write and are read all the same (R491). -/

namespace Sys2Proof.Proofs

open Sys2Proof.Machine Sys2Proof.Laws

/-! ### States that differ at most in how the table of windows is written down -/

/-- The header and the data buffer of a window (R481). -/
def heldAt (a : Nat) : Prop := (0x40 ≤ a ∧ a < 0x80) ∨ (0x1000 ≤ a ∧ a < 0x41000)

/-- Every window of `s` reads in `t` as it did, and everything but the windows is the same. -/
structure KeepsWindows (t s : State) : Prop where
  reads : ∀ m, t.win.get? m = s.win.get? m
  rest : { t with win := [] } = { s with win := [] }

theorem KeepsWindows.refl (s : State) : KeepsWindows s s := ⟨fun _ => rfl, rfl⟩

theorem KeepsWindows.trans {a b c : State} (h : KeepsWindows a b) (k : KeepsWindows b c) : KeepsWindows a c :=
  ⟨fun m => (h.reads m).trans (k.reads m), h.rest.trans k.rest⟩

/-- A window written back as it was. -/
theorem keepsWindows_set {s : State} {n : Nat} {x : Win} (hx : s.win.get? n = some x) :
    KeepsWindows { s with win := s.win.set n x } s := by
  refine ⟨fun m => ?_, rfl⟩
  dsimp only
  rw [get?_set]
  split
  next hm => rw [hm, hx]
  next => rfl

/-! ### Writes (R491) -/

section Busy

variable {x : Win} (hb : x.busy = true)

include hb

theorem winWrite_busy {s : State} {n : Nat} (hx : s.win.get? n = some x) {off : Nat} (ho : heldAt off) (v : Byte) :
    KeepsWindows (winWrite s n off v) s := by
  have hheader : ¬off < 0x40 := by unfold heldAt at ho; omega
  have hheld : off < 0x80 ∨ (0x1000 ≤ off ∧ off < 0x41000) := by unfold heldAt at ho; omega
  have hset : winWrite s n off v = { s with win := s.win.set n x } := by
    rw [winWrite, if_neg hheader, if_pos hheld, modWin_of_get? hx, if_pos hb]
  exact hset ▸ keepsWindows_set hx

theorem winWrites_busy {n : Nat} (data : List Byte) : ∀ {s : State} {off : Nat}, s.win.get? n = some x →
    (∀ i, i < data.length → heldAt (off + i)) → KeepsWindows (winWrites s n off data) s := by
  induction data with
  | nil => exact fun _ _ => .refl _
  | cons v rest ih =>
    intro s off hx ho
    have hfirst := winWrite_busy hb hx (ho 0 (by simp)) v
    refine (ih ((hfirst.reads n).trans hx) fun i hi => ?_).trans hfirst
    rw [Nat.add_assoc, Nat.add_comm 1]
    exact ho (i + 1) (by simpa using hi)

end Busy

/-! ### Messages that are taken up (R115, R142, R154) -/

@[simp] theorem learn_win (s : State) (ep port : Nat) : (learn s ep port).win = s.win := by
  unfold learn
  dsimp only
  split <;> rfl

@[simp] theorem learnPath_win (s : State) (path : Path) (src : Nat) : (learnPath s path src).win = s.win := by
  cases path with
  | port p => exact learn_win ..
  | session sid | ethernet | peer p => rfl

/-- A message keeps the windows when what it does once taken up keeps them: one not taken up at most counts. -/
theorem mbxTake_keeps {s : State} {path : Path} {src : Nat} {bad : Bool} {k : State → State}
    (hk : KeepsWindows (k (learnPath s path src)) (learnPath s path src)) :
    KeepsWindows (mbxTake s path src bad k) (mbxTake s path src bad id) := by
  unfold mbxTake
  split
  · exact .refl _
  split
  · exact .refl _
  split
  · exact .refl _
  · exact hk

theorem mbxTake_id_win (s : State) (path : Path) (src : Nat) (bad : Bool) : (mbxTake s path src bad id).win = s.win := by
  unfold mbxTake
  split
  · rfl
  split
  · cases pathPort s path <;> rfl
  split
  · rfl
  · exact learnPath_win ..

/-- A message that passes the three checks is taken up. -/
theorem mbxTake_taken {s : State} {path : Path} {src : Nat} {bad : Bool} (k : State → State)
    (hh : (pathPort s path).any (fun p => !heard s p true) = false) (hb : bad = false) (hd : (pathEp s path src).any (isDead s) = false) :
    mbxTake s path src bad k = k (learnPath s path src) := by
  unfold mbxTake
  rw [hh, hb, hd]
  rfl

/-! ### The two ways to write and to read (R500, R507) -/

/-- What an MBX_WRITE that is taken up writes. -/
def mbxWritten (path : Path) (b : List Byte) (s : State) : State :=
  if pathOk s path (mbxWin b) (mbxSrc b) then winWrites s (mbxWin b) (subNat b 6 4) (sub b 15 (subNat b 10 1)) else s

section BusyWindow

variable {s : State} {n : Nat} {x : Win} (hx : s.win.get? n = some x)

include hx

theorem mbxWrite_busy (hb : x.busy = true) {path : Path} {b : List Byte} (hw : mbxWin b = n)
    (ho : ∀ i, i < subNat b 10 1 → heldAt (subNat b 6 4 + i)) : ∃ t, exec (.mbxWrite path b) s = .next t ∧
      (∀ m, t.win.get? m = s.win.get? m) ∧ { t with win := [] } = { mbxTake s path (mbxSrc b) (mbxWriteBad b) id with win := [] } := by
  have hwritten : KeepsWindows (mbxWritten path b (learnPath s path (mbxSrc b))) (learnPath s path (mbxSrc b)) := by
    unfold mbxWritten
    split
    · exact winWrites_busy hb _ (by rw [learnPath_win, hw, hx]) fun i hi => ho i (by simpa [sub] using hi)
    · exact .refl _
  have hkeeps := mbxTake_keeps (bad := mbxWriteBad b) hwritten
  exact ⟨_, rfl, fun m => (hkeeps.reads m).trans (by rw [mbxTake_id_win]), hkeeps.rest⟩

theorem mbxRead_window {path : Path} {b : List Byte} (hh : (pathPort s path).any (fun p => !heard s p true) = false)
    (hr : mbxReadBad b = false) (hd : (pathEp s path (mbxSrc b)).any (isDead s) = false) (hw : mbxWin b = n)
    (ho : pathOk (learnPath s path (mbxSrc b)) path n (mbxSrc b) = true) : exec (.mbxRead path b) s =
      .next (readPieces (learnPath s path (mbxSrc b)) n x (subNat b 6 4) (subNat b 10 2) (subNat b 12 2)) := by
  refine congrArg Host.Outcome.next ((mbxTake_taken _ hh hr hd).trans ?_)
  subst hw
  simp only [learnPath_win, hx, ho, if_true]

end BusyWindow

theorem smbusBlockWrite_busy {s : State} {x : Win} (hx : s.win.get? 0 = some x) (hb : x.busy = true) {off : Nat} {data : List Byte}
    (pec : Bool) (ho : ∀ i, i < data.length → heldAt (off + i)) : ∃ t, exec (.smbusBlockWrite off data pec) s = .next t ∧
      (∀ m, t.win.get? m = s.win.get? m) ∧ { t with win := [] } = { s with win := [] } := by
  have hkeeps : KeepsWindows (if pec && decide (data.length ≤ 28) then winWrites s 0 off data else s) s := by
    split
    · exact winWrites_busy hb data hx ho
    · exact .refl s
  exact ⟨_, rfl, hkeeps.reads, hkeeps.rest⟩

theorem smbusBlockRead_eq {s : State} {x : Win} (hx : s.win.get? 0 = some x) (len : Nat) : exec (.smbusBlockRead len) s = .next { s with
    pwr := { s.pwr with smbPtr := (s.pwr.smbPtr + min len 32) % 2 ^ 32 }
    out := s.out ++ [.smbus (winBytes s 0 x s.pwr.smbPtr (min len 32))] } := by
  change execSmbusBlockRead len s = _
  unfold execSmbusBlockRead
  rw [hx]

/-- A byte of the header or the data buffer reads as the window holds it, BUSY or not. -/
theorem winByte_held {a : Nat} (ha : heldAt a) (s : State) (n : Nat) (x : Win) : winByte s n x a = NMap.getD x.mem a 0 := by
  unfold heldAt at ha
  rw [winByte, if_neg (by omega), if_pos (by omega)]

/-- Settles O53: writes leave a busy window, reads do not ask whether it is busy. -/
theorem busyWindowKeepsItsBytes : Obligations.BusyWindowKeepsItsBytes := by
  intro s n x hx hb
  refine ⟨fun _ _ hw ho => mbxWrite_busy hx hb hw ho, ?blockWrite, fun _ _ hh hr hd hw ho => mbxRead_window hx hh hr hd hw ho, ?blockRead,
    ?bytes⟩
  case blockWrite =>
    rintro off data pec rfl ho
    exact smbusBlockWrite_busy hx hb pec ho
  case blockRead =>
    rintro len rfl
    exact smbusBlockRead_eq hx len
  case bytes =>
    intro t off len i hi ha
    rw [winBytes, List.getElem?_map, List.getElem?_range hi, Option.map_some, winByte_held ha]

end Sys2Proof.Proofs
end

section
/-! The window rows (O7): register bytes, dispatch, bounds, alert intervals and FELTI_TICK, one lemma per case of each row's definition
(R482, R483, R490, R492, R497, R505). -/

namespace Sys2Proof.Proofs

open Sys2Proof.Machine Sys2Proof.Laws

/-! ### Bytes of the register block (R482, R483, R490) -/

theorem windowRegisterWrite_block {off : Nat} (ho : off < 0x40) (n : Nat) (v : Byte) (s : State) :
    exec (.windowRegisterWrite n off v) s = .next (regWrite s n off v) := congrArg Host.Outcome.next (if_pos ho)

/-- The bytes of RO and reserved fields. -/
theorem regWrite_readOnly {off : Nat} (h6 : off ≠ 6) (h24 : off ≠ 24) (h25 : off ≠ 25) (h32 : off ≠ 32) (s : State) (n : Nat) (v : Byte) :
    regWrite s n off v = s := by
  unfold regWrite
  split
  · exact absurd rfl h6
  · exact absurd rfl h24
  · exact absurd rfl h25
  · exact absurd rfl h32
  · rfl

theorem windowRegisterWrite_readOnly {off : Nat} (h6 : off ≠ 6) (h24 : off ≠ 24) (h25 : off ≠ 25) (h32 : off ≠ 32) (s : State) (n : Nat)
    (v : Byte) : exec (.windowRegisterWrite n off v) s = .next s :=
  congrArg Host.Outcome.next ((congrArg (ite (off < 0x40) · s) (regWrite_readOnly h6 h24 h25 h32 s n v)).trans (ite_self s))

section Window

variable {s : State} {n : Nat} {x : Win} (hx : s.win.get? n = some x)

include hx

theorem ringWrite_eq : exec (.ringWrite n) s = .next { s with win := s.win.set n { x with ring := true } } :=
  congrArg Host.Outcome.next (modWin_of_get? hx _)

theorem alertStatusClear_eq (b : BitVec 8) : exec (.alertStatusClear n b) s =
    .next (smbUpdate { s with win := s.win.set n { x with alertStatus := x.alertStatus &&& ~~~b } }) :=
  congrArg (Host.Outcome.next <| smbUpdate ·) (modWin_of_get? hx _)

section Volatile

variable (h2 : 2 ≤ n) (v : Byte)

include h2

theorem windowRegisterWrite_flags : exec (.windowRegisterWrite n 6 v) s = .next { s with win := s.win.set n { x with
    notify := v.getLsbD 1, alertEn := v.getLsbD 2, overrun := x.overrun && !v.getLsbD 3 } } := by
  rw [windowRegisterWrite_block (by decide), ← modWin_of_get? hx fun w => { w with
    notify := v.getLsbD 1, alertEn := v.getLsbD 2, overrun := w.overrun && !v.getLsbD 3 }]
  exact congrArg Host.Outcome.next (retainWin_volatile h2 _)

theorem windowRegisterWrite_mask : exec (.windowRegisterWrite n 25 v) s = .next (smbUpdate { s with win := s.win.set n { x with
    alertMask := if x.cls = .host then (x.alertMask &&& 0xCF) ||| (v &&& 0x30) else v } }) := by
  rw [windowRegisterWrite_block (by decide), ← modWin_of_get? hx fun w => { w with
    alertMask := if w.cls = .host then (w.alertMask &&& 0xCF) ||| (v &&& 0x30) else v }]
  exact congrArg (Host.Outcome.next <| smbUpdate ·) (retainWin_volatile h2 _)

end Volatile

/-! ### Dispatch and bounds (R492) -/

section Command

variable {c : Cmd} (hc : x.cmd = some c) (hf : s.pwr.feltiOn = true)

include hc hf

/-- The command that has waited longest executes while fewer than 64 do. -/
theorem commandDispatch_first (he : c.executing = false) (h64 : executing s < 64)
    (ho : (s.win.any fun e => e.2.cmd.any fun d => !d.executing && decide (d.order < c.order)) = false) :
    exec (.commandDispatch n) s = .next { s with win := s.win.set n { x with cmd := some { c with executing := true } } } := by
  refine congrArg Host.Outcome.next ?_
  unfold commandDispatch
  simp only [hx, hc, Option.bind_some, he, ho, hf, Nat.not_le.2 h64, Bool.false_eq_true, Bool.true_eq_false, or_self, if_false]
  exact modWin_of_get? hx _

variable {i : CmdInfo} (hi : cmdInfo c.op = some i) (hop : c.op ≠ 0x0B02) (hb : c.accept + i.bound ≤ s.now)

include hi hop hb

/-- At its bound a command ends by whether it has begun, and whether its drain ends it. -/
theorem commandBound_reached : commandBound s n = if c.begun = false then finishCmd s n stBusy 0 []
    else if drainBound c.op = true then s else finishCmd (dropWindow s n) n stTimeout 0 [] := by
  unfold commandBound
  simp only [hx, hc, Option.bind_some, hi, if_neg hop, Option.map_some, Option.getD_some, Nat.not_lt.2 hb, hf, Bool.true_eq_false, or_self,
    if_false]

theorem commandBoundExpiry_notBegun (hn : c.begun = false) : exec (.commandBoundExpiry n) s = .next (finishCmd s n stBusy 0 []) :=
  congrArg Host.Outcome.next ((commandBound_reached hx hc hf hi hop hb).trans (if_pos hn))

theorem commandBoundExpiry_begun (hn : c.begun = true) (hd : drainBound c.op = false) :
    exec (.commandBoundExpiry n) s = .next (finishCmd (dropWindow s n) n stTimeout 0 []) :=
  congrArg Host.Outcome.next ((commandBound_reached hx hc hf hi hop hb).trans ((if_neg (by simp [hn])).trans (if_neg (by simp [hd]))))

end Command

/-! ### Alert intervals (R505) -/

section Interval

variable {cls : Nat} {g : AlertGap} (hg : (x.gaps.find? fun g => g.cls = cls) = some g) (ht : ms 1 + g.since ≤ s.now)

include hg ht

theorem alertHoldoffExpiry_ends (h0 : g.count = 0) : exec (.alertHoldoffExpiry n cls) s =
    .next { s with win := s.win.set n { x with gaps := x.gaps.filter fun y => y.cls ≠ cls } } := by
  refine congrArg Host.Outcome.next ?_
  unfold alertHoldoff
  simp only [hx, hg, Nat.not_lt.2 ht, if_false, h0, true_or, if_true]

theorem alertHoldoffExpiry_sends (h0 : g.count ≠ 0) (he : x.alertEn = true) (hp : winPathUp s n x = true) :
    exec (.alertHoldoffExpiry n cls) s = .next (winSay { s with win := s.win.set n { x with
      gaps := (x.gaps.filter fun y => y.cls ≠ cls) ++ [{ cls := cls, since := s.now }] } } n x
        (.alert n (winOwner x) cls g.time g.count g.event g.cursor)) := by
  refine congrArg Host.Outcome.next ?_
  unfold alertHoldoff
  simp only [hx, hg, Nat.not_lt.2 ht, if_false, h0, he, hp, Bool.true_eq_false, or_self, if_true]

end Interval

end Window

/-! ### The rows together -/

/-- Settles O7, row by row. -/
theorem windowRowsComplete : Obligations.WindowRowsComplete := by
  refine ⟨fun s n x hx => ⟨ringWrite_eq hx, alertStatusClear_eq hx, fun h2 v => ⟨windowRegisterWrite_flags hx h2 v,
    windowRegisterWrite_mask hx h2 v, fun off h6 h24 h25 h32 => windowRegisterWrite_readOnly h6 h24 h25 h32 s n v⟩, ?command, ?interval⟩,
    fun s hf => congrArg Host.Outcome.next (if_pos hf)⟩
  case command =>
    intro c hc hf
    exact ⟨commandDispatch_first hx hc hf, fun i hi hop hb =>
      ⟨commandBoundExpiry_notBegun hx hc hf hi hop hb, commandBoundExpiry_begun hx hc hf hi hop hb⟩⟩
  case interval =>
    intro cls g hg ht
    exact ⟨alertHoldoffExpiry_ends hx hg ht, alertHoldoffExpiry_sends hx hg ht⟩

end Sys2Proof.Proofs
end

section
/-! The SMBus rows (O10): transactions, the checks of SMBALERT_N and the end of a console unlock (R482, R506, R507, R523, R601, R603). -/

namespace Sys2Proof.Proofs

open Sys2Proof.Machine Sys2Proof.Laws

/-! ### Transactions (R507, R601) -/

/-- A block write of legal length stands or falls with its PEC. -/
theorem smbusBlockWrite_eq {data : List Byte} (hl : data.length ≤ 28) (off : Nat) (pec : Bool) (s : State) :
    exec (.smbusBlockWrite off data pec) s = .next (if pec = true then winWrites s 0 off data else s) := by
  refine congrArg Host.Outcome.next ?_
  rw [decide_eq_true hl, Bool.and_true]

/-! ### SMBALERT_N (R506, R603) -/

/-- A line that stays at the level it is not driven to, for the time of that level, is an event when none was ever recorded. -/
theorem smbalertStuckCheck_first {s : State} {low : Bool} (hlow : low = !s.pwr.smbAlertLow)
    (ht : (if low then sec 1 else ms 10) + s.pwr.smbLineSince ≤ s.now) (hn : s.pwr.smbStuckAt = none) :
    exec (.smbalertStuckCheck low) s = .next (event { s with pwr := { s.pwr with smbStuckAt := some s.now } }
      .smbalertStuck (srcInput 3) none none 0 [(0, 1, b2n s.pwr.smbAlertLow)]) := by
  refine congrArg Host.Outcome.next (if_pos ?_)
  cases hdriven : s.pwr.smbAlertLow with
  | false =>
    rw [hdriven] at hlow
    subst hlow
    simp only [hn, Bool.not_false, decide_eq_true (show sec 1 + s.pwr.smbLineSince ≤ s.now from ht), Bool.and_self, Bool.true_or]
  | true =>
    rw [hdriven] at hlow
    subst hlow
    simp only [hn, Bool.not_true, Bool.not_false, decide_eq_true (show ms 10 + s.pwr.smbLineSince ≤ s.now from ht), Bool.and_self,
      Bool.or_true]

theorem smbalertHoldoffExpiry_due {s : State} {t : Nat} (hr : s.pwr.smbReleasedAt = some t) (ht : ms 10 + t ≤ s.now) :
    exec .smbalertHoldoffExpiry s = .next (smbUpdate { s with pwr := { s.pwr with smbReleasedAt := none } }) := by
  refine congrArg Host.Outcome.next ?_
  simp only [hr, if_pos ht]

theorem consoleUnlockExpiry_due {s : State} {t : Nat} (hu : s.pwr.consoleUntil = some t) (ht : t ≤ s.now) :
    exec .consoleUnlockExpiry s = .next { s with pwr := { s.pwr with consoleUntil := none } } := by
  refine congrArg Host.Outcome.next ?_
  simp only [hu, if_pos ht]

/-! ### The rows together -/

/-- Settles O10, row by row. -/
theorem smbusRowsComplete : Obligations.SmbusRowsComplete := by
  refine ⟨fun s off data hl => ⟨smbusBlockWrite_eq hl off true s, smbusBlockWrite_eq hl off false s, rfl, rfl⟩, ?read,
    fun s => ⟨rfl, rfl⟩, fun s low => smbalertStuckCheck_first, fun s t => smbalertHoldoffExpiry_due, fun s t => consoleUnlockExpiry_due⟩
  case read =>
    intro s n w hw hn
    rw [smbusBlockRead_eq hw, Nat.min_eq_left hn]
    rfl

end Sys2Proof.Proofs
end

section
/-! The recorder and the dumps (O33): one lemma per case of each command's body and each row (R521, R606, R608, R610 to R612, R617). -/

namespace Sys2Proof.Proofs

open Sys2Proof.Machine Sys2Proof.Laws Sys2Proof.Safety

/-! ### REC_TRIGGER_SET (R606) -/

/-- The state with a trigger set and its count of matches begun again. -/
def triggerSet (s : State) (x : Win) : State := { s with evr := { s.evr with
  triggers := s.evr.triggers.set (x.arg 0 1) (triggerOf (x.bytes 8 56)), matches_ := s.evr.matches_.erase (x.arg 0 1) } }

section Trigger

variable {s : State} {x : Win} (hpad : x.arg 1 7 = 0) (hctl : subNat (x.bytes 8 56) 0 1 < 16) (hhall : bits (subNat (x.bytes 8 56) 10 2) 12 3 = 0)
  (htenant : bits (subNat (x.bytes 8 56) 12 2) 12 3 = 0) (hpad2 : subNat (x.bytes 8 56) 14 2 = 0) (hthr : subNat (x.bytes 8 56) 32 4 ≠ 0)
  (hset : subNat (x.bytes 8 56) 40 4 < 32) (hpad3 : subNat (x.bytes 8 56) 44 12 = 0)

include hpad hctl hhall htenant hpad2 hthr hset hpad3

theorem recTriggerSetBody_legal : recTriggerSetBody s x = retain s (triggerSet s x) fun u => good u := by
  unfold recTriggerSetBody
  dsimp only
  rw [guardArg_badArg]
  · rfl
  · simp [hpad, Nat.not_le.2 hctl, hhall, htenant, hpad2, hthr, Nat.not_le.2 hset, hpad3]

end Trigger

/-! ### REC_READ (R611) -/

/-- Does the caller of a window see a record? -/
def seesRecord (x : Win) (r : Record) : Bool := decide (x.cls ≠ .tenant) || decide (r.tenant = some x.owner)

/-- The readable records from the cursor a REC_READ names on. -/
def recordsFrom (s : State) (x : Win) : List Record := (readable s).filter fun r => decide (x.arg 0 8 ≤ r.cursor)

/-- The result bytes of a REC_READ: NEXT, the number of bytes, and the records. -/
def readResult (s : State) (x : Win) : List Byte :=
  let got := readFrom (seesRecord x) (recordsFrom s x) (x.arg 0 8) (x.arg 8 4) []
  leBytes 8 got.1 ++ leBytes 4 got.2.length ++ leBytes 4 0 ++ got.2

section RecRead

variable {s : State} {x : Win} {bad : List Nat} (hlo : 64 ≤ x.arg 8 4) (hhi : x.arg 8 4 ≤ 131072)

include hlo hhi

/-- A limit in range is met by the first record the caller sees, or refused. -/
theorem recReadBody_eq : recReadBody bad s x = match (recordsFrom (spoilRecs s bad) x).find? (seesRecord x) with
    | some r => if x.arg 8 4 < 64 * r.len then fail (spoilRecs s bad) stBadArg (64 * r.len)
      else good (spoilRecs s bad) (readResult (spoilRecs s bad) x)
    | none => good (spoilRecs s bad) (readResult (spoilRecs s bad) x) := by
  unfold recReadBody
  dsimp only
  rw [guardArg_badArg _ (by simp [inRange, hlo, hhi])]
  rfl

theorem recReadBody_tooSmall {r : Record} (hr : (recordsFrom (spoilRecs s bad) x).find? (seesRecord x) = some r)
    (hm : x.arg 8 4 < 64 * r.len) : recReadBody bad s x = fail (spoilRecs s bad) stBadArg (64 * r.len) := by
  rw [recReadBody_eq hlo hhi, hr]
  exact if_pos hm

theorem recReadBody_reads (hr : ∀ r, (recordsFrom (spoilRecs s bad) x).find? (seesRecord x) = some r → 64 * r.len ≤ x.arg 8 4) :
    recReadBody bad s x = good (spoilRecs s bad) (readResult (spoilRecs s bad) x) := by
  rw [recReadBody_eq hlo hhi]
  cases hfirst : (recordsFrom (spoilRecs s bad) x).find? (seesRecord x) with
  | none => rfl
  | some r => exact if_neg (Nat.not_lt.2 (hr r hfirst))

end RecRead

/-! ### DUMP_READ, DUMP_CLEAR (R617) -/

section Dump

variable {s : State} {x : Win} {d : Dump} (hd : s.dump.entries.get? (x.arg 0 1) = some d)

include hd

theorem dumpReadBody_busy (hz : x.arg 1 7 = 0) (hw : dumpState s (x.arg 0 1) d = 4) : dumpReadBody s x = fail s stBusy 0 := by
  unfold dumpReadBody
  dsimp only
  rw [hd]
  simp only [hz, hw, firstFail, ne_eq, not_true, decide_false, decide_true, Bool.false_eq_true, if_false, if_true, guardArg_some]

theorem dumpReadBody_reads (hz : x.arg 1 7 = 0) (hw : dumpState s (x.arg 0 1) d ≠ 4)
    (ho : x.arg 8 8 ≤ if d.fullLen = 0 then d.summary.length else d.fullLen) (hl : x.arg 16 4 ≤ 131072) : dumpReadBody s x =
      good s (if d.fullLen = 0 then (d.summary.drop (x.arg 8 8)).take (x.arg 16 4) else ownBytes s (2 ^ 30 * x.arg 0 1 + x.arg 8 8)
        (min (x.arg 16 4) ((if d.fullLen = 0 then d.summary.length else d.fullLen) - x.arg 8 8))) := by
  unfold dumpReadBody
  dsimp only
  rw [hd]
  dsimp only
  rw [guardArg_firstFail]
  simp only [List.forall_mem_cons]
  exact ⟨decide_eq_false (not_not_intro hz), decide_eq_false hw, decide_eq_false (Nat.not_lt.2 ho), decide_eq_false (Nat.not_lt.2 hl), nofun⟩

theorem dumpClearBody_frees : dumpClearBody s x = retain s { s with dump := { s.dump with
    entries := s.dump.entries.erase (x.arg 0 1)
    current := if s.dump.current = some (x.arg 0 1) then none else s.dump.current } } fun u => good u := by
  unfold dumpClearBody
  rw [guardArg_badArg _ (by simp [hd])]

end Dump

/-! ### The recorder's own rows (R608, R610) -/

theorem runClose_due {s : State} {e src h : Nat} {r : Run} (hr : (s.evr.runs.find? fun r => decide (r.event = e ∧ r.source = src) &&
    (decide (r.hall = some h) || r.hall.isNone) && decide (ms 1 + r.lastAt ≤ s.now ∨ sec 1 + r.openedAt ≤ s.now)) = some r) :
    exec (.runClose e src h) s = .next (closeRun s r) := by
  refine congrArg Host.Outcome.next ?_
  rw [hr]

theorem segmentCopy_copies {s : State} (hf : s.pwr.feltiOn = true) (hk : s.evr.segs < s.evr.units / segUnits)
    (hm : ownMay s (copyBase + s.evr.segs % copySegs * 2 ^ 20) segUnits = true) : segmentCopy s =
      { ownStore s (copyBase + s.evr.segs % copySegs * 2 ^ 20) 7 (bytesLines (segBytes s.evr s.evr.segs)) with evr := { s.evr with
        segs := s.evr.segs + 1
        copyStalled := s.evr.copyStalled && decide (s.evr.segs + 1 < s.evr.units / segUnits)
        recs := s.evr.recs.filter fun r => decide ((s.evr.segs + 1 - copySegs) * segUnits ≤ r.pos) } } :=
  if_neg (by simpa [hf, Nat.not_le.2 hk] using hm)

/-! ### The rows together -/

/-- Settles O33, row by row. The ring over starts and NEXT of an empty REC_READ are the model's reading (log 75), as is hall 4095's store
(log 92). -/
theorem recorderAndDumpRowsComplete : Obligations.RecorderAndDumpRowsComplete := by
  refine ⟨?trigger, fun s w x hd => congrArg Host.Outcome.next (runCmd_good hd rfl), ?read,
    fun s w x hd => congrArg Host.Outcome.next (runCmd_good hd rfl), ?dumpRead, ?dumpClear, fun s e src h r => runClose_due,
    fun s hf hk hm => congrArg Host.Outcome.next (segmentCopy_copies hf hk hm)⟩
  case trigger =>
    intro s w x hd ⟨hm, hw⟩ b hpad hctl hhall htenant hpad2 hthr hset hpad3
    exact congrArg Host.Outcome.next
      (runRetained_commits hd hm (recTriggerSetBody_legal hpad hctl hhall htenant hpad2 hthr hset hpad3) hw)
  case read =>
    intro s₀ w x bad hd hlo hhi
    refine ⟨fun r hr hm => ?_, fun hr => ?_⟩
    · exact congrArg Host.Outcome.next ((runCmd_due _ hd).trans (congrArg (settle w) (recReadBody_tooSmall hlo hhi hr hm)))
    · exact congrArg Host.Outcome.next (runCmd_good hd (recReadBody_reads hlo hhi hr))
  case dumpRead =>
    intro s w x d hd he hz
    exact ⟨fun hw => congrArg Host.Outcome.next (runCmd_fail hd (dumpReadBody_busy he hz hw)),
      fun hw ho hl => congrArg Host.Outcome.next (runCmd_good hd (dumpReadBody_reads he hz hw ho hl))⟩
  case dumpClear =>
    intro s w x d hd ⟨hm, hw⟩ he
    exact congrArg Host.Outcome.next (runRetained_commits hd hm (dumpClearBody_frees he) hw)

end Sys2Proof.Proofs
end

section
/-! The pair's commands (O39): one lemma per case of each command's body (R522, R554, R556, R564, R569, R571, R577). -/

namespace Sys2Proof.Proofs

open Sys2Proof.Machine Sys2Proof.Laws Sys2Proof.Safety

/-! ### PAIR_SET (R522, R556) -/

/-- Does PAIR_SET name the number, side and partner in force? -/
def samePair (s : State) (x : Win) : Bool :=
  decide (x.arg 0 4 = s.pair.cfg.number ∧ x.arg 4 1 = s.pair.cfg.side ∧ x.arg 8 48 = s.pair.cfg.partnerId)

/-- ENABLE in force, and the pair's identity kept for the next cold start. -/
def pairWritten (s : State) (x : Win) : State := { s with pair := { s.pair with
  cfg := { s.pair.cfg with enable := decide (x.arg 5 1 = 1) }
  next := if samePair s x then none else some (x.arg 0 4, x.arg 4 1, x.arg 8 48) } }

section PairSet

variable {s : State} {x : Win}

theorem pairSetBody_side (h : 1 < x.arg 4 1) : pairSetBody s x = fail s stBadArg 4 := by
  unfold pairSetBody
  dsimp only
  rw [decide_eq_true h]
  rfl

variable (hside : x.arg 4 1 ≤ 1)

include hside

theorem pairSetBody_enable (h : 1 < x.arg 5 1) : pairSetBody s x = fail s stBadArg 5 := by
  unfold pairSetBody
  dsimp only
  rw [decide_eq_false (Nat.not_lt.2 hside), decide_eq_true h]
  rfl

theorem pairSetBody_legal (henable : x.arg 5 1 ≤ 1) (hpad : x.arg 6 2 = 0) : pairSetBody s x = retain s (pairWritten s x) fun u =>
    good (enableChange u s.pair.cfg.enable (decide (x.arg 5 1 = 1)))
      (pairRecord (enableChange u s.pair.cfg.enable (decide (x.arg 5 1 = 1)))) := by
  unfold pairSetBody
  dsimp only
  rw [guardArg_badArg]
  · rfl
  simp only [List.forall_mem_cons]
  exact ⟨decide_eq_false (Nat.not_lt.2 hside), decide_eq_false (Nat.not_lt.2 henable), decide_eq_false (not_not_intro hpad), nofun⟩

end PairSet

/-! ### PAIR_SWAP (R577) -/

/-- The swap a PAIR_SWAP asks for: its AT, its window, and since when. -/
def swapAsked (s : State) (w : Nat) (x : Win) : State := { s with pair := { s.pair with swap := some (x.arg 0 8, w, s.now) } }

section PairSwap

variable {s : State} {w : Nat} {x : Win}

theorem pairSwapBody_inactive (hr : s.pair.role ≠ .active) : pairSwapBody w s x = fail s stNotActive := if_pos hr

variable (hr : s.pair.role = .active)

include hr

theorem pairSwapBody_inProgress (hs : s.pair.swap.isSome = true) : pairSwapBody w s x = fail s stBusy :=
  (if_neg (not_not_intro hr)).trans (if_pos hs)

/-- The resynchronisation starts at once where it may, and anew where one runs. -/
theorem pairSwapBody_starts (hs : s.pair.swap = none) : pairSwapBody w s x = goesOn (
    if resyncDue (swapAsked s w x) = true ∨ (swapAsked s w x).pair.sync = .resyncing then startResync (swapAsked s w x)
    else swapAsked s w x) := by
  refine (if_neg (not_not_intro hr)).trans ((if_neg (by simp [hs])).trans (congrArg goesOn ?_))
  change (if resyncDue (swapAsked s w x) = true ∧ (swapAsked s w x).pair.sync ≠ .resyncing then startResync (swapAsked s w x)
    else if (swapAsked s w x).pair.sync = .resyncing then startResync (swapAsked s w x) else swapAsked s w x) = _
  by_cases hsync : (swapAsked s w x).pair.sync = .resyncing
  · rw [if_neg fun ⟨_, hidle⟩ => hidle hsync, if_pos hsync, if_pos (.inr hsync)]
  · simp only [hsync, ne_eq, not_false_eq_true, and_true, or_false, if_false]

end PairSwap

/-! ### The commands together -/

/-- Settles O39, command by command. ENABLE in force at once is the model's reading (log 47), as are the fields that read as written (log
71) and the statuses of PAIR_SWAP and PEER_SYNC out of role (log 79). -/
theorem pairCommandsComplete : Obligations.PairCommandsComplete := by
  refine ⟨fun s w x hd => congrArg Host.Outcome.next (runCmd_good hd rfl), fun s w x hd => congrArg Host.Outcome.next (runCmd_good hd rfl),
    ?set, ?swap, ?sync⟩
  case set =>
    intro s w x hd ⟨hm, hw⟩
    exact ⟨fun h => congrArg Host.Outcome.next (runRetained_fail _ hd (pairSetBody_side h) (by decide)),
      fun hside h => congrArg Host.Outcome.next (runRetained_fail _ hd (pairSetBody_enable hside h) (by decide)),
      fun hside henable hpad => congrArg Host.Outcome.next (runRetained_commits hd hm (pairSetBody_legal hside henable hpad) hw)⟩
  case swap =>
    intro s w x hd
    exact ⟨fun hr => congrArg Host.Outcome.next (runCmd_fail hd (pairSwapBody_inactive hr)),
      fun hr hs => congrArg Host.Outcome.next (runCmd_fail hd (pairSwapBody_inProgress hr hs)),
      fun hr hs => congrArg Host.Outcome.next (runCmd_goesOn hd (pairSwapBody_starts hr hs))⟩
  case sync =>
    intro s w x recs hd
    exact ⟨fun hr => congrArg Host.Outcome.next (runCmd_good hd (if_neg (not_not_intro hr))),
      fun hr => congrArg Host.Outcome.next (runCmd_fail hd (if_pos hr))⟩

end Sys2Proof.Proofs
end

section
/-! The power inputs (O36): one lemma per case of each row's definition (R525, R526, R528, R530 to R532). -/

namespace Sys2Proof.Proofs

open Sys2Proof.Machine

/-! ### Losses declared (R525, R526) -/

theorem inputUndervoltage_eq (s : State) (dv : Nat) : exec (.inputUndervoltage dv) s =
    .next (if dv < 3600 then declareLoss { s with hw := { s.hw with inputDv := dv } } 1 else s) := by
  refine congrArg Host.Outcome.next ?_
  simp only [← Nat.not_lt, ite_not]
  rfl

theorem inputOvervoltage_eq (s : State) (dv : Nat) : exec (.inputOvervoltage dv) s = .next (if 4300 < dv
    then declareLoss { s with hw := { s.hw with inputDv := dv }, pwr := { s.pwr with ovp := true } } 2 else s) := by
  refine congrArg Host.Outcome.next ?_
  simp only [← Nat.not_lt, ite_not]
  rfl

/-! ### The end of a loss (R528, R531, R532) -/

/-- An input within 380 V to 420 V is back as it stands. -/
theorem inputBack_inRange {s : State} (hlo : 3800 ≤ s.hw.inputDv) (hhi : s.hw.inputDv ≤ 4200) : inputBack s = s := if_pos ⟨hlo, hhi⟩

section Loss

variable {s : State} {c t : Nat} (hl : s.pwr.loss = some (c, t))

include hl

theorem powerLossRailsDown_due (hd : s.pwr.lossRailsDown = false) (ht : ms 12 + t ≤ s.now) : exec .powerLossRailsDown s =
    .next (modPwr (railsOff (holdDies s)) fun p => { p with
      railTries := 0, railRetryAt := none, lossRailsDown := true, starting := false, stage := 0
      resetStuck := false, resetHits := false }) := by
  refine congrArg Host.Outcome.next ?_
  simp only [hl, hd, Nat.not_lt.2 ht, Bool.false_eq_true, or_self, if_false]

variable (hd : s.pwr.lossRailsDown = true) (hp : s.pwr.pfailN = true) (ht : sec 1 + (ms 12 + t) ≤ s.now)

include hd hp ht

theorem lossOver_due : lossOver s = true := by
  unfold lossOver
  rw [hd, hp, hl]
  exact decide_eq_true ht

variable (hlo : 3800 ≤ s.hw.inputDv) (hhi : s.hw.inputDv ≤ 4200)

include hlo hhi

theorem powerLossRestart_due (ho : s.pwr.ovp = false) : exec .powerLossRestart s = .next (restartCold s) := by
  refine congrArg Host.Outcome.next ((if_pos ⟨lossOver_due hl hd hp ht, ho⟩).trans ?_)
  rw [inputBack_inRange hlo hhi]

/-- A power stage stopped on an overvoltage restarts first, and the rails with it. -/
theorem overvoltageRestart_due (ho : s.pwr.ovp = true) :
    exec .overvoltageRestart s = .next (restartCold { s with pwr := { s.pwr with ovp := false } }) := by
  have hstopped : ¬(s.pwr.ovp = false ∨ (s.pwr.loss.isSome = true ∧ s.pwr.lossRailsDown = false)) := by simp [ho, hd]
  refine congrArg Host.Outcome.next ((if_neg hstopped).trans ?_)
  rw [inputBack_inRange hlo hhi]
  exact if_pos (lossOver_due hl hd hp ht)

end Loss

/-- A restart that the power stage holds back. -/
theorem powerLossRestart_stopped {s : State} (ho : s.pwr.ovp = true) : exec .powerLossRestart s = .next s :=
  congrArg Host.Outcome.next (if_neg (by simp [ho]))

/-! ### A low input (R526) -/

/-- The lowest voltage since the event before, this one among them. -/
def lowestInput (s : State) (dv : Nat) : Nat := if s.pwr.lastLow.isNone = true ∨ s.pwr.lowest = 0 then dv else min dv s.pwr.lowest

/-- The state with a low input noted. -/
def lowNoted (s : State) (dv : Nat) : State :=
  { s with hw := { s.hw with inputDv := dv }, pwr := { s.pwr with lowest := lowestInput s dv } }

/-- Between 360 V and 380 V with the main rails up, the event waits until a minute has passed since the last. -/
theorem inputLow_eq {s : State} {dv : Nat} (hlo : 3600 ≤ dv) (hhi : dv < 3800) (hr : s.pwr.rails = 10) : exec (.inputLow dv) s =
    .next (if (s.pwr.lastLow.any fun t => decide (s.now < sec 60 + t)) = true then lowNoted s dv
      else event (modPwr (lowNoted s dv) fun p => { p with lastLow := some s.now, lowest := 0 }) .inputLow srcModule none none 0
        [(0, 2, lowestInput s dv)]) :=
  congrArg Host.Outcome.next (if_neg (by omega))

/-! ### The rows together -/

/-- Settles O36, row by row. -/
theorem powerInputRowsComplete : Obligations.PowerInputRowsComplete := by
  refine ⟨fun _ => rfl, fun _ => rfl, inputUndervoltage_eq, inputOvervoltage_eq, fun _ => rfl, fun s c t => powerLossRailsDown_due, ?restart,
    ?low⟩
  case restart =>
    intro s c t hl hd hp ht hlo hhi
    exact ⟨powerLossRestart_due hl hd hp ht hlo hhi,
      fun ho => ⟨powerLossRestart_stopped ho, overvoltageRestart_due hl hd hp ht hlo hhi ho⟩⟩
  case low =>
    intro s dv hlo hhi hr
    rw [inputLow_eq hlo hhi hr]
    exact ⟨fun h => congrArg Host.Outcome.next (if_pos h), fun h => congrArg Host.Outcome.next (if_neg (by simp [h]))⟩

end Sys2Proof.Proofs
end

section
/-! Requests on their arrival (O48): how `arrive` ends for a home that does not serve the sender and for one that refuses the message, and
what a request row does with each end (R5, R45 to R48, R108, R109, R115, R121, R151, R154, R555). -/

namespace Sys2Proof.Proofs

open Sys2Proof.Machine Sys2Proof.Laws

/-! ### A home that does not serve its sender (R154, R555) -/

section NotServing

variable {s : State} {port ep : Nat} (hh : heard s port false = true)

include hh

theorem arrive_standby (hr : s.pair.role = .standby) (tag hid epoch kind line : Nat) (rsvd : Bool) :
    arrive s port tag ep hid epoch kind line rsvd =
      .over { s with pair := { s.pair with discarded := satAdd 32 s.pair.discarded 1 } } :=
  (if_neg (by simp [hh])).trans (if_pos hr)

variable (hr : s.pair.role ≠ .standby)

include hr

theorem arrive_stopped (h : s.pair.role = .fenced ∨ s.pwr.diesHeld = true) (tag hid epoch kind line : Nat) (rsvd : Bool) :
    arrive s port tag ep hid epoch kind line rsvd = .over s :=
  (if_neg (by simp [hh])).trans ((if_neg hr).trans (if_pos h))

variable (hf : s.pair.role ≠ .fenced) (hd : s.pwr.diesHeld = false)

include hf hd

theorem arrive_dead (hl : isDead s ep = true) (tag hid epoch kind line : Nat) (rsvd : Bool) :
    arrive s port tag ep hid epoch kind line rsvd = .over s :=
  (if_neg (by simp [hh])).trans ((if_neg hr).trans ((if_neg (by simp [hf, hd])).trans (if_pos hl)))

theorem arrive_quiescing (hl : isDead s ep = false) (hq : s.pwr.quiesceSince.isSome = true) (tag hid epoch kind line : Nat) (rsvd : Bool) :
    arrive s port tag ep hid epoch kind line rsvd = .over (answerNote (learn s ep port) port ep tag .timeout) :=
  (if_neg (by simp [hh])).trans ((if_neg hr).trans ((if_neg (by simp [hf, hd])).trans ((if_neg (by simp [hl])).trans (if_pos hq))))

end NotServing

/-! ### A home that serves it and takes no tracker (R108, R121, R151) -/

/-- A message refused without a tracker is counted in BUDGET_DENY of its port (R108). -/
def budgetDenied (s : State) (port ep tag : Nat) : State :=
  answerNote (modPort (learn s ep port) port fun q => { q with budgetDeny := satAdd 32 q.budgetDeny 1 }) port ep tag .denied

section Serving

variable {s : State} {port ep : Nat} (hs : Served s port ep) {tag hid epoch : Nat} (kind line : Nat)

include hs

theorem arrive_otherEpoch (he : epoch ≠ s.homeEpoch) :
    arrive s port tag ep hid epoch kind line false = .over (answerNote (learn s ep port) port ep tag .epoch) :=
  (arrive_served hs ..).trans (if_pos he)

variable (he : epoch = s.homeEpoch)

include he

theorem arrive_reissue {v : Tracker} (hf : s.home.trackers.get? (trkKey ep tag) = some v) :
    arrive s port tag ep hid epoch kind line false = .reissue (learn s ep port) v := by
  rw [arrive_served hs]
  simp only [he, hf, ne_eq, not_true_eq_false, Bool.false_eq_true, if_false]

variable (hf : s.home.trackers.get? (trkKey ep tag) = none)

include hf

theorem arrive_noEntry (ha : aclOf s hid ep = none) :
    arrive s port tag ep hid epoch kind line false = .noEntry (budgetDenied s port ep tag) := by
  rw [arrive_served hs]
  simp only [he, hf, ha, ne_eq, not_true_eq_false, Bool.false_eq_true, if_false]
  rfl

theorem arrive_overBudget {a : AclEntry} (ha : aclOf s hid ep = some a) (hc : a.inForce ≤ charged s hid ep) :
    arrive s port tag ep hid epoch kind line false = .over (budgetDenied s port ep tag) := by
  rw [arrive_served hs]
  simp only [he, hf, ha, hc, ne_eq, not_true_eq_false, Bool.false_eq_true, if_false, if_true]
  rfl

end Serving

/-! ### The request rows (R45 to R48, R162, R165) -/

/-- The arrival of a request: its tracker's line is that of the hall as it was. -/
def requestArrival (s : State) (m : ReqMsg) (bad : Bool) (r : Req) : Arrival :=
  arrive s m.port m.tag m.src m.hall m.epoch (kindCode r.kind) (((s.halls.get? m.hall).map fun h => lineOf h m.offset).getD 0) bad

/-- What a request does with the end of its arrival: one that takes a tracker meets the request-context check and, of a welt, the check of
its handle (R46, R165). -/
def requestEnd (m : ReqMsg) (r : Req) : Arrival → State
  | .over u | .noEntry u => u
  | .reissue u v => reissued u r m.port m.tag v
  | .taken u =>
    if passes u r.kind m.hall m.offset m.src m.ctx = false then completeCode u r .denied
    else if isWelt r ∧ (m.ctx.isSome = true ∨ (openOf u r).isNone = true) then completeCode u r .denied
    else enqueue u r

theorem request_eq (s : State) (m : ReqMsg) (bad : Bool) (r : Req) :
    request s m bad r = requestEnd m r (requestArrival s m bad r) := by
  unfold request requestArrival
  dsimp only
  generalize arrive _ _ _ _ _ _ _ _ _ = a
  cases a <;> rfl

theorem requestEnd_queued {u : State} {m : ReqMsg} {r : Req} (hp : passes u r.kind m.hall m.offset m.src m.ctx = true)
    (hw : isWelt r = true → m.ctx = none ∧ (openOf u r).isSome = true) : requestEnd m r (.taken u) = enqueue u r := by
  refine (if_neg (by simp [hp])).trans (if_neg ?_)
  rintro ⟨hr, hctx | hopen⟩
  · simp [(hw hr).1] at hctx
  · exact absurd (hw hr).2 (by simp [Option.isNone_iff_eq_none.1 hopen])

theorem requestEnd_refused {u : State} {m : ReqMsg} {r : Req} (hp : passes u r.kind m.hall m.offset m.src m.ctx = false ∨
    (isWelt r = true ∧ (m.ctx.isSome = true ∨ openOf u r = none))) : requestEnd m r (.taken u) = completeCode u r .denied := by
  rcases hp with hp | ⟨hr, ho⟩
  · exact if_pos hp
  · refine ite_eq_left_iff.2 fun _ => if_pos ⟨hr, ?_⟩
    simpa using ho

/-- The request rows of a message, each with its request, its reserved forms, and what follows it: a welt access serves what the welts it
meets release. -/
abbrev requestRows (m : ReqMsg) : List (Instr × Req × Bool × (State → State)) :=
  [(.rdS m, reqOf .rdS m, m.bad 1, id), (.rdX m, reqOf .rdX m, m.bad 2, id), (.rdNa m, reqOf .rdNa m, m.bad 3, id),
    (.upg m, reqOf .upg m, m.bad 4, id), (.wrFull m, { reqOf .wrFull m with d := m.line }, m.bad 5, id),
    (.wrPart m, { reqOf .wrPart m with d := m.line, mask := m.mask }, m.bad 6, id), (.amo m, amoReq m, amoBad m, id),
    (.wltRd m, { reqOf .wltRd m with handle := m.handle }, m.bad 0x11, settleTier),
    (.wltWr m, { reqOf .wltWr m with handle := m.handle }, m.bad 0x12, settleTier)]

theorem exec_request {s : State} {m : ReqMsg} {c : Instr} {r : Req} {bad : Bool} {f : State → State}
    (hc : (c, r, bad, f) ∈ requestRows m) : exec c s = .next (f (request s m bad r)) := by
  simp only [List.mem_cons, List.not_mem_nil, or_false, Prod.mk.injEq] at hc
  rcases hc with ⟨rfl, rfl, rfl, rfl⟩ | ⟨rfl, rfl, rfl, rfl⟩ | ⟨rfl, rfl, rfl, rfl⟩ | ⟨rfl, rfl, rfl, rfl⟩ | ⟨rfl, rfl, rfl, rfl⟩ |
    ⟨rfl, rfl, rfl, rfl⟩ | ⟨rfl, rfl, rfl, rfl⟩ | ⟨rfl, rfl, rfl, rfl⟩ | ⟨rfl, rfl, rfl, rfl⟩ <;> rfl

/-- Settles O48: the rows are one function of the message's arrival. That an offset not of a line is a reserved field is the model's
reading (log 18). -/
theorem requestRowsComplete : Obligations.RequestRowsComplete := by
  intro s m c r bad f _ hc
  have row {a : Arrival} {u : State} (ha : requestArrival s m bad r = a) (hu : requestEnd m r a = u := by rfl) :
      exec c s = .next (f u) := by
    rw [exec_request hc, request_eq, ha, hu]
  have notStandby (h : s.pair.role = .fenced ∨ (s.pair.role ≠ .standby ∧ s.pwr.diesHeld = true)) : s.pair.role ≠ .standby := by
    rcases h with hf | ⟨hr, _⟩
    · simp [hf]
    · exact hr
  refine ⟨fun hh => row (arrive_unheard hh ..), fun hh => ⟨fun hr => row (arrive_standby hh hr ..),
    fun h => row (arrive_stopped hh (notStandby h) (h.imp_right And.right) ..),
    fun hr hf hd => ⟨fun hl => row (arrive_dead hh hr hf hd hl ..), fun hl hq => row (arrive_quiescing hh hr hf hd hl hq ..),
      fun hl hq => ?served⟩⟩⟩
  case served =>
    have hs : Served s m.port m.src := ⟨hh, hr, hf, hd, hl, hq⟩
    refine ⟨?reserved, ?otherEpoch, ?current⟩
    case reserved =>
      rintro rfl
      exact row (arrive_reserved hs ..)
    case otherEpoch =>
      rintro rfl he
      exact row (arrive_otherEpoch hs _ _ he)
    case current =>
      rintro rfl he
      refine ⟨fun v hv => row (arrive_reissue hs _ _ he hv), fun hv => ⟨fun ha => row (arrive_noEntry hs _ _ he hv ha),
        fun a ha => ⟨fun hc => row (arrive_overBudget hs _ _ he hv ha hc), fun hc => ?taken⟩⟩⟩
      have ht := arrive_taken hs he hv ha hc (kindCode r.kind) (((s.halls.get? m.hall).map fun h => lineOf h m.offset).getD 0)
      exact ⟨fun hp hw => row ht (requestEnd_queued hp hw), fun hp => row ht (requestEnd_refused hp)⟩

end Sys2Proof.Proofs
end

section
/-! Messages of the WLT channel (O51): what a message that takes its tracker meets, and what becomes of a COMMIT or ABORT by the state of the
welt its handle names (R47, R50, R108, R115, R121, R164 to R167, R170, R185, R186, R195, R196, R202). -/

namespace Sys2Proof.Proofs

open Sys2Proof.Machine Sys2Proof.Laws

/-! ### Arrival (R47, R108, R115, R164) -/

/-- Learning a port leaves the welts, the clock and what they need alone. -/
@[simp] theorem learn_welt (s : State) (ep port : Nat) : (learn s ep port).welt = s.welt := by
  rcases learn_eq_or s ep port with h | h <;> rw [h] <;> rfl

@[simp] theorem learn_clk (s : State) (ep port : Nat) : (learn s ep port).clk = s.clk := by
  rcases learn_eq_or s ep port with h | h <;> rw [h] <;> rfl

theorem wltArrive_unheard {s : State} {m : WltMsg} (hh : heard s m.port false = false) (code : Nat) (k : State → State) :
    wltArrive s m code k = s := by
  unfold wltArrive
  simp only [arrive_unheard hh]

theorem wltArrive_reserved {s : State} {m : WltMsg} (hs : Served s m.port m.ep) {code : Nat} (hb : m.bad code = true) (k : State → State) :
    wltArrive s m code k = answerNote (countBad (learn s m.ep m.port) m.port) m.port m.ep m.tag .denied := by
  unfold wltArrive
  simp only [hb, arrive_reserved hs]

/-- The state once a WLT message has taken its tracker. -/
def wltTracked (s : State) (m : WltMsg) (code : Nat) : State :=
  tracked s m.port m.tag m.ep { hall := m.hall, kind := code, port := m.port }

section Tracked

variable (s : State) (m : WltMsg) (code : Nat)

@[simp] theorem wltTracked_welt : (wltTracked s m code).welt = s.welt := learn_welt ..
@[simp] theorem wltTracked_now : (wltTracked s m code).now = s.now := congrArg Clock.master (learn_clk ..)
@[simp] theorem wltTracked_homeEpoch : (wltTracked s m code).homeEpoch = s.homeEpoch := congrArg Pair.homeEpoch (learn_pair ..)
@[simp] theorem wltTracked_weltAt (k : Nat) : weltAt (wltTracked s m code) k = weltAt s k := by simp [weltAt]

end Tracked

section Taken

variable {s : State} {m : WltMsg} {a : AclEntry} (hs : Served s m.port m.ep) (he : m.epoch = s.homeEpoch)
  (hf : s.home.trackers.get? (trkKey m.ep m.tag) = none) (ha : aclOf s m.hall m.ep = some a) (hc : charged s m.hall m.ep < a.inForce)
  {code : Nat} (hb : m.bad code = false) (k : State → State)

include hs he hf ha hc hb

/-- A message that takes its tracker is dealt with in a hall that takes requests when its sender holds WELT there (R47, R164). -/
theorem wltArrive_taken : wltArrive s m code k =
    if hallTakes (wltTracked s m code) m.hall 0 = true ∧ a.rights.welt = true then k (wltTracked s m code)
    else wltDenied (wltTracked s m code) m := by
  have hr : rightsOf (wltTracked s m code) m.hall m.ep = some a.rights := by
    unfold rightsOf aclOf at *
    rw [show (wltTracked s m code).acl = s.acl from learn_acl .., ha]
    rfl
  unfold wltArrive
  rw [hb, arrive_taken hs he hf ha hc]
  change (if (hallTakes (wltTracked s m code) m.hall 0 && (rightsOf (wltTracked s m code) m.hall m.ep).any fun a => a.welt) = true
    then k (wltTracked s m code) else wltDenied (wltTracked s m code) m) = _
  simp only [hr, Bool.and_eq_true, Option.any_some]

theorem wltArrive_denied (h : hallTakes (wltTracked s m code) m.hall 0 = false ∨ a.rights.welt = false) :
    wltArrive s m code k = wltDenied (wltTracked s m code) m :=
  (wltArrive_taken hs he hf ha hc hb k).trans (if_neg fun hk => by rcases h with h | h <;> simp [h] at hk)

theorem wltArrive_dealt (ht : hallTakes (wltTracked s m code) m.hall 0 = true) (hw : a.rights.welt = true) :
    wltArrive s m code k = k (wltTracked s m code) :=
  (wltArrive_taken hs he hf ha hc hb k).trans (if_pos ⟨ht, hw⟩)

end Taken

/-! ### A handle (R165, R170, R185, R196) -/

/-- A welt that is not open past its time stays as it is (R170). -/
theorem weltLate_eq {s : State} {slot : Nat} (h : (weltAt s slot).st ≠ .open_ ∨ s.now < (weltAt s slot).openedAt + (weltAt s slot).tmo) :
    weltLate s slot = s :=
  if_neg fun ⟨ho, hl⟩ => h.elim (· ho) fun h => absurd hl (Nat.not_le.2 h)

/-- What a request on a handle that fits welt `w` comes to, by the welt's state; `k` takes an open one. -/
def onState (s : State) (m : WltMsg) (k : State → Nat → Welt → State) (w : Welt) : State :=
  match w.st with
  | .free => if w.status = 0 then wltDenied s m else endAgain s m w.status
  | .aborting => if w.asked then setWelt s (m.handle % 4096) { w with waitTags := w.waitTags ++ [(m.port, m.tag)] }
    else endAgain s m w.status
  | .committing => setWelt s (m.handle % 4096) { w with waitTags := w.waitTags ++ [(m.port, m.tag)] }
  | .open_ => k s (m.handle % 4096) w

section Handle

variable {s : State} {m : WltMsg} (k : State → Nat → Welt → State) {w : Welt} (hw : weltAt s (m.handle % 4096) = w)

include hw

theorem onWelt_unfit (hf : handleFits w m.handle m.ep m.hall = false) : onWelt s m k = wltDenied s m := by
  subst hw
  simp only [onWelt, hf, Bool.false_eq_true, if_false, if_true]

variable (hf : handleFits w m.handle m.ep m.hall = true)

include hf

theorem onWelt_fits (hl : w.st ≠ .open_ ∨ s.now < w.openedAt + w.tmo) : onWelt s m k = onState s m k w := by
  subst hw
  simp only [onWelt, hf, if_true, weltLate_eq hl, Bool.true_eq_false, if_false]
  rfl

/-- An ended welt whose status was delivered is as good as none (R196). -/
theorem onWelt_over (hst : w.st = .free) (h0 : w.status = 0) : onWelt s m k = wltDenied s m := by
  rw [onWelt_fits k hw hf (.inl (by simp [hst]))]
  simp only [onState, hst, h0, if_true]

theorem onWelt_ended (hst : w.st = .free) (h0 : w.status ≠ 0) : onWelt s m k = endAgain s m w.status := by
  rw [onWelt_fits k hw hf (.inl (by simp [hst]))]
  simp only [onState, hst, h0, if_false]

theorem onWelt_aborted (hst : w.st = .aborting) (ha : w.asked = false) : onWelt s m k = endAgain s m w.status := by
  rw [onWelt_fits k hw hf (.inl (by simp [hst]))]
  simp only [onState, hst, ha, Bool.false_eq_true, if_false]

/-- A request on a welt that its owner has asked to end waits for the end (R185, R196). -/
theorem onWelt_ending (hst : w.st = .committing ∨ (w.st = .aborting ∧ w.asked = true)) :
    onWelt s m k = setWelt s (m.handle % 4096) { w with waitTags := w.waitTags ++ [(m.port, m.tag)] } := by
  rw [onWelt_fits k hw hf (.inl (by rcases hst with h | ⟨h, _⟩ <;> simp [h]))]
  rcases hst with hst | ⟨hst, ha⟩
  · simp only [onState, hst]
  · simp only [onState, hst, ha, if_true]

theorem onWelt_open (hst : w.st = .open_) (hl : s.now < w.openedAt + w.tmo) : onWelt s m k = k s (m.handle % 4096) w := by
  rw [onWelt_fits k hw hf (.inr hl)]
  simp only [onState, hst]

end Handle

/-! ### The rows together -/

/-- A COMMIT of an open welt (R185, R186). -/
def commitOpen (m : WltMsg) (bad : List (Nat × Nat)) (s : State) (slot : Nat) (w : Welt) : State :=
  if m.persist ∧ (s.halls.get? m.hall).all (fun h => h.cls ≠ .persistent) = true then
    wltAnswer s m.port m.ep m.tag fun p => .wltEnd p m.ep m.tag m.hall m.handle false false stBadArg 0 s.homeEpoch
  else commitStart (setWelt s slot { w with
    st := .committing, asked := true, port := m.port, tag := m.tag, persist := m.persist, phase := .collect, phaseAt := s.now, bad := bad }) slot

/-- An ABORT of an open welt (R195). -/
def abortOpen (m : WltMsg) (s : State) (slot : Nat) (w : Welt) : State :=
  abortWelt (setWelt s slot { w with asked := true, port := m.port, tag := m.tag }) slot stOk false

theorem wltCommit_eq (s : State) (m : WltMsg) (bad : List (Nat × Nat)) :
    wltCommit s m bad = settleTier (wltArrive s m 0x13 fun s => onWelt s m (commitOpen m bad)) := rfl

theorem wltAbort_eq (s : State) (m : WltMsg) : wltAbort s m = settleTier (wltArrive s m 0x14 fun s => onWelt s m (abortOpen m)) := rfl

/-- An open that its hall's level allows, by AGE and AGE_LIMIT (R50, R166, R167). -/
def openChecked (m : WltMsg) (s : State) : State :=
  if (s.halls.get? m.hall).all ownerFwd then wltDenied s m
  else if s.welt.age < s.welt.ageLimit then openWelt s m
  else if s.welt.limitFailed then wltAnswer s m.port m.ep m.tag fun p => .wltEnd p m.ep m.tag m.hall 0 false false stFault 0 s.homeEpoch
  else { s with welt := { s.welt with waiting := s.welt.waiting ++ [(m, s.now, ((s.halls.get? m.hall).map fun h => h.epoch).getD 0)] } }

theorem wltOpen_eq (s : State) (m : WltMsg) : wltOpen s m = wltArrive s m 0x10 (openChecked m) := rfl

section Open

variable {s : State} {m : WltMsg} {h : Hall} (hh : s.halls.get? m.hall = some h)

include hh

theorem openChecked_ownerFwd (ho : ownerFwd h = true) : openChecked m s = wltDenied s m := by
  unfold openChecked
  simp only [hh, Option.all_some, ho, if_true]

variable (ho : ownerFwd h = false)

include ho

theorem openChecked_below (ha : s.welt.age < s.welt.ageLimit) : openChecked m s = openWelt s m := by
  unfold openChecked
  simp only [hh, Option.all_some, ho, Bool.false_eq_true, if_false, ha, if_true]

variable (ha : s.welt.ageLimit ≤ s.welt.age)

include ha

theorem openChecked_failed (hf : s.welt.limitFailed = true) : openChecked m s =
    wltAnswer s m.port m.ep m.tag fun p => .wltEnd p m.ep m.tag m.hall 0 false false stFault 0 s.homeEpoch := by
  unfold openChecked
  simp only [hh, Option.all_some, ho, Bool.false_eq_true, if_false, Nat.not_lt.2 ha, hf, if_true]

theorem openChecked_waits (hf : s.welt.limitFailed = false) : openChecked m s =
    { s with welt := { s.welt with waiting := s.welt.waiting ++ [(m, s.now, h.epoch)] } } := by
  unfold openChecked
  simp only [hh, Option.all_some, ho, Bool.false_eq_true, if_false, Nat.not_lt.2 ha, hf, Option.map_some, Option.getD_some]

end Open

section Commit

variable {s : State} {m : WltMsg} {h : Hall} (hh : s.halls.get? m.hall = some h) (bad : List (Nat × Nat)) (slot : Nat) (w : Welt)

include hh

theorem commitOpen_notPersistent (hp : m.persist = true) (hc : h.cls ≠ .persistent) : commitOpen m bad s slot w =
    wltAnswer s m.port m.ep m.tag fun p => .wltEnd p m.ep m.tag m.hall m.handle false false stBadArg 0 s.homeEpoch :=
  if_pos ⟨hp, by simpa [hh] using hc⟩

theorem commitOpen_starts (hp : m.persist = false ∨ h.cls = .persistent) : commitOpen m bad s slot w =
    commitStart (setWelt s slot { w with
      st := .committing, asked := true, port := m.port, tag := m.tag, persist := m.persist, phase := .collect, phaseAt := s.now, bad := bad })
      slot :=
  if_neg fun ⟨hpersist, hall⟩ => by rcases hp with hp | hp <;> simp [hh, hp] at hpersist hall

end Commit

/-- A row of the WLT channel: its opcode, what it does with a message that passes its checks, and what follows. -/
structure WltRow (m : WltMsg) (code : Nat) (c : Instr) (f : State → State) (k : State → State) : Prop where
  exec : ∀ s, exec c s = .next (f (wltArrive s m code k))

theorem wltRow_open (m : WltMsg) : WltRow m 0x10 (.wltOpen m) id (openChecked m) := ⟨fun _ => rfl⟩
theorem wltRow_commit (m : WltMsg) (bad : List (Nat × Nat)) :
    WltRow m 0x13 (.wltCommit m bad) settleTier fun s => onWelt s m (commitOpen m bad) := ⟨fun _ => rfl⟩
theorem wltRow_abort (m : WltMsg) : WltRow m 0x14 (.wltAbort m) settleTier fun s => onWelt s m (abortOpen m) := ⟨fun _ => rfl⟩

/-- Settles O51, row by row. -/
theorem weltMessageRowsComplete : Obligations.WeltMessageRowsComplete := by
  refine ⟨?unserved, ?served⟩
  case unserved =>
    intro s m bad e he
    obtain ⟨k, row⟩ : ∃ k, WltRow m e.1 e.2.1 e.2.2 k := by
      simp only [List.mem_cons, List.not_mem_nil, or_false] at he
      rcases he with rfl | rfl | rfl <;> dsimp only
      · exact ⟨_, wltRow_open m⟩
      · exact ⟨_, wltRow_commit m bad⟩
      · exact ⟨_, wltRow_abort m⟩
    rw [row.exec]
    exact ⟨fun hh => by rw [wltArrive_unheard hh], fun hh hst hfe hr hl hq hb => by rw [wltArrive_reserved ⟨hh, hst, hfe, hr, hl, hq⟩ hb]⟩
  case served =>
    intro s m bad a h hh hep hst hfe hr hl hq hf ha hc hhall t u
    have hs : Served s m.port m.ep := ⟨hh, hst, hfe, hr, hl, hq⟩
    have denied {code : Nat} {c : Instr} {f k} (row : WltRow m code c f k) (hb : m.bad code = false)
        (hd : hallTakes (u 0) m.hall 0 = false ∨ a.rights.welt = false) : exec c s = .next (f (wltDenied (u code) m)) := by
      rw [row.exec, wltArrive_denied hs hep hf ha hc hb k hd]
      rfl
    have dealt {code : Nat} {c : Instr} {f k} (row : WltRow m code c f k) (hb : m.bad code = false)
        (ht : hallTakes (u 0) m.hall 0 = true) (hw : a.rights.welt = true) {v : State} (hv : k (wltTracked s m code) = v) :
        exec c s = .next (f v) := by
      rw [row.exec, wltArrive_dealt hs hep hf ha hc hb k ht hw, hv]
    refine ⟨denied (wltRow_open m), denied (wltRow_commit m bad), denied (wltRow_abort m), fun hb ht hw => ?opens, fun ht hw => ?handles⟩
    case opens =>
      have row {v : State} (hv : openChecked m (wltTracked s m 0x10) = v) := dealt (wltRow_open m) hb ht hw hv
      have hh' : (wltTracked s m 0x10).halls.get? m.hall = some h := hhall
      have hwelt := wltTracked_welt s m 0x10
      refine ⟨fun ho => row (openChecked_ownerFwd hh' ho), fun ho => ⟨fun hag => row (openChecked_below hh' ho (by rwa [hwelt])),
        fun hag hfl => row ((openChecked_failed hh' ho (by rwa [hwelt]) (by rwa [hwelt])).trans ?_),
        fun hag hfl => row ((openChecked_waits hh' ho (by rwa [hwelt]) (by rwa [hwelt])).trans ?_)⟩⟩
      · rw [wltTracked_homeEpoch]
        rfl
      · rw [hwelt, wltTracked_now]
        rfl
    case handles =>
      intro e he hb j w
      obtain ⟨k, row, hk⟩ : ∃ k, WltRow m e.1 e.2 settleTier (fun s => onWelt s m k) ∧
          (e.1 = 0x13 ∧ k = commitOpen m bad ∨ e.1 = 0x14 ∧ k = abortOpen m) := by
        simp only [List.mem_cons, List.not_mem_nil, or_false] at he
        rcases he with rfl | rfl <;> dsimp only
        · exact ⟨_, wltRow_commit m bad, .inl ⟨rfl, rfl⟩⟩
        · exact ⟨_, wltRow_abort m, .inr ⟨rfl, rfl⟩⟩
      have row {v : State} (hv : onWelt (wltTracked s m e.1) m k = v) : exec e.2 s = .next (settleTier v) := dealt row hb ht hw hv
      have hj : weltAt (wltTracked s m e.1) (m.handle % 4096) = w := wltTracked_weltAt ..
      refine ⟨fun hf => row (onWelt_unfit k hj hf), fun hf => ⟨fun hst h0 => row (onWelt_over k hj hf hst h0),
        fun hst h0 => row (onWelt_ended k hj hf hst h0), fun hst hd => row (onWelt_aborted k hj hf hst hd),
        fun hst => row (onWelt_ending k hj hf hst), fun hst hl => ?_⟩⟩
      have row {v : State} (hv : k (wltTracked s m e.1) j w = v) : exec e.2 s = .next (settleTier v) :=
        row ((onWelt_open k hj hf hst (by rwa [wltTracked_now])).trans hv)
      rcases hk with ⟨hcode, rfl⟩ | ⟨hcode, rfl⟩
      · rw [hcode] at row
        have hh' : (wltTracked s m 0x13).halls.get? m.hall = some h := hhall
        refine ⟨fun _ hp hcls => row ((commitOpen_notPersistent hh' bad j w hp hcls).trans ?_),
          fun _ hp => row ((commitOpen_starts hh' bad j w hp).trans ?_), fun h14 => absurd (hcode.symm.trans h14) (by decide)⟩
        · rw [wltTracked_homeEpoch]
          rfl
        · rw [wltTracked_now]
          rfl
      · rw [hcode] at row
        exact ⟨fun h13 => absurd (hcode.symm.trans h13) (by decide), fun h13 => absurd (hcode.symm.trans h13) (by decide), fun _ => row rfl⟩

end Sys2Proof.Proofs
end

section
/-! The ordering point, the bounds of the home slices and the walk after a death (O50): one lemma per end of each row (R130, R152, R153, R155 to
R158, R164, R167, R178, R574). -/

namespace Sys2Proof.Proofs

open Sys2Proof.Machine Sys2Proof.Laws

/-! ### The ordering point (R128 to R130, R574) -/

/-- Is a back-invalidation of the line out (R129)? -/
def leavingLine (s : State) (line : Nat) : Bool := s.home.snoops.any fun x => decide (x.1.line = line) && (match x.2 with
  | .victimOf _ => true
  | _ => false)

section OrderingPoint

variable {s : State} {line : Nat}

theorem activate_stands (h : (lineCtl s line).active.isSome = true ∨ leavingLine s line = true ∨ s.now < s.home.recoveryEnd ∨
    s.pwr.diesHeld = true ∨ s.pair.role = .fenced) : activate s line = s :=
  if_pos h

/-- The line's queue moves: the welts it meets are dealt with, then the request that goes next is looked for. -/
theorem activate_moves (ha : (lineCtl s line).active = none) (hv : leavingLine s line = false) (hw : s.home.recoveryEnd ≤ s.now)
    (hd : s.pwr.diesHeld = false) (hf : s.pair.role ≠ .fenced) : activate s line =
      let u := meet s line
      let c := lineCtl u line
      match pickReq u line c.fifo with
      | none => u
      | some i => match c.fifo[i]? with
        | none => u
        | some r => takeUp (setLine u line { c with fifo := c.fifo.eraseIdx i }) line r := by
  refine if_neg ?_
  rintro (h | h | h | h | h)
  · simp [ha] at h
  · exact absurd (h.symm.trans hv) (by decide)
  · exact absurd h (Nat.not_lt.2 hw)
  · simp [hd] at h
  · exact hf h

end OrderingPoint

/-! ### The walk after a death (R155 to R157) -/

/-- The state once the entries that name the endpoint have been looked at. -/
def walked (s : State) (ep : Nat) : State := settleTier (s.home.dir.foldl (fun s e => resolveEntry s e.1 ep) s)

/-- Does an entry still name the endpoint, or can one of its requests or writebacks still make one? -/
def stillNames (t : State) (ep : Nat) : Bool :=
  (t.home.dir.any fun e => decide (e.2.owner = some ep) || (e.2.coarse.isNone && e.2.ptrs.contains ep)) ||
    ((t.home.lines.any fun e => e.2.active.any fun a => a.req.mute && decide (a.req.ep = ep)) ||
      t.home.wbHeld.any fun x => x.mute && decide (x.ep = ep))

/-- The walk's end, with its event (R157). -/
def walkEnded (t : State) (ep : Nat) : State :=
  event { t with eps := t.eps.set ep { epInfo t ep with walking := false, dead := !(epInfo t ep).upAgain } } .orphanWalkDone srcSlices none
    none ep [(0, 4, (epInfo t ep).poisoned), (4, 4, (epInfo t ep).reverted), (8, 4, (epInfo t ep).removed)]

theorem orphanWalk_idle {s : State} {ep : Nat} (h : (epInfo s ep).walking = false ∨ s.pwr.feltiOn = false) : orphanWalk s ep = s := if_pos h

theorem orphanWalk_walks {s : State} {ep : Nat} (hw : (epInfo s ep).walking = true) (hf : s.pwr.feltiOn = true) :
    orphanWalk s ep = if stillNames (walked s ep) ep = true then walked s ep else walkEnded (walked s ep) ep := by
  unfold orphanWalk walked stillNames walkEnded
  rw [if_neg (by simp [hw, hf])]

section Walking

variable {s t : State} {ep : Nat} (hw : (epInfo s ep).walking = true) (hf : s.pwr.feltiOn = true) (ht : t = walked s ep)

include hw hf ht

theorem orphanWalk_goesOn (hn : stillNames t ep = true) : orphanWalk s ep = t := by
  rw [orphanWalk_walks hw hf, ← ht, if_pos hn]

theorem orphanWalk_ends (hn : stillNames t ep = false) : orphanWalk s ep = walkEnded t ep := by
  rw [orphanWalk_walks hw hf, ← ht, if_neg (ne_true_of_eq_false hn)]

end Walking

/-! ### The ordering bound (R158, R164, R167, R178, R574) -/

section OrderingBound

variable {s : State} {line ep tag : Nat}

/-- Is a request of the line's queue the one named, its bound over? -/
def queuedLate (s : State) (ep tag : Nat) (r : Req) : Bool := decide (r.ep = ep ∧ reqTag r = tag) && orderingDue s r.at_

/-- Is a WLT_OPEN that waits for AGE_LIMIT the one named, its bound over? -/
def openLate (s : State) (ep tag : Nat) (x : WltMsg × Nat × Nat) : Bool :=
  decide (x.1.ep = ep ∧ x.1.tag = tag) && orderingDue s x.2.1

theorem orderingBound_queued {i : Nat} {r : Req} (hi : (lineCtl s line).fifo.findIdx? (queuedLate s ep tag) = some i)
    (hr : (lineCtl s line).fifo[i]? = some r) : orderingBound s line ep tag =
      completeCode (setLine s line { lineCtl s line with fifo := (lineCtl s line).fifo.eraseIdx i }) r .timeout := by
  unfold queuedLate at hi
  unfold orderingBound
  simp only [hi, hr]

variable (hq : (lineCtl s line).fifo.findIdx? (queuedLate s ep tag) = none)

include hq

theorem orderingBound_open {i t : Nat} {m : WltMsg} (hi : s.welt.waiting.findIdx? (openLate s ep tag) = some i)
    {e : Nat} (hm : s.welt.waiting[i]? = some (m, t, e)) : orderingBound s line ep tag =
      wltAnswer { s with welt := { s.welt with waiting := s.welt.waiting.eraseIdx i } } m.port ep tag
        fun p => .wltEnd p ep tag m.hall 0 false false stTimeout 0 s.homeEpoch := by
  unfold queuedLate at hq
  unfold openLate at hi
  unfold orderingBound
  simp only [hq, hi, hm]

theorem orderingBound_none (hw : s.welt.waiting.findIdx? (openLate s ep tag) = none) : orderingBound s line ep tag = s := by
  unfold queuedLate at hq
  unfold openLate at hw
  unfold orderingBound
  simp only [hq, hw]

end OrderingBound

/-! ### The tier bound (R158, R216) -/

/-- Data to be sent again for a line, its tier bound over. -/
def resendLate (s : State) (line : Nat) (x : Resend) : Bool := decide (x.req.line = line ∧ ms 16 + x.since ≤ s.now)

/-- The state once the data to be sent again has timed out. -/
def resendsTimedOut (s : State) (line : Nat) : State :=
  (s.home.resends.filter (resendLate s line)).foldl (fun s x => completeCode s x.req .timeout)
    { s with home := { s.home with resends := s.home.resends.filter fun x => !resendLate s line x } }

/-- A transaction in the tier phase times out; the data a WR_FULL's snoops collected is stored. -/
def tierTimedOut (t : State) (line : Nat) (a : Active) (hid : Nat) (h : Hall) : State :=
  let u := completeCode (endActive t line) a.req .timeout
  settleTier (match a.req.kind, a.got with
    | .wrFull, some d => storeLine u hid h line d (reqSub u a.req) (reqSvc a.req)
    | _, _ => u)

section TierBound

variable {s : State} {line : Nat}

theorem tierBound_none (ha : (lineCtl (resendsTimedOut s line) line).active = none) : tierBound s line = resendsTimedOut s line := by
  unfold resendsTimedOut resendLate at *
  unfold tierBound
  simp only [ha]

theorem tierBound_active {a : Active} {hid : Nat} {h : Hall} (ha : (lineCtl (resendsTimedOut s line) line).active = some a)
    (hh : hallAt (resendsTimedOut s line) (line * 64) = some (hid, h)) : tierBound s line =
      if a.phase = .tier ∧ ms 16 + a.since ≤ (resendsTimedOut s line).now then tierTimedOut (resendsTimedOut s line) line a hid h
      else resendsTimedOut s line := by
  unfold resendsTimedOut resendLate at *
  unfold tierBound
  simp only [ha, hh]
  rfl

end TierBound

theorem tierTimedOut_stores (t : State) (line hid : Nat) (h : Hall) {a : Active} {d : LineData} (hk : a.req.kind = .wrFull)
    (hg : a.got = some d) : tierTimedOut t line a hid h =
      let u := completeCode (endActive t line) a.req .timeout
      settleTier (storeLine u hid h line d (reqSub u a.req) (reqSvc a.req)) := by
  unfold tierTimedOut
  simp only [hk, hg]

theorem tierTimedOut_drops (t : State) (line hid : Nat) (h : Hall) {a : Active} (hk : a.req.kind ≠ .wrFull ∨ a.got = none) :
    tierTimedOut t line a hid h = settleTier (completeCode (endActive t line) a.req .timeout) := by
  unfold tierTimedOut
  dsimp only
  split
  · rename_i d hk' hg
    rcases hk with hk | hk
    · exact absurd hk' hk
    · simp [hk] at hg
  · rfl

/-! ### Trackers whose completion was lost (R152) -/

theorem trackerHoldExpiry_held {s : State} {ep tag : Nat}
    (h : (s.home.trackers.get? (trkKey ep tag)).all (fun t => t.dropped.isNone) = true) : exec (.trackerHoldExpiry ep tag) s = .next s := by
  change execTrackerHoldExpiry ep tag s = _
  unfold execTrackerHoldExpiry
  cases ht : s.home.trackers.get? (trkKey ep tag) with
  | none => rfl
  | some t =>
    rw [ht, Option.all_some, Option.isNone_iff_eq_none] at h
    simp only [h]

theorem trackerHoldExpiry_dropped {s : State} {ep tag at_ : Nat} {t : Tracker} (ht : s.home.trackers.get? (trkKey ep tag) = some t)
    (hd : t.dropped = some at_) : exec (.trackerHoldExpiry ep tag) s = .next (if s.now < sec 1 + at_ then s
      else event { s with home := { s.home with trackers := s.home.trackers.erase (trkKey ep tag) } } .trackerReleased srcSlices
        none none ep [(0, 2, tag), (2, 1, t.kind)]) := by
  change execTrackerHoldExpiry ep tag s = _
  unfold execTrackerHoldExpiry
  simp only [ht, hd]

/-! ### A snoop without an answer (R153) -/

theorem snoopTimeout_outstanding {s : State} {ep stag : Nat} {x : Snoop} {use : SnoopUse} (hf : findSnoop s ep stag = some (x, use)) :
    exec (.snoopTimeout ep stag) s = .next (if ms 2 + x.sentAt ≤ s.now then endpointDead s ep 1 stag x.hall else s) := by
  change execSnoopTimeout ep stag s = _
  unfold execSnoopTimeout
  rw [hf]

theorem snoopTimeout_none {s : State} {ep stag : Nat} (hf : findSnoop s ep stag = none) : exec (.snoopTimeout ep stag) s = .next s := by
  change execSnoopTimeout ep stag s = _
  unfold execSnoopTimeout
  rw [hf]

/-! ### The rows together -/

/-- Settles O50, row by row. That a WLT_OPEN's wait for AGE_LIMIT ends with ST_TIMEOUT is the model's reading (log 54), as is the timeout of
a snoop answered RSP_WB_PEND whose WB_M does not come (log 90). -/
theorem homeBoundRowsComplete : Obligations.HomeBoundRowsComplete := by
  refine ⟨?point, fun s ep t x u => snoopTimeout_outstanding, ?walk, ?ordering, ?tier, fun s ep tag => trackerHoldExpiry_held,
    fun s ep tag => snoopTimeout_none, fun s ep h => congrArg _ (orphanWalk_idle h), ?tracker⟩
  case point =>
    intro s l leaving
    have row {v : State} (h : activate s l = v) : exec (.orderingPointReached l) s = .next (settleTier v) :=
      congrArg (fun v => Host.Outcome.next (settleTier v)) h
    refine ⟨fun h => row (activate_stands h), fun ha hv hw hd hf => ?_⟩
    intro u c
    have hm := activate_moves ha hv hw hd hf
    refine ⟨fun hp => row (hm.trans ?_), fun i r hp hr => row (hm.trans ?_)⟩
    · simp only [u, c] at hp
      simp only [hp, u]
    · simp only [u, c] at hp hr
      simp only [hp, hr, u, c]
  case walk =>
    intro s ep hw hf t
    have row {v : State} (h : orphanWalk s ep = v) : exec (.orphanWalk ep) s = .next v := congrArg Host.Outcome.next h
    have ht : t = walked s ep := rfl
    clear_value t
    exact ⟨fun hn => row (orphanWalk_goesOn hw hf ht hn), fun hn => row (orphanWalk_ends hw hf ht hn)⟩
  case ordering =>
    intro s l ep tag c due open_
    have row {v : State} (h : orderingBound s l ep tag = v) : exec (.orderingBoundExpiry l ep tag) s = .next v :=
      congrArg Host.Outcome.next h
    exact ⟨fun i r hi hr => row (orderingBound_queued hi hr), fun i m t hq hi hm => row (orderingBound_open hq hi hm),
      fun hq hw => row (orderingBound_none hq hw)⟩
  case tier =>
    intro s l due t
    have row {v : State} (h : tierBound s l = v) : exec (.tierBoundExpiry l) s = .next v := congrArg Host.Outcome.next h
    have ht : t = resendsTimedOut s l := rfl
    clear_value t
    subst ht
    refine ⟨fun ha => row (tierBound_none ha), fun a hid h ha hh => ?_⟩
    have hlate := tierBound_active ha hh
    refine ⟨fun hn => row (hlate.trans (if_neg ?_)), fun hp hd => ?_⟩
    · rintro ⟨hp, hd⟩
      exact hn.elim (· hp) fun hn => absurd hd (Nat.not_le.2 hn)
    · have hlate := hlate.trans (if_pos ⟨hp, hd⟩)
      exact ⟨fun hk => row (hlate.trans (tierTimedOut_drops _ l hid h hk)),
        fun d hk hg => row (hlate.trans (tierTimedOut_stores _ l hid h hk hg))⟩
  case tracker =>
    intro s ep tag z t ht hd
    rw [trackerHoldExpiry_dropped ht hd]
    exact ⟨fun hl => congrArg _ (if_pos hl), fun hl => congrArg _ (if_neg (Nat.not_lt.2 hl))⟩

end Sys2Proof.Proofs
end

section
/-! A line written (O56): what each code's write leaves in the line's granules, that it leaves every other granule alone, and what the line then
reads (R38, R147, R149, R404, R417 to R426). -/

namespace Sys2Proof.Proofs

open Sys2Proof.Machine Sys2Proof.Laws

/-! ### Decoding (R417, R420, R425) -/

/-- A granule whose decode stays within the code's guarantee shows poison when what is stored does (R425). -/
theorem decoded_poison {s t : State} {hid : Nat} {h : Hall} {out : Decode} {g : Granule} (i : Nat) (ht : t.ten = s.ten)
    (hw : ∀ p, out ≠ .wrong p) (hp : (deliver s hid h g).1.2 = true) : (deliver s hid h (decoded t hid h out i g)).1.2 = true := by
  cases out with
  | clean => exact hp
  | corrected p => exact hp
  | wrong p => exact absurd rfl (hw p)
  | uncorrectable => rw [decoded, poisonGranule_congr ht, deliver_poisonGranule]

/-- A granule without an error is delivered as it is stored. -/
theorem decoded_clean (s : State) (hid : Nat) (h : Hall) (i : Nat) {g : Granule} (he : g.err = 0) : decoded s hid h .clean i g = g := by
  cases g
  simp_all [decoded]

theorem decodeLight_zero (s : State) : decodeLight s 0 = .clean := rfl

/-- Beyond the code's guarantee a decode never counts as clean (log 13). -/
theorem decodeBeyond_ne_clean (s : State) (n : Nat) : decodeBeyond s n ≠ .clean := by
  unfold decodeBeyond
  split <;> nofun

theorem eraseDups_eq_nil {l : List Nat} (h : l.eraseDups = []) : l = [] := by
  cases l with
  | nil => rfl
  | cons a l => simp [List.eraseDups_cons] at h

/-- A STRONG pair decodes as clean when no error of it touches a device group (R417). -/
theorem decodePair_clean_iff (s : State) (f : Nat → BitVec 160) (n : Nat) :
    decodePair s ((List.range n).map f) = .clean ↔ ∀ i, i < n → errGroups (f i) = [] := by
  have hgs : ((List.range ((List.range n).map f).length).flatMap fun i =>
      (errGroups ((((List.range n).map f)[i]?).getD 0)).map fun g => 10 * (i / 4) + g) = [] ↔ ∀ i, i < n → errGroups (f i) = [] := by
    rw [List.flatMap_eq_nil_iff]
    refine forall_congr' fun i => ?_
    simp only [List.length_map, List.length_range, List.mem_range, List.map_eq_nil_iff]
    refine forall_congr' fun hi => ?_
    simp [hi]
  rw [← hgs]
  unfold decodePair
  constructor
  · intro hc
    dsimp only at hc
    split at hc
    · exact eraseDups_eq_nil ‹_›
    · exact absurd hc nofun
    · exact absurd hc nofun
    · exact absurd hc (decodeBeyond_ne_clean s 20)
  · intro hn
    simp only [hn, List.eraseDups_nil]

/-! ### What a write leaves (R149, R418, R419) -/

/-- What a write of a line does to memory, whichever code protects it: of the `n` granules from address `b` on that `p` names, and of no
other, the content moves; each granule of the line that the write touches holds the merge of the data with what it held, `old`. -/
structure LineWritten (s t : State) (hid : Nat) (h : Hall) (c ca b n : Nat) (p : Nat → Bool) (d : LineData) (mask : BitVec 64)
    (old : Nat → Granule) : Prop where
  place : ∀ y, locate t hid h y = locate s hid h y
  ten : t.ten = s.ten
  online : ∀ k, chanOnline t k = chanOnline s k
  frame : ∀ c' ca', (∀ j, j < n → p j = true → granKey c' ca' ≠ granKey c (b + 16 * j)) → granAt t c' ca' = granAt s c' ca'
  merged : ∀ i, i < 4 → (d.poison.getLsbD i = true ∨ granMask mask i ≠ 0) →
    ∃ u : State, u.ten = s.ten ∧ granAt t c (ca + 16 * i) = mergeGran u hid h (old i) d mask i

/-- A granule that a write replaces whatever it held (R149). -/
def wholeGran (s : State) (hid : Nat) (h : Hall) (d : LineData) (i : Nat) : Granule :=
  if d.poison.getLsbD i = true then poisonGranule s hid h else { poisonGranule s hid h with data := granOf d.data i, poison := false }

theorem wholeGran_err (s : State) (hid : Nat) (h : Hall) (d : LineData) (i : Nat) : (wholeGran s hid h d i).err = 0 := by
  unfold wholeGran
  split <;> rfl

section Written

variable {s t : State} {hid : Nat} {h : Hall} {c ca b n : Nat} {p : Nat → Bool} {d : LineData} {mask : BitVec 64} {old : Nat → Granule}

/-- Granules stored over a state with the same memory are a line written, when they hold the merge. -/
theorem lineWritten_store {u : State} {f : Nat → Granule} {g : Chan → Chan} (hu : SameMemory u s) (hb : b % 16 = 0)
    (hg : ∀ y, (g y).st = y.st)
    (hf : ∀ i, i < 4 → ∃ j, j < n ∧ b + 16 * j = ca + 16 * i ∧ p j = true ∧ f j = mergeGran u hid h (old i) d mask i) :
    LineWritten s (modChan (storeGrans u c b n p f) c g) hid h c ca b n p d mask old := by
  obtain ⟨hstored, hframe, htier, hten, honline⟩ := storeGrans_spec u c b n p f hb
  have hlast := modChan_same (storeGrans u c b n p f) c g hg
  have hgran (c' ca' : Nat) : granAt (modChan (storeGrans u c b n p f) c g) c' ca' = granAt (storeGrans u c b n p f) c' ca' := by
    unfold granAt
    rw [hlast.mem]
  have hblock : (modChan (storeGrans u c b n p f) c g).tier = s.tier := hlast.tier.trans (htier.trans hu.tier)
  refine ⟨fun y => locate_congr hid h y fun _ _ => by unfold blockOf; rw [hblock], hlast.ten.trans (hten.trans hu.ten),
    fun k => (hlast.online k).trans ((honline k).trans (hu.online k)), fun c' ca' hne => ?_, fun i hi ht => ?_⟩
  · rw [hgran, hframe c' ca' hne]
    unfold granAt
    rw [hu.mem]
  · obtain ⟨j, hj, haddr, hp, hfj⟩ := hf i hi
    refine ⟨u, hu.ten, ?_⟩
    rw [hgran, ← haddr, hstored j hj hp, hfj]
    rw [hfj]
    exact ((mergeGran_spec u hid h (old i) d mask i).2.2.2 ht).1

/-- Marking the block dirty before the write makes no difference. -/
theorem LineWritten.ofDirty {y : Nat} (hw : LineWritten (dirtyBlock s hid h y) t hid h c ca b n p d mask old) :
    LineWritten s t hid h c ca b n p d mask old where
  place x := (hw.place x).trans (locate_dirtyBlock ..)
  ten := hw.ten.trans (dirtyBlock_ten ..)
  online k := (hw.online k).trans (by unfold chanOnline; rw [dirtyBlock_dram])
  frame c' ca' hne := (hw.frame c' ca' hne).trans (by unfold granAt; rw [dirtyBlock_dram])
  merged i hi ht := by
    obtain ⟨u, hu, hg⟩ := hw.merged i hi ht
    exact ⟨u, hu.trans (dirtyBlock_ten ..), hg⟩

theorem LineWritten.andSame {t' : State} (hw : LineWritten s t hid h c ca b n p d mask old) (ht : SameMemory t' t) :
    LineWritten s t' hid h c ca b n p d mask old where
  place x := (locate_congr hid h x fun _ _ => by unfold blockOf; rw [ht.tier]).trans (hw.place x)
  ten := ht.ten.trans hw.ten
  online k := (ht.online k).trans (hw.online k)
  frame c' ca' hne := (show granAt t' c' ca' = granAt t c' ca' by unfold granAt; rw [ht.mem]).trans (hw.frame c' ca' hne)
  merged i hi hm := by
    obtain ⟨u, hu, hg⟩ := hw.merged i hi hm
    exact ⟨u, hu, (show granAt t' c (ca + 16 * i) = granAt t c (ca + 16 * i) by unfold granAt; rw [ht.mem]).trans hg⟩

variable (hw : LineWritten s t hid h c ca b n p d mask old) {i : Nat} (hi : i < 4)

include hw hi

/-- A granule wholly written, or masked as poison, holds what was written whatever it held (R149). -/
theorem LineWritten.whole (hm : d.poison.getLsbD i = true ∨ granMask mask i = 0xFFFF) :
    granAt t c (ca + 16 * i) = wholeGran s hid h d i := by
  obtain ⟨u, hu, hg⟩ := hw.merged i hi (hm.imp_right fun hm => by rw [hm]; decide)
  obtain ⟨hpoison, hfull, -, -⟩ := mergeGran_spec u hid h (old i) d mask i
  rw [hg, wholeGran, ← poisonGranule_congr hu]
  split
  · exact hpoison ‹_›
  · rename_i hn
    exact hfull (eq_false_of_ne_true hn) (hm.resolve_left hn)

/-- A part of a poisoned granule written leaves it poisoned (R149). -/
theorem LineWritten.part (hn : d.poison.getLsbD i = false) (h0 : granMask mask i ≠ 0) (hf : granMask mask i ≠ 0xFFFF)
    (hp : (deliver s hid h (old i)).1.2 = true) : granAt t c (ca + 16 * i) = poisonGranule s hid h := by
  obtain ⟨u, hu, hg⟩ := hw.merged i hi (.inr h0)
  rw [hg, ← poisonGranule_congr hu]
  exact (mergeGran_spec u hid h (old i) d mask i).2.2.1 hn h0 hf ((deliver_poison_congr hu ..).trans hp)

/-- Every granule written carries its hall's tag (R39). -/
theorem LineWritten.tag (hm : d.poison.getLsbD i = true ∨ granMask mask i ≠ 0) :
    (granAt t c (ca + 16 * i)).tag = if h.light = true then h.tenant else 0 := by
  obtain ⟨u, hu, hg⟩ := hw.merged i hi hm
  rw [hg]
  exact ((mergeGran_spec u hid h (old i) d mask i).2.2.2 hm).2

end Written

/-! ### The two codes' writes (R418, R419) -/

section Codes

variable (s : State) (hid : Nat) (h : Hall) (x c ca : Nat) (d : LineData) (mask : BitVec 64)

/-- The state once what the decode of a LIGHT line found is counted; a line wholly replaced is not read (R419). -/
def lightNoted : State :=
  if (List.range 4).all (granWhole d mask) then s
  else noteLight s hid h c ca fun i => decodeLight s (seenGran s h (x / 64) c (ca + 16 * i)).err

/-- Granule `i` of a LIGHT line as its write sees it. -/
def lightOld (i : Nat) : Granule :=
  decoded (lightNoted s hid h x c ca d mask) hid h (decodeLight s (seenGran s h (x / 64) c (ca + 16 * i)).err) i
    (seenGran s h (x / 64) c (ca + 16 * i))

theorem lightNoted_same : SameMemory (lightNoted s hid h x c ca d mask) s := by
  unfold lightNoted
  split
  · exact .refl s
  · exact noteLight_same ..

/-- What the decode of a STRONG line's pair gives (R417). -/
def pairOut : Decode := decodePair s ((List.range 8).map fun i => (pairGran s h x c ca i).err)

/-- The state once what the decode of a STRONG pair found is counted. -/
def pairNoted : State := notePair s hid h c (ca / 128 * 128) (pairGran s h x c ca) (pairOut s h x c ca)

/-- The state once what the line's granules show is recorded too. -/
def pairSeen : State :=
  noteSeen (pairNoted s hid h x c ca) hid h x c ca (fun i => decoded (pairNoted s hid h x c ca) hid h (pairOut s h x c ca) (pairAt ca + i)
    (pairGran s h x c ca (pairAt ca + i))) (granPart d mask)

/-- Granule `i` of a STRONG line as its write sees it. -/
def pairOld (i : Nat) : Granule :=
  decoded (pairSeen s hid h x c ca d mask) hid h (pairOut s h x c ca) (pairAt ca + i) (pairGran s h x c ca (pairAt ca + i))

theorem pairSeen_same : SameMemory (pairSeen s hid h x c ca d mask) s := (noteSeen_same ..).trans (notePair_same ..)

/-- The granules of a pair that a write of its line stores: the line's own, and the other's when the decode fixed something (R418). -/
def pairStores (i : Nat) : Bool := decide (pairAt ca ≤ i ∧ i < pairAt ca + 4) || decide (pairOut s h x c ca ≠ .clean)

end Codes

theorem tickFree_same (s : State) : SameMemory s.tickFree s := ⟨rfl, rfl, rfl, fun _ => rfl⟩

/-- A line's granules lie in its pair from its half on. -/
theorem pairAt_addr {ca : Nat} (hca : ca % 64 = 0) (i : Nat) : ca / 128 * 128 + 16 * (pairAt ca + i) = ca + 16 * i := by
  unfold pairAt
  split <;> omega

theorem pairAt_le (ca : Nat) : pairAt ca ≤ 4 := by
  unfold pairAt
  split <;> omega

section Codes

variable {s : State} {hid : Nat} {h : Hall} {x c ca : Nat} {d : LineData} {mask : BitVec 64} (hca : ca % 64 = 0)

include hca

theorem writeLight_written : LineWritten s (writeLight s hid h x c ca d mask) hid h c ca ca 4 (fun _ => true) d mask
    (lightOld s hid h x c ca d mask) :=
  lineWritten_store ((noteSeen_same ..).trans (lightNoted_same s hid h x c ca d mask)) (by omega) (fun _ => rfl)
    fun i hi => ⟨i, hi, rfl, rfl, rfl⟩

theorem writePair_written : LineWritten s (writePair s hid h x c ca d mask) hid h c ca (ca / 128 * 128) 8 (pairStores s h x c ca) d mask
    (pairOld s hid h x c ca d mask) := by
  refine lineWritten_store (pairSeen_same s hid h x c ca d mask) (by omega) (fun _ => rfl) fun i hi => ?_
  have hmine : pairAt ca ≤ pairAt ca + i ∧ pairAt ca + i < pairAt ca + 4 := by omega
  have hle := pairAt_le ca
  refine ⟨pairAt ca + i, by omega, pairAt_addr hca i, by simp [hmine], ?_⟩
  simp only [hmine, and_self, decide_true, if_true, Nat.add_sub_cancel_left]
  rfl

/-- A write of a LIGHT line reaches its granules and no other. -/
theorem writeLine_light (hl : h.light = true) (hp : locate s hid h (x / 64 * 64) = some (c, ca)) (ho : chanOnline s c = true)
    (hk : slotLoaded (curSlot s hid h) = true) : (writeLine s hid h x d mask).2 = .ok ∧
      LineWritten s (writeLine s hid h x d mask).1 hid h c ca ca 4 (fun _ => true) d mask
        (lightOld (dirtyBlock s hid h (x / 64 * 64)) hid h (x / 64 * 64) c ca d mask) := by
  have he : writeLine s hid h x d mask = (noteWritten (writeLight (dirtyBlock s hid h (x / 64 * 64)) hid h (x / 64 * 64) c ca d mask).tickFree
      hid h (x / 64 * 64 / 64), .ok) := by
    unfold writeLine
    simp only [hp, ho, hk, hl, Bool.true_eq_false, if_false, if_true]
  rw [he]
  exact ⟨rfl, (writeLight_written hca).ofDirty.andSame ((noteWritten_same ..).trans (tickFree_same _))⟩

/-- A write of a STRONG line reaches its pair and no other granule. -/
theorem writeLine_pair (hl : h.light = false) (hp : locate s hid h (x / 64 * 64) = some (c, ca)) (ho : chanOnline s c = true)
    (hk : slotLoaded (curSlot s hid h) = true) : (writeLine s hid h x d mask).2 = .ok ∧
      LineWritten s (writeLine s hid h x d mask).1 hid h c ca (ca / 128 * 128) 8
        (pairStores (dirtyBlock s hid h (x / 64 * 64)) h (x / 64 * 64) c ca) d mask
        (pairOld (dirtyBlock s hid h (x / 64 * 64)) hid h (x / 64 * 64) c ca d mask) := by
  have he : writeLine s hid h x d mask = (noteWritten (writePair (dirtyBlock s hid h (x / 64 * 64)) hid h (x / 64 * 64) c ca d mask).tickFree
      hid h (x / 64 * 64 / 64), .ok) := by
    unfold writeLine
    simp only [hp, ho, hk, hl, Bool.true_eq_false, Bool.false_eq_true, if_false]
  rw [he]
  exact ⟨rfl, (writePair_written hca).ofDirty.andSame ((noteWritten_same ..).trans (tickFree_same _))⟩

end Codes

/-! ### What the line then reads (R147, R426) -/

/-- What a granule wholly written delivers: zero where it is poison. -/
def delivered (d : LineData) (i : Nat) : BitVec 128 × Bool := if d.poison.getLsbD i = true then (0, true) else (granOf d.data i, false)

theorem genSlot_curGen (s : State) (hid : Nat) (h : Hall) : genSlot s hid h (curGen s hid h) = curSlot s hid h := by
  unfold genSlot curGen curSlot
  split
  · rfl
  · split <;> rfl

theorem deliver_wholeGran {s t : State} {hid : Nat} {h : Hall} (ht : t.ten = s.ten) (hk : slotLoaded (curSlot s hid h) = true) (d : LineData)
    (i : Nat) : (deliver t hid h (wholeGran s hid h d i)).1 = delivered d i := by
  unfold wholeGran delivered
  split
  · rw [← poisonGranule_congr ht, deliver_poisonGranule]
  · have hslot : genSlot t hid h (curGen s hid h) = curSlot s hid h := by rw [(keys_congr ht hid h).2.2, genSlot_curGen]
    unfold deliver
    simp only [poisonGranule, hslot, hk]
    by_cases hl : h.light = true <;> simp [hl]

theorem seenGran_unpoisoned {h : Hall} (hp : h.poisoned = false) (s : State) (l c ca : Nat) : seenGran s h l c ca = granAt s c ca := by
  unfold seenGran countsCleared
  simp [hp]

section Reading

variable {s t : State} {hid : Nat} {h : Hall} {x c ca : Nat} {d : LineData} (hp : h.poisoned = false) (ht : t.ten = s.ten)
  (hk : slotLoaded (curSlot s hid h) = true) (hg : ∀ i, i < 4 → granAt t c (ca + 16 * i) = wholeGran s hid h d i)

include hp ht hk hg

theorem readLight_whole : (readLight t hid h x c ca).2 = joinLine ((List.range 4).map (delivered d)) := by
  refine congrArg joinLine (List.map_congr_left fun i hi => ?_)
  have hi := hg i (List.mem_range.1 hi)
  simp only [seenGran_unpoisoned hp, hi, wholeGran_err, decodeLight_zero]
  rw [decoded_clean _ _ _ _ (wholeGran_err ..)]
  exact deliver_wholeGran ((noteLight_same ..).ten.trans ht) hk d i

theorem readPair_whole (hca : ca % 64 = 0) (hc : ∀ i, i < 8 → errGroups (granAt t c (ca / 128 * 128 + 16 * i)).err = []) :
    (readPair t hid h x c ca).2 = joinLine ((List.range 4).map (delivered d)) := by
  have hout : decodePair t ((List.range 8).map fun i => (pairGran t h x c ca i).err) = .clean := by
    rw [decodePair_clean_iff]
    intro i hi
    unfold pairGran
    rw [seenGran_unpoisoned hp]
    exact hc i hi
  refine congrArg joinLine (List.map_congr_left fun i hi => ?_)
  have hi := hg i (List.mem_range.1 hi)
  have hgran : pairGran t h x c ca (pairAt ca + i) = wholeGran s hid h d i := by
    unfold pairGran
    rw [seenGran_unpoisoned hp, pairAt_addr hca, hi]
  simp only [hout, hgran]
  rw [decoded_clean _ _ _ _ (wholeGran_err ..)]
  exact deliver_wholeGran ((notePair_same ..).ten.trans ht) hk d i

end Reading

/-! ### What the write saw of the line (R149, R425) -/

section Seen

variable {s : State} {hid : Nat} {h : Hall} {x c ca : Nat} {d : LineData} {mask : BitVec 64} {i : Nat}

theorem seenGran_dirtyBlock (s : State) (hid : Nat) (h : Hall) (y l c a : Nat) : seenGran (dirtyBlock s hid h y) h l c a = seenGran s h l c a := by
  unfold seenGran granAt
  rw [dirtyBlock_dram]

theorem pairGran_dirtyBlock (s : State) (hid : Nat) (h : Hall) (x c ca : Nat) :
    pairGran (dirtyBlock s hid h (x / 64 * 64)) h (x / 64 * 64) c ca = pairGran s h x c ca := by
  funext i
  unfold pairGran
  rw [seenGran_dirtyBlock, show x / 64 * 64 / 128 = x / 128 by omega]

theorem decodeLight_dirtyBlock (s : State) (hid : Nat) (h : Hall) (y : Nat) (e : BitVec 160) :
    decodeLight (dirtyBlock s hid h y) e = decodeLight s e := by
  unfold decodeLight decodeBeyond
  rw [dirtyBlock_free]

theorem pairOut_dirtyBlock (s : State) (hid : Nat) (h : Hall) (x c ca : Nat) :
    pairOut (dirtyBlock s hid h (x / 64 * 64)) h (x / 64 * 64) c ca = pairOut s h x c ca := by
  unfold pairOut decodePair decodeBeyond
  rw [pairGran_dirtyBlock, dirtyBlock_free]

/-- A LIGHT granule that reads as poison is merged with as poison. -/
theorem lightOld_poison (hn : ∀ p, decodeLight s (seenGran s h (x / 64) c (ca + 16 * i)).err ≠ .wrong p)
    (hd : (deliver s hid h (seenGran s h (x / 64) c (ca + 16 * i))).1.2 = true) :
    (deliver s hid h (lightOld (dirtyBlock s hid h (x / 64 * 64)) hid h (x / 64 * 64) c ca d mask i)).1.2 = true := by
  unfold lightOld
  rw [seenGran_dirtyBlock, decodeLight_dirtyBlock, Nat.mul_div_cancel _ (by decide : 0 < 64)]
  exact decoded_poison i ((lightNoted_same ..).ten.trans (dirtyBlock_ten ..)) hn hd

/-- So is a STRONG one. -/
theorem pairOld_poison (hn : ∀ p, pairOut s h x c ca ≠ .wrong p) (hd : (deliver s hid h (pairGran s h x c ca (pairAt ca + i))).1.2 = true) :
    (deliver s hid h (pairOld (dirtyBlock s hid h (x / 64 * 64)) hid h (x / 64 * 64) c ca d mask i)).1.2 = true := by
  unfold pairOld
  rw [pairGran_dirtyBlock, pairOut_dirtyBlock]
  exact decoded_poison _ ((pairSeen_same ..).ten.trans (dirtyBlock_ten ..)) hn hd

end Seen

/-! ### A line of either code -/

section Line

variable {s t : State} {hid : Nat} {h : Hall} {x c ca b n : Nat} {p : Nat → Bool} {d : LineData} {mask : BitVec 64} {old : Nat → Granule}
  (hw : LineWritten s t hid h c ca b n p d mask old)

include hw

theorem LineWritten.readLine_eq (hp : locate s hid h (x / 64 * 64) = some (c, ca)) (ho : chanOnline s c = true) :
    readLine t hid h x = if h.light then readLight t hid h (x / 64 * 64) c ca else readPair t hid h (x / 64 * 64) c ca := by
  unfold readLine
  simp only [hw.place, hp, hw.online, ho, Bool.true_eq_false, if_false]

/-- Every granule of the pair is free of errors once a line of a clean pair is wholly written (R418). -/
theorem LineWritten.pair_clean (hb : b = ca / 128 * 128) (hca : ca % 64 = 0)
    (hst : ∀ j, p j = true → pairAt ca ≤ j ∧ j < pairAt ca + 4) (hg : ∀ i, i < 4 → granAt t c (ca + 16 * i) = wholeGran s hid h d i)
    (hc : ∀ i, i < 8 → errGroups (granAt s c (ca / 128 * 128 + 16 * i)).err = []) (i : Nat) (hi : i < 8) :
    errGroups (granAt t c (ca / 128 * 128 + 16 * i)).err = [] := by
  by_cases hm : pairAt ca ≤ i ∧ i < pairAt ca + 4
  · obtain ⟨k, rfl⟩ := Nat.exists_eq_add_of_le hm.1
    rw [pairAt_addr hca, hg k (by omega), wholeGran_err]
    rfl
  · rw [hw.frame]
    · exact hc i hi
    · intro j _ hj hkey
      have := hst j hj
      unfold granKey at hkey
      omega

end Line

/-- The granules of a line written, by their mask bits; `was` is what each read as, `known` that its decode keeps within the code's
guarantee. -/
theorem LineWritten.granules {s t : State} {hid : Nat} {h : Hall} {c ca b n : Nat} {p : Nat → Bool} {d : LineData} {mask : BitVec 64}
    {old : Nat → Granule} (hw : LineWritten s t hid h c ca b n p d mask old) {was : Nat → Granule} {known : Nat → Prop}
    (hold : ∀ i, known i → (deliver s hid h (was i)).1.2 = true → (deliver s hid h (old i)).1.2 = true) (i : Nat) (hi : i < 4) :
    (d.poison.getLsbD i = true → granAt t c (ca + 16 * i) = poisonGranule s hid h) ∧
    (d.poison.getLsbD i = false → granMask mask i = 0xFFFF →
      granAt t c (ca + 16 * i) = { poisonGranule s hid h with data := granOf d.data i, poison := false }) ∧
    (d.poison.getLsbD i = false → granMask mask i ≠ 0 → granMask mask i ≠ 0xFFFF → known i → (deliver s hid h (was i)).1.2 = true →
      granAt t c (ca + 16 * i) = poisonGranule s hid h) ∧
    (h.light = true → (d.poison.getLsbD i = true ∨ granMask mask i ≠ 0) → (granAt t c (ca + 16 * i)).tag = h.tenant) := by
  refine ⟨fun hm => ?_, fun hn hf => ?_, fun hn h0 hf hk hd => hw.part hi hn h0 hf (hold i hk hd), fun hl hm => ?_⟩
  · rw [hw.whole hi (.inl hm), wholeGran, if_pos hm]
  · rw [hw.whole hi (.inr hf), wholeGran, if_neg (ne_true_of_eq_false hn)]
  · rw [hw.tag hi hm, if_pos hl]

/-- A line whose granules each deliver what was written reads as written, poisoned granules as zero (R147, R426). -/
theorem reads_delivered {l : LineData} {d : LineData} (hl : l = joinLine ((List.range 4).map (delivered d))) (i : Nat) (hi : i < 4) :
    l.poison.getLsbD i = d.poison.getLsbD i ∧ granOf l.data i = if d.poison.getLsbD i = true then 0 else granOf d.data i := by
  obtain ⟨hp, hd⟩ := joinLine_spec (delivered d) i hi
  rw [hl, hp, hd]
  unfold delivered
  split <;> simp_all

/-- Settles O56, for each code. -/
theorem lineWritesFollowTheirMasks : Obligations.LineWritesFollowTheirMasks := by
  intro s hid h x d mask c ca hloc hca hon hk w g seen pair old tag bad
  cases hl : h.light with
  | true =>
    obtain ⟨hok, hw⟩ := writeLine_light (d := d) (mask := mask) hca hl hloc hon hk
    have hseen (i : Nat) : old i = seenGran s h (x / 64) c (ca + 16 * i) := if_pos hl
    refine ⟨hok, fun i hi => ?granules, fun c' ca' hne => hw.frame c' ca' fun j hj _ => ?other,
      fun _ c' ca' hne => hw.frame c' ca' fun j hj _ => hne j hj, fun hall hp _ => reads_delivered ?reads⟩
    case granules =>
      obtain ⟨hpoison, hwhole, hpart, htag⟩ := hw.granules (known := fun i => ∀ p, decodeLight s (old i).err ≠ .wrong p) (was := old)
        (fun i hn hd => lightOld_poison (hseen i ▸ hn) (hseen i ▸ hd)) i hi
      exact ⟨hpoison, hwhole, fun hn h0 hf hwrong _ => hpart hn h0 hf (hwrong rfl), fun _ => htag hl⟩
    case other =>
      rw [← pairAt_addr hca]
      exact hne _ (by have := pairAt_le ca; omega)
    case reads =>
      rw [hw.readLine_eq hloc hon, if_pos hl]
      exact readLight_whole hp hw.ten hk fun i hi => hw.whole hi (hall i hi)
  | false =>
    obtain ⟨hok, hw⟩ := writeLine_pair (d := d) (mask := mask) hca hl hloc hon hk
    have hseen (i : Nat) : old i = pairGran s h x c ca (pairAt ca + i) := if_neg (ne_true_of_eq_false hl)
    refine ⟨hok, fun i hi => ?granules, fun c' ca' hne => hw.frame c' ca' fun j hj _ => hne j hj, nofun,
      fun hall hp hclean => reads_delivered ?reads⟩
    case granules =>
      obtain ⟨hpoison, hwhole, hpart, htag⟩ := hw.granules (known := fun _ => ∀ p, pair ≠ .wrong p) (was := old)
        (fun i hn hd => pairOld_poison hn (hseen i ▸ hd)) i hi
      exact ⟨hpoison, hwhole, fun hn h0 hf _ hwrong => hpart hn h0 hf (hwrong rfl), nofun⟩
    case reads =>
      have hgran (i : Nat) (hi : i < 4) := hw.whole hi (hall i hi)
      have hout : pairOut s h x c ca = .clean := hclean rfl
      have herr (i : Nat) (hi : i < 8) : errGroups (granAt s c (ca / 128 * 128 + 16 * i)).err = [] := by
        have := (decodePair_clean_iff s (fun i => (pairGran s h x c ca i).err) 8).1 hout i hi
        rwa [pairGran, seenGran_unpoisoned hp] at this
      have hmine (j : Nat) (hj : pairStores (dirtyBlock s hid h (x / 64 * 64)) h (x / 64 * 64) c ca j = true) :
          pairAt ca ≤ j ∧ j < pairAt ca + 4 := by
        simpa [pairStores, pairOut_dirtyBlock, hout] using hj
      rw [hw.readLine_eq hloc hon, if_neg (ne_true_of_eq_false hl)]
      exact readPair_whole hp hw.ten hk hgran hca (hw.pair_clean rfl hca hmine hgran herr)

end Sys2Proof.Proofs
end

section
/-! Mailbox messages and EP_STATE (O8): one lemma per case of each message's definition (R49, R115, R154, R157, R479, R480, R498 to R504). -/

namespace Sys2Proof.Proofs

open Sys2Proof.Machine Sys2Proof.Laws

/-! ### Which messages are taken up (R103, R115, R154, R498) -/

/-- A message on a port that carries no MGT messages does nothing. -/
theorem mbxTake_unheard {s : State} {p src : Nat} {bad : Bool} (k : State → State) (hh : heard s p true = false) :
    mbxTake s (.port p) src bad k = s := by
  simp only [mbxTake, pathPort, Option.any_some, hh, Bool.not_false, if_true]

theorem any_not_of_all {α : Type} {o : Option α} {p : α → Bool} (h : o.all p = true) : (o.any fun a => !p a) = false := by
  cases o with
  | none => rfl
  | some a => simpa using h

/-! ### MBX_OPEN (R479, R480) -/

section MbxOpen

variable {s : State} {ep : Nat}

theorem mbxOpen_held {e : Nat × Win} (hf : (s.win.find? fun e => e.2.cls = .host ∧ e.2.owner = ep) = some e) :
    mbxOpen s ep = sendMgt s ep fun q => .mbxOpened q ep e.1 stOk := by
  simp only [mbxOpen, hf]

variable (hf : (s.win.find? fun e => e.2.cls = .host ∧ e.2.owner = ep) = none)

include hf

theorem mbxOpen_unlisted (hl : listedIn s none ep = false) : mbxOpen s ep = sendMgt s ep fun q => .mbxOpened q ep 0 stDenied := by
  simp only [mbxOpen, hf, hl, if_true]

theorem mbxOpen_given (hl : listedIn s none ep = true) {n : Nat} (hn : s.win.freeKey 67 957 = some n) :
    mbxOpen s ep = sendMgt { s with win := s.win.set n { cls := .host, owner := ep } } ep fun q => .mbxOpened q ep n stOk := by
  simp only [mbxOpen, hf, hl, hn, Bool.true_eq_false, if_false]

end MbxOpen

/-! ### MBX_WRITE, MBX_READ, MBX_CLOSE (R480, R499, R500) -/

theorem ceilDiv_forty (n : Nat) : ceilDiv n 40 = (n + 39) / 40 := rfl

theorem closeWin_idle {s : State} {n : Nat} {x : Win} (hx : s.win.get? n = some x) (hc : x.cmd = none) :
    closeWin s n = { s with win := s.win.erase n } := by
  simp only [closeWin, hx, hc, Option.isSome_none, Bool.false_eq_true, if_false]

/-- What an MBX_READ that is taken up answers. -/
def mbxAnswered (path : Path) (b : List Byte) (u : State) : State := match u.win.get? (mbxWin b) with
  | some x => if pathOk u path (mbxWin b) (mbxSrc b) then readPieces u (mbxWin b) x (subNat b 6 4) (subNat b 10 2) (subNat b 12 2) else u
  | none => u

/-- What an MBX_CLOSE that is taken up closes. -/
def mbxClosed (path : Path) (b : List Byte) (u : State) : State :=
  if pathOk u path (mbxWin b) (mbxSrc b) && (match path with
    | .port _ => true
    | _ => false) then closeWin u (mbxWin b) else u

section Served

variable {path : Path} {b : List Byte} {u : State}

section Own

variable (hp : pathOk u path (mbxWin b) (mbxSrc b) = true)

include hp

theorem mbxWritten_own : mbxWritten path b u = winWrites u (mbxWin b) (subNat b 6 4) (sub b 15 (subNat b 10 1)) := if_pos hp

variable {x : Win} (hx : u.win.get? (mbxWin b) = some x)

include hx

theorem mbxAnswered_own : mbxAnswered path b u = readPieces u (mbxWin b) x (subNat b 6 4) (subNat b 10 2) (subNat b 12 2) := by
  simp only [mbxAnswered, hx, hp, if_true]

theorem mbxClosed_own {p : Nat} (hpath : path = .port p) (hc : x.cmd = none) :
    mbxClosed path b u = { u with win := u.win.erase (mbxWin b) } := by
  subst hpath
  simp only [mbxClosed, hp, Bool.and_self, if_true, closeWin_idle hx hc]

end Own

section Other

variable (hp : pathOk u path (mbxWin b) (mbxSrc b) = false)

include hp

theorem mbxWritten_other : mbxWritten path b u = u := if_neg (by simp [hp])

theorem mbxAnswered_other : mbxAnswered path b u = u := by
  unfold mbxAnswered
  cases u.win.get? (mbxWin b) with
  | none => rfl
  | some x => exact if_neg (by simp [hp])

theorem mbxClosed_other : mbxClosed path b u = u := if_neg (by simp [hp])

end Other

end Served

/-! ### EP_STATE (R49, R153, R157, R502, R504) -/

/-- The state with the reported revision recorded, and the levels recomputed when it changed. -/
def revRecorded (s : State) (ep rev : Nat) : State :=
  let u : State := { s with eps := s.eps.set ep { epInfo s ep with rev := rev } }
  if (epInfo s ep).rev = rev then u else recomputeLevels u

/-- An endpoint that is up again leaves the dead list, unless its lines are still being walked (R157). -/
def upAgain (s v : State) (ep : Nat) : State :=
  if (epInfo s ep).dead then { v with eps := v.eps.modify ep fun i => { i with upAgain := true, dead := i.walking } } else v

theorem epState_up (s : State) (ep rev : Nat) : epState s ep true rev =
    let w := upAgain s (revRecorded s ep rev) ep
    if listedIn w none ep then sendEpoch w ep else w := by
  simp only [epState, if_true, ite_not]
  rfl

theorem epState_down (s : State) (ep rev : Nat) : epState s ep false rev = endpointDead (revRecorded s ep rev) ep 0 0 0 := by
  simp only [epState, Bool.false_eq_true, if_false, ite_not]
  rfl

section EpState

variable {s : State} {m : MgtMsg}

theorem execEpState_unheard (hh : heard s m.port true = false) : execEpState m s = .next s := by
  simp only [execEpState, hh, if_true]

variable (hh : heard s m.port true = true)

include hh

theorem execEpState_reserved (hb : 8 ≤ m.port ∨ epStateBad m.bytes = true) : execEpState m s = .next (countBad s m.port) := by
  have hc : (decide (8 ≤ m.port) || epStateBad m.bytes) = true := by simpa using hb
  simp only [execEpState, hh, hc, Bool.true_eq_false, if_false, if_true]

theorem execEpState_taken (hp : m.port < 8) (hb : epStateBad m.bytes = false) :
    execEpState m s = .next (epState s (subNat m.bytes 1 3) (decide (subNat m.bytes 4 1 = 1)) (subNat m.bytes 5 1)) := by
  have hc : (decide (8 ≤ m.port) || epStateBad m.bytes) = false := by simpa [hb] using hp
  simp only [execEpState, hh, hc, Bool.true_eq_false, Bool.false_eq_true, if_false]

theorem execEpState_up (hp : m.port < 8) (hb : epStateBad m.bytes = false) (hu : subNat m.bytes 4 1 = 1) :
    execEpState m s =
      let w := upAgain s (revRecorded s (subNat m.bytes 1 3) (subNat m.bytes 5 1)) (subNat m.bytes 1 3)
      .next (if listedIn w none (subNat m.bytes 1 3) then sendEpoch w (subNat m.bytes 1 3) else w) := by
  rw [execEpState_taken hh hp hb, decide_eq_true hu, epState_up]

theorem execEpState_down (hp : m.port < 8) (hb : epStateBad m.bytes = false) (hu : subNat m.bytes 4 1 = 0) :
    execEpState m s = .next (endpointDead (revRecorded s (subNat m.bytes 1 3) (subNat m.bytes 5 1)) (subNat m.bytes 1 3) 0 0 0) := by
  rw [execEpState_taken hh hp hb, decide_eq_false (by omega), epState_down]

end EpState

/-! ### The rows together -/

section Rows

variable {s : State} {path : Path} {b : List Byte}

/-- The rows of a message that is taken up, by the window's own path and by another. -/
theorem execMbx_taken (hh : (pathPort s path).all (fun p => heard s p true) = true)
    (hd : (pathEp s path (mbxSrc b)).any (isDead s) = false) :
    (mbxWriteBad b = false → exec (.mbxWrite path b) s = .next (mbxWritten path b (learnPath s path (mbxSrc b)))) ∧
    (mbxReadBad b = false → exec (.mbxRead path b) s = .next (mbxAnswered path b (learnPath s path (mbxSrc b)))) ∧
    (mbxCloseBad b = false → exec (.mbxClose path b) s = .next (mbxClosed path b (learnPath s path (mbxSrc b)))) :=
  ⟨fun hb => congrArg Host.Outcome.next (mbxTake_taken _ (any_not_of_all hh) hb hd),
    fun hb => congrArg Host.Outcome.next (mbxTake_taken (mbxAnswered path b) (any_not_of_all hh) hb hd),
    fun hb => congrArg Host.Outcome.next (mbxTake_taken (mbxClosed path b) (any_not_of_all hh) hb hd)⟩

end Rows

/-- Settles O8, message by message. A window with a command under way is not stated (log 51); an EP_STATE teaches no port (log 61); a
read is answered at once (log 89). -/
theorem endpointMailboxRowsComplete : Obligations.EndpointMailboxRowsComplete := by
  unfold Obligations.EndpointMailboxRowsComplete
  refine ⟨fun s m hh hb hd => ?opened, fun s path b hh hd => ?served, fun s p b => ⟨fun hh => ?unheard, fun hh => ?refused⟩,
    fun s m hh hp hb => ⟨fun hu => ?up, fun hu => ?down⟩⟩
  case opened =>
    have row {t : State} (h : mbxOpen (learn s (mbxSrc m.bytes) m.port) (mbxSrc m.bytes) = t) : exec (.mbxOpen m) s = .next t :=
      congrArg Host.Outcome.next ((mbxTake_port _ hh hb hd).trans h)
    exact ⟨fun hf => ⟨fun hl n hn => row (mbxOpen_given hf hl hn), fun hl => row (mbxOpen_unlisted hf hl)⟩,
      fun e hf => row (mbxOpen_held hf)⟩
  case served =>
    obtain ⟨hwrite, hread, hclose⟩ := execMbx_taken hh hd
    refine ⟨fun x hp hx => ⟨fun hb => ?_, fun hb => ?_, fun p hpath hb hc => ?_⟩, fun hp => ⟨fun hb => ?_, fun hb => ?_, fun hb => ?_⟩⟩
    · rw [hwrite hb, mbxWritten_own hp]
    · rw [hread hb, mbxAnswered_own hp hx]
      rfl
    · rw [hclose hb, mbxClosed_own hp hx hpath hc]
    · rw [hwrite hb, mbxWritten_other hp]
    · rw [hread hb, mbxAnswered_other hp]
    · rw [hclose hb, mbxClosed_other hp]
  case unheard =>
    have row {src : Nat} {bad : Bool} (k : State → State) :
        Host.Outcome.next (mbxTake s (.port p) src bad k) = (.next s : Host.Outcome State Fault Refusal) :=
      congrArg Host.Outcome.next (mbxTake_unheard k hh)
    exact ⟨row _, row _, row _, row _, execEpState_unheard hh⟩
  case refused =>
    have bad {src : Nat} {c : Bool} (k : State → State) (hc : c = true) :
        Host.Outcome.next (mbxTake s (.port p) src c k) = (.next (countBad s p) : Host.Outcome State Fault Refusal) :=
      congrArg Host.Outcome.next (mbxTake_reserved k hh hc)
    have dead {src : Nat} {c : Bool} (k : State → State) (hd : isDead s src = true) (hc : c = false) :
        Host.Outcome.next (mbxTake s (.port p) src c k) = (.next s : Host.Outcome State Fault Refusal) :=
      congrArg Host.Outcome.next (mbxTake_dead k hh hc hd)
    exact ⟨bad _, bad _, bad _, bad _, execEpState_reserved (m := ⟨p, b⟩) hh, fun hd => ⟨dead _ hd, dead _ hd, dead _ hd, dead _ hd⟩⟩
  case up => exact execEpState_up hh hp hb hu
  case down => exact execEpState_down hh hp hb hu

end Sys2Proof.Proofs
end

section
/-! Topology and ports (O12): what the checks of each command let pass, and what its body answers (R49, R111, R112, R141, R142, R478, R495,
R512). -/

namespace Sys2Proof.Proofs

open Sys2Proof.Machine Sys2Proof.Laws Sys2Proof.Safety

/-- A retained change of a command that no standby mirrors: committed and answered, or refused with ST_FAULT and without effect (R494). -/
theorem runRetained_retain {s new : State} {w op : Nat} {x : Win} {body : State → Win → Answer} {k : State → Answer} (hd : Due s w op x)
    (hm : mirrorLive s = false) (hb : body s x = retain s new k) : runRetained s w op body =
      if new.store.writable = true then settle w (k (commit new).1) else finishCmd s w stFault 0 [] := by
  rw [runRetained_due _ hd hm, hb, settle_retain]

theorem badArg_one (b : Bool) (d : Nat) : badArg [(b, d)] = if b then some (stBadArg, d) else none := by
  cases b <;> rfl

/-! ### TOPO_SET (R141, R142, R512) -/

section TopoSet

variable {x : Win} (hp : x.arg 1 3 = 0) (hz : x.arg 12 4 = 0)

include hp hz

theorem topoCheck_leaves (hk : x.arg 0 1 = 0) (hr : x.arg 4 4 + x.arg 8 4 ≤ 2 ^ 18) (hn : 2 * x.arg 8 4 ≤ 131072)
    (hl : ∀ i, i < x.arg 8 4 → x.arg (16 + 2 * i) 2 < 1024) : topoCheck x = none := by
  have hfields : ∀ i ∈ List.range (x.arg 8 4), badArg [(decide (1024 ≤ x.arg (16 + 2 * i) 2), 16 + 2 * i)] = none := fun i hi => by
    rw [badArg_one, decide_eq_false (Nat.not_le.2 (hl i (List.mem_range.1 hi)))]
    rfl
  simp only [topoCheck, hk, hp, hz, decide_true, if_true]
  rw [badArg_none.2 (by simp; omega)]
  exact List.findSome?_eq_none_iff.2 hfields

theorem topoCheck_distances (hk : x.arg 0 1 = 1) (hr : x.arg 4 4 + x.arg 8 4 ≤ 2 ^ 20) (hn : (x.arg 8 4 + 1) / 2 ≤ 131072) :
    topoCheck x = none := by
  simp only [topoCheck, hk, hp, hz]
  rw [badArg_none.2 (by simp [ceilDiv]; omega)]
  rfl

end TopoSet

theorem topoCheck_kind {x : Win} (h : 2 ≤ x.arg 0 1) : topoCheck x = some (stBadArg, 0) := by
  simp only [topoCheck, badArg, decide_eq_true (show 1 < x.arg 0 1 from h), if_true]

section TopoBody

variable (s : State) {x : Win}

theorem topoSetBody_leaves (hc : topoCheck x = none) (hk : x.arg 0 1 = 0) : topoSetBody s x = retain s { s with
    leaf := (List.range (x.arg 8 4)).foldl (fun m i => setLeaf m (x.arg 4 4 + i) (x.arg (16 + 2 * i) 2)) s.leaf } good := by
  rw [topoSetBody, hc, guardArg_none]
  dsimp only
  rw [if_pos hk]

theorem topoSetBody_distances (hc : topoCheck x = none) (hk : x.arg 0 1 = 1) : topoSetBody s x = retain s { s with
    dist := (List.range (x.arg 8 4)).foldl (fun m i => setDist m (x.arg 4 4 + i) (nibble x i)) s.dist } good := by
  rw [topoSetBody, hc, guardArg_none]
  dsimp only
  rw [if_neg (by omega)]

theorem topoSetBody_refused {st d : Nat} (hc : topoCheck x = some (st, d)) : topoSetBody s x = fail s st d := by
  rw [topoSetBody, hc, guardArg_some]

end TopoBody

/-! ### ROUTE_SET (R89, R142, R512) -/

/-- The first entry of a range whose port is none of 0 to 7 and 0xFF, as a refusal. -/
def routeBad (x : Win) : Option (Nat × Nat) :=
  (List.range (x.arg 4 4)).findSome? fun i => badArg [(decide (8 ≤ x.arg (8 + i) 1 ∧ x.arg (8 + i) 1 ≠ 0xFF), 8 + i)]

theorem routeEntry_ok {v d : Nat} (h : v < 8 ∨ v = 0xFF) : badArg [(decide (8 ≤ v ∧ v ≠ 0xFF), d)] = none := by
  rw [badArg_one, decide_eq_false (by omega)]
  rfl

theorem routeBad_none {x : Win} (h : ∀ i, i < x.arg 4 4 → x.arg (8 + i) 1 < 8 ∨ x.arg (8 + i) 1 = 0xFF) : routeBad x = none :=
  List.findSome?_eq_none_iff.2 fun i hi => routeEntry_ok (h i (List.mem_range.1 hi))

theorem routeBad_first {x : Win} {i : Nat} (hi : i < x.arg 4 4) (h8 : 8 ≤ x.arg (8 + i) 1) (hff : x.arg (8 + i) 1 ≠ 0xFF)
    (hj : ∀ j, j < i → x.arg (8 + j) 1 < 8 ∨ x.arg (8 + j) 1 = 0xFF) : routeBad x = some (stBadArg, 8 + i) := by
  have hpre : (List.range i).findSome? (fun j => badArg [(decide (8 ≤ x.arg (8 + j) 1 ∧ x.arg (8 + j) 1 ≠ 0xFF), 8 + j)]) = none :=
    List.findSome?_eq_none_iff.2 fun j hj' => routeEntry_ok (hj j (List.mem_range.1 hj'))
  have hat : badArg [(decide (8 ≤ x.arg (8 + i) 1 ∧ x.arg (8 + i) 1 ≠ 0xFF), 8 + i)] = some (stBadArg, 8 + i) := by
    rw [badArg_one, decide_eq_true ⟨h8, hff⟩]
    rfl
  obtain ⟨n, hn⟩ := Nat.exists_eq_add_of_lt hi
  rw [routeBad, hn, show i + n + 1 = i + 1 + n by omega, List.range_add, List.range_succ]
  simp only [List.findSome?_append, hpre, List.findSome?_cons, hat, Option.none_or, Option.some_or]

theorem routeSetBody_ok (s : State) {x : Win} (hr : x.arg 0 4 + x.arg 4 4 ≤ 2 ^ 18) (hb : routeBad x = none) :
    routeSetBody s x = retain s { s with
      route := (List.range (x.arg 4 4)).foldl (fun m i => NMap.put m (x.arg 0 4 + i) (x.arg (8 + i) 1) 0xFF) s.route }
      fun t => good (recomputeLevels t) := by
  have hc : badArg [(decide (2 ^ 18 < x.arg 0 4 + x.arg 4 4), 0)] = none := by
    rw [badArg_one, decide_eq_false (Nat.not_lt.2 hr)]
    rfl
  unfold routeBad at hb
  simp only [routeSetBody, hc, hb, guardArg_none]

theorem routeSetBody_range (s : State) {x : Win} (hr : 2 ^ 18 < x.arg 0 4 + x.arg 4 4) : routeSetBody s x = fail s stBadArg 0 := by
  have hc : badArg [(decide (2 ^ 18 < x.arg 0 4 + x.arg 4 4), 0)] = some (stBadArg, 0) := by
    rw [badArg_one, decide_eq_true hr]
    rfl
  simp only [routeSetBody, hc, guardArg_some]

theorem routeSetBody_refused (s : State) {x : Win} {st d : Nat} (hr : x.arg 0 4 + x.arg 4 4 ≤ 2 ^ 18) (hb : routeBad x = some (st, d)) :
    routeSetBody s x = fail s st d := by
  have hc : badArg [(decide (2 ^ 18 < x.arg 0 4 + x.arg 4 4), 0)] = none := by
    rw [badArg_one, decide_eq_false (Nat.not_lt.2 hr)]
    rfl
  unfold routeBad at hb
  simp only [routeSetBody, hc, hb, guardArg_some]

/-! ### PORT_QUERY and PORT_SET (R111, R112, R478, R512) -/

theorem portQueryBody_eq (s : State) (x : Win) :
    portQueryBody s x = if x.arg 0 1 ≤ 9 then good s (recordOf s (x.arg 0 1)) else fail s stBadArg 0 := by
  rw [portQueryBody, badArg_one]
  by_cases h : x.arg 0 1 ≤ 9
  · rw [decide_eq_false (Nat.not_lt.2 h), if_pos h]
    rfl
  · rw [decide_eq_true (Nat.not_le.1 h), if_neg h]
    rfl

/-- The checks of PORT_SET in the order of their fields. -/
def portSetChecks (x : Win) : List (Bool × Nat) :=
  [ (decide (9 < x.arg 0 1), 0), (decide (1 < x.arg 1 1 ∨ (x.arg 1 1 = 1 ∧ 8 ≤ x.arg 0 1)), 1), (decide (1 < x.arg 2 1), 2),
    (decide (x.arg 3 5 ≠ 0), 3), (!inRange (x.arg 12 2) 16 1024, 12), (!inRange (x.arg 14 2) 20 160, 14),
    (decide (x.arg 16 2 < 16), 16) ]

/-- The retained fields that PORT_SET writes. -/
def portSetCfg (x : Win) : PortCfg :=
  { downTmo := x.arg 12 2, replayTmo := x.arg 14 2, laneThr := x.arg 16 2, keyOff := decide (x.arg 1 1 = 1) }

/-- A port that waits in KEYING and may now come up comes up (R478). -/
def portRises (t : State) (p : Nat) (q : Port) : State := if q.st = .keying ∧ mayComeUp t p q = true then portComesUp t p else t

/-- ACTION declares the link down (R512). -/
def portActed (u : State) (x : Win) : State := if x.arg 2 1 = 1 then linkDown u (x.arg 0 1) 5 else u

theorem portSetChecks_pass {x : Win} (hp : x.arg 0 1 ≤ 9) (hk : x.arg 1 1 = 0 ∨ (x.arg 1 1 = 1 ∧ x.arg 0 1 < 8)) (ha : x.arg 2 1 ≤ 1)
    (hz : x.arg 3 5 = 0) (hd : 16 ≤ x.arg 12 2) (hd' : x.arg 12 2 ≤ 1024) (hr : 20 ≤ x.arg 14 2) (hr' : x.arg 14 2 ≤ 160)
    (hl : 16 ≤ x.arg 16 2) : badArg (portSetChecks x) = none := by
  refine badArg_none.2 ?_
  simp [portSetChecks, inRange, hz]
  omega

theorem portSetChecks_port {x : Win} (h : 9 < x.arg 0 1) : badArg (portSetChecks x) = some (stBadArg, 0) := by
  simp only [portSetChecks, badArg, decide_eq_true h, if_true]

theorem portSetChecks_keyMode {x : Win} (hp : x.arg 0 1 ≤ 9) (h : 1 < x.arg 1 1 ∨ (x.arg 1 1 = 1 ∧ 8 ≤ x.arg 0 1)) :
    badArg (portSetChecks x) = some (stBadArg, 1) := by
  simp only [portSetChecks, badArg, decide_eq_true h, decide_eq_false (Nat.not_lt.2 hp), if_true, Bool.false_eq_true, if_false]

theorem portSetBody_refused (s : State) {x : Win} {st d : Nat} (hc : badArg (portSetChecks x) = some (st, d)) :
    portSetBody s x = fail s st d := by
  unfold portSetChecks at hc
  simp only [portSetBody, hc, guardArg_some]

theorem commit_ports (s : State) : (commit s).1.ports = s.ports := by
  unfold commit commitWith
  split <;> rfl

theorem portSetBody_ok {s : State} {x : Win} {q : Port} (hc : badArg (portSetChecks x) = none) (hq : s.ports.get? (x.arg 0 1) = some q) :
    ∃ k : State → Answer, portSetBody s x = retain s { s with ports := s.ports.set (x.arg 0 1) { q with cfg := portSetCfg x } } k ∧
      ∀ t, t.ports.get? (x.arg 0 1) = some { q with cfg := portSetCfg x } →
        let v := portActed (portRises t (x.arg 0 1) { q with cfg := portSetCfg x }) x
        k t = good v (recordOf v (x.arg 0 1)) := by
  unfold portSetChecks at hc
  simp only [portSetBody, hc, guardArg_none, modPort, modify_of_get? hq]
  refine ⟨_, rfl, fun t ht => ?_⟩
  simp only [ht]
  rfl

/-! ### The commands together -/

/-- Settles O12, command by command. -/
theorem topologyCommandsComplete : Obligations.TopologyCommandsComplete := by
  unfold Obligations.TopologyCommandsComplete
  refine ⟨fun s w x hd hm hp hz => ⟨fun hk hr hn hl => ?leaves, fun hk hr hn => ?distances, fun hk => ?kind⟩,
    fun s w x hd st d hc hst => ?refused, fun s w x hd => ⟨fun hm hr hv => ?route, fun hr => ?range, fun hr i hi h8 hff hj => ?entry⟩,
    fun s w x hd => ?query, fun s w x q hd hm hp hq hk ha hz hd1 hd2 hr1 hr2 hl => ?port,
    fun s w x hd => ⟨fun hp => ?noPort, fun hp hk => ?keyMode⟩⟩
  case leaves =>
    exact congrArg Host.Outcome.next (runRetained_retain hd hm (topoSetBody_leaves s (topoCheck_leaves hp hz hk hr hn hl) hk))
  case distances =>
    exact congrArg Host.Outcome.next (runRetained_retain hd hm (topoSetBody_distances s (topoCheck_distances hp hz hk hr hn) hk))
  case kind =>
    exact congrArg Host.Outcome.next (runRetained_fail _ hd (topoSetBody_refused s (topoCheck_kind hk)) (by decide))
  case refused =>
    exact congrArg Host.Outcome.next (runRetained_fail _ hd (topoSetBody_refused s hc) hst)
  case route =>
    exact congrArg Host.Outcome.next (runRetained_retain hd hm (routeSetBody_ok s hr (routeBad_none hv)))
  case range =>
    exact congrArg Host.Outcome.next (runRetained_fail _ hd (routeSetBody_range s hr) (by decide))
  case entry =>
    exact congrArg Host.Outcome.next (runRetained_fail _ hd (routeSetBody_refused s hr (routeBad_first hi h8 hff hj)) (by decide))
  case query =>
    refine congrArg Host.Outcome.next ((runCmd_due _ hd).trans ?_)
    rw [portQueryBody_eq]
    split <;> rfl
  case port =>
    obtain ⟨k, hb, hrec⟩ := portSetBody_ok (portSetChecks_pass hp hk ha hz hd1 hd2 hr1 hr2 hl) hq
    refine congrArg Host.Outcome.next ((runRetained_retain hd hm hb).trans ?_)
    rw [hrec _ (by rw [commit_ports]; exact get?_set_self ..)]
    rfl
  case noPort =>
    exact congrArg Host.Outcome.next (runRetained_fail _ hd (portSetBody_refused s (portSetChecks_port hp)) (by decide))
  case keyMode =>
    exact congrArg Host.Outcome.next (runRetained_fail _ hd (portSetBody_refused s (portSetChecks_keyMode hp hk)) (by decide))

end Sys2Proof.Proofs
end

section
/-! The life of a hall (O13): what the bodies of HALL_CREATE, HALL_DESTROY and HALL_TRIM answer, by the place found, the drain under way and
the new size (R31, R41, R42, R51, R54, R57, R58, R231, R415, R509). -/

namespace Sys2Proof.Proofs

open Sys2Proof.Machine Sys2Proof.Laws Sys2Proof.Safety

/-- A commit takes no time. -/
theorem commit_now (s : State) : (commit s).1.now = s.now := by
  unfold commit commitWith
  split <;> rfl

/-! ### HALL_CREATE (R31, R36, R40 to R42) -/

/-- The state with a new hall in its place, with a tier record for a tiered one. -/
def hallPlaced (s : State) (hid : Nat) (h : Hall) (r : TierRec) : State := { s with
  halls := s.halls.set hid h
  tier := if h.cls = .resident then s.tier else { s.tier with halls := s.tier.halls.set hid r } }

/-- The extents of a new hall cleared of landed slots and of WRITTEN; none when a slot finds no frame (R59, R415). -/
def extentsCleared (h : Hall) (u : State) : Option State := h.extents.foldl (fun o e => o.bind fun s => clearExtent s e.1 e.2) (some u)

/-- A persistent hall's journal begins with it. -/
def journalBegun (t : State) (hid : Nat) (h : Hall) : State := if h.cls = .persistent then newJournal t hid else t

section Create

variable {s : State} {x : Win} (hc : createCheck s x = none)

include hc

theorem hallCreateBody_noPlace (hp : placeHall s (newHall x) = none) : hallCreateBody s x = fail s stNoSpace := by
  simp only [hallCreateBody, hc, guardArg_none, hp]

theorem hallCreateBody_placed {h : Hall} {r : TierRec} (hp : placeHall s (newHall x) = some (h, r)) :
    hallCreateBody s x = match extentsCleared h (hallPlaced s (x.arg 0 2) h r) with
      | none => fail s stNoSpace
      | some v => retain s v fun t => good (journalBegun t (x.arg 0 2) h) (hallBytes (journalBegun t (x.arg 0 2) h) (x.arg 0 2)) := by
  have hu : hallPlaced s (x.arg 0 2) h r = if h.cls = .resident then { s with halls := s.halls.set (x.arg 0 2) h } else
      { s with halls := s.halls.set (x.arg 0 2) h, tier := { s.tier with halls := s.tier.halls.set (x.arg 0 2) r } } := by
    unfold hallPlaced
    split <;> rfl
  simp only [hallCreateBody, hc, guardArg_none, hp, hu]
  rfl

end Create

/-! ### HALL_DESTROY and HALL_TRIM (R51, R54, R57, R58) -/

/-- A hall whose trim to a lower SIZE has begun. -/
def hallTrimmed (h : Hall) (n : Nat) : Hall :=
  { h with epoch := (h.epoch + 1) % 65536, state := .trimming, size := n, quota := min h.quota n }

section Revoke

variable {s : State} {x : Win} {h : Hall} (hh : s.halls.get? (x.arg 0 2) = some h)

include hh

theorem hallDestroyBody_busy (hd : (s.drains.get? (x.arg 0 2)).isSome = true) : hallDestroyBody s x = fail s stBusy := by
  simp only [hallDestroyBody, revokeCheck, hh, hd, if_true, guardArg_some]

variable (hd : s.drains.get? (x.arg 0 2) = none)

include hd

theorem hallDestroyBody_free : hallDestroyBody s x =
    retain s { s with halls := s.halls.set (x.arg 0 2) { h with epoch := (h.epoch + 1) % 65536, state := .destroying } } fun t =>
      goesOn (beginDrain t (x.arg 0 2) { kind := .destroy, oldSize := h.size, stepAt := t.now, window := cmdWin s x } h.size) := by
  simp only [hallDestroyBody, revokeCheck, hh, hd, Option.isSome_none, Bool.false_eq_true, if_false, guardArg_none, modify_of_get? hh,
    Option.elim_some, stepEpoch]

theorem hallTrimBody_size (hn : x.arg 2 2 = 0 ∨ h.size ≤ x.arg 2 2) : hallTrimBody s x = fail s stBadArg 2 := by
  simp only [hallTrimBody, revokeCheck, hh, hd, Option.isSome_none, Bool.false_eq_true, if_false, guardArg_none, if_pos hn]

theorem hallTrimBody_free (hn : 0 < x.arg 2 2) (hs : x.arg 2 2 < h.size) : hallTrimBody s x =
    retain s { s with halls := s.halls.set (x.arg 0 2) (hallTrimmed h (x.arg 2 2)) } fun t =>
      goesOn (beginDrain t (x.arg 0 2)
        { kind := .trim, lo := 2 ^ 30 * x.arg 2 2, oldSize := h.size, stepAt := t.now, window := cmdWin s x } h.size) := by
  simp only [hallTrimBody, revokeCheck, hh, hd, Option.isSome_none, Bool.false_eq_true, if_false, guardArg_none,
    if_neg (show ¬(x.arg 2 2 = 0 ∨ h.size ≤ x.arg 2 2) by omega), stepEpoch, hallTrimmed]

end Revoke

/-! ### The commands together -/

/-- Settles O13, command by command. -/
theorem hallLifecycleCommandsComplete : Obligations.HallLifecycleCommandsComplete := by
  unfold Obligations.HallLifecycleCommandsComplete
  refine ⟨fun s w x hd hl hc => ⟨fun hp => ?noPlace, fun h r hp => ?placed⟩,
    fun s w x h hd hl hh => ⟨fun hb => ?busy, fun hf => ?destroy⟩, fun s w x h hd hl hh hf => ⟨fun hn => ?size, fun hn hs => ?trim⟩⟩
  case noPlace =>
    exact congrArg Host.Outcome.next (runRetained_fail _ hd (hallCreateBody_noPlace hc hp) (by decide))
  case placed =>
    have hb := hallCreateBody_placed hc hp
    refine congrArg Host.Outcome.next (?_ : runRetained s w 0x0200 hallCreateBody = match extentsCleared h (hallPlaced s (x.arg 0 2) h r) with
      | none => finishCmd s w stNoSpace 0 []
      | some v => if v.store.writable = true
        then finishCmd (journalBegun (commit v).1 (x.arg 0 2) h) w stOk 0 (hallBytes (journalBegun (commit v).1 (x.arg 0 2) h) (x.arg 0 2))
        else finishCmd s w stFault 0 [])
    cases hv : extentsCleared h (hallPlaced s (x.arg 0 2) h r) with
    | none =>
      rw [hv] at hb
      exact runRetained_fail _ hd hb (by decide)
    | some v =>
      rw [hv] at hb
      exact runRetained_retain hd hl.1 hb
  case busy =>
    exact congrArg Host.Outcome.next (runRetained_fail _ hd (hallDestroyBody_busy hh hb) (by decide))
  case destroy =>
    refine congrArg Host.Outcome.next ((runRetained_commits hd hl.1 (hallDestroyBody_free hh hf) hl.2).trans ?_)
    rw [settle_goesOn, commit_now]
  case size =>
    exact congrArg Host.Outcome.next (runRetained_fail _ hd (hallTrimBody_size hh hf hn) (by decide))
  case trim =>
    refine congrArg Host.Outcome.next ((runRetained_commits hd hl.1 (hallTrimBody_free hh hf hn hs) hl.2).trans ?_)
    rw [settle_goesOn, commit_now]
    rfl

end Sys2Proof.Proofs
end

section
/-! Queries and settings of a hall (O14): what the bodies of HALL_QUERY, HALL_ACL_QUERY and HALL_SET answer (R49, R62, R509, R510, R635). -/

namespace Sys2Proof.Proofs

open Sys2Proof.Machine Sys2Proof.Laws Sys2Proof.Safety

/-! ### HALL_QUERY and HALL_ACL_QUERY (R62, R509) -/

theorem hallQueryBody_eq (s : State) {x : Win} (h : x.arg 0 2 ≤ 4095) : hallQueryBody s x = good s (hallBytes s (x.arg 0 2)) := by
  rw [hallQueryBody, guardArg_badArg]
  simpa using h

/-- The entries of a hall's access list, and the page of them that a query asks for. -/
def aclEntries (s : State) (hid : Nat) : NMap AclEntry := s.acl.filter fun e => e.1 / 262144 = hid
def aclPage (s : State) (x : Win) : NMap AclEntry := ((aclEntries s (x.arg 0 2)).drop (x.arg 4 4)).take (x.arg 2 2)

theorem lay_aclPage (total page : Nat) : lay [(4, total), (2, page), (2, 0)] = leBytes 4 total ++ leBytes 2 page ++ leBytes 2 0 := by
  simp [lay]

theorem hallAclQueryBody_eq (s : State) {x : Win} (h : x.arg 0 2 ≤ 4095) (hn : 1 ≤ x.arg 2 2) (hn' : x.arg 2 2 ≤ 4096) :
    hallAclQueryBody s x = good s (leBytes 4 (aclEntries s (x.arg 0 2)).length ++ leBytes 2 (aclPage s x).length ++ leBytes 2 0 ++
      (aclPage s x).flatMap fun e => entryBytes (e.1 % 262144) e.2) := by
  unfold hallAclQueryBody
  rw [guardArg_badArg _ (by simp [inRange]; omega)]
  dsimp only
  rw [lay_aclPage]
  rfl

/-! ### HALL_SET (R49, R510, R635) -/

/-- A hall with the settings that HALL_SET gives it. -/
def hallSettings (h : Hall) (x : Win) : Hall := { h with
  orphanRevert := decide (x.arg 2 1 = 1), fwdForce := decide (x.arg 3 1 = 1)
  quota := if h.cls = .resident then h.size else x.arg 4 2
  weltTmo := if x.arg 6 2 = 0 then 100 else x.arg 6 2 }

/-- The command goes on while blocks of the hall are evicted. -/
def evictionBegun (s t : State) (x : Win) : State := settleTier { t with
  tier := { t.tier with shrink := (t.tier.shrink.filter fun e => e.1 ≠ x.arg 0 2) ++ [(x.arg 0 2, cmdWin s x)] } }

/-- What HALL_SET answers once committed and the levels recomputed. -/
def hallSetAnswer (s : State) (x : Win) (h : Hall) (t : State) : Answer :=
  if h.cls = .resident ∨ overQuota t (x.arg 0 2) (hallSettings h x) = .none then good t (hallBytes t (x.arg 0 2))
  else goesOn (evictionBegun s t x)

section HallSet

variable {s : State} {x : Win} {h : Hall} (hh : s.halls.get? (x.arg 0 2) = some h)

include hh

theorem hallSetBody_refused {st d : Nat} (hc : hallSetCheck s x (x.arg 0 2) h = some (st, d)) : hallSetBody s x = fail s st d := by
  simp only [hallSetBody, hh, hc, guardArg_some]

theorem hallSetBody_set (hc : hallSetCheck s x (x.arg 0 2) h = none) : hallSetBody s x =
    retain s { s with halls := s.halls.set (x.arg 0 2) (hallSettings h x) } fun t => hallSetAnswer s x h (recomputeLevels t) := by
  simp only [hallSetBody, hh, hc, guardArg_none]
  rfl

end HallSet

theorem hallSetAnswer_evicts {s t : State} {x : Win} {h : Hall}
    (ha : ¬(h.cls = .resident ∨ overQuota t (x.arg 0 2) (hallSettings h x) = .none)) (w : Nat) :
    settle w (hallSetAnswer s x h t) = markBegun (evictionBegun s t x) w := by
  rw [hallSetAnswer, if_neg ha, settle_goesOn]

/-- The first check that fails is one of the list. -/
theorem firstFail_mem {l : List (Bool × Nat × Nat)} {e : Nat × Nat} (h : firstFail l = some e) : (true, e) ∈ l := by
  induction l with
  | nil => simp [firstFail] at h
  | cons a t ih =>
    obtain ⟨b, c⟩ := a
    cases b with
    | false => exact List.mem_cons_of_mem _ (ih h)
    | true =>
      cases h
      exact List.mem_cons_self

/-- The checks of HALL_SET refuse with ST_DRAINING, ST_BAD_ARG, ST_BUSY or ST_NO_SPACE. -/
theorem hallSetCheck_status {s : State} {x : Win} {hid st d : Nat} {h : Hall} (hc : hallSetCheck s x hid h = some (st, d)) : st ≠ stOk := by
  have hm := firstFail_mem hc
  simp only [List.mem_cons, Prod.mk.injEq, List.not_mem_nil, or_false] at hm
  rintro rfl
  revert hm
  simp [stOk, stDraining, stBadArg, stBusy, stNoSpace]

/-! ### The commands together -/

/-- Settles O14, command by command; a FREE hall answers the zero record (the model's reading, log 38). -/
theorem hallQueriesAndSettingsComplete : Obligations.HallQueriesAndSettingsComplete := by
  unfold Obligations.HallQueriesAndSettingsComplete
  refine ⟨fun s w x hd hid => ?query, fun s w x hd hid hn hn' => ?aclQuery,
    fun s w x h hd hl hh => ⟨fun st d hc => ?refused, fun hc => ⟨fun ha => ?answered, fun ha => ?goesOn⟩⟩⟩
  case query =>
    exact congrArg Host.Outcome.next (runCmd_good hd (hallQueryBody_eq s hid))
  case aclQuery =>
    exact congrArg Host.Outcome.next (runCmd_good hd (hallAclQueryBody_eq s hid hn hn'))
  case refused =>
    exact congrArg Host.Outcome.next (runRetained_fail _ hd (hallSetBody_refused hh hc) (hallSetCheck_status hc))
  case answered =>
    exact congrArg Host.Outcome.next ((runRetained_commits hd hl.1 (hallSetBody_set hh hc) hl.2).trans (congrArg (settle w) (if_pos ha)))
  case goesOn =>
    exact congrArg Host.Outcome.next ((runRetained_commits hd hl.1 (hallSetBody_set hh hc) hl.2).trans (hallSetAnswer_evicts ha w))

end Sys2Proof.Proofs
end

section
/-! Access lists (O15): what the bodies of HALL_ACL_SET and HALL_ACL_REMOVE answer, by the limits and by the rights that are lost (R44, R51,
R53, R57, R105, R106, R110, R480, R504, R511). -/

namespace Sys2Proof.Proofs

open Sys2Proof.Machine Sys2Proof.Laws Sys2Proof.Safety

/-! ### HALL_ACL_SET (R44, R105, R106, R110, R504) -/

/-- The state with every entry of the argument set. -/
def aclSetAll (s : State) (x : Win) : State := (aclArgs x).foldl (fun s a => setEntry s (x.arg 0 2) a) s

theorem foldl_setEntry_store (hid : Nat) (as : List AclArg) (s : State) : (as.foldl (fun s a => setEntry s hid a) s).store = s.store := by
  induction as generalizing s with
  | nil => rfl
  | cons a t ih => exact ih _

@[simp] theorem aclSetAll_store (s : State) (x : Win) : (aclSetAll s x).store = s.store := foldl_setEntry_store ..

/-- The endpoints of the argument that are new to the list. -/
def aclFresh (s : State) (x : Win) : List Nat := ((aclArgs x).filter fun a => (aclOf s (x.arg 0 2) a.ep).isNone).map fun a => a.ep

/-- Once committed: the levels recomputed, the budgets told, and the home epoch to endpoints that were not listed before. -/
def aclTold (s : State) (x : Win) (u : State) : State :=
  sendEpochs ((aclArgs x).foldl (fun s a => sayBudget s (x.arg 0 2) a.ep) (recomputeLevels u)) (aclFresh s x)

/-- The drain of an access-list revocation begins with the rights it withdraws. -/
def aclDrain (s u : State) (x : Win) (scope : List (Nat × Rights)) (h : Hall) : State :=
  beginDrain u (x.arg 0 2) { kind := .acl, scope := scope, stepAt := u.now, window := cmdWin s x } h.size

section AclSet

variable {s : State} {x : Win} {h : Hall} (hh : s.halls.get? (x.arg 0 2) = some h) (hst : h.state ≠ .destroying)
  (hd : s.drains.get? (x.arg 0 2) = none) (hc : aclArgCheck x = none)

include hh hst hd hc

theorem hallAclSetBody_eq : hallAclSetBody s x =
    if aclFits s (aclSetAll s x) (x.arg 0 2) = false then fail s stNoSpace
    else if aclLost s (x.arg 0 2) (aclArgs x) = [] then retain s (aclSetAll s x) fun u => good (aclTold s x u)
    else retain s { aclSetAll s x with halls := (aclSetAll s x).halls.modify (x.arg 0 2) stepEpoch } fun u =>
      goesOn (aclDrain s (aclTold s x u) x (aclLost s (x.arg 0 2) (aclArgs x)) h) := by
  have hstands : ¬(aclLost s (x.arg 0 2) (aclArgs x) = [] ∧ h.state = .destroying) := fun ⟨_, hs⟩ => hst hs
  have hfree : ¬(aclLost s (x.arg 0 2) (aclArgs x) ≠ [] ∧ (s.drains.get? (x.arg 0 2)).isSome = true) := fun ⟨_, hs⟩ => by simp [hd] at hs
  simp only [hallAclSetBody, hh, hc, guardArg_none, if_neg hfree, if_neg hstands]
  refine if_congr Iff.rfl rfl ?_
  by_cases hl : aclLost s (x.arg 0 2) (aclArgs x) = []
  · simp only [hl, if_true]
    rfl
  · simp only [hl, if_false]
    rfl

theorem hallAclSetBody_full (hf : aclFits s (aclSetAll s x) (x.arg 0 2) = false) : hallAclSetBody s x = fail s stNoSpace :=
  (hallAclSetBody_eq hh hst hd hc).trans (if_pos hf)

variable (hf : aclFits s (aclSetAll s x) (x.arg 0 2) = true)

include hf

theorem hallAclSetBody_kept (hl : aclLost s (x.arg 0 2) (aclArgs x) = []) :
    hallAclSetBody s x = retain s (aclSetAll s x) fun u => good (aclTold s x u) := by
  rw [hallAclSetBody_eq hh hst hd hc, if_neg (by simp [hf]), if_pos hl]

theorem hallAclSetBody_lost (hl : aclLost s (x.arg 0 2) (aclArgs x) ≠ []) : hallAclSetBody s x =
    retain s { aclSetAll s x with halls := (aclSetAll s x).halls.modify (x.arg 0 2) stepEpoch } fun u =>
      goesOn (aclDrain s (aclTold s x u) x (aclLost s (x.arg 0 2) (aclArgs x)) h) := by
  rw [hallAclSetBody_eq hh hst hd hc, if_neg (by simp [hf]), if_neg hl]

end AclSet

/-! ### HALL_ACL_REMOVE (R51, R480, R511) -/

/-- The endpoints that the argument names. -/
def aclNamed (x : Win) : List Nat := (List.range (x.arg 2 2)).map fun i => x.arg (8 + 4 * i) 4

/-- The named endpoints that are listed, with the rights they lose. -/
def aclGone (s : State) (x : Win) : List (Nat × Rights) :=
  (aclNamed x).eraseDups.filterMap fun ep => (aclOf s (x.arg 0 2) ep).map fun e => (ep, e.rights)

/-- The state without the entries of the endpoints that go, and with the hall's EPOCH raised. -/
def aclRemoved (s : State) (x : Win) (h : Hall) : State := { s with
  acl := (aclGone s x).foldl (fun m e => m.erase (aclKey (x.arg 0 2) e.1)) s.acl, halls := s.halls.set (x.arg 0 2) (stepEpoch h) }

theorem aclNamed_pass {x : Win} (he : ∀ ep, ep ∈ aclNamed x → ep < 2 ^ 18) :
    ((List.range (x.arg 2 2)).findSome? fun i => badArg [(decide (2 ^ 18 ≤ ((aclNamed x)[i]?).getD 0), 8 + 4 * i)]) = none := by
  refine List.findSome?_eq_none_iff.2 fun i hi => badArg_none.2 fun e hm => ?_
  rw [List.mem_singleton.1 hm]
  refine decide_eq_false (Nat.not_le.2 ?_)
  cases hat : (aclNamed x)[i]? with
  | none => exact Nat.two_pow_pos 18
  | some ep => exact he ep (List.mem_of_getElem? hat)

section AclRemove

variable {s : State} {x : Win} {h : Hall} (hh : s.halls.get? (x.arg 0 2) = some h) (hd : s.drains.get? (x.arg 0 2) = none)
  (hn : 1 ≤ x.arg 2 2) (hn' : x.arg 2 2 ≤ 256) (hz : x.arg 4 4 = 0) (he : ∀ ep, ep ∈ aclNamed x → ep < 2 ^ 18)

include hh hd hn hn' hz he

theorem hallAclRemoveBody_eq : hallAclRemoveBody s x =
    if aclGone s x = [] then good s
    else retain s (aclRemoved s x h) fun t =>
      goesOn (aclDrain s (closeUnlisted (recomputeLevels t)) x (aclGone s x) h) := by
  have hc : badArg [(!inRange (x.arg 2 2) 1 256, 2), (decide (x.arg 4 4 ≠ 0), 4)] = none := badArg_none.2 (by simp [inRange, hz]; omega)
  have hp := aclNamed_pass he
  unfold aclNamed at hp
  simp only [hallAclRemoveBody, hh, hc, hp, guardArg_none, hd, Option.isSome_none, Bool.false_eq_true, if_false, modify_of_get? hh]
  rfl

theorem hallAclRemoveBody_none (hg : aclGone s x = []) : hallAclRemoveBody s x = good s :=
  (hallAclRemoveBody_eq hh hd hn hn' hz he).trans (if_pos hg)

theorem hallAclRemoveBody_gone (hg : aclGone s x ≠ []) : hallAclRemoveBody s x = retain s (aclRemoved s x h) fun t =>
    goesOn (aclDrain s (closeUnlisted (recomputeLevels t)) x (aclGone s x) h) :=
  (hallAclRemoveBody_eq hh hd hn hn' hz he).trans (if_neg hg)

end AclRemove

/-! ### The commands together -/

/-- Settles O15, command by command. -/
theorem accessListCommandsComplete : Obligations.AccessListCommandsComplete := by
  unfold Obligations.AccessListCommandsComplete
  refine ⟨fun s w x h hd hl hh hst hf hc => ⟨fun hfit => ?full, fun hfit hlost => ?kept, fun hfit hlost => ?lost⟩,
    fun s w x h hd hl hh hf hn hn' hz => ?remove⟩
  case full =>
    exact congrArg Host.Outcome.next (runRetained_fail _ hd (hallAclSetBody_full hh hst hf hc hfit) (by decide))
  case kept =>
    have hw : (aclSetAll s x).store.writable = true := by rw [aclSetAll_store]; exact hl.2
    exact congrArg Host.Outcome.next (runRetained_commits hd hl.1 (hallAclSetBody_kept hh hst hf hc hfit hlost) hw)
  case lost =>
    have hw : (aclSetAll s x).store.writable = true := by rw [aclSetAll_store]; exact hl.2
    exact congrArg Host.Outcome.next ((runRetained_commits hd hl.1 (hallAclSetBody_lost hh hst hf hc hfit hlost) hw).trans (settle_goesOn ..))
  case remove =>
    intro hid eps he gone
    refine ⟨fun hg => ?_, fun hg => ?_⟩
    · exact congrArg Host.Outcome.next ((runRetained_due _ hd hl.1).trans
        (congrArg (settle w) (hallAclRemoveBody_none hh hf hn hn' hz he hg)))
    · exact congrArg Host.Outcome.next ((runRetained_commits hd hl.1 (hallAclRemoveBody_gone hh hf hn hn' hz he hg) hl.2).trans
        (settle_goesOn ..))

end Sys2Proof.Proofs
end

section
/-! Key copies, sweeps and drains (O17): one lemma per case of each row's definition (R55, R56, R59, R422, R455, R463 to R470). -/

namespace Sys2Proof.Proofs

open Sys2Proof.Machine Sys2Proof.Laws

/-! ### The partner's copy (R455, R463) -/

@[simp] theorem putTenant_rotation (s : State) (t : Nat) (r : Tenant) : (putTenant s t r).ten.rotation = s.ten.rotation := rfl

/-- The state whose slot is ACTIVE, its copy no longer outstanding. -/
def copyHeld (s : State) (t gen : Nat) (r : Tenant) : State :=
  putTenant s t (setSlot r gen { tenantSlot r gen with st := .active, copyPending := false })

section KeyCopy

variable {s : State} {t gen : Nat} {r : Tenant} (hg : gen ≤ 1) (hr : s.ten.recs.get? t = some r)
  (hc : (tenantSlot r gen).copyPending = true)

include hg hr hc

theorem keyCopyAck_alone (ho : s.ten.rotation.get? t = none) : keyCopyAck s (2 * t + gen) = copyHeld s t gen r := by
  have ht : (2 * t + gen) / 2 = t := by omega
  have hgen : (2 * t + gen) % 2 = gen := by omega
  simp only [keyCopyAck, ht, hgen, hr, hc, Bool.not_true, Bool.false_eq_true, if_false, modTenant_of_get? hr, putTenant_rotation, ho]
  rfl

/-- The rotation that waited for the copy flips CUR and is over. -/
def rotationOver (s : State) (t gen : Nat) (r : Tenant) : State :=
  let u := copyHeld s t gen r
  commitSelf (flipCur { u with ten := { u.ten with rotation := u.ten.rotation.erase t } } t)

theorem keyCopyAck_rotation {o : TenOp} {w : Nat} (ho : s.ten.rotation.get? t = some o) (hog : o.gen = gen) (hw : o.w = some w) :
    keyCopyAck s (2 * t + gen) = finishCmd (rotationOver s t gen r) w stOk 0 (tenantRecord (rotationOver s t gen r) t) := by
  have ht : (2 * t + gen) / 2 = t := by omega
  have hgen : (2 * t + gen) % 2 = gen := by omega
  simp only [keyCopyAck, ht, hgen, hr, hc, Bool.not_true, Bool.false_eq_true, if_false, modTenant_of_get? hr,
    putTenant_rotation, ho, hog, ne_eq, not_true_eq_false, hw]
  rfl

end KeyCopy

/-! ### The sweep (R464, R465) -/

/-- What the choice of a sweep's progress rises to: at least the old SWEEP_POS (log 12). -/
def sweepTo (u : State) (p : Nat) : Nat := max p (Config.freeChoice u.free % 2 ^ 32)

/-- A sweep that has dealt with a granule or a unit moves SWEEP_POS on, on both partners. -/
def sweepMoved (u : State) (t q : Nat) : State := commitSelf (modTenant u.tickFree t fun r => { r with sweep := some q })
def sweepOn (u : State) (t q : Nat) : State :=
  if mirrorLive (sweepMoved u t q) then mirrorNote (sweepMoved u t q) (.sweepPos t q) else sweepMoved u t q

section Sweep

variable {s : State} {t p : Nat} {r : Tenant} (hr : s.ten.recs.get? t = some r) (hs : r.sweep = some p) (hst : r.st = .active)

include hr hs hst

theorem sweepStep_granule {hid c ca : Nat} {h : Hall} (hg : oldGranule s t r.cur = some (hid, h, c, ca)) :
    sweepStep s t = sweepOn (sweepGranule s hid h c ca) t (sweepTo (sweepGranule s hid h c ca) p) := by
  simp only [sweepStep, hr, hs, hst, ne_eq, not_true_eq_false, if_false, hg]
  rfl

theorem sweepStep_unit {n : Nat} {m : UnitMeta} (hg : oldGranule s t r.cur = none) (hu : oldUnit s t r.cur = some (n, m)) :
    sweepStep s t = sweepOn (sweepUnit s r n m) t (sweepTo (sweepUnit s r n m) p) := by
  simp only [sweepStep, hr, hs, hst, ne_eq, not_true_eq_false, if_false, hg, hu]
  rfl

variable (hg : oldGranule s t r.cur = none) (hu : oldUnit s t r.cur = none)

include hg hu

theorem sweepStep_record {hid b : Nat} {h : Hall} {x : JRec} (hx : oldRecord s t r.cur = some (hid, h, x))
    (hb : (recBlocks h x).head? = some b) (hj : ((s.jrn.get? hid).any fun j => j.goals.any fun g => decide (x.jseq ≤ g.1)) = false) :
    sweepStep s t = settleTier (writeBack s hid h b false) := by
  simp only [sweepStep, hr, hs, hst, ne_eq, not_true_eq_false, if_false, hg, hu, hx, hb, hj, Bool.false_eq_true]

theorem sweepEnd_over (hx : oldRecord s t r.cur = none) : sweepEnd s t =
    commitSelf (modTenant (if mirrorLive s then (sendMirror s (.keySlot t (1 - r.cur) none)).1 else s) t fun r =>
      { setSlot r (1 - r.cur) {} with sweep := none, rotations := satAdd 32 r.rotations 1 }) := by
  simp only [sweepEnd, hr, hs, hst, hg, hu, hx, Option.isNone_some, Option.isSome_none, Bool.false_eq_true, ne_eq, not_true_eq_false,
    or_self, if_false]

end Sweep

/-! ### Key drains (R467, R468) -/

section KeyDrain

variable {s : State} {t : Nat} {o : TenOp} (ho : s.ten.removal.get? t = some o) (hs : o.step = 4)

include ho hs

theorem execKeyTrafficDrained_quiet (hq : slotTraffic s t = false) : execKeyTrafficDrained t s = .next (zeroise s t o) := by
  simp only [execKeyTrafficDrained, removalOf, ho, if_pos (And.intro hs hq)]

theorem execTenantDrainTimeout_late (hl : ms 20 + o.drainAt ≤ s.now) :
    execTenantDrainTimeout t s = .next (zeroise s t { o with late := true }) := by
  simp only [execTenantDrainTimeout, removalOf, ho, if_pos (And.intro hs hl)]

end KeyDrain

/-! ### Revocation drains and the WRITTEN clear (R55, R56, R59, R422) -/

section Drain

variable {s : State} {hid : Nat} {h : Hall} {d : Drain} (hh : s.halls.get? hid = some h) (hd : s.drains.get? hid = some d)

include hh hd

theorem execRevocationDrainDone_drained (hr : drained s hid h d = true) :
    execRevocationDrainDone hid s = .next (afterDrain (endDrain s hid h d) h.tenant) := by
  simp only [execRevocationDrainDone, hd, hh, hr, if_true]

theorem execRevocationDrainTimeout_late {w : Nat} (hl : d.late = false) (ht : d.stepAt + drainBoundOf h ≤ s.now) (hw : d.window = some w) :
    execRevocationDrainTimeout hid s = .next (afterDrain (finishCmd
      { s with drains := s.drains.set hid { d with late := true, window := none } } w stTimeout 0 []) h.tenant) := by
  have hn : ¬(d.late = true ∨ s.now < d.stepAt + drainBoundOf h) := by simp [hl, ht]
  simp only [execRevocationDrainTimeout, hd, hh, if_neg hn, hw]

end Drain

theorem execWrittenClearDone_found {s : State} {hid : Nat} {c : Clear} (hc : (s.clears.find? fun c => c.hall = hid) = some c) :
    execWrittenClearDone hid s =
      let t := c.extents.foldl (fun s e => clearRange s e.1 (2 ^ 30 * e.2) (2 ^ 30 * (e.2 + 1))) s
      .next { t with clears := t.clears.erase c } := by
  simp only [execWrittenClearDone, hc]

/-! ### The rows together -/

/-- Settles O17, row by row. -/
theorem keyAndDrainRowsComplete : Obligations.KeyAndDrainRowsComplete := by
  unfold Obligations.KeyAndDrainRowsComplete
  refine ⟨fun s t gen r hg hr hc => ⟨fun ho => ?alone, fun o w ho hog hw => ?rotation⟩,
    fun s t p r hr hs hst => ⟨fun hid h c ca hg => ?granule, fun n m hg hu => ?unit, fun hid h x b hg hu hx hb hj => ?record,
      fun hg hu hx => ?sweepEnd⟩,
    fun s t o ho hs => ⟨fun hq => ?quiet, fun hl => ?late⟩,
    fun s hid h d hh hd => ⟨fun hr => ?drained, fun w hl ht hw => ?bound⟩, fun s hid c hc => ?clear⟩
  case alone => exact congrArg Host.Outcome.next (keyCopyAck_alone hg hr hc ho)
  case rotation => exact congrArg Host.Outcome.next (keyCopyAck_rotation hg hr hc ho hog hw)
  case granule => exact ⟨_, _, Nat.le_max_left .., rfl, congrArg Host.Outcome.next (sweepStep_granule hr hs hst hg)⟩
  case unit => exact ⟨_, _, Nat.le_max_left .., rfl, congrArg Host.Outcome.next (sweepStep_unit hr hs hst hg hu)⟩
  case record => exact congrArg Host.Outcome.next (sweepStep_record hr hs hst hg hu hx hb hj)
  case sweepEnd => exact congrArg Host.Outcome.next (sweepEnd_over hr hs hst hg hu hx)
  case quiet => exact execKeyTrafficDrained_quiet ho hs hq
  case late => exact execTenantDrainTimeout_late ho hs hl
  case drained => exact execRevocationDrainDone_drained hh hd hr
  case bound => exact execRevocationDrainTimeout_late hh hd hl ht hw
  case clear => exact execWrittenClearDone_found hc

end Sys2Proof.Proofs
end
